-- ==== Sys2Proof/Word.lean ====
section
/-! DEFINITION. The machine's words: bytes, 32-bit words, 64-bit doublewords, and a word with its
lane check code (R3, R7). -/

namespace Sys2Proof

/-- A byte of memory (R3). -/
abbrev Byte := BitVec 8

/-- A 32-bit word (R7). -/
abbrev Word := BitVec 32

/-- A 64-bit doubleword: an address, an instruction word, a register of a block (R3). -/
abbrev DWord := BitVec 64

/-- A lane check code (R7). -/
abbrev Code := BitVec 4

/-- A datum: a word and the check code that travels with it (R7, R23). -/
structure Datum where
  word : Word
  code : Code
  deriving DecidableEq, Repr, Inhabited

end Sys2Proof
end

