-- ==== Sys2Proof/Machine/Bits.lean ====
section
/-! DEFINITION. Bit fields, sign extension, byte order and the lane check code (R3, R19, R24). -/

namespace Sys2Proof.Machine

/-- Field `<hi:lo>` of a number, as R3 writes it. -/
def field (n hi lo : Nat) : Nat := (n / 2 ^ lo) % 2 ^ (hi + 1 - lo)

/-- Bit `i` of a number. -/
def bit (n i : Nat) : Bool := (n / 2 ^ i) % 2 == 1

/-- 1 for true, 0 for false. -/
def b2n (b : Bool) : Nat := if b then 1 else 0

/-- A natural number as a signed number of `w` bits (R9, R245 `s`). -/
def sgn (w n : Nat) : Int := if n % 2 ^ w < 2 ^ (w - 1) then (n % 2 ^ w : Nat) else ((n % 2 ^ w : Nat) : Int) - 2 ^ w

/-- An integer modulo `2^w`, as a natural number (R245). -/
def wrap (w : Nat) (x : Int) : Nat := (x % 2 ^ w).toNat

/-- The word of a natural number, modulo `2^32`. -/
def w32 (n : Nat) : Word := BitVec.ofNat 32 n

/-- The word of an integer, modulo `2^32`. -/
def i32 (x : Int) : Word := BitVec.ofNat 32 (wrap 32 x)

/-- The doubleword of a natural number, modulo `2^64`. -/
def w64 (n : Nat) : DWord := BitVec.ofNat 64 n

/-- Low and high halves of a doubleword: bits 31..0 and 63..32 (R187, R243). -/
def lo32 (d : DWord) : Word := d.extractLsb' 0 32
def hi32 (d : DWord) : Word := d.extractLsb' 32 32

/-- The doubleword of a pair: `lo + 2^32 hi` (R243). -/
def pair64 (lo hi : Word) : DWord := hi ++ lo

/-- Exclusive or of the eight nibbles of a word, without the constant (R19 `fold`). -/
def foldWord (w : Word) : Code :=
  w.extractLsb' 0 4 ^^^ w.extractLsb' 4 4 ^^^ w.extractLsb' 8 4 ^^^ w.extractLsb' 12 4 ^^^
  w.extractLsb' 16 4 ^^^ w.extractLsb' 20 4 ^^^ w.extractLsb' 24 4 ^^^ w.extractLsb' 28 4

/-- The lane check code of a word (R19). -/
def lcc (w : Word) : Code := foldWord w ^^^ 5

/-- A word with the code its producer generates (R21). -/
def mk (w : Word) : Datum := ⟨w, lcc w⟩

/-- The datum of a virgin tile, of a cleared register and of v255 (R7, R28). -/
def zeroDatum : Datum := ⟨0, 5⟩

/-- A datum is consistent when its code is the code of its word (R21). -/
def Datum.okay (d : Datum) : Bool := d.code == lcc d.word

/-- The mask of bytes `at .. at+n-1` of a word. -/
def byteMask (start n : Nat) : Word := BitVec.ofNat 32 ((2 ^ (8 * n) - 1) * 2 ^ (8 * start))

/-- The partial code of a store of the low `n` bytes of a source register (R24). -/
def partialCode (d : Datum) (n : Nat) : Code := d.code ^^^ foldWord (d.word &&& ~~~ (byteMask 0 n))

/-- The merge of a sub-word store into a word (R24): `n` bytes at byte `start`, with partial code `pc`. -/
def mergeSub (old : Datum) (start n : Nat) (new : Word) (pc : Code) : Datum :=
  let m := byteMask start n
  let put := (new <<< (8 * start)) &&& m
  ⟨(old.word &&& ~~~ m) ||| put, old.code ^^^ foldWord (old.word &&& m) ^^^ pc ^^^ 5⟩

/-- Byte `i` of a word (R3). -/
def byteOf (w : Word) (i : Nat) : Byte := w.extractLsb' (8 * i) 8

/-- The word of four bytes, the first least significant (R3). -/
def wordOfBytes (a b c d : Byte) : Word := d ++ c ++ b ++ a

/-- Bytes of a number, least significant first. -/
def bytesLE : Nat → Nat → List Byte
  | 0, _ => []
  | n + 1, x => BitVec.ofNat 8 x :: bytesLE n (x / 256)

/-- The number of little-endian bytes (R3). -/
def ofBytesLE : List Byte → Nat
  | [] => 0
  | b :: bs => b.toNat + 256 * ofBytesLE bs

/-- Bytes of a number, most significant first. -/
def bytesBE (n x : Nat) : List Byte := (bytesLE n x).reverse

/-- The number of big-endian bytes. -/
def ofBytesBE (bs : List Byte) : Nat := ofBytesLE bs.reverse

/-- Count of one bits of the low `n` bits. -/
def popCount : Nat → Nat → Nat
  | 0, _ => 0
  | n + 1, x => x % 2 + popCount n (x / 2)

end Sys2Proof.Machine
end

