-- ==== Sys2Proof/Syntax.lean ====
section
/-! DEFINITION. The syntax of the part: format tags, field structures of the five instruction formats,
the operands of events, and `Instr`, with one constructor for each row of the opcode table. -/

namespace Sys2Proof

/-- The format tags 0 to 14 of Table 1.1 (R8). Tag 15 is reserved and held by no register (R31). -/
inductive Tag where
  | raw | i32 | u32 | f32 | bf16x2 | f16x2 | e4m3x4 | e5m2x4 | e2m1x8 | i8x4 | u8x4 | i4x8 | e8m0x4
  | addrLo | addrHi
  deriving DecidableEq, Repr, Inhabited

/-- The scopes of Table 8.4 and Table 14.1, narrowest first (R195, R319). -/
inductive Scope where
  | th | co | cl | de | pd | sy
  deriving DecidableEq, Repr, Inhabited

/-- The order field of format M (R195): the page's own class, or an assertion of one (R218). -/
inductive OrderReq where
  | page | so | rc | un
  deriving DecidableEq, Repr, Inhabited

/-- The guard of an instruction: a predicate, true or negated (R193). -/
structure Guard where
  pred : BitVec 3
  neg : Bool
  deriving DecidableEq, Repr, Inhabited

/-- The fields of format A (R194). -/
structure FmtA where
  guard : Guard
  dst : BitVec 8
  srcA : BitVec 8
  srcB : BitVec 8
  srcC : BitVec 8
  modA : BitVec 3
  modB : BitVec 3
  modC : BitVec 3
  type : Tag
  var : BitVec 2
  sat : Bool
  imm : Bool
  lit : Option DWord
  deriving DecidableEq, Repr, Inhabited

/-- The fields of format M (R195). -/
structure FmtM where
  guard : Guard
  dst : BitVec 8
  addr : BitVec 8
  index : BitVec 8
  disp : BitVec 8
  nrp : BitVec 3
  order : OrderReq
  scope : Scope
  trap : Bool
  type : Tag
  size : BitVec 2
  fn : BitVec 2
  lit : Option DWord
  deriving DecidableEq, Repr, Inhabited

/-- The fields of format B (R196). -/
structure FmtB where
  guard : Guard
  dst : BitVec 8
  target : BitVec 8
  disp : BitVec 32
  trap : Bool
  deriving DecidableEq, Repr, Inhabited

/-- The fields of format E (R197). -/
structure FmtE where
  guard : Guard
  dst : BitVec 8
  srcA : BitVec 8
  srcB : BitVec 8
  srcC : BitVec 8
  unit : BitVec 6
  cv : BitVec 2
  trap : Bool
  type : Tag
  var : BitVec 2
  fn : BitVec 2
  lit : Option DWord
  deriving DecidableEq, Repr, Inhabited

/-- The fields of format S (R198). -/
structure FmtS where
  guard : Guard
  dst : BitVec 8
  srcA : BitVec 8
  sel : BitVec 16
  imm8 : BitVec 8
  trap : Bool
  deriving DecidableEq, Repr, Inhabited

/-- The order classes of a page or a region (R69, R73). -/
inductive OrdClass where
  | so | rc | un
  deriving DecidableEq, Repr, Inhabited

/-- A command entry as the proctor reads it from a ring (R426, Table 19.2): the function it came from
(0 for PF0, 1 + p for VF p), its tag, its reserved field, its opcode where Table 19.3 does not list it, and operand
doublewords 0 to 6. An entry of an unlisted opcode may come as any command. -/
structure Cmd where
  fn : Nat
  tag : BitVec 32
  rsv : BitVec 15
  unlisted : Option (BitVec 8)
  dw : List DWord
  deriving DecidableEq, Repr, Inhabited

/-- How an operand comes that an entry gives by its address: the proctor reads it, out of host pages too (R427). -/
inductive OperandBy where
  | reads
  deriving DecidableEq, Repr, Inhabited

/-- An atomic operation as it travels to the unit that performs it (R295). -/
inductive AtomOp where
  | and | or | xor | add | min | max | xch | cas
  deriving DecidableEq, Repr, Inhabited

/-- What a pod transaction or a remote packet asks of its home (R107, R117, R346, R349). -/
inductive FabOp where
  /-- read this many words; `again` marks a refetch, which discards the home's clean copies first (R26, Table 1.8) -/
  | read (words : Nat) (again : Bool)
  /-- write whole words, with their codes -/
  | write (ws : List Datum)
  /-- sub-word store of `bytes` bytes, with its partial code (R24): a write of 4 bytes, of which header bits choose
  those to merge (Table 4.6) -/
  | sub (bytes : Nat) (data : Word) (pc : Code)
  /-- atomic: operation, type, operand words and, for a compare and swap, new words; `ret` for ATOM and CAS -/
  | atomic (op : AtomOp) (type : Tag) (operand new : List Datum) (ret : Bool)
  /-- translation probe (R226) -/
  | probe
  /-- add a signed value to the landing counter (R346) -/
  | signal (value : BitVec 32)
  /-- a piece of a reduction chunk (R349): group, collective, source rank, gate sequence, chunk index, the piece's first
  word in the chunk, the chunk's words, operation, element format, payload. A transaction carries at most 256 bytes
  (Table 4.6), and no piece crosses 4 KiB (R113) -/
  | reduce (group coll srcRank gateSeq index first total : Nat) (op : AtomOp) (fmt : Tag) (ws : List Datum)
  deriving DecidableEq, Repr, Inhabited

/-- A request that reaches this module as a home, or leaves it toward one (R70, R107, R112, R117). -/
structure FabReq where
  part : Nat
  region : Nat
  offset : Nat
  cls : OrdClass
  op : FabOp
  /-- the landing counter that the write names, and the sectors that its placement adds (R120) -/
  lc : Option Nat
  count : Nat
  keygen : Nat
  deriving DecidableEq, Repr, Inhabited

/-- The answer of a home to a request (R71, R117, R226). -/
inductive FabReply where
  /-- words; `clean` tells that no level at the home held them dirty, so that they may be refetched (R26) -/
  | data (ws : List Datum) (clean : Bool)
  | ack
  /-- refused with REMOTE_FAULT and the home's code (R71); a failure of step 8 is told apart for a .nr load (R86) -/
  | refused (code : BitVec 8) (step8 : Bool)
  | probed (w : Word)
  deriving DecidableEq, Repr, Inhabited

/-- What travels on a pod port (R97, R102, R104, R106, R107, R353, R355). -/
inductive PodMsg where
  | heartbeat
  | notice (origin seq a b : Nat) (up : Bool)
  | death (peer : Nat)
  /-- transaction to a position, on the direct port or as the first hop of a traverse -/
  | txn (dst seq : Nat) (req : FabReq)
  | multicast (dst seq group : Nat) (req : FabReq)
  | answer (dst seq : Nat) (reply : FabReply)
  /-- second hop of a traverse: what position `src` sent, unchanged (R106) -/
  | relayed (src : Nat) (m : PodMsg)
  /-- what the collective engine of a module sends another's, at a position of the pod -/
  | member (dst : Nat) (m : PodMsg)
  /-- the source of a reduction, by its rank, is done with a piece -/
  | closeNotice (src : Nat) (group coll seq : Nat)
  | abortNotice (rank : Nat) (group coll : Nat)
  | drain (rank group ver : Nat) (roster : List Nat)
  /-- a member has no old-version gate, or has accepted one since it said so -/
  | drainReport (rank group : Nat) (done : Bool)
  | publish (rank group ver : Nat) (roster : List Nat)
  | publishAck (rank group : Nat)
  /-- a member asks a group's coordinator to join (true) or to leave -/
  | request (rank group member : Nat) (join : Bool)
  deriving DecidableEq, Repr, Inhabited

/-- A flit as it reaches a port (R97, R98): whether its CRC holds, its place in the far end's order, how many flits of
this module it acknowledges, whether it asks for the rest again, and the channels whose credits it returns; and the
message that it ends, if it ends one, with its virtual channel. -/
structure Flit where
  crcOk : Bool
  seq : Nat
  acked : Nat
  again : Bool
  credits : List Nat
  ends : Option (Nat × PodMsg)
  deriving DecidableEq, Repr, Inhabited

/-- A remote request packet: its place in its transport's order, which a retransmission keeps (R114), and its request
identifier; for an ROD packet its place in its source's order, and the first place that the source still waits for
(R112); and the request (R117). -/
structure RemotePacket where
  place : Nat
  id : Nat
  rod : Option (Nat × Nat)
  req : FabReq
  deriving DecidableEq, Repr, Inhabited

/-- A signal as a position sends it (R346): the group of a multicast one, and the request. -/
structure Signal where
  group : Option Nat
  req : FabReq
  deriving DecidableEq, Repr, Inhabited

/-- A configuration request (R438): its function, and what one that writes Device Control 2 writes there (Table 19.4). -/
structure ConfigRequest where
  fn : Nat
  ctl2 : Option (BitVec 16)
  deriving DecidableEq, Repr, Inhabited

/-- What the power block measures beside the power (R435): the energy since its last reading, in mJ, and the highest
temperature that a sensor reports, in °C. -/
structure Meter where
  energy : Nat
  hottest : Nat
  deriving DecidableEq, Repr, Inhabited

/-- The second hop of a traverse: the position it came from, and what that position sent (R106). -/
structure Traverse where
  src : Nat
  msg : PodMsg
  deriving DecidableEq, Repr, Inhabited

/-- A member's word on its drain (R355): its rank, and whether it has no old-version gate left or has accepted one
since it said so. -/
structure DrainWord where
  rank : Nat
  done : Bool
  deriving DecidableEq, Repr, Inhabited

/-- A stored bit that a soft error may flip (R20). -/
inductive ErrLoc where
  /-- register `v` of a thread -/
  | reg (core key v : Nat)
  /-- word of a scratchpad -/
  | scratch (core word : Nat)
  /-- word of an L1 sector: sector 0 or 1 of the n-th line is number 2n or 2n + 1 -/
  | l1 (core sector word : Nat)
  /-- word of the L2 -/
  | l2 (word : Nat)
  /-- element of an accumulator tile -/
  | tile (cluster tile element : Nat)
  /-- data byte of HBM, the integrity area included -/
  | hbm (byte : Nat)
  /-- side-band byte of HBM -/
  | hbmSide (pair : Nat)
  deriving DecidableEq, Repr, Inhabited

/-- The status of a host completion (R125). -/
inductive HostStatus where
  | success | unsupported | abort
  deriving DecidableEq, Repr, Inhabited

/-- The instructions and the events of the part: one constructor for each row of the opcode table. The first
168 are the forms of Table 8.8 (R203), the .cv and .seg forms apart; the rest are the steps that engines, the
fabric, the proctor, the host and the clock take. -/
inductive Instr where
  /-- BRA (R362). -/
  | bra (f : FmtB)
  /-- BRC (R362). -/
  | brc (f : FmtB)
  /-- BRX (R362). -/
  | brx (f : FmtB)
  /-- CALL (R362). -/
  | call (f : FmtB)
  /-- CALLX (R362). -/
  | callx (f : FmtB)
  /-- RET (R362). -/
  | ret (f : FmtB)
  /-- EXIT (R364). -/
  | exit (f : FmtE)
  /-- NOP (R365). -/
  | nop (f : FmtE)
  /-- YIELD (R365). -/
  | yield (f : FmtE)
  /-- PAUSE (R365). -/
  | pause (f : FmtE)
  /-- SIGN (R367). -/
  | sign (f : FmtE)
  /-- CVDECL (R173). -/
  | cvdecl (f : FmtE)
  /-- CVWAIT (R367). -/
  | cvwait (f : FmtE)
  /-- CVCLR (R173). -/
  | cvclr (f : FmtE)
  /-- BARA (R369). -/
  | bara (f : FmtE)
  /-- BARW (R369). -/
  | barw (f : FmtE)
  /-- BAR (R369). -/
  | bar (f : FmtE)
  /-- LAUNCH (R371). -/
  | launch (f : FmtE)
  /-- EPUSH (R372). -/
  | epush (f : FmtE)
  /-- EPOP (R372). -/
  | epop (f : FmtE)
  /-- IADD (R247). -/
  | iadd (f : FmtA)
  /-- IADDC (R247). -/
  | iaddc (f : FmtA)
  /-- ISUB (R247). -/
  | isub (f : FmtA)
  /-- ISUBB (R247). -/
  | isubb (f : FmtA)
  /-- IMUL (R247). -/
  | imul (f : FmtA)
  /-- IMULH (R247). -/
  | imulh (f : FmtA)
  /-- IMAD (R247). -/
  | imad (f : FmtA)
  /-- IMADW (R247). -/
  | imadw (f : FmtA)
  /-- IMIN (R247). -/
  | imin (f : FmtA)
  /-- IMAX (R247). -/
  | imax (f : FmtA)
  /-- IABS (R247). -/
  | iabs (f : FmtA)
  /-- ICMP (R247). -/
  | icmp (f : FmtA)
  /-- SEL (R247). -/
  | sel (f : FmtA)
  /-- LEA64 (R247). -/
  | lea64 (f : FmtA)
  /-- ADD64 (R247). -/
  | add64 (f : FmtA)
  /-- MOV (R247). -/
  | mov (f : FmtA)
  /-- MOVL (R247). -/
  | movl (f : FmtA)
  /-- SHL (R250). -/
  | shl (f : FmtA)
  /-- SHR (R250). -/
  | shr (f : FmtA)
  /-- SAR (R250). -/
  | sar (f : FmtA)
  /-- DSH (R250). -/
  | dsh (f : FmtA)
  /-- AND (R250). -/
  | and (f : FmtA)
  /-- OR (R250). -/
  | or (f : FmtA)
  /-- XOR (R250). -/
  | xor (f : FmtA)
  /-- BOOL3 (R250). -/
  | bool3 (f : FmtA)
  /-- PBOOL (R250). -/
  | pbool (f : FmtA)
  /-- CLZ (R250). -/
  | clz (f : FmtA)
  /-- CTZ (R250). -/
  | ctz (f : FmtA)
  /-- POPC (R250). -/
  | popc (f : FmtA)
  /-- BREV (R250). -/
  | brev (f : FmtA)
  /-- BFX (R250). -/
  | bfx (f : FmtA)
  /-- BFI (R250). -/
  | bfi (f : FmtA)
  /-- BIL_2 (R250). -/
  | bil2 (f : FmtA)
  /-- BIL_3 (R250). -/
  | bil3 (f : FmtA)
  /-- BDL_2 (R250). -/
  | bdl2 (f : FmtA)
  /-- BDL_3 (R250). -/
  | bdl3 (f : FmtA)
  /-- BYSEL (R250). -/
  | bysel (f : FmtA)
  /-- PERMX (R254). -/
  | permx (f : FmtA)
  /-- PERMX_CV (R254). -/
  | permxCv (f : FmtA)
  /-- BALLOT (R254). -/
  | ballot (f : FmtA)
  /-- BALLOT_CV (R254). -/
  | ballotCv (f : FmtA)
  /-- VOTE (R254). -/
  | vote (f : FmtA)
  /-- VOTE_CV (R254). -/
  | voteCv (f : FmtA)
  /-- MATCH (R254). -/
  | laneMatch (f : FmtA)
  /-- MATCH_CV (R254). -/
  | laneMatchCv (f : FmtA)
  /-- LSCAN (R255). -/
  | lscan (f : FmtA)
  /-- LSCAN_CV (R255). -/
  | lscanCv (f : FmtA)
  /-- LRED (R255). -/
  | lred (f : FmtA)
  /-- LRED_CV (R255). -/
  | lredCv (f : FmtA)
  /-- ELECT (R254). -/
  | elect (f : FmtA)
  /-- ELECT_CV (R254). -/
  | electCv (f : FmtA)
  /-- FADD (R261). -/
  | fadd (f : FmtA)
  /-- FSUB (R261). -/
  | fsub (f : FmtA)
  /-- FMUL (R261). -/
  | fmul (f : FmtA)
  /-- FFMA (R261). -/
  | ffma (f : FmtA)
  /-- FMIN (R261). -/
  | fmin (f : FmtA)
  /-- FMAX (R261). -/
  | fmax (f : FmtA)
  /-- FCMP (R263). -/
  | fcmp (f : FmtA)
  /-- FCLASS (R263). -/
  | fclass (f : FmtA)
  /-- FRCP (R261). -/
  | frcp (f : FmtA)
  /-- FRSQ (R261). -/
  | frsq (f : FmtA)
  /-- FSQRT (R261). -/
  | fsqrt (f : FmtA)
  /-- FEXP2 (R261). -/
  | fexp2 (f : FmtA)
  /-- FLOG2 (R261). -/
  | flog2 (f : FmtA)
  /-- FSIN (R261). -/
  | fsin (f : FmtA)
  /-- FCOS (R261). -/
  | fcos (f : FmtA)
  /-- FTANH (R261). -/
  | ftanh (f : FmtA)
  /-- FSCALE (R261). -/
  | fscale (f : FmtA)
  /-- PKADD (R264). -/
  | pkadd (f : FmtA)
  /-- PKMUL (R264). -/
  | pkmul (f : FmtA)
  /-- PKFMA (R264). -/
  | pkfma (f : FmtA)
  /-- PKMIN (R264). -/
  | pkmin (f : FmtA)
  /-- PKMAX (R264). -/
  | pkmax (f : FmtA)
  /-- CVT (R269). -/
  | cvt (f : FmtA)
  /-- PACK (R271). -/
  | pack (f : FmtA)
  /-- UNPK (R271). -/
  | unpk (f : FmtA)
  /-- DOT2 (R266). -/
  | dot2 (f : FmtA)
  /-- DOT4 (R266). -/
  | dot4 (f : FmtA)
  /-- DOT8 (R266). -/
  | dot8 (f : FmtA)
  /-- TAGSET (R271). -/
  | tagset (f : FmtA)
  /-- TAGGET (R271). -/
  | tagget (f : FmtA)
  /-- QCLR (R273). -/
  | qclr (f : FmtA)
  /-- QADD (R273). -/
  | qadd (f : FmtA)
  /-- QADD_SEG (R273). -/
  | qaddSeg (f : FmtA)
  /-- QMAC (R273). -/
  | qmac (f : FmtA)
  /-- QSCAN (R274). -/
  | qscan (f : FmtA)
  /-- QRND (R274). -/
  | qrnd (f : FmtA)
  /-- QMOV (R273). -/
  | qmov (f : FmtA)
  /-- QMOV_SEG (R273). -/
  | qmovSeg (f : FmtA)
  /-- QFLAG (R273). -/
  | qflag (f : FmtA)
  /-- LD (R219). -/
  | ld (f : FmtM)
  /-- LDA (R220). -/
  | lda (f : FmtM)
  /-- LDX (R220). -/
  | ldx (f : FmtM)
  /-- LDS (R219). -/
  | lds (f : FmtM)
  /-- ST (R222). -/
  | st (f : FmtM)
  /-- STL (R223). -/
  | stl (f : FmtM)
  /-- STX (R223). -/
  | stx (f : FmtM)
  /-- STS (R223). -/
  | sts (f : FmtM)
  /-- PREF (R225). -/
  | pref (f : FmtM)
  /-- CINV (R225). -/
  | cinv (f : FmtM)
  /-- CWB (R225). -/
  | cwb (f : FmtM)
  /-- PROBE (R226). -/
  | probe (f : FmtM)
  /-- PGREQ (R227). -/
  | pgreq (f : FmtM)
  /-- COPY (R231). -/
  | copy (f : FmtE)
  /-- COPYX (R231). -/
  | copyx (f : FmtE)
  /-- CHAIN (R232). -/
  | chain (f : FmtE)
  /-- CHSTAT (R233). -/
  | chstat (f : FmtE)
  /-- CMWAIT (R234). -/
  | cmwait (f : FmtE)
  /-- CMTEST (R235). -/
  | cmtest (f : FmtE)
  /-- CMCLR (R236). -/
  | cmclr (f : FmtE)
  /-- RKINIT (R237). -/
  | rkinit (f : FmtE)
  /-- RKACQ (R238). -/
  | rkacq (f : FmtE)
  /-- RKCOMMIT (R239). -/
  | rkcommit (f : FmtE)
  /-- RKWAIT (R238). -/
  | rkwait (f : FmtE)
  /-- RKREL (R239). -/
  | rkrel (f : FmtE)
  /-- ATOM (R297). -/
  | atom (f : FmtM)
  /-- CAS (R297). -/
  | cas (f : FmtM)
  /-- RED (R300). -/
  | red (f : FmtM)
  /-- LCWAIT (R306). -/
  | lcwait (f : FmtE)
  /-- LCREAD (R307). -/
  | lcread (f : FmtE)
  /-- LCADD (R308). -/
  | lcadd (f : FmtE)
  /-- TOWAIT (R306). -/
  | towait (f : FmtE)
  /-- FENCE (R302). -/
  | fence (f : FmtM)
  /-- TACQ (R285). -/
  | tacq (f : FmtE)
  /-- TREL (R286). -/
  | trel (f : FmtE)
  /-- TZERO (R288). -/
  | tzero (f : FmtE)
  /-- MMA (R287). -/
  | mma (f : FmtE)
  /-- MMAX (R287). -/
  | mmax (f : FmtE)
  /-- TREAD (R288). -/
  | tread (f : FmtE)
  /-- TWRITE (R288). -/
  | twrite (f : FmtE)
  /-- TCVT (R289). -/
  | tcvt (f : FmtE)
  /-- MWAIT (R290). -/
  | mwait (f : FmtE)
  /-- MSTAT (R290). -/
  | mstat (f : FmtE)
  /-- GPOST (R310). -/
  | gpost (f : FmtE)
  /-- GCANCEL (R311). -/
  | gcancel (f : FmtE)
  /-- GSTAT (R311). -/
  | gstat (f : FmtE)
  /-- GJOIN (R312). -/
  | gjoin (f : FmtE)
  /-- GLEAVE (R312). -/
  | gleave (f : FmtE)
  /-- GVER (R313). -/
  | gver (f : FmtE)
  /-- RANKQ (R314). -/
  | rankq (f : FmtE)
  /-- TRAP (R375). -/
  | trap (f : FmtS)
  /-- BRK (R375). -/
  | brk (f : FmtS)
  /-- ERET (R376). -/
  | eret (f : FmtS)
  /-- KILL (R364). -/
  | kill (f : FmtS)
  /-- SREAD (R377). -/
  | sread (f : FmtS)
  /-- SWRITE (R377). -/
  | swrite (f : FmtS)
  /-- CLOCK (R378). -/
  | clock (f : FmtS)
  /-- PMARK (R378). -/
  | pmark (f : FmtS)
  /-- RECONVERGENCE_TIMEOUT (R172). -/
  | reconvergenceTimeout (core : Nat) (key : Nat)
  /-- FIRED_RENDEZVOUS_PROCEED (R175). -/
  | firedRendezvousProceed (core : Nat) (row : Nat) (cv : Nat)
  /-- LOAD_FILL (R219). -/
  | loadFill (id : Nat) (evict : List Nat)
  /-- REFETCH (R26). -/
  | refetch (id : Nat)
  /-- ATOMIC_REPLY (R297). -/
  | atomicReply (id : Nat)
  /-- SLICE_REQUEST (R130). -/
  | sliceRequest (id : Nat)
  /-- FILL (R48): into a way of the tile's sets; way 24 leaves the choice to the slice. -/
  | fill (tile : Nat) (way : Nat)
  /-- SEAL (R51): and the lines of the tile that the slice evicts (R129); none is a write-back alone. -/
  | seal (tile : Nat) (evict : BitVec 8)
  /-- METADATA_WRITEBACK (R45). -/
  | metadataWriteback (die : Nat) (unit : Nat)
  /-- BIND_FRAME (R57). -/
  | bindFrame (c : Cmd)
  /-- BIND_FRAME_PROCEED (R57). -/
  | bindFrameProceed (frame : Nat)
  /-- UNBIND_FRAME (R58). -/
  | unbindFrame (c : Cmd)
  /-- KEY_LOAD (R422). -/
  | keyLoad (c : Cmd)
  /-- KEY_FREE (R425). -/
  | keyFree (c : Cmd)
  /-- PART_CREATE (R427). -/
  | partCreate (c : Cmd) (by_ : OperandBy)
  /-- LIFECYCLE (R437). -/
  | lifecycle (c : Cmd) (by_ : OperandBy)
  /-- PART_DESTROY (R427). -/
  | partDestroy (c : Cmd)
  /-- RANK_TABLE_LOAD (R92). -/
  | rankTableLoad (c : Cmd)
  /-- ATTEST (R429). -/
  | attest (c : Cmd) (by_ : OperandBy)
  /-- FREEZE_RELEASE (R416). -/
  | freezeRelease (c : Cmd)
  /-- RESET_PARTITION (R427). -/
  | resetPartition (c : Cmd)
  /-- LAUNCH_QUEUE_ENTRY (R426). -/
  | launchQueueEntry (c : Cmd) (q : Nat)
  /-- Q_TAIL (R426). -/
  | qTail (fn : Nat) (q : Nat) (v : DWord)
  /-- BAR2_READ (R432). -/
  | bar2Read (p : Nat) (off : Nat) (len : Nat) (inStream : Bool)
  /-- BAR2_WRITE (R432). -/
  | bar2Write (p : Nat) (off : Nat) (bytes : List (Option Byte)) (inStream : Bool)
  /-- TRANSLATION_WALK (R80). -/
  | translationWalk (id : Nat)
  /-- XL_INVAL (R83). -/
  | xlInval (p : Nat) (v : DWord) (pf0 : Bool)
  /-- SHOOTDOWN_COMPLETE (R83). -/
  | shootdownComplete (p : Nat)
  /-- FAULT_BATCH_WRITE (R409). -/
  | faultBatchWrite (p : Nat)
  /-- RESUME_REPLAY (R411). -/
  | resumeReplay (p : Nat) (rseq : Nat)
  /-- RESUME_DELIVER (R411). -/
  | resumeDeliver (p : Nat) (rseq : Nat)
  /-- RESUME_KILL (R411). -/
  | resumeKill (p : Nat) (rseq : Nat)
  /-- HANDLER_ENTRY (R375). -/
  | handlerEntry (core : Nat) (key : Nat)
  /-- WORLD_SCRUB (R424). -/
  | worldScrub (core : Nat)
  /-- LAUNCH_RECORD_ACCEPT (R382). -/
  | launchRecordAccept
  /-- GANG_DISPATCH (R390). -/
  | gangDispatch (p : Nat) (cores : List Nat)
  /-- GANG_COMPLETE (R386). -/
  | gangComplete (seq : Nat) (gang : Nat)
  /-- LAUNCH_COMPLETE (R386). -/
  | launchComplete (seq : Nat)
  /-- PREEMPT (R397). -/
  | preempt (p : Nat)
  /-- CONTEXT_SAVE (R413). -/
  | contextSave (seq : Nat) (gang : Nat)
  /-- RESTORE (R415). -/
  | restore (seq : Nat) (gang : Nat) (cores : List Nat)
  /-- THERMAL_MIGRATE (R400). -/
  | thermalMigrate (core : Nat) (cores : List Nat)
  /-- CHUNK_LAND (R151). -/
  | chunkLand (cluster : Nat) (ch : Nat) (chunk : Nat)
  /-- TRANSFER_END (R147). -/
  | transferEnd (cluster : Nat) (ch : Nat)
  /-- MATRIX_GRANT (R182). -/
  | matrixGrant (cluster : Nat)
  /-- PASS_COMPLETE (R287). -/
  | passComplete (cluster : Nat)
  /-- TILE_OP_APPLY (R284). -/
  | tileOpApply (cluster : Nat) (tile : Nat)
  /-- COUNTER_REACHED (R306). -/
  | counterReached (core : Nat) (key : Nat)
  /-- COUNTER_WAIT_TIMEOUT (R306). -/
  | counterWaitTimeout (core : Nat) (key : Nat)
  /-- GATE_FIRE (R345). -/
  | gateFire (die : Nat) (slot : Nat)
  /-- GATE_DONE (R346). -/
  | gateDone (die : Nat) (slot : Nat)
  /-- GATE_FAULT (R347). -/
  | gateFault (die : Nat) (slot : Nat)
  /-- SIGNAL_RECEIVE (R346). -/
  | signalReceive (src : Nat) (seq : Nat) (sig : Signal)
  /-- REDUCE_CHUNK_APPLY (R349): the chunk of the n-th piece in the staging SRAM of a die. -/
  | reduceChunkApply (die : Nat) (n : Nat)
  /-- HEADCOUNT_COLLECT (R355). -/
  | headcountCollect (p : Nat) (i : Nat) (requests : List (Nat × Bool))
  /-- DRAIN_RECEIVE (R355). -/
  | drainReceive (p : Nat) (i : Nat) (ver : Nat) (roster : List Nat)
  /-- DRAIN_REPORT (R355). -/
  | drainReport (p : Nat) (i : Nat) (w : DrainWord)
  /-- PUBLISH_RECEIVE (R355). -/
  | publishReceive (p : Nat) (i : Nat) (ver : Nat) (roster : List Nat)
  /-- LINK_ARM (R100). -/
  | linkArm (k : Nat)
  /-- LINK_TRAINED (R100). -/
  | linkTrained (k : Nat) (farPos : Nat)
  /-- LINK_TRAIN_TIMEOUT (R100). -/
  | linkTrainTimeout (k : Nat)
  /-- LINK_SILENCE_TIMEOUT (R100). -/
  | linkSilenceTimeout (k : Nat)
  /-- FLIT_RECEIVE (R98). -/
  | flitReceive (k : Nat) (f : Flit)
  /-- HEARTBEAT (R101). -/
  | heartbeat (k : Nat)
  /-- POD_TRANSACTION_RECEIVE (R107). -/
  | podTransactionReceive (src : Nat) (seq : Nat) (req : FabReq)
  /-- POD_ACK_RECEIVE (R107). -/
  | podAckReceive (src : Nat) (seq : Nat) (reply : FabReply)
  /-- MULTICAST_COPY_RECEIVE (R109). -/
  | multicastCopyReceive (src : Nat) (seq : Nat) (group : Nat) (req : FabReq)
  /-- REMOTE_PACKET_RECEIVE (R117). -/
  | remotePacketReceive (src : Nat) (port : Nat) (pkt : RemotePacket)
  /-- REMOTE_REPLY_RECEIVE (R114). -/
  | remoteReplyReceive (id : Nat) (reply : FabReply)
  /-- REMOTE_FORCED_SEND (R115). -/
  | remoteForcedSend (id : Nat)
  /-- REMOTE_ACK_TIMEOUT (R116). -/
  | remoteAckTimeout (id : Nat)
  /-- HOST_COMPLETION (R125). -/
  | hostCompletion (id : Nat) (status : HostStatus) (data : List Word)
  /-- HOST_COMPLETION_TIMEOUT (R125). -/
  | hostCompletionTimeout (id : Nat)
  /-- REGISTER_WRITE (R4). -/
  | registerWrite (fn : Nat) (off : Nat) (v : Option DWord) (inStream : Bool)
  /-- GET_VERSION (R428). -/
  | getVersion (fn : Nat) (msg : List Byte)
  /-- GET_CAPABILITIES (R428). -/
  | getCapabilities (fn : Nat) (msg : List Byte)
  /-- NEGOTIATE_ALGORITHMS (R428). -/
  | negotiateAlgorithms (fn : Nat) (msg : List Byte)
  /-- GET_DIGESTS (R428). -/
  | getDigests (fn : Nat) (msg : List Byte)
  /-- GET_CERTIFICATE (R428). -/
  | getCertificate (fn : Nat) (msg : List Byte)
  /-- CHALLENGE (R428). -/
  | challenge (fn : Nat) (msg : List Byte)
  /-- GET_MEASUREMENTS (R428). -/
  | getMeasurements (fn : Nat) (msg : List Byte)
  /-- KEY_EXCHANGE (R428). -/
  | keyExchange (fn : Nat) (msg : List Byte)
  /-- FINISH (R428). -/
  | finish (fn : Nat) (msg : List Byte)
  /-- END_SESSION (R428). -/
  | endSession (fn : Nat) (msg : List Byte)
  /-- LOCK_INTERFACE_REQUEST (R430). -/
  | lockInterfaceRequest (vf : Nat) (requester : Nat)
  /-- START_INTERFACE_REQUEST (R430). -/
  | startInterfaceRequest (vf : Nat)
  /-- STOP_INTERFACE_REQUEST (R430). -/
  | stopInterfaceRequest (vf : Nat)
  /-- IDE_MAC_FAIL (R432). -/
  | ideMacFail (vfs : List Nat)
  /-- HX_ERR_CLEAR (R434). -/
  | hxErrClear (fn : Nat)
  /-- PW_CAP_WRITE (R435). -/
  | pwCapWrite (bmc : Bool) (v : DWord)
  /-- CORE_CLOCK_STEP (R436). -/
  | coreClockStep (up : Bool) (watts : Nat) (m : Meter)
  /-- CORE_FLAGGED_HOT (R400). -/
  | coreFlaggedHot (core : Nat) (temp : Nat)
  /-- CONFIGURATION_REQUEST (R438). -/
  | configurationRequest (r : ConfigRequest)
  /-- SOFT_ERROR (R20). -/
  | softError (loc : ErrLoc) (bit : Nat)
  /-- PACKET_RETRANSMISSION (R114). -/
  | packetRetransmission (id : Nat)
  /-- LANE_SPARE (R99). -/
  | laneSpare (k : Nat) (lane : Nat)
  /-- SPARE_COMPLETE (R99). -/
  | spareComplete (k : Nat)
  /-- RESUME_RESERVED (R411). -/
  | resumeReserved (p : Nat) (rseq : Nat)
  /-- RING_SNOOP (R426). -/
  | ringSnoop (fn : Nat) (q : Nat)
  /-- POWER_CAP (R427). -/
  | powerCap (c : Cmd)
  /-- VF_FLR (R438). -/
  | vfFlr (p : Nat)
  /-- MODULE_RESET (R438). -/
  | moduleReset (pos : Nat) (cxl : Bool) (selfTest : Bool)
  /-- RETRAIN_COMPLETE (R100). -/
  | retrainComplete (k : Nat)
  /-- PEER_REVIVE (R103). -/
  | peerRevive (bits : BitVec 16)
  /-- DEATH_NOTICE (R104). -/
  | deathNotice (k : Nat) (peer : Nat)
  /-- LINK_STATE_NOTICE (R102). -/
  | linkStateNotice (k : Nat) (origin : Nat) (seq : Nat) (a : Nat) (b : Nat) (up : Bool)
  /-- TRAVERSE_FORWARD (R106): what a position sent goes out on port k. -/
  | traverseForward (k : Nat) (m : Traverse)
  /-- GROUP_TABLE_SET (R108). -/
  | groupTableSet (c : Cmd)
  /-- DEMOTION_EXPIRE (R169). -/
  | demotionExpire (core : Nat) (key : Nat)
  /-- PUBLISH_ACK (R355). -/
  | publishAck (p : Nat) (i : Nat) (rank : Nat)
  /-- APPLY_MAP_CLOSE (R350). -/
  | applyMapClose (part : Nat) (group : Nat) (coll : Nat) (src : Nat) (seq : Nat)
  /-- ABORT_NOTICE (R353). -/
  | abortNotice (part : Nat) (group : Nat) (coll : Nat)
  /-- PL_LIMIT_WRITE (R139). -/
  | plLimitWrite (p : Nat) (v : DWord)
  /-- XL_REGION_WRITE (R70). -/
  | xlRegionWrite (p : Nat) (i : Nat) (v : DWord) (pf0 : Bool)
  /-- GROUP_SLOT_WRITE (R354). -/
  | groupSlotWrite (p : Nat) (i : Nat) (off : Nat) (v : DWord) (pf0 : Bool)
  /-- FQ_CONS (R409). -/
  | fqCons (p : Nat) (v : DWord)
  /-- FQ_CTL (R409). -/
  | fqCtl (p : Nat) (v : DWord)
  /-- THERMAL_TRIP (R436). -/
  | thermalTrip
  /-- THERMAL_TRIP_CLEAR (R436). -/
  | thermalTripClear
  /-- WIPE_COMPLETE (R63). -/
  | wipeComplete
  /-- POWER_REMOVAL (R438). -/
  | powerRemoval
  deriving DecidableEq, Repr

end Sys2Proof
end

