-- ==== Sys2Proof/Machine/Forms.lean ====
section
/-! DEFINITION. What each form's fields may hold and which sources it reads (R199 to R202, R204, and the
field tables of the instruction chapters). The decoder refuses what breaks these rules; the meanings read
their sources by them. -/

namespace Sys2Proof.Machine

/-- The 4-bit number of a tag (Table 1.1). -/
def tagNum : Tag → Nat
  | .raw => 0 | .i32 => 1 | .u32 => 2 | .f32 => 3 | .bf16x2 => 4 | .f16x2 => 5 | .e4m3x4 => 6
  | .e5m2x4 => 7 | .e2m1x8 => 8 | .i8x4 => 9 | .u8x4 => 10 | .i4x8 => 11 | .e8m0x4 => 12
  | .addrLo => 13 | .addrHi => 14

/-- The tag of a 4-bit number; 15 is reserved (R31). -/
def tagOf : Nat → Option Tag
  | 0 => some .raw | 1 => some .i32 | 2 => some .u32 | 3 => some .f32 | 4 => some .bf16x2
  | 5 => some .f16x2 | 6 => some .e4m3x4 | 7 => some .e5m2x4 | 8 => some .e2m1x8 | 9 => some .i8x4
  | 10 => some .u8x4 | 11 => some .i4x8 | 12 => some .e8m0x4 | 13 => some .addrLo | 14 => some .addrHi
  | _ => none

/-- Elements per word of a format (Table 1.1). -/
def tagElems : Tag → Nat
  | .bf16x2 | .f16x2 => 2
  | .e4m3x4 | .e5m2x4 | .i8x4 | .u8x4 | .e8m0x4 => 4
  | .e2m1x8 | .i4x8 => 8
  | _ => 1

/-- A packed format has more than one element (R200). -/
def tagPacked (t : Tag) : Bool := 1 < tagElems t

/-- Every tag, in the order of Table 1.1. -/
def allTags : List Tag :=
  [.raw, .i32, .u32, .f32, .bf16x2, .f16x2, .e4m3x4, .e5m2x4, .e2m1x8, .i8x4, .u8x4, .i4x8, .e8m0x4,
   .addrLo, .addrHi]

/-- The packed tags 4 to 12. -/
def packedTags : List Tag :=
  [.bf16x2, .f16x2, .e4m3x4, .e5m2x4, .e2m1x8, .i8x4, .u8x4, .i4x8, .e8m0x4]

/-- What a destination field names. -/
inductive DstKind where
  /-- unused: zero -/
  | none
  /-- `n` consecutive registers -/
  | regs (n : Nat)
  /-- a predicate in bits 2..0 (R244) -/
  | pred
  /-- an object index below `n` -/
  | index (n : Nat)
  deriving DecidableEq, Repr

/-- What a source field names. -/
inductive SrcKind where
  /-- unused: zero -/
  | none
  /-- one register expecting a tag -/
  | reg (expect : Tag)
  /-- one register expecting a tag, whose element select bits carry something else (R249, R253) -/
  | regSelFree (expect : Tag)
  /-- consecutive registers expecting these tags -/
  | range (expect : List Tag)
  /-- a predicate (R244) -/
  | pred
  /-- a predicate whose modifier bits <2:1> carry something else (R249) -/
  | predSelFree
  /-- a number below `n`, no modifier -/
  | index (n : Nat)
  deriving DecidableEq, Repr

/-- A form's use of format A. -/
structure ARule where
  types : List Tag
  vars : List (BitVec 2)
  sats : List Bool
  dst : DstKind
  a : SrcKind
  b : SrcKind
  c : SrcKind
  imm8 : Bool
  lit : Bool
  extra : Bool
  deriving DecidableEq, Repr

/-- A source as the meaning reads it: registers with their expected tags, or the immediate that stands for
the last one (R201). -/
inductive Src where
  | regs (r : BitVec 8) (expect : List Tag) (trap : Bool) (sel : BitVec 2)
  | imm (ws : List Word)
  deriving DecidableEq, Repr

def anyVar : List (BitVec 2) := [0, 1, 2, 3]

/-- A range of `n` registers from `r` holds no v255 (R199). One register may be v255. -/
def rangeOk (r : BitVec 8) (n : Nat) : Bool := n == 1 || r.toNat + n ≤ 255

def dstOk (k : DstKind) (d : BitVec 8) : Bool :=
  match k with
  | .none => d == 0
  | .regs n => rangeOk d n
  | .pred => d.toNat < 8
  | .index n => d.toNat < n

/-- A source field and its modifier against its kind (R199, R200, R244). -/
def srcOk (k : SrcKind) (r : BitVec 8) (m : BitVec 3) : Bool :=
  match k with
  | .none => r == 0 && m == 0
  | .reg t => tagPacked t || m.extractLsb' 1 2 == 0
  | .regSelFree _ => true
  | .range ts => rangeOk r ts.length && m.extractLsb' 1 2 == 0
  | .pred => r.toNat < 8 && m == 0
  | .predSelFree => r.toNat < 8 && m.extractLsb' 0 1 == 0
  | .index n => r.toNat < n && m == 0

/-- A kind that reads registers. -/
def SrcKind.isReg : SrcKind → Bool
  | .reg _ | .regSelFree _ | .range _ => true
  | _ => false

/-- The position, 0 to 2, of the last register source (R201). -/
def lastReg (a b c : SrcKind) : Option Nat :=
  if c.isReg then some 2 else if b.isReg then some 1 else if a.isReg then some 0 else none

def kindAt (r : ARule) : Nat → SrcKind
  | 0 => r.a | 1 => r.b | _ => r.c

/-- An imm8 is accepted where the replaced source expects I32, U32 or RAW (R201). -/
def imm8Fits (k : SrcKind) : Bool :=
  match k with
  | .reg t => t == .i32 || t == .u32 || t == .raw
  | _ => false

/-- A literal for a 32-bit source has zero upper half; for a pair it gives all 64 bits (R201). -/
def litFits (k : SrcKind) (l : DWord) : Bool :=
  match k with
  | .reg _ | .regSelFree _ => hi32 l == 0
  | .range ts => ts.length == 2
  | _ => false

/-- The source kinds of a form A word, the replaced one apart (R201). -/
def replacedAt (r : ARule) (f : FmtA) : Option Nat :=
  if f.imm || f.lit.isSome then lastReg r.a r.b r.c else none

def aSrcOkAt (r : ARule) (f : FmtA) (i : Nat) (reg : BitVec 8) (m : BitVec 3) : Bool :=
  if replacedAt r f == some i then m == 0 && (reg == 0 || (f.imm && i == 2))
  else if i == 2 && f.imm then m == 0 && kindAt r 2 == .none
  else srcOk (kindAt r i) reg m

/-- The field rules of format A: R194, R199 to R202, R204 and the form's table. -/
def aOk (r : ARule) (f : FmtA) : Bool :=
  r.types.contains f.type && r.vars.contains f.var && r.sats.contains f.sat && dstOk r.dst f.dst &&
  !(f.imm && f.lit.isSome) &&
  (!f.imm || (r.imm8 && ((lastReg r.a r.b r.c).map fun i => imm8Fits (kindAt r i)).getD false)) &&
  (match f.lit with
   | none => true
   | some l => r.lit && ((lastReg r.a r.b r.c).map fun i => litFits (kindAt r i) l).getD false) &&
  aSrcOkAt r f 0 f.srcA f.modA && aSrcOkAt r f 1 f.srcB f.modB && aSrcOkAt r f 2 f.srcC f.modC && r.extra

/-- imm8, sign-extended (R201). -/
def immWord (x : BitVec 8) : Word := x.signExtend 32

/-- Source `i` of a form A word as the meaning reads it; none for fields that name no register. -/
def aSrcAt (r : ARule) (f : FmtA) (i : Nat) (reg : BitVec 8) (m : BitVec 3) : List Src :=
  if replacedAt r f == some i then
    match f.lit, kindAt r i with
    | some l, .range _ => [.imm [lo32 l, hi32 l]]
    | some l, _ => [.imm [lo32 l]]
    | none, _ => [.imm [immWord f.srcC]]
  else
    match kindAt r i with
    | .reg t => [.regs reg [t] (m.getLsbD 0) (m.extractLsb' 1 2)]
    | .regSelFree t => [.regs reg [t] (m.getLsbD 0) 0]
    | .range ts => [.regs reg ts (m.getLsbD 0) 0]
    | _ => []

/-- The register sources of a form A word in operand order (R201, R209). -/
def aSrcs (r : ARule) (f : FmtA) : List Src :=
  aSrcAt r f 0 f.srcA f.modA ++ aSrcAt r f 1 f.srcB f.modB ++ aSrcAt r f 2 f.srcC f.modC

/-- The rule every form starts from. -/
def baseA : ARule :=
  ⟨[], [0], [false], .regs 1, .none, .none, .none, false, false, true⟩

def pairOf (t : Tag) : List Tag := if t == .addrLo then [.addrLo, .addrHi] else [t, t]

/-- Class 0x1 (Table 10.1). -/
def ruleIntAdd (f : FmtA) : ARule :=
  { baseA with types := [.i32, .u32, .i8x4, .u8x4], sats := [false, true], a := .reg f.type,
               b := .reg f.type, imm8 := true, lit := true }
def ruleCarry (f : FmtA) : ARule :=
  { baseA with types := [.i32, .u32], a := .reg f.type, b := .reg f.type, c := .pred, lit := true }
def ruleMul (f : FmtA) : ARule :=
  { baseA with types := [.i32, .u32], a := .reg f.type, b := .reg f.type, imm8 := true, lit := true }
def ruleMad (f : FmtA) : ARule :=
  { baseA with types := [.i32, .u32], a := .reg f.type, b := .reg f.type, c := .reg f.type,
               imm8 := true, lit := true }
def ruleMadw (f : FmtA) : ARule :=
  { baseA with types := [.i32, .u32], dst := .regs 2, a := .reg f.type, b := .reg f.type,
               c := .range [f.type, f.type], lit := true }
def ruleMinMax (f : FmtA) : ARule :=
  { baseA with types := [.i32, .u32, .i8x4, .u8x4], a := .reg f.type, b := .reg f.type,
               imm8 := true, lit := true }
def ruleAbs (f : FmtA) : ARule :=
  { baseA with types := [.i32, .i8x4], sats := [false, true], a := .reg f.type, imm8 := true, lit := true }
def ruleIcmp (f : FmtA) : ARule :=
  { baseA with types := [.i32, .u32], vars := anyVar, dst := .pred, a := .reg f.type, b := .reg f.type,
               imm8 := true, lit := true }
def ruleSel (f : FmtA) : ARule :=
  { baseA with types := allTags, a := .reg f.type, b := .reg f.type, c := .pred, lit := true }
def ruleLea64 (_ : FmtA) : ARule :=
  { baseA with types := [.addrLo], vars := anyVar, dst := .regs 2, a := .range [.addrLo, .addrHi],
               b := .reg .i32, imm8 := true, lit := true }
def ruleAdd64 (f : FmtA) : ARule :=
  { baseA with types := [.i32, .u32, .addrLo], dst := .regs 2, a := .range (pairOf f.type),
               b := .range (if f.type == .addrLo then [.raw, .raw] else [f.type, f.type]), lit := true }
def ruleMov (f : FmtA) : ARule :=
  { baseA with types := allTags, a := .reg f.type, imm8 := true, lit := true }
def ruleMovl (f : FmtA) : ARule :=
  { baseA with types := [.raw, .i32, .u32, .addrLo], dst := .regs 2, a := .range (pairOf f.type), lit := true }

/-- Class 0x2 (Table 10.3). -/
def ruleShift (f : FmtA) : ARule :=
  { baseA with types := [.raw, .i32, .u32], a := .reg f.type, b := .reg .raw, imm8 := true, lit := true }
def ruleSar (f : FmtA) : ARule :=
  { baseA with types := [.raw, .i32], a := .reg f.type, b := .reg .raw, imm8 := true, lit := true }
def ruleDsh (f : FmtA) : ARule :=
  { baseA with types := [.raw, .i32, .u32], vars := [0, 1], a := .reg f.type, b := .reg f.type,
               c := .reg .raw, imm8 := true, lit := true }
def ruleLogic (f : FmtA) : ARule :=
  { baseA with types := allTags, a := .reg f.type, b := .reg f.type, imm8 := true, lit := true }
def ruleBool3 (f : FmtA) : ARule :=
  { baseA with types := allTags, vars := anyVar, a := .regSelFree f.type, b := .regSelFree f.type,
               c := .regSelFree f.type }
def rulePbool (_ : FmtA) : ARule :=
  { baseA with types := [.raw], vars := anyVar, dst := .pred, a := .predSelFree, b := .predSelFree,
               c := .predSelFree }
def ruleCount (_ : FmtA) : ARule :=
  { baseA with types := [.u32], a := .reg .raw, imm8 := true, lit := true }
def ruleBrev (f : FmtA) : ARule :=
  { baseA with types := [.raw, .i32, .u32], a := .reg f.type, imm8 := true, lit := true }
def ruleBfi (f : FmtA) : ARule :=
  { baseA with types := [.raw, .i32, .u32], a := .reg f.type, b := .reg f.type, c := .reg .raw,
               imm8 := true, lit := true }
def ruleBil2 (f : FmtA) : ARule :=
  { baseA with types := [.raw, .u32], a := .reg f.type, b := .reg f.type, imm8 := true, lit := true }
def ruleBil3 (f : FmtA) : ARule :=
  { baseA with types := [.raw, .u32], a := .reg f.type, b := .reg f.type, c := .reg f.type,
               imm8 := true, lit := true }
def ruleBdl (n : Nat) (f : FmtA) : ARule :=
  { baseA with types := [.raw, .u32], dst := .regs n, a := .reg f.type, imm8 := true, lit := true }
def ruleBysel (f : FmtA) : ARule :=
  { baseA with types := [.raw, .i32, .u32, .i8x4, .u8x4], a := .reg f.type, b := .reg f.type,
               c := .reg .raw, imm8 := true, lit := true }

/-- Class 0x3 (Table 10.4): the plain form has sat 0 and var 0, the .cv form sat 1 and names a register. -/
def crossA (cv : Bool) : ARule :=
  { baseA with vars := if cv then anyVar else [0], sats := [cv] }
def rulePermx (cv : Bool) (f : FmtA) : ARule :=
  { crossA cv with types := allTags, a := .reg f.type, b := .regSelFree .raw, c := .reg f.type,
                   imm8 := true, lit := true }
def ruleBallot (cv : Bool) (_ : FmtA) : ARule := { crossA cv with types := [.u32], a := .pred }
def ruleVote (cv : Bool) (_ : FmtA) : ARule :=
  { crossA cv with types := [.raw], dst := .pred, a := .pred, b := .index 3 }
def ruleMatch (cv : Bool) (_ : FmtA) : ARule := { crossA cv with types := [.u32], a := .reg .raw }
/-- An operator of Table 10.5, legal for the type. -/
def scanOpOk (op : Nat) (t : Tag) : Bool := op ≤ 2 || (op ≤ 5 && t != .f32)
def ruleLscan (cv : Bool) (f : FmtA) : ARule :=
  { crossA cv with types := [.i32, .u32, .f32], a := .reg f.type, b := .index 16, imm8 := true, lit := true,
                   extra := scanOpOk (f.srcB.toNat % 8) f.type }
def ruleLred (cv : Bool) (f : FmtA) : ARule :=
  { crossA cv with types := [.i32, .u32, .f32], a := .reg f.type, b := .index 8, imm8 := true, lit := true,
                   extra := scanOpOk (f.srcB.toNat % 8) f.type }
def ruleElect (cv : Bool) (_ : FmtA) : ARule := { crossA cv with types := [.raw], dst := .pred }

/-- Class 0x4 (Table 11.1). -/
def floatA : ARule := { baseA with types := [.f32], vars := anyVar, lit := true }
def ruleF2 (_ : FmtA) : ARule := { floatA with a := .reg .f32, b := .reg .f32 }
def ruleF3 (_ : FmtA) : ARule := { floatA with a := .reg .f32, b := .reg .f32, c := .reg .f32 }
def ruleFminmax (_ : FmtA) : ARule := { floatA with vars := [0], a := .reg .f32, b := .reg .f32 }
def ruleFcmp (_ : FmtA) : ARule :=
  { floatA with vars := [0], dst := .pred, a := .reg .f32, b := .reg .f32, c := .index 8 }
def ruleFclass (_ : FmtA) : ARule := { floatA with vars := [0], a := .reg .f32 }
def ruleF1 (_ : FmtA) : ARule := { floatA with a := .reg .f32 }
def ruleFscale (_ : FmtA) : ARule := { floatA with a := .reg .f32, b := .reg .i32, imm8 := true }

/-- Class 0x5 (Tables 11.6, 11.7, 11.8, 11.9, 11.11). -/
def packA : ARule := { baseA with types := [.bf16x2, .f16x2], vars := anyVar, lit := true }
def rulePk2 (f : FmtA) : ARule := { packA with a := .reg f.type, b := .reg f.type }
def rulePk3 (f : FmtA) : ARule := { packA with a := .reg f.type, b := .reg f.type, c := .reg f.type }
def rulePkMinMax (f : FmtA) : ARule := { packA with vars := [0], a := .reg f.type, b := .reg f.type }
/-- A dot product of an integer format accumulates in I32, of a float format in F32. -/
def dotInt (t : Tag) : Bool := t == .i8x4 || t == .u8x4 || t == .i4x8
def ruleDot (types : List Tag) (f : FmtA) : ARule :=
  { baseA with types := types, vars := if dotInt f.type then [0] else anyVar,
               sats := if dotInt f.type then [false, true] else [false],
               a := .reg f.type, b := .reg f.type, c := .reg (if dotInt f.type then .i32 else .f32),
               imm8 := dotInt f.type, lit := true }
/-- The fields of CVT's control byte (Table 11.8). -/
def cvtPart (c : BitVec 8) : Nat := (c.extractLsb' 5 3).toNat
def cvtSr (c : BitVec 8) : Bool := c.getLsbD 4
def cvtStype (c : BitVec 8) : Option Tag := tagOf (c.extractLsb' 0 4).toNat
/-- The narrow float formats, targets of .sat and .sr. -/
def narrowFloat (t : Tag) : Bool :=
  t == .f16x2 || t == .bf16x2 || t == .e4m3x4 || t == .e5m2x4 || t == .e2m1x8
def intTag (t : Tag) : Bool := t == .i32 || t == .u32 || t == .i8x4 || t == .u8x4 || t == .i4x8
/-- The legal pairs of Table 11.9. -/
def cvtPair (s d : Tag) : Bool :=
  s != d &&
  (if s == .f32 then narrowFloat d || intTag d || d == .e8m0x4
   else if narrowFloat s then d == .f32 || narrowFloat d || intTag d
   else if intTag s then d == .f32 || narrowFloat d
   else s == .e8m0x4 && d == .f32)
/-- Parts of a conversion: the wider count over the narrower (R269). -/
def cvtParts (s d : Tag) : Nat := max (tagElems s) (tagElems d) / min (tagElems s) (tagElems d)
def cvtExtra (f : FmtA) (s : Tag) : Bool :=
  cvtPair s f.type && cvtPart f.srcC < cvtParts s f.type &&
  (!f.sat || narrowFloat f.type) && (!cvtSr f.srcC || (narrowFloat f.type && f.var == 0)) &&
  (f.type != .e8m0x4 || f.var == 2)
def ruleCvt (f : FmtA) : ARule :=
  { baseA with types := allTags, vars := anyVar, sats := [false, true],
               a := .reg ((cvtStype f.srcC).getD .raw), b := if cvtSr f.srcC then .reg .raw else .none,
               c := .index 256, extra := ((cvtStype f.srcC).map (cvtExtra f)).getD false }
def rulePack (f : FmtA) : ARule :=
  { baseA with types := packedTags, a := .reg f.type, b := .reg f.type, lit := true }
def ruleUnpk (f : FmtA) : ARule :=
  { baseA with types := packedTags, dst := .regs 2, a := .reg f.type, lit := true }
def ruleTagset (_ : FmtA) : ARule :=
  { baseA with types := allTags, a := .reg .raw, imm8 := true, lit := true }
def ruleTagget (_ : FmtA) : ARule := { baseA with types := [.u32], a := .reg .raw }

/-- Class 0x6 (Table 11.12). -/
def ruleQclr (_ : FmtA) : ARule := { baseA with types := [.raw], dst := .index 8 }
def ruleQadd (f : FmtA) : ARule :=
  { baseA with types := [.i32, .f32], dst := .index 8, a := .reg f.type, imm8 := true, lit := true }
def ruleQaddSeg (_ : FmtA) : ARule :=
  { baseA with types := [.raw], vars := [1], dst := .index 8, a := .reg .raw, b := .index 20 }
def ruleQmac (f : FmtA) : ARule :=
  { baseA with types := [.i32, .f32], dst := .index 8, a := .reg f.type, b := .reg f.type,
               imm8 := true, lit := true }
def ruleQscan (f : FmtA) : ARule :=
  { baseA with types := [.i32, .f32], vars := anyVar, a := .reg f.type, b := .index 8,
               imm8 := true, lit := true }
def ruleQrnd (_ : FmtA) : ARule :=
  { baseA with types := [.i32, .f32, .bf16x2], vars := anyVar, a := .index 8 }
def ruleQmov (_ : FmtA) : ARule := { baseA with types := [.raw], dst := .index 8, a := .index 8 }
def ruleQmovSeg (_ : FmtA) : ARule :=
  { baseA with types := [.raw], vars := [1], a := .index 8, b := .index 20 }
def ruleQflag (_ : FmtA) : ARule := { baseA with types := [.u32], a := .index 8 }

/-- Registers of a data operand of format M: 1, 2 or 4 words, or one for a sub-word (R195). -/
def mWords (size : BitVec 2) : Nat := if size == 1 then 2 else if size == 2 then 4 else 1
/-- Bytes of an access of format M (R195). -/
def mBytes (f : FmtM) : Nat :=
  if f.size == 3 then (if f.fn == 0 then 1 else 2) else 4 * mWords f.size

/-- A form's use of format M. -/
structure MRule where
  /-- registers named by dst: 0 means the field is zero -/
  data : Nat
  /-- the address is a pair; false for the scratchpad forms -/
  pair : Bool
  types : List Tag
  orders : Bool
  scopes : Bool
  nrp : Bool
  extra : Bool
  deriving DecidableEq, Repr

def mOk (r : MRule) (f : FmtM) : Bool :=
  (if r.data == 0 then f.dst == 0 else rangeOk f.dst r.data) &&
  (match f.lit with
   | none => !r.pair || rangeOk f.addr 2
   | some l => f.addr == 0 && (r.pair || hi32 l == 0)) &&
  r.types.contains f.type && (r.orders || f.order == .page) && (r.scopes || f.scope == .th) &&
  (r.nrp || f.nrp == 7) && r.extra

/-- size and fn are legal: sub-word only as byte or halfword, other sizes with fn 0 (Table 8.4). -/
def sizeOk (f : FmtM) : Bool := if f.size == 3 then f.fn == 0 || f.fn == 1 else f.fn == 0
/-- Types of a load by size (R216). -/
def loadTypeOk (f : FmtM) : Bool :=
  sizeOk f && (f.size != 3 || f.type == .raw || f.type == .i32 || f.type == .u32) &&
  (f.type != .addrHi || f.size == 0)
/-- Types of a store by size (R216). -/
def storeTypeOk (f : FmtM) : Bool :=
  sizeOk f && (f.size != 3 || (f.type != .addrLo && f.type != .addrHi)) && (f.type != .addrHi || f.size == 0)

def ruleLd (f : FmtM) : MRule := ⟨mWords f.size, true, allTags, true, false, true, loadTypeOk f⟩
def ruleLda (f : FmtM) : MRule := ⟨mWords f.size, true, allTags, true, true, false, loadTypeOk f⟩
def ruleLds (f : FmtM) : MRule := ⟨mWords f.size, false, allTags, false, false, false, loadTypeOk f⟩
def ruleSt (f : FmtM) : MRule := ⟨mWords f.size, true, allTags, true, false, false, storeTypeOk f⟩
def ruleStl (f : FmtM) : MRule := ⟨mWords f.size, true, allTags, true, true, false, storeTypeOk f⟩
def ruleSts (f : FmtM) : MRule := ⟨mWords f.size, false, allTags, false, false, false, storeTypeOk f⟩
def ruleMaint (f : FmtM) : MRule := ⟨0, true, [.raw], false, false, false, f.size == 0 && f.fn == 0⟩
def ruleProbe (f : FmtM) : MRule := ⟨1, true, [.u32], false, false, false, f.size == 0 && f.fn == 0⟩

/-- The operation chosen by type and fn together (Table 13.2). -/
def atomOpOf (t : Tag) (fn : BitVec 2) (size : BitVec 2) : Option AtomOp :=
  let wide := size == 0 || size == 1
  match t with
  | .raw => if !wide then none else
      some (if fn == 0 then .and else if fn == 1 then .or else if fn == 2 then .xor else .xch)
  | .i32 | .u32 => if !wide then none else
      some (if fn == 0 then .add else if fn == 1 then .min else if fn == 2 then .max else .xch)
  | .f32 => if size != 0 then none else
      some (if fn == 0 then .add else if fn == 1 then .min else if fn == 2 then .max else .xch)
  | .addrLo => if size == 1 && fn == 3 then some .xch else none
  | .addrHi => none
  | _ => if size == 0 && fn == 3 then some .xch else none

def ruleAtom (f : FmtM) : MRule :=
  ⟨mWords f.size, true, allTags, true, true, false, (atomOpOf f.type f.fn f.size).isSome⟩
def ruleRed (f : FmtM) : MRule :=
  ⟨mWords f.size, true, allTags, true, true, false, (atomOpOf f.type f.fn f.size).isSome && f.fn != 3⟩
def ruleCas (f : FmtM) : MRule :=
  ⟨2 * mWords f.size, true, allTags, true, true, false,
   f.fn == 0 && ((f.size == 0 && f.type != .addrLo && f.type != .addrHi) ||
     (f.size == 1 && (f.type == .raw || f.type == .i32 || f.type == .u32 || f.type == .addrLo)))⟩

/-- FENCE computes no address (R204, Table 13.1). -/
def fenceOk (f : FmtM) : Bool :=
  f.dst == 0 && f.addr == 0 && f.index == 0 && f.disp == 0 && f.nrp == 7 && f.order == .page && !f.trap &&
  f.type == .raw && f.size == 0 && f.fn != 3 && f.lit.isNone

/-- Tags of `k` data registers of a type: ADDR-LO and ADDR-HI in alternation for type 13 (R217, R218). -/
def dataTags : Tag → Nat → List Tag
  | _, 0 => []
  | .addrLo, 1 => [.addrLo]
  | .addrLo, k + 2 => .addrLo :: .addrHi :: dataTags .addrLo k
  | t, k + 1 => t :: dataTags t k

/-- The address sources of a form M word: base unless a literal gives it, and index (R195, R217). -/
def mAddrSrcs (pair : Bool) (f : FmtM) : List Src :=
  (match f.lit with
   | some l => [.imm (if pair then [lo32 l, hi32 l] else [lo32 l])]
   | none => [if pair then .regs f.addr [.addrLo, .addrHi] f.trap 0 else .regs f.addr [.raw] f.trap 0]) ++
  [.regs f.index [.raw] f.trap 0]

/-- A form's use of format E. -/
structure ERule where
  dst : DstKind
  a : SrcKind
  b : SrcKind
  c : SrcKind
  /-- unit is below this -/
  units : Nat
  cv : Bool
  type : Tag → Bool
  var : Nat → Bool
  fn : Nat → Bool
  /-- the source that a literal may replace -/
  lit : Option Nat

def eKindAt (r : ERule) : Nat → SrcKind
  | 0 => r.a | 1 => r.b | _ => r.c

def eSrcOkAt (r : ERule) (f : FmtE) (i : Nat) (reg : BitVec 8) : Bool :=
  if f.lit.isSome && r.lit == some i then reg == 0 else srcOk (eKindAt r i) reg 0

def eSrcAt (r : ERule) (f : FmtE) (i : Nat) (reg : BitVec 8) : List Src :=
  match f.lit, r.lit == some i, eKindAt r i with
  | some l, true, .range _ => [.imm [lo32 l, hi32 l]]
  | some l, true, _ => [.imm [lo32 l]]
  | _, _, .reg t => [.regs reg [t] f.trap 0]
  | _, _, .range ts => [.regs reg ts f.trap 0]
  | _, _, _ => []

/-- The register sources of a form E word in operand order. -/
def eSrcs (r : ERule) (f : FmtE) : List Src :=
  eSrcAt r f 0 f.srcA ++ eSrcAt r f 1 f.srcB ++ eSrcAt r f 2 f.srcC

/-- The field rules of format E. The trap bit applies to register sources; a word without one leaves it zero. -/
def eOk (r : ERule) (f : FmtE) : Bool :=
  dstOk r.dst f.dst && eSrcOkAt r f 0 f.srcA && eSrcOkAt r f 1 f.srcB && eSrcOkAt r f 2 f.srcC &&
  f.unit.toNat < r.units && (r.cv || f.cv == 0) && r.type f.type && r.var f.var.toNat && r.fn f.fn.toNat &&
  (match f.lit with
   | none => true
   | some l => (r.lit.map fun i => litFits (eKindAt r i) l).getD false) &&
  (!f.trap || (eSrcs r f).any fun s => match s with | .regs _ _ _ _ => true | .imm _ => false)

def isRaw (t : Tag) : Bool := t == .raw
def isZero (n : Nat) : Bool := n == 0
def baseE : ERule := ⟨.none, .none, .none, .none, 1, false, isRaw, isZero, isZero, none⟩

/-- Class 0x0 (Table 16.2). -/
def ruleBareE : ERule := baseE
def ruleSign : ERule := { baseE with dst := .regs 1, cv := true }
def ruleCvdecl : ERule := { baseE with a := .reg .raw, cv := true, lit := some 0 }
def ruleCvOnly : ERule := { baseE with cv := true }
def ruleBar : ERule := { baseE with units := 8, cv := true }
def ruleLaunch : ERule := { baseE with dst := .regs 1, a := .range [.addrLo, .addrHi], lit := some 0 }
def ruleEpush : ERule := { baseE with a := .range [.raw, .raw], units := 8, lit := some 0 }
def ruleEpop : ERule := { baseE with dst := .regs 2, units := 8 }

/-- Class 0x8 (Table 9.5). An address is a pair, a scratchpad offset one register. -/
def spSrc (sp : Bool) : SrcKind := if sp then .reg .raw else .range [.addrLo, .addrHi]
def mapDst (f : FmtE) : DstKind := if f.fn.getLsbD 0 then .index 16 else .none
def ruleCopy (f : FmtE) : ERule :=
  { baseE with dst := mapDst f, a := spSrc (f.var.getLsbD 1), b := spSrc (f.var.getLsbD 0), c := .reg .raw,
               units := 4, var := fun _ => true, fn := fun n => n ≤ 1, lit := some 2 }
def ruleCopyx (f : FmtE) : ERule :=
  { baseE with dst := mapDst f, a := spSrc (f.var.getLsbD 1), b := spSrc (f.var.getLsbD 0),
               c := .range [.raw, .raw, .raw, .raw], units := 4, var := fun _ => true, fn := fun _ => true }
def ruleChain (_ : FmtE) : ERule := { baseE with a := .range [.addrLo, .addrHi], units := 4, lit := some 0 }
def ruleChstat (_ : FmtE) : ERule := { baseE with dst := .regs 2, units := 4, fn := fun n => n ≤ 2 }
def ruleCmwait (f : FmtE) : ERule :=
  if f.fn.getLsbD 0 then { baseE with units := 16, var := fun _ => true, fn := fun n => n == 1 }
  else { baseE with a := .reg .raw, units := 16, var := fun _ => true, lit := some 0 }
def ruleCmtest (_ : FmtE) : ERule :=
  { baseE with dst := .regs 1, units := 16, var := fun _ => true, fn := fun n => n ≤ 1 }
def ruleCmclr (_ : FmtE) : ERule := { baseE with units := 16 }
def ruleRkinit (_ : FmtE) : ERule :=
  { baseE with a := .reg .raw, b := .reg .raw, c := .reg .raw, units := 8, lit := some 2 }
def ruleRkget (_ : FmtE) : ERule := { baseE with dst := .regs 2, units := 8 }
def ruleRkcommit (f : FmtE) : ERule :=
  { baseE with a := .reg .raw, b := spSrc (f.var.getLsbD 0), c := .reg .raw, units := 32,
               var := fun n => n ≤ 1, lit := some 2 }
def ruleRkrel (_ : FmtE) : ERule := { baseE with a := .reg .raw, units := 8, lit := some 0 }

/-- Class 0x9, counter forms (Table 13.4). A threshold literal has <63:48> zero. -/
def ruleCntWait (_ : FmtE) : ERule :=
  { baseE with dst := .pred, a := .reg .raw, b := .reg .raw, c := .range [.raw, .raw], lit := some 2 }
def thresholdLitOk (f : FmtE) : Bool :=
  match f.lit with | some l => l.extractLsb' 48 16 == 0 | none => true
def ruleLcread (_ : FmtE) : ERule := { baseE with dst := .regs 2, a := .reg .raw, lit := some 0 }
def ruleLcadd (_ : FmtE) : ERule := { baseE with a := .reg .raw, b := .reg .raw, lit := some 1 }

/-- Class 0xA (Table 12.2). -/
def ruleTileOp (t : Tag) (_ : FmtE) : ERule := { baseE with units := 64, cv := true, type := fun x => x == t }
def matElems (t : Tag) : Bool := t == .bf16x2 || t == .f16x2 || t == .e4m3x4 || t == .e5m2x4 || t == .e2m1x8
def ruleMma (f : FmtE) : ERule :=
  { baseE with a := .range [f.type, f.type, f.type, f.type], b := .range [f.type, f.type, f.type, f.type],
               units := 64, cv := true, type := matElems, fn := fun n => n ≤ 1 }
def ruleMmax (f : FmtE) : ERule :=
  { ruleMma f with c := .reg .e8m0x4, type := fun t => t == .e4m3x4 || t == .e5m2x4 || t == .e2m1x8 }
def ruleTread (_ : FmtE) : ERule :=
  { baseE with dst := .regs 8, units := 64, cv := true, type := fun t => t == .f32 }
def ruleTwrite (_ : FmtE) : ERule :=
  { baseE with a := .range [.f32, .f32, .f32, .f32, .f32, .f32, .f32, .f32], units := 64, cv := true,
               type := fun t => t == .f32 }
/-- Registers that TCVT writes (R289): eight elements of a format. -/
def tcvtRegs (t : Tag) : Nat := 8 / tagElems t
def ruleTcvt (f : FmtE) : ERule :=
  { baseE with dst := .regs (tcvtRegs f.type), units := 64, cv := true, type := matElems,
               var := fun _ => true, fn := fun n => n ≤ 1 }
def ruleMwait (f : FmtE) : ERule :=
  { baseE with units := if f.fn.getLsbD 0 then 1 else 64, cv := true, fn := fun n => n ≤ 1 }
def ruleMstat (_ : FmtE) : ERule := { baseE with dst := .regs 2, units := 64 }

/-- Class 0xB (Table 13.5). -/
def ruleGpost (_ : FmtE) : ERule := { baseE with dst := .regs 1, a := .reg .raw, lit := some 0 }
def ruleHandle (_ : FmtE) : ERule := { baseE with dst := .regs 1, a := .reg .raw }
def ruleGroup (_ : FmtE) : ERule := { baseE with dst := .regs 2, a := .reg .raw, lit := some 0 }

/-- Words of the state a selector names; none for an unlisted selector (Tables 8.15 and 16.6). -/
def selWords (sel : Nat) : Option Nat :=
  if (1 ≤ sel && sel ≤ 6) || (0x10 ≤ sel && sel ≤ 0x1F) || sel == 0x102 || sel == 0x110 then some 1
  else if sel == 0x20 || sel == 0x30 || sel == 0x100 || sel == 0x101 || (0x104 ≤ sel && sel ≤ 0x10B) ||
    sel == 0x120 then some 2
  else if 0x40 ≤ sel && sel ≤ 0x43 then some 5
  else none

def codeOk (f : FmtS) : Bool := f.dst == 0 && f.srcA == 0 && f.sel == 0 && !f.trap
def bareS (f : FmtS) : Bool := codeOk f && f.imm8 == 0
def sreadOk (f : FmtS) : Bool :=
  f.srcA == 0 && f.imm8 == 0 && !f.trap && ((selWords f.sel.toNat).map (rangeOk f.dst)).getD false
def swriteOk (f : FmtS) : Bool :=
  f.dst == 0 && f.imm8 == 0 && ((selWords f.sel.toNat).map (rangeOk f.srcA)).getD false
def clockOk (f : FmtS) : Bool := f.srcA == 0 && f.sel == 0 && f.imm8 == 0 && !f.trap && rangeOk f.dst 2

/-- The sources of SWRITE: each expects RAW (R377). -/
def swriteSrcs (f : FmtS) : List Src :=
  [.regs f.srcA (List.replicate ((selWords f.sel.toNat).getD 1) .raw) f.trap 0]

/-- Format B (Table 16.1): forms by displacement, forms by register, and whether a link is written. -/
def bOk (reg link : Bool) (f : FmtB) : Bool :=
  (if link then rangeOk f.dst 2 else f.dst == 0) &&
  (if reg then rangeOk f.target 2 && f.disp == 0 else f.target == 0 && !f.trap)

/-- A queue entry as Table 19.2 lays it out, from a function of the part. -/
def entryOk (c : Cmd) : Bool := c.dw.length == 7 && c.fn < 17

/-- A command entry; an opcode outside Table 19.3 is none of its listed ones. -/
def cmdOk (c : Cmd) : Bool := entryOk c && c.unlisted.all fun o => o == 0 || 0x0D < o.toNat

/-- The field rules of the form, and the ranges of an event's operands (R199 to R202, R204). -/
def formOk (i : Instr) : Bool :=
  match i with
  | .bra f => bOk false false f
  | .brc f => bOk false false f
  | .brx f => bOk true false f
  | .call f => bOk false true f
  | .callx f => bOk true true f
  | .ret f => bOk true false f
  | .exit f => eOk (ruleBareE) f
  | .nop f => eOk (ruleBareE) f
  | .yield f => eOk (ruleBareE) f
  | .pause f => eOk (ruleBareE) f
  | .sign f => eOk (ruleSign) f
  | .cvdecl f => eOk (ruleCvdecl) f
  | .cvwait f => eOk (ruleCvOnly) f
  | .cvclr f => eOk (ruleCvOnly) f
  | .bara f => eOk (ruleBar) f && f.unit != 0
  | .barw f => eOk (ruleBar) f && f.unit != 0
  | .bar f => eOk (ruleBar) f && f.unit != 0
  | .launch f => eOk (ruleLaunch) f
  | .epush f => eOk (ruleEpush) f
  | .epop f => eOk (ruleEpop) f
  | .iadd f => aOk (ruleIntAdd f) f
  | .iaddc f => aOk (ruleCarry f) f
  | .isub f => aOk (ruleIntAdd f) f
  | .isubb f => aOk (ruleCarry f) f
  | .imul f => aOk (ruleMul f) f
  | .imulh f => aOk (ruleMul f) f
  | .imad f => aOk (ruleMad f) f
  | .imadw f => aOk (ruleMadw f) f
  | .imin f => aOk (ruleMinMax f) f
  | .imax f => aOk (ruleMinMax f) f
  | .iabs f => aOk (ruleAbs f) f
  | .icmp f => aOk (ruleIcmp f) f
  | .sel f => aOk (ruleSel f) f
  | .lea64 f => aOk (ruleLea64 f) f
  | .add64 f => aOk (ruleAdd64 f) f
  | .mov f => aOk (ruleMov f) f
  | .movl f => aOk (ruleMovl f) f
  | .shl f => aOk (ruleShift f) f
  | .shr f => aOk (ruleShift f) f
  | .sar f => aOk (ruleSar f) f
  | .dsh f => aOk (ruleDsh f) f
  | .and f => aOk (ruleLogic f) f
  | .or f => aOk (ruleLogic f) f
  | .xor f => aOk (ruleLogic f) f
  | .bool3 f => aOk (ruleBool3 f) f
  | .pbool f => aOk (rulePbool f) f
  | .clz f => aOk (ruleCount f) f
  | .ctz f => aOk (ruleCount f) f
  | .popc f => aOk (ruleCount f) f
  | .brev f => aOk (ruleBrev f) f
  | .bfx f => aOk (ruleShift f) f
  | .bfi f => aOk (ruleBfi f) f
  | .bil2 f => aOk (ruleBil2 f) f
  | .bil3 f => aOk (ruleBil3 f) f
  | .bdl2 f => aOk (ruleBdl 2 f) f
  | .bdl3 f => aOk (ruleBdl 3 f) f
  | .bysel f => aOk (ruleBysel f) f
  | .permx f => aOk (rulePermx false f) f
  | .permxCv f => aOk (rulePermx true f) f
  | .ballot f => aOk (ruleBallot false f) f
  | .ballotCv f => aOk (ruleBallot true f) f
  | .vote f => aOk (ruleVote false f) f
  | .voteCv f => aOk (ruleVote true f) f
  | .laneMatch f => aOk (ruleMatch false f) f
  | .laneMatchCv f => aOk (ruleMatch true f) f
  | .lscan f => aOk (ruleLscan false f) f
  | .lscanCv f => aOk (ruleLscan true f) f
  | .lred f => aOk (ruleLred false f) f
  | .lredCv f => aOk (ruleLred true f) f
  | .elect f => aOk (ruleElect false f) f
  | .electCv f => aOk (ruleElect true f) f
  | .fadd f => aOk (ruleF2 f) f
  | .fsub f => aOk (ruleF2 f) f
  | .fmul f => aOk (ruleF2 f) f
  | .ffma f => aOk (ruleF3 f) f
  | .fmin f => aOk (ruleFminmax f) f
  | .fmax f => aOk (ruleFminmax f) f
  | .fcmp f => aOk (ruleFcmp f) f
  | .fclass f => aOk (ruleFclass f) f
  | .frcp f => aOk (ruleF1 f) f
  | .frsq f => aOk (ruleF1 f) f
  | .fsqrt f => aOk (ruleF1 f) f
  | .fexp2 f => aOk (ruleF1 f) f
  | .flog2 f => aOk (ruleF1 f) f
  | .fsin f => aOk (ruleF1 f) f
  | .fcos f => aOk (ruleF1 f) f
  | .ftanh f => aOk (ruleF1 f) f
  | .fscale f => aOk (ruleFscale f) f
  | .pkadd f => aOk (rulePk2 f) f
  | .pkmul f => aOk (rulePk2 f) f
  | .pkfma f => aOk (rulePk3 f) f
  | .pkmin f => aOk (rulePkMinMax f) f
  | .pkmax f => aOk (rulePkMinMax f) f
  | .cvt f => aOk (ruleCvt f) f
  | .pack f => aOk (rulePack f) f
  | .unpk f => aOk (ruleUnpk f) f
  | .dot2 f => aOk (ruleDot [.bf16x2, .f16x2] f) f
  | .dot4 f => aOk (ruleDot [.e4m3x4, .e5m2x4, .i8x4, .u8x4] f) f
  | .dot8 f => aOk (ruleDot [.e2m1x8, .i4x8] f) f
  | .tagset f => aOk (ruleTagset f) f
  | .tagget f => aOk (ruleTagget f) f
  | .qclr f => aOk (ruleQclr f) f
  | .qadd f => aOk (ruleQadd f) f
  | .qaddSeg f => aOk (ruleQaddSeg f) f
  | .qmac f => aOk (ruleQmac f) f
  | .qscan f => aOk (ruleQscan f) f
  | .qrnd f => aOk (ruleQrnd f) f
  | .qmov f => aOk (ruleQmov f) f
  | .qmovSeg f => aOk (ruleQmovSeg f) f
  | .qflag f => aOk (ruleQflag f) f
  | .ld f => mOk (ruleLd f) f
  | .lda f => mOk (ruleLda f) f
  | .ldx f => mOk (ruleLd f) f
  | .lds f => mOk (ruleLds f) f
  | .st f => mOk (ruleSt f) f
  | .stl f => mOk (ruleStl f) f
  | .stx f => mOk (ruleSt f) f
  | .sts f => mOk (ruleSts f) f
  | .pref f => mOk (ruleMaint f) f
  | .cinv f => mOk (ruleMaint f) f
  | .cwb f => mOk (ruleMaint f) f
  | .probe f => mOk (ruleProbe f) f
  | .pgreq f => mOk (ruleMaint f) f
  | .copy f => eOk (ruleCopy f) f
  | .copyx f => eOk (ruleCopyx f) f
  | .chain f => eOk (ruleChain f) f
  | .chstat f => eOk (ruleChstat f) f
  | .cmwait f => eOk (ruleCmwait f) f
  | .cmtest f => eOk (ruleCmtest f) f
  | .cmclr f => eOk (ruleCmclr f) f
  | .rkinit f => eOk (ruleRkinit f) f
  | .rkacq f => eOk (ruleRkget f) f
  | .rkcommit f => eOk (ruleRkcommit f) f
  | .rkwait f => eOk (ruleRkget f) f
  | .rkrel f => eOk (ruleRkrel f) f
  | .atom f => mOk (ruleAtom f) f
  | .cas f => mOk (ruleCas f) f
  | .red f => mOk (ruleRed f) f
  | .lcwait f => eOk (ruleCntWait f) f && thresholdLitOk f
  | .lcread f => eOk (ruleLcread f) f
  | .lcadd f => eOk (ruleLcadd f) f
  | .towait f => eOk (ruleCntWait f) f && thresholdLitOk f
  | .fence f => fenceOk f
  | .tacq f => eOk (ruleTileOp .raw f) f
  | .trel f => eOk (ruleTileOp .raw f) f
  | .tzero f => eOk (ruleTileOp .f32 f) f
  | .mma f => eOk (ruleMma f) f
  | .mmax f => eOk (ruleMmax f) f
  | .tread f => eOk (ruleTread f) f
  | .twrite f => eOk (ruleTwrite f) f
  | .tcvt f => eOk (ruleTcvt f) f
  | .mwait f => eOk (ruleMwait f) f
  | .mstat f => eOk (ruleMstat f) f
  | .gpost f => eOk (ruleGpost f) f
  | .gcancel f => eOk (ruleHandle f) f
  | .gstat f => eOk (ruleHandle f) f
  | .gjoin f => eOk (ruleGroup f) f
  | .gleave f => eOk (ruleGroup f) f
  | .gver f => eOk (ruleGroup f) f
  | .rankq f => eOk (ruleGroup f) f
  | .trap f => codeOk f
  | .brk f => codeOk f
  | .eret f => bareS f
  | .kill f => bareS f
  | .sread f => sreadOk f
  | .swrite f => swriteOk f
  | .clock f => clockOk f
  | .pmark f => codeOk f
  | .reconvergenceTimeout core key => core < 512 && key < 512
  | .firedRendezvousProceed core row cv => core < 512 && row < 16 && cv < 4
  | .loadFill _ _ => true
  | .refetch _ => true
  | .atomicReply _ => true
  | .sliceRequest _ => true
  | .fill tile way => tile < 2 ^ 30 && way ≤ 24
  | .seal tile _ => tile < 2 ^ 30
  | .metadataWriteback die _ => die < 8
  | .bindFrame c => cmdOk c
  | .bindFrameProceed frame => frame < 2 ^ 24
  | .unbindFrame c => cmdOk c
  | .keyLoad c => cmdOk c
  | .keyFree c => cmdOk c
  | .partCreate c _ => cmdOk c
  | .partDestroy c => cmdOk c
  | .rankTableLoad c => cmdOk c
  | .freezeRelease c => cmdOk c
  | .resetPartition c => cmdOk c
  | .launchQueueEntry c q => entryOk c && c.unlisted.all (· != 0) && q < 8
  | .qTail fn q _ => fn < 17 && q < 9
  | .bar2Read p _ _ _ => p < 16
  | .bar2Write p _ _ _ => p < 16
  | .translationWalk _ => true
  | .xlInval p _ _ => p < 16
  | .shootdownComplete p => p < 16
  | .faultBatchWrite p => p < 16
  | .resumeReplay p _ => p < 16
  | .resumeDeliver p _ => p < 16
  | .resumeKill p _ => p < 16
  | .handlerEntry core key => core < 512 && key < 512
  | .worldScrub core => core < 512
  | .launchRecordAccept => true
  | .gangDispatch p _ => p < 16
  | .gangComplete _ _ => true
  | .launchComplete _ => true
  | .preempt p => p < 16
  | .contextSave _ _ => true
  | .restore _ _ _ => true
  | .thermalMigrate core _ => core < 512
  | .chunkLand cluster ch _ => cluster < 128 && ch < 16
  | .transferEnd cluster ch => cluster < 128 && ch < 16
  | .matrixGrant cluster => cluster < 128
  | .passComplete cluster => cluster < 128
  | .tileOpApply cluster tile => cluster < 128 && tile < 64
  | .counterReached core key => core < 512 && key < 512
  | .counterWaitTimeout core key => core < 512 && key < 512
  | .gateFire die slot => die < 8 && slot < 4096
  | .gateDone die slot => die < 8 && slot < 4096
  | .gateFault die slot => die < 8 && slot < 4096
  | .signalReceive src _ sig => src < 16 && sig.group.all (· < 65536)
  | .reduceChunkApply die _ => die < 8
  | .headcountCollect p i _ => p < 16 && i < 256
  | .drainReceive p i _ _ => p < 16 && i < 256
  | .publishReceive p i _ _ => p < 16 && i < 256
  | .linkArm k => k < 15
  | .linkTrained k _ => k < 15
  | .linkTrainTimeout k => k < 15
  | .linkSilenceTimeout k => k < 15
  | .flitReceive k f => k < 15 && f.credits.all (· < 5) && f.ends.all fun e => e.1 < 3
  | .heartbeat k => k < 15
  | .podTransactionReceive src _ _ => src < 16
  | .podAckReceive src _ _ => src < 16
  | .multicastCopyReceive src _ group _ => src < 16 && group < 65536
  | .remotePacketReceive _ port _ => port < 4
  | .remoteReplyReceive _ _ => true
  | .remoteForcedSend _ => true
  | .remoteAckTimeout _ => true
  | .hostCompletion _ _ _ => true
  | .hostCompletionTimeout _ => true
  | .registerWrite fn _ _ _ => fn < 17
  | .getVersion fn _ => fn < 17
  | .getCapabilities fn _ => fn < 17
  | .negotiateAlgorithms fn _ => fn < 17
  | .getDigests fn _ => fn < 17
  | .getCertificate fn _ => fn < 17
  | .challenge fn _ => fn < 17
  | .getMeasurements fn _ => fn < 17
  | .keyExchange fn _ => fn < 17
  | .finish fn _ => fn < 17
  | .endSession fn _ => fn < 17
  | .lockInterfaceRequest vf _ => vf < 16
  | .startInterfaceRequest vf => vf < 16
  | .stopInterfaceRequest vf => vf < 16
  | .ideMacFail _ => true
  | .hxErrClear fn => fn < 17
  | .pwCapWrite _ _ => true
  | .coreClockStep _ _ _ => true
  | .coreFlaggedHot core _ => core < 512
  | .configurationRequest r => r.fn < 17
  | .softError _ _ => true
  | .packetRetransmission _ => true
  | .laneSpare k lane => k < 15 && lane < 8
  | .spareComplete k => k < 15
  | .resumeReserved p _ => p < 16
  | .ringSnoop fn q => fn < 17 && q < 9
  | .attest c _ => cmdOk c
  | .lifecycle c _ => cmdOk c
  | .powerCap c => cmdOk c
  | .vfFlr p => p < 16
  | .moduleReset pos _ _ => pos < 16
  | .retrainComplete k => k < 15
  | .peerRevive _ => true
  | .deathNotice k peer => k < 15 && peer < 16
  | .linkStateNotice k origin _ a b _ => k < 15 && origin < 16 && a < 16 && b < 16
  | .traverseForward k _ => k < 15
  | .groupTableSet c => cmdOk c
  | .demotionExpire core key => core < 512 && key < 512
  | .publishAck p i _ => p < 16 && i < 256
  | .drainReport p i _ => p < 16 && i < 256
  | .applyMapClose _ group _ _ _ => group < 65536
  | .abortNotice _ group _ => group < 65536
  | .plLimitWrite p _ => p < 16
  | .xlRegionWrite p i _ _ => p < 16 && i < 64
  | .groupSlotWrite p i _ _ _ => p < 16 && i < 256
  | .fqCons p _ => p < 16
  | .fqCtl p _ => p < 16
  | .thermalTrip => true
  | .thermalTripClear => true
  | .wipeComplete => true
  | .powerRemoval => true

end Sys2Proof.Machine
end

