-- ==== Sys2Proof/WellFormed.lean ====
section
/-! DEFINITION. Well-formedness of an instruction or event: the checks that the decoder makes on a word,
whatever the thread that meets it (R199 to R202, R204). The checks that depend on the thread (the register
count, the block's bar flag, a call's place in its block) are made when it issues (R161, R190, R363). -/

namespace Sys2Proof

/-- A well-formed instruction: every field holds what its form permits. -/
def WellFormed (i : Instr) : Prop := Machine.formOk i = true

end Sys2Proof
end

