-- ==== Sys2Proof/Decode.lean ====
section
/-! DEFINITION. The decoder (R187 to R204), total on any word and rejecting by name, the encoder, and the
block header (R189). -/

namespace Sys2Proof

open Sys2Proof.Machine

/-- Why a word is no instruction (R204). -/
inductive Reject where
  /-- there is no word -/
  | noWord
  /-- class 0xD, 0xE or 0xF -/
  | badClass (cls : Nat)
  /-- the class has no such opcode -/
  | badOpcode (cls op : Nat)
  /-- a reserved bit is set -/
  | reservedBit
  /-- type 15 -/
  | badType
  /-- scope 0b110 or 0b111 -/
  | badScope
  /-- the literal bit is set and no literal word follows -/
  | noLiteral
  /-- a field holds what its form does not permit -/
  | badField
  deriving DecidableEq, Repr

def fld (w : DWord) (hi lo : Nat) : BitVec (hi + 1 - lo) := w.extractLsb' lo (hi + 1 - lo)

def guardOf (w : DWord) : Guard := ⟨w.extractLsb' 51 3, w.getLsbD 50⟩

/-- The literal bit <2> of formats A, M and E (R194, R195, R197). -/
def litBit (w : DWord) : Bool := w.getLsbD 2

def scopeOf : Nat → Option Scope
  | 0 => some .th | 1 => some .co | 2 => some .cl | 3 => some .de | 4 => some .pd | 5 => some .sy
  | _ => none

def orderOf (b : BitVec 2) : OrderReq :=
  if b == 0 then .page else if b == 1 then .so else if b == 2 then .rc else .un

def litOf (w : DWord) (lit : Option DWord) : Except Reject (Option DWord) :=
  if litBit w then (match lit with | some l => .ok (some l) | none => .error .noLiteral) else .ok none

/-- Format A (Table 8.3). -/
def parseA (w : DWord) (lit : Option DWord) : Except Reject FmtA :=
  match tagOf (w.extractLsb' 5 4).toNat, litOf w lit with
  | none, _ => .error .badType
  | _, .error e => .error e
  | some t, .ok l =>
    .ok { guard := guardOf w, dst := w.extractLsb' 42 8, srcA := w.extractLsb' 34 8, srcB := w.extractLsb' 26 8,
          srcC := w.extractLsb' 18 8, modA := w.extractLsb' 15 3, modB := w.extractLsb' 12 3,
          modC := w.extractLsb' 9 3, type := t, var := w.extractLsb' 3 2, sat := w.getLsbD 1,
          imm := w.getLsbD 0, lit := l }

/-- Format M (Table 8.4). -/
def parseM (w : DWord) (lit : Option DWord) : Except Reject FmtM :=
  match tagOf (w.extractLsb' 5 4).toNat, scopeOf (w.extractLsb' 10 3).toNat, litOf w lit with
  | none, _, _ => .error .badType
  | _, none, _ => .error .badScope
  | _, _, .error e => .error e
  | some t, some s, .ok l =>
    .ok { guard := guardOf w, dst := w.extractLsb' 42 8, addr := w.extractLsb' 34 8, index := w.extractLsb' 26 8,
          disp := w.extractLsb' 18 8, nrp := w.extractLsb' 15 3, order := orderOf (w.extractLsb' 13 2),
          scope := s, trap := w.getLsbD 9, type := t, size := w.extractLsb' 3 2, fn := w.extractLsb' 0 2,
          lit := l }

/-- Format B (Table 8.5). -/
def parseB (w : DWord) : Except Reject FmtB :=
  if w.getLsbD 1 then .error .reservedBit
  else .ok { guard := guardOf w, dst := w.extractLsb' 42 8, target := w.extractLsb' 34 8,
             disp := w.extractLsb' 2 32, trap := w.getLsbD 0 }

/-- Format E (Table 8.6). -/
def parseE (w : DWord) (lit : Option DWord) : Except Reject FmtE :=
  match tagOf (w.extractLsb' 5 4).toNat, litOf w lit with
  | none, _ => .error .badType
  | _, .error e => .error e
  | some t, .ok l =>
    .ok { guard := guardOf w, dst := w.extractLsb' 42 8, srcA := w.extractLsb' 34 8, srcB := w.extractLsb' 26 8,
          srcC := w.extractLsb' 18 8, unit := w.extractLsb' 12 6, cv := w.extractLsb' 10 2,
          trap := w.getLsbD 9, type := t, var := w.extractLsb' 3 2, fn := w.extractLsb' 0 2, lit := l }

/-- Format S (Table 8.7). -/
def parseS (w : DWord) : Except Reject FmtS :=
  if w.extractLsb' 0 9 != 0 then .error .reservedBit
  else .ok { guard := guardOf w, dst := w.extractLsb' 42 8, srcA := w.extractLsb' 34 8,
             sel := w.extractLsb' 18 16, imm8 := w.extractLsb' 10 8, trap := w.getLsbD 9 }

/-- The form of a class and opcode in format A (Table 8.8, R194). The .cv forms are told by sat, the .seg forms by var. -/
def ctorA (cls op : Nat) (f : FmtA) : Option Instr :=
  match cls, op with
  | 1, 0 => some (.iadd f)
  | 1, 1 => some (.iaddc f)
  | 1, 2 => some (.isub f)
  | 1, 3 => some (.isubb f)
  | 1, 4 => some (.imul f)
  | 1, 5 => some (.imulh f)
  | 1, 6 => some (.imad f)
  | 1, 7 => some (.imadw f)
  | 1, 8 => some (.imin f)
  | 1, 9 => some (.imax f)
  | 1, 10 => some (.iabs f)
  | 1, 11 => some (.icmp f)
  | 1, 12 => some (.sel f)
  | 1, 13 => some (.lea64 f)
  | 1, 14 => some (.add64 f)
  | 1, 15 => some (.mov f)
  | 1, 16 => some (.movl f)
  | 2, 0 => some (.shl f)
  | 2, 1 => some (.shr f)
  | 2, 2 => some (.sar f)
  | 2, 3 => some (.dsh f)
  | 2, 4 => some (.and f)
  | 2, 5 => some (.or f)
  | 2, 6 => some (.xor f)
  | 2, 7 => some (.bool3 f)
  | 2, 8 => some (.pbool f)
  | 2, 9 => some (.clz f)
  | 2, 10 => some (.ctz f)
  | 2, 11 => some (.popc f)
  | 2, 12 => some (.brev f)
  | 2, 13 => some (.bfx f)
  | 2, 14 => some (.bfi f)
  | 2, 15 => some (.bil2 f)
  | 2, 16 => some (.bil3 f)
  | 2, 17 => some (.bdl2 f)
  | 2, 18 => some (.bdl3 f)
  | 2, 19 => some (.bysel f)
  | 3, 0 => some (if f.sat then .permxCv f else .permx f)
  | 3, 1 => some (if f.sat then .ballotCv f else .ballot f)
  | 3, 2 => some (if f.sat then .voteCv f else .vote f)
  | 3, 3 => some (if f.sat then .laneMatchCv f else .laneMatch f)
  | 3, 4 => some (if f.sat then .lscanCv f else .lscan f)
  | 3, 5 => some (if f.sat then .lredCv f else .lred f)
  | 3, 6 => some (if f.sat then .electCv f else .elect f)
  | 4, 0 => some (.fadd f)
  | 4, 1 => some (.fsub f)
  | 4, 2 => some (.fmul f)
  | 4, 3 => some (.ffma f)
  | 4, 4 => some (.fmin f)
  | 4, 5 => some (.fmax f)
  | 4, 6 => some (.fcmp f)
  | 4, 7 => some (.fclass f)
  | 4, 8 => some (.frcp f)
  | 4, 9 => some (.frsq f)
  | 4, 10 => some (.fsqrt f)
  | 4, 11 => some (.fexp2 f)
  | 4, 12 => some (.flog2 f)
  | 4, 13 => some (.fsin f)
  | 4, 14 => some (.fcos f)
  | 4, 15 => some (.ftanh f)
  | 4, 16 => some (.fscale f)
  | 5, 0 => some (.pkadd f)
  | 5, 1 => some (.pkmul f)
  | 5, 2 => some (.pkfma f)
  | 5, 3 => some (.pkmin f)
  | 5, 4 => some (.pkmax f)
  | 5, 5 => some (.cvt f)
  | 5, 6 => some (.pack f)
  | 5, 7 => some (.unpk f)
  | 5, 8 => some (.dot2 f)
  | 5, 9 => some (.dot4 f)
  | 5, 10 => some (.dot8 f)
  | 5, 11 => some (.tagset f)
  | 5, 12 => some (.tagget f)
  | 6, 0 => some (.qclr f)
  | 6, 1 => some (if f.var == 1 then .qaddSeg f else .qadd f)
  | 6, 2 => some (.qmac f)
  | 6, 3 => some (.qscan f)
  | 6, 4 => some (.qrnd f)
  | 6, 5 => some (if f.var == 1 then .qmovSeg f else .qmov f)
  | 6, 6 => some (.qflag f)
  | _, _ => none

/-- The form of a class and opcode in format M (Table 8.8, R195). The .cv forms are told by sat, the .seg forms by var. -/
def ctorM (cls op : Nat) (f : FmtM) : Option Instr :=
  match cls, op with
  | 7, 0 => some (.ld f)
  | 7, 1 => some (.lda f)
  | 7, 2 => some (.ldx f)
  | 7, 3 => some (.lds f)
  | 7, 4 => some (.st f)
  | 7, 5 => some (.stl f)
  | 7, 6 => some (.stx f)
  | 7, 7 => some (.sts f)
  | 7, 8 => some (.pref f)
  | 7, 9 => some (.cinv f)
  | 7, 10 => some (.cwb f)
  | 7, 11 => some (.probe f)
  | 7, 12 => some (.pgreq f)
  | 9, 0 => some (.atom f)
  | 9, 1 => some (.cas f)
  | 9, 2 => some (.red f)
  | 9, 7 => some (.fence f)
  | _, _ => none

/-- The form of a class and opcode in format B (Table 8.8, R196). The .cv forms are told by sat, the .seg forms by var. -/
def ctorB (cls op : Nat) (f : FmtB) : Option Instr :=
  match cls, op with
  | 0, 0 => some (.bra f)
  | 0, 1 => some (.brc f)
  | 0, 2 => some (.brx f)
  | 0, 3 => some (.call f)
  | 0, 4 => some (.callx f)
  | 0, 5 => some (.ret f)
  | _, _ => none

/-- The form of a class and opcode in format E (Table 8.8, R197). The .cv forms are told by sat, the .seg forms by var. -/
def ctorE (cls op : Nat) (f : FmtE) : Option Instr :=
  match cls, op with
  | 0, 6 => some (.exit f)
  | 0, 7 => some (.nop f)
  | 0, 8 => some (.yield f)
  | 0, 9 => some (.pause f)
  | 0, 10 => some (.sign f)
  | 0, 11 => some (.cvdecl f)
  | 0, 12 => some (.cvwait f)
  | 0, 13 => some (.cvclr f)
  | 0, 14 => some (.bara f)
  | 0, 15 => some (.barw f)
  | 0, 16 => some (.bar f)
  | 0, 17 => some (.launch f)
  | 0, 18 => some (.epush f)
  | 0, 19 => some (.epop f)
  | 8, 0 => some (.copy f)
  | 8, 1 => some (.copyx f)
  | 8, 2 => some (.chain f)
  | 8, 3 => some (.chstat f)
  | 8, 4 => some (.cmwait f)
  | 8, 5 => some (.cmtest f)
  | 8, 6 => some (.cmclr f)
  | 8, 7 => some (.rkinit f)
  | 8, 8 => some (.rkacq f)
  | 8, 9 => some (.rkcommit f)
  | 8, 10 => some (.rkwait f)
  | 8, 11 => some (.rkrel f)
  | 9, 3 => some (.lcwait f)
  | 9, 4 => some (.lcread f)
  | 9, 5 => some (.lcadd f)
  | 9, 6 => some (.towait f)
  | 10, 0 => some (.tacq f)
  | 10, 1 => some (.trel f)
  | 10, 2 => some (.tzero f)
  | 10, 3 => some (.mma f)
  | 10, 4 => some (.mmax f)
  | 10, 5 => some (.tread f)
  | 10, 6 => some (.twrite f)
  | 10, 7 => some (.tcvt f)
  | 10, 8 => some (.mwait f)
  | 10, 9 => some (.mstat f)
  | 11, 0 => some (.gpost f)
  | 11, 1 => some (.gcancel f)
  | 11, 2 => some (.gstat f)
  | 11, 3 => some (.gjoin f)
  | 11, 4 => some (.gleave f)
  | 11, 5 => some (.gver f)
  | 11, 6 => some (.rankq f)
  | _, _ => none

/-- The form of a class and opcode in format S (Table 8.8, R198). The .cv forms are told by sat, the .seg forms by var. -/
def ctorS (cls op : Nat) (f : FmtS) : Option Instr :=
  match cls, op with
  | 12, 0 => some (.trap f)
  | 12, 1 => some (.brk f)
  | 12, 2 => some (.eret f)
  | 12, 3 => some (.kill f)
  | 12, 4 => some (.sread f)
  | 12, 5 => some (.swrite f)
  | 12, 6 => some (.clock f)
  | 12, 7 => some (.pmark f)
  | _, _ => none

/-- The format of a class and opcode (Table 8.8). -/
inductive Format where
  | a | m | b | e | s
  deriving DecidableEq, Repr

def formatOf (cls op : Nat) : Option Format :=
  if cls == 0 then some (if op ≤ 5 then .b else .e)
  else if cls ≤ 6 then some .a
  else if cls == 7 then some .m
  else if cls == 8 then some .e
  else if cls == 9 then some (if op ≤ 2 || op == 7 then .m else .e)
  else if cls ≤ 11 then some .e
  else if cls == 12 then some .s
  else none

def checked (cls op : Nat) (i : Option Instr) : Except Reject Instr :=
  match i with
  | none => .error (.badOpcode cls op)
  | some i => if formOk i then .ok i else .error .badField

/-- The instruction of a word and of the literal word that follows it, if any (R193, R204). -/
def decodeWord (w : DWord) (lit : Option DWord) : Except Reject Instr :=
  let cls := (w.extractLsb' 60 4).toNat
  let op := (w.extractLsb' 54 6).toNat
  match formatOf cls op with
  | none => .error (.badClass cls)
  | some .a => match parseA w lit with | .ok f => checked cls op (ctorA cls op f) | .error e => .error e
  | some .m => match parseM w lit with | .ok f => checked cls op (ctorM cls op f) | .error e => .error e
  | some .b => match parseB w with | .ok f => checked cls op (ctorB cls op f) | .error e => .error e
  | some .e => match parseE w lit with | .ok f => checked cls op (ctorE cls op f) | .error e => .error e
  | some .s => match parseS w with | .ok f => checked cls op (ctorS cls op f) | .error e => .error e

/-- The formats that may carry a literal. -/
def hasLitBit (w : DWord) : Bool :=
  match formatOf (w.extractLsb' 60 4).toNat (w.extractLsb' 54 6).toNat with
  | some .a | some .m | some .e => litBit w
  | _ => false

/-- The first instruction of a list of code words, and the words after it (R187). -/
def decode (ws : List DWord) : Except Reject (Instr × List DWord) :=
  match ws with
  | [] => .error .noWord
  | w :: rest =>
    match decodeWord w rest.head? with
    | .ok i => .ok (i, if hasLitBit w then rest.tail else rest)
    | .error e => .error e

def guardBits (g : Guard) : BitVec 4 := g.pred ++ BitVec.ofBool g.neg
def tagBits (t : Tag) : BitVec 4 := BitVec.ofNat 4 (tagNum t)
def scopeBits : Scope → BitVec 3
  | .th => 0 | .co => 1 | .cl => 2 | .de => 3 | .pd => 4 | .sy => 5
def orderBits : OrderReq → BitVec 2
  | .page => 0 | .so => 1 | .rc => 2 | .un => 3

/-- Common fields (Table 8.2) before the 42 bits of a format. -/
def packCommon (cls : BitVec 4) (op : BitVec 6) (g : Guard) (dst : BitVec 8) (low : BitVec 42) : DWord :=
  cls ++ op ++ guardBits g ++ dst ++ low

def packA (cls : BitVec 4) (op : BitVec 6) (f : FmtA) : DWord :=
  packCommon cls op f.guard f.dst
    (f.srcA ++ f.srcB ++ f.srcC ++ f.modA ++ f.modB ++ f.modC ++ tagBits f.type ++ f.var ++
      BitVec.ofBool f.lit.isSome ++ BitVec.ofBool f.sat ++ BitVec.ofBool f.imm)

def packM (cls : BitVec 4) (op : BitVec 6) (f : FmtM) : DWord :=
  packCommon cls op f.guard f.dst
    (f.addr ++ f.index ++ f.disp ++ f.nrp ++ orderBits f.order ++ scopeBits f.scope ++ BitVec.ofBool f.trap ++
      tagBits f.type ++ f.size ++ BitVec.ofBool f.lit.isSome ++ f.fn)

def packB (cls : BitVec 4) (op : BitVec 6) (f : FmtB) : DWord :=
  packCommon cls op f.guard f.dst (f.target ++ f.disp ++ (0 : BitVec 1) ++ BitVec.ofBool f.trap)

def packE (cls : BitVec 4) (op : BitVec 6) (f : FmtE) : DWord :=
  packCommon cls op f.guard f.dst
    (f.srcA ++ f.srcB ++ f.srcC ++ f.unit ++ f.cv ++ BitVec.ofBool f.trap ++ tagBits f.type ++ f.var ++
      BitVec.ofBool f.lit.isSome ++ f.fn)

def packS (cls : BitVec 4) (op : BitVec 6) (f : FmtS) : DWord :=
  packCommon cls op f.guard f.dst (f.srcA ++ f.sel ++ f.imm8 ++ BitVec.ofBool f.trap ++ (0 : BitVec 9))

/-- The class and opcode of an instruction; none for an event (Table 8.8). -/
def opcodeOf (i : Instr) : Option (BitVec 4 × BitVec 6) :=
  match i with
  | .bra _ => some (0, 0)
  | .brc _ => some (0, 1)
  | .brx _ => some (0, 2)
  | .call _ => some (0, 3)
  | .callx _ => some (0, 4)
  | .ret _ => some (0, 5)
  | .exit _ => some (0, 6)
  | .nop _ => some (0, 7)
  | .yield _ => some (0, 8)
  | .pause _ => some (0, 9)
  | .sign _ => some (0, 10)
  | .cvdecl _ => some (0, 11)
  | .cvwait _ => some (0, 12)
  | .cvclr _ => some (0, 13)
  | .bara _ => some (0, 14)
  | .barw _ => some (0, 15)
  | .bar _ => some (0, 16)
  | .launch _ => some (0, 17)
  | .epush _ => some (0, 18)
  | .epop _ => some (0, 19)
  | .iadd _ => some (1, 0)
  | .iaddc _ => some (1, 1)
  | .isub _ => some (1, 2)
  | .isubb _ => some (1, 3)
  | .imul _ => some (1, 4)
  | .imulh _ => some (1, 5)
  | .imad _ => some (1, 6)
  | .imadw _ => some (1, 7)
  | .imin _ => some (1, 8)
  | .imax _ => some (1, 9)
  | .iabs _ => some (1, 10)
  | .icmp _ => some (1, 11)
  | .sel _ => some (1, 12)
  | .lea64 _ => some (1, 13)
  | .add64 _ => some (1, 14)
  | .mov _ => some (1, 15)
  | .movl _ => some (1, 16)
  | .shl _ => some (2, 0)
  | .shr _ => some (2, 1)
  | .sar _ => some (2, 2)
  | .dsh _ => some (2, 3)
  | .and _ => some (2, 4)
  | .or _ => some (2, 5)
  | .xor _ => some (2, 6)
  | .bool3 _ => some (2, 7)
  | .pbool _ => some (2, 8)
  | .clz _ => some (2, 9)
  | .ctz _ => some (2, 10)
  | .popc _ => some (2, 11)
  | .brev _ => some (2, 12)
  | .bfx _ => some (2, 13)
  | .bfi _ => some (2, 14)
  | .bil2 _ => some (2, 15)
  | .bil3 _ => some (2, 16)
  | .bdl2 _ => some (2, 17)
  | .bdl3 _ => some (2, 18)
  | .bysel _ => some (2, 19)
  | .permx _ => some (3, 0)
  | .permxCv _ => some (3, 0)
  | .ballot _ => some (3, 1)
  | .ballotCv _ => some (3, 1)
  | .vote _ => some (3, 2)
  | .voteCv _ => some (3, 2)
  | .laneMatch _ => some (3, 3)
  | .laneMatchCv _ => some (3, 3)
  | .lscan _ => some (3, 4)
  | .lscanCv _ => some (3, 4)
  | .lred _ => some (3, 5)
  | .lredCv _ => some (3, 5)
  | .elect _ => some (3, 6)
  | .electCv _ => some (3, 6)
  | .fadd _ => some (4, 0)
  | .fsub _ => some (4, 1)
  | .fmul _ => some (4, 2)
  | .ffma _ => some (4, 3)
  | .fmin _ => some (4, 4)
  | .fmax _ => some (4, 5)
  | .fcmp _ => some (4, 6)
  | .fclass _ => some (4, 7)
  | .frcp _ => some (4, 8)
  | .frsq _ => some (4, 9)
  | .fsqrt _ => some (4, 10)
  | .fexp2 _ => some (4, 11)
  | .flog2 _ => some (4, 12)
  | .fsin _ => some (4, 13)
  | .fcos _ => some (4, 14)
  | .ftanh _ => some (4, 15)
  | .fscale _ => some (4, 16)
  | .pkadd _ => some (5, 0)
  | .pkmul _ => some (5, 1)
  | .pkfma _ => some (5, 2)
  | .pkmin _ => some (5, 3)
  | .pkmax _ => some (5, 4)
  | .cvt _ => some (5, 5)
  | .pack _ => some (5, 6)
  | .unpk _ => some (5, 7)
  | .dot2 _ => some (5, 8)
  | .dot4 _ => some (5, 9)
  | .dot8 _ => some (5, 10)
  | .tagset _ => some (5, 11)
  | .tagget _ => some (5, 12)
  | .qclr _ => some (6, 0)
  | .qadd _ => some (6, 1)
  | .qaddSeg _ => some (6, 1)
  | .qmac _ => some (6, 2)
  | .qscan _ => some (6, 3)
  | .qrnd _ => some (6, 4)
  | .qmov _ => some (6, 5)
  | .qmovSeg _ => some (6, 5)
  | .qflag _ => some (6, 6)
  | .ld _ => some (7, 0)
  | .lda _ => some (7, 1)
  | .ldx _ => some (7, 2)
  | .lds _ => some (7, 3)
  | .st _ => some (7, 4)
  | .stl _ => some (7, 5)
  | .stx _ => some (7, 6)
  | .sts _ => some (7, 7)
  | .pref _ => some (7, 8)
  | .cinv _ => some (7, 9)
  | .cwb _ => some (7, 10)
  | .probe _ => some (7, 11)
  | .pgreq _ => some (7, 12)
  | .copy _ => some (8, 0)
  | .copyx _ => some (8, 1)
  | .chain _ => some (8, 2)
  | .chstat _ => some (8, 3)
  | .cmwait _ => some (8, 4)
  | .cmtest _ => some (8, 5)
  | .cmclr _ => some (8, 6)
  | .rkinit _ => some (8, 7)
  | .rkacq _ => some (8, 8)
  | .rkcommit _ => some (8, 9)
  | .rkwait _ => some (8, 10)
  | .rkrel _ => some (8, 11)
  | .atom _ => some (9, 0)
  | .cas _ => some (9, 1)
  | .red _ => some (9, 2)
  | .lcwait _ => some (9, 3)
  | .lcread _ => some (9, 4)
  | .lcadd _ => some (9, 5)
  | .towait _ => some (9, 6)
  | .fence _ => some (9, 7)
  | .tacq _ => some (10, 0)
  | .trel _ => some (10, 1)
  | .tzero _ => some (10, 2)
  | .mma _ => some (10, 3)
  | .mmax _ => some (10, 4)
  | .tread _ => some (10, 5)
  | .twrite _ => some (10, 6)
  | .tcvt _ => some (10, 7)
  | .mwait _ => some (10, 8)
  | .mstat _ => some (10, 9)
  | .gpost _ => some (11, 0)
  | .gcancel _ => some (11, 1)
  | .gstat _ => some (11, 2)
  | .gjoin _ => some (11, 3)
  | .gleave _ => some (11, 4)
  | .gver _ => some (11, 5)
  | .rankq _ => some (11, 6)
  | .trap _ => some (12, 0)
  | .brk _ => some (12, 1)
  | .eret _ => some (12, 2)
  | .kill _ => some (12, 3)
  | .sread _ => some (12, 4)
  | .swrite _ => some (12, 5)
  | .clock _ => some (12, 6)
  | .pmark _ => some (12, 7)
  | .reconvergenceTimeout _ _ => none
  | .firedRendezvousProceed _ _ _ => none
  | .loadFill _ _ => none
  | .refetch _ => none
  | .atomicReply _ => none
  | .sliceRequest _ => none
  | .fill _ _ => none
  | .seal _ _ => none
  | .metadataWriteback _ _ => none
  | .bindFrame _ => none
  | .bindFrameProceed _ => none
  | .unbindFrame _ => none
  | .keyLoad _ => none
  | .keyFree _ => none
  | .partCreate _ _ => none
  | .partDestroy _ => none
  | .rankTableLoad _ => none
  | .freezeRelease _ => none
  | .resetPartition _ => none
  | .launchQueueEntry _ _ => none
  | .qTail _ _ _ => none
  | .bar2Read _ _ _ _ => none
  | .bar2Write _ _ _ _ => none
  | .translationWalk _ => none
  | .xlInval _ _ _ => none
  | .shootdownComplete _ => none
  | .faultBatchWrite _ => none
  | .resumeReplay _ _ => none
  | .resumeDeliver _ _ => none
  | .resumeKill _ _ => none
  | .handlerEntry _ _ => none
  | .worldScrub _ => none
  | .launchRecordAccept => none
  | .gangDispatch _ _ => none
  | .gangComplete _ _ => none
  | .launchComplete _ => none
  | .preempt _ => none
  | .contextSave _ _ => none
  | .restore _ _ _ => none
  | .thermalMigrate _ _ => none
  | .chunkLand _ _ _ => none
  | .transferEnd _ _ => none
  | .matrixGrant _ => none
  | .passComplete _ => none
  | .tileOpApply _ _ => none
  | .counterReached _ _ => none
  | .counterWaitTimeout _ _ => none
  | .gateFire _ _ => none
  | .gateDone _ _ => none
  | .gateFault _ _ => none
  | .signalReceive _ _ _ => none
  | .reduceChunkApply _ _ => none
  | .headcountCollect _ _ _ => none
  | .drainReceive _ _ _ _ => none
  | .publishReceive _ _ _ _ => none
  | .linkArm _ => none
  | .linkTrained _ _ => none
  | .linkTrainTimeout _ => none
  | .linkSilenceTimeout _ => none
  | .flitReceive _ _ => none
  | .heartbeat _ => none
  | .podTransactionReceive _ _ _ => none
  | .podAckReceive _ _ _ => none
  | .multicastCopyReceive _ _ _ _ => none
  | .remotePacketReceive _ _ _ => none
  | .remoteReplyReceive _ _ => none
  | .remoteForcedSend _ => none
  | .remoteAckTimeout _ => none
  | .hostCompletion _ _ _ => none
  | .hostCompletionTimeout _ => none
  | .registerWrite _ _ _ _ => none
  | .getVersion _ _ => none
  | .getCapabilities _ _ => none
  | .negotiateAlgorithms _ _ => none
  | .getDigests _ _ => none
  | .getCertificate _ _ => none
  | .challenge _ _ => none
  | .getMeasurements _ _ => none
  | .keyExchange _ _ => none
  | .finish _ _ => none
  | .endSession _ _ => none
  | .lockInterfaceRequest _ _ => none
  | .startInterfaceRequest _ => none
  | .stopInterfaceRequest _ => none
  | .ideMacFail _ => none
  | .hxErrClear _ => none
  | .pwCapWrite _ _ => none
  | .coreClockStep _ _ _ => none
  | .coreFlaggedHot _ _ => none
  | .configurationRequest _ => none
  | .softError _ _ => none
  | .packetRetransmission _ => none
  | .laneSpare _ _ => none
  | .spareComplete _ => none
  | .resumeReserved _ _ => none
  | .ringSnoop _ _ => none
  | .attest _ _ => none
  | .lifecycle _ _ => none
  | .powerCap _ => none
  | .vfFlr _ => none
  | .moduleReset _ _ _ => none
  | .retrainComplete _ => none
  | .peerRevive _ => none
  | .deathNotice _ _ => none
  | .linkStateNotice _ _ _ _ _ _ => none
  | .traverseForward _ _ => none
  | .groupTableSet _ => none
  | .demotionExpire _ _ => none
  | .publishAck _ _ _ => none
  | .drainReport _ _ _ => none
  | .applyMapClose _ _ _ _ _ => none
  | .abortNotice _ _ _ => none
  | .plLimitWrite _ _ => none
  | .xlRegionWrite _ _ _ _ => none
  | .groupSlotWrite _ _ _ _ _ => none
  | .fqCons _ _ => none
  | .fqCtl _ _ => none
  | .thermalTrip => none
  | .thermalTripClear => none
  | .wipeComplete => none
  | .powerRemoval => none

/-- The words of an instruction: its word, and its literal word where it has one (R193, R201). An event has none. -/
def encode (i : Instr) : List DWord :=
  match i with
  | .bra f => [packB 0 0 f]
  | .brc f => [packB 0 1 f]
  | .brx f => [packB 0 2 f]
  | .call f => [packB 0 3 f]
  | .callx f => [packB 0 4 f]
  | .ret f => [packB 0 5 f]
  | .exit f => [packE 0 6 f] ++ f.lit.toList
  | .nop f => [packE 0 7 f] ++ f.lit.toList
  | .yield f => [packE 0 8 f] ++ f.lit.toList
  | .pause f => [packE 0 9 f] ++ f.lit.toList
  | .sign f => [packE 0 10 f] ++ f.lit.toList
  | .cvdecl f => [packE 0 11 f] ++ f.lit.toList
  | .cvwait f => [packE 0 12 f] ++ f.lit.toList
  | .cvclr f => [packE 0 13 f] ++ f.lit.toList
  | .bara f => [packE 0 14 f] ++ f.lit.toList
  | .barw f => [packE 0 15 f] ++ f.lit.toList
  | .bar f => [packE 0 16 f] ++ f.lit.toList
  | .launch f => [packE 0 17 f] ++ f.lit.toList
  | .epush f => [packE 0 18 f] ++ f.lit.toList
  | .epop f => [packE 0 19 f] ++ f.lit.toList
  | .iadd f => [packA 1 0 f] ++ f.lit.toList
  | .iaddc f => [packA 1 1 f] ++ f.lit.toList
  | .isub f => [packA 1 2 f] ++ f.lit.toList
  | .isubb f => [packA 1 3 f] ++ f.lit.toList
  | .imul f => [packA 1 4 f] ++ f.lit.toList
  | .imulh f => [packA 1 5 f] ++ f.lit.toList
  | .imad f => [packA 1 6 f] ++ f.lit.toList
  | .imadw f => [packA 1 7 f] ++ f.lit.toList
  | .imin f => [packA 1 8 f] ++ f.lit.toList
  | .imax f => [packA 1 9 f] ++ f.lit.toList
  | .iabs f => [packA 1 10 f] ++ f.lit.toList
  | .icmp f => [packA 1 11 f] ++ f.lit.toList
  | .sel f => [packA 1 12 f] ++ f.lit.toList
  | .lea64 f => [packA 1 13 f] ++ f.lit.toList
  | .add64 f => [packA 1 14 f] ++ f.lit.toList
  | .mov f => [packA 1 15 f] ++ f.lit.toList
  | .movl f => [packA 1 16 f] ++ f.lit.toList
  | .shl f => [packA 2 0 f] ++ f.lit.toList
  | .shr f => [packA 2 1 f] ++ f.lit.toList
  | .sar f => [packA 2 2 f] ++ f.lit.toList
  | .dsh f => [packA 2 3 f] ++ f.lit.toList
  | .and f => [packA 2 4 f] ++ f.lit.toList
  | .or f => [packA 2 5 f] ++ f.lit.toList
  | .xor f => [packA 2 6 f] ++ f.lit.toList
  | .bool3 f => [packA 2 7 f] ++ f.lit.toList
  | .pbool f => [packA 2 8 f] ++ f.lit.toList
  | .clz f => [packA 2 9 f] ++ f.lit.toList
  | .ctz f => [packA 2 10 f] ++ f.lit.toList
  | .popc f => [packA 2 11 f] ++ f.lit.toList
  | .brev f => [packA 2 12 f] ++ f.lit.toList
  | .bfx f => [packA 2 13 f] ++ f.lit.toList
  | .bfi f => [packA 2 14 f] ++ f.lit.toList
  | .bil2 f => [packA 2 15 f] ++ f.lit.toList
  | .bil3 f => [packA 2 16 f] ++ f.lit.toList
  | .bdl2 f => [packA 2 17 f] ++ f.lit.toList
  | .bdl3 f => [packA 2 18 f] ++ f.lit.toList
  | .bysel f => [packA 2 19 f] ++ f.lit.toList
  | .permx f => [packA 3 0 f] ++ f.lit.toList
  | .permxCv f => [packA 3 0 f] ++ f.lit.toList
  | .ballot f => [packA 3 1 f] ++ f.lit.toList
  | .ballotCv f => [packA 3 1 f] ++ f.lit.toList
  | .vote f => [packA 3 2 f] ++ f.lit.toList
  | .voteCv f => [packA 3 2 f] ++ f.lit.toList
  | .laneMatch f => [packA 3 3 f] ++ f.lit.toList
  | .laneMatchCv f => [packA 3 3 f] ++ f.lit.toList
  | .lscan f => [packA 3 4 f] ++ f.lit.toList
  | .lscanCv f => [packA 3 4 f] ++ f.lit.toList
  | .lred f => [packA 3 5 f] ++ f.lit.toList
  | .lredCv f => [packA 3 5 f] ++ f.lit.toList
  | .elect f => [packA 3 6 f] ++ f.lit.toList
  | .electCv f => [packA 3 6 f] ++ f.lit.toList
  | .fadd f => [packA 4 0 f] ++ f.lit.toList
  | .fsub f => [packA 4 1 f] ++ f.lit.toList
  | .fmul f => [packA 4 2 f] ++ f.lit.toList
  | .ffma f => [packA 4 3 f] ++ f.lit.toList
  | .fmin f => [packA 4 4 f] ++ f.lit.toList
  | .fmax f => [packA 4 5 f] ++ f.lit.toList
  | .fcmp f => [packA 4 6 f] ++ f.lit.toList
  | .fclass f => [packA 4 7 f] ++ f.lit.toList
  | .frcp f => [packA 4 8 f] ++ f.lit.toList
  | .frsq f => [packA 4 9 f] ++ f.lit.toList
  | .fsqrt f => [packA 4 10 f] ++ f.lit.toList
  | .fexp2 f => [packA 4 11 f] ++ f.lit.toList
  | .flog2 f => [packA 4 12 f] ++ f.lit.toList
  | .fsin f => [packA 4 13 f] ++ f.lit.toList
  | .fcos f => [packA 4 14 f] ++ f.lit.toList
  | .ftanh f => [packA 4 15 f] ++ f.lit.toList
  | .fscale f => [packA 4 16 f] ++ f.lit.toList
  | .pkadd f => [packA 5 0 f] ++ f.lit.toList
  | .pkmul f => [packA 5 1 f] ++ f.lit.toList
  | .pkfma f => [packA 5 2 f] ++ f.lit.toList
  | .pkmin f => [packA 5 3 f] ++ f.lit.toList
  | .pkmax f => [packA 5 4 f] ++ f.lit.toList
  | .cvt f => [packA 5 5 f] ++ f.lit.toList
  | .pack f => [packA 5 6 f] ++ f.lit.toList
  | .unpk f => [packA 5 7 f] ++ f.lit.toList
  | .dot2 f => [packA 5 8 f] ++ f.lit.toList
  | .dot4 f => [packA 5 9 f] ++ f.lit.toList
  | .dot8 f => [packA 5 10 f] ++ f.lit.toList
  | .tagset f => [packA 5 11 f] ++ f.lit.toList
  | .tagget f => [packA 5 12 f] ++ f.lit.toList
  | .qclr f => [packA 6 0 f] ++ f.lit.toList
  | .qadd f => [packA 6 1 f] ++ f.lit.toList
  | .qaddSeg f => [packA 6 1 f] ++ f.lit.toList
  | .qmac f => [packA 6 2 f] ++ f.lit.toList
  | .qscan f => [packA 6 3 f] ++ f.lit.toList
  | .qrnd f => [packA 6 4 f] ++ f.lit.toList
  | .qmov f => [packA 6 5 f] ++ f.lit.toList
  | .qmovSeg f => [packA 6 5 f] ++ f.lit.toList
  | .qflag f => [packA 6 6 f] ++ f.lit.toList
  | .ld f => [packM 7 0 f] ++ f.lit.toList
  | .lda f => [packM 7 1 f] ++ f.lit.toList
  | .ldx f => [packM 7 2 f] ++ f.lit.toList
  | .lds f => [packM 7 3 f] ++ f.lit.toList
  | .st f => [packM 7 4 f] ++ f.lit.toList
  | .stl f => [packM 7 5 f] ++ f.lit.toList
  | .stx f => [packM 7 6 f] ++ f.lit.toList
  | .sts f => [packM 7 7 f] ++ f.lit.toList
  | .pref f => [packM 7 8 f] ++ f.lit.toList
  | .cinv f => [packM 7 9 f] ++ f.lit.toList
  | .cwb f => [packM 7 10 f] ++ f.lit.toList
  | .probe f => [packM 7 11 f] ++ f.lit.toList
  | .pgreq f => [packM 7 12 f] ++ f.lit.toList
  | .copy f => [packE 8 0 f] ++ f.lit.toList
  | .copyx f => [packE 8 1 f] ++ f.lit.toList
  | .chain f => [packE 8 2 f] ++ f.lit.toList
  | .chstat f => [packE 8 3 f] ++ f.lit.toList
  | .cmwait f => [packE 8 4 f] ++ f.lit.toList
  | .cmtest f => [packE 8 5 f] ++ f.lit.toList
  | .cmclr f => [packE 8 6 f] ++ f.lit.toList
  | .rkinit f => [packE 8 7 f] ++ f.lit.toList
  | .rkacq f => [packE 8 8 f] ++ f.lit.toList
  | .rkcommit f => [packE 8 9 f] ++ f.lit.toList
  | .rkwait f => [packE 8 10 f] ++ f.lit.toList
  | .rkrel f => [packE 8 11 f] ++ f.lit.toList
  | .atom f => [packM 9 0 f] ++ f.lit.toList
  | .cas f => [packM 9 1 f] ++ f.lit.toList
  | .red f => [packM 9 2 f] ++ f.lit.toList
  | .lcwait f => [packE 9 3 f] ++ f.lit.toList
  | .lcread f => [packE 9 4 f] ++ f.lit.toList
  | .lcadd f => [packE 9 5 f] ++ f.lit.toList
  | .towait f => [packE 9 6 f] ++ f.lit.toList
  | .fence f => [packM 9 7 f] ++ f.lit.toList
  | .tacq f => [packE 10 0 f] ++ f.lit.toList
  | .trel f => [packE 10 1 f] ++ f.lit.toList
  | .tzero f => [packE 10 2 f] ++ f.lit.toList
  | .mma f => [packE 10 3 f] ++ f.lit.toList
  | .mmax f => [packE 10 4 f] ++ f.lit.toList
  | .tread f => [packE 10 5 f] ++ f.lit.toList
  | .twrite f => [packE 10 6 f] ++ f.lit.toList
  | .tcvt f => [packE 10 7 f] ++ f.lit.toList
  | .mwait f => [packE 10 8 f] ++ f.lit.toList
  | .mstat f => [packE 10 9 f] ++ f.lit.toList
  | .gpost f => [packE 11 0 f] ++ f.lit.toList
  | .gcancel f => [packE 11 1 f] ++ f.lit.toList
  | .gstat f => [packE 11 2 f] ++ f.lit.toList
  | .gjoin f => [packE 11 3 f] ++ f.lit.toList
  | .gleave f => [packE 11 4 f] ++ f.lit.toList
  | .gver f => [packE 11 5 f] ++ f.lit.toList
  | .rankq f => [packE 11 6 f] ++ f.lit.toList
  | .trap f => [packS 12 0 f]
  | .brk f => [packS 12 1 f]
  | .eret f => [packS 12 2 f]
  | .kill f => [packS 12 3 f]
  | .sread f => [packS 12 4 f]
  | .swrite f => [packS 12 5 f]
  | .clock f => [packS 12 6 f]
  | .pmark f => [packS 12 7 f]
  | .reconvergenceTimeout _ _ => []
  | .firedRendezvousProceed _ _ _ => []
  | .loadFill _ _ => []
  | .refetch _ => []
  | .atomicReply _ => []
  | .sliceRequest _ => []
  | .fill _ _ => []
  | .seal _ _ => []
  | .metadataWriteback _ _ => []
  | .bindFrame _ => []
  | .bindFrameProceed _ => []
  | .unbindFrame _ => []
  | .keyLoad _ => []
  | .keyFree _ => []
  | .partCreate _ _ => []
  | .partDestroy _ => []
  | .rankTableLoad _ => []
  | .freezeRelease _ => []
  | .resetPartition _ => []
  | .launchQueueEntry _ _ => []
  | .qTail _ _ _ => []
  | .bar2Read _ _ _ _ => []
  | .bar2Write _ _ _ _ => []
  | .translationWalk _ => []
  | .xlInval _ _ _ => []
  | .shootdownComplete _ => []
  | .faultBatchWrite _ => []
  | .resumeReplay _ _ => []
  | .resumeDeliver _ _ => []
  | .resumeKill _ _ => []
  | .handlerEntry _ _ => []
  | .worldScrub _ => []
  | .launchRecordAccept => []
  | .gangDispatch _ _ => []
  | .gangComplete _ _ => []
  | .launchComplete _ => []
  | .preempt _ => []
  | .contextSave _ _ => []
  | .restore _ _ _ => []
  | .thermalMigrate _ _ => []
  | .chunkLand _ _ _ => []
  | .transferEnd _ _ => []
  | .matrixGrant _ => []
  | .passComplete _ => []
  | .tileOpApply _ _ => []
  | .counterReached _ _ => []
  | .counterWaitTimeout _ _ => []
  | .gateFire _ _ => []
  | .gateDone _ _ => []
  | .gateFault _ _ => []
  | .signalReceive _ _ _ => []
  | .reduceChunkApply _ _ => []
  | .headcountCollect _ _ _ => []
  | .drainReceive _ _ _ _ => []
  | .publishReceive _ _ _ _ => []
  | .linkArm _ => []
  | .linkTrained _ _ => []
  | .linkTrainTimeout _ => []
  | .linkSilenceTimeout _ => []
  | .flitReceive _ _ => []
  | .heartbeat _ => []
  | .podTransactionReceive _ _ _ => []
  | .podAckReceive _ _ _ => []
  | .multicastCopyReceive _ _ _ _ => []
  | .remotePacketReceive _ _ _ => []
  | .remoteReplyReceive _ _ => []
  | .remoteForcedSend _ => []
  | .remoteAckTimeout _ => []
  | .hostCompletion _ _ _ => []
  | .hostCompletionTimeout _ => []
  | .registerWrite _ _ _ _ => []
  | .getVersion _ _ => []
  | .getCapabilities _ _ => []
  | .negotiateAlgorithms _ _ => []
  | .getDigests _ _ => []
  | .getCertificate _ _ => []
  | .challenge _ _ => []
  | .getMeasurements _ _ => []
  | .keyExchange _ _ => []
  | .finish _ _ => []
  | .endSession _ _ => []
  | .lockInterfaceRequest _ _ => []
  | .startInterfaceRequest _ => []
  | .stopInterfaceRequest _ => []
  | .ideMacFail _ => []
  | .hxErrClear _ => []
  | .pwCapWrite _ _ => []
  | .coreClockStep _ _ _ => []
  | .coreFlaggedHot _ _ => []
  | .configurationRequest _ => []
  | .softError _ _ => []
  | .packetRetransmission _ => []
  | .laneSpare _ _ => []
  | .spareComplete _ => []
  | .resumeReserved _ _ => []
  | .ringSnoop _ _ => []
  | .attest _ _ => []
  | .lifecycle _ _ => []
  | .powerCap _ => []
  | .vfFlr _ => []
  | .moduleReset _ _ _ => []
  | .retrainComplete _ => []
  | .peerRevive _ => []
  | .deathNotice _ _ => []
  | .linkStateNotice _ _ _ _ _ _ => []
  | .traverseForward _ _ => []
  | .groupTableSet _ => []
  | .demotionExpire _ _ => []
  | .publishAck _ _ _ => []
  | .drainReport _ _ _ => []
  | .applyMapClose _ _ _ _ _ => []
  | .abortNotice _ _ _ => []
  | .plLimitWrite _ _ => []
  | .xlRegionWrite _ _ _ _ => []
  | .groupSlotWrite _ _ _ _ _ => []
  | .fqCons _ _ => []
  | .fqCtl _ _ => []
  | .thermalTrip => []
  | .thermalTripClear => []
  | .wipeComplete => []
  | .powerRemoval => []

/-- The literal of an instruction (R201). -/
def literalOf (i : Instr) : Option DWord :=
  match i with
  | .bra _ => none
  | .brc _ => none
  | .brx _ => none
  | .call _ => none
  | .callx _ => none
  | .ret _ => none
  | .exit f => f.lit
  | .nop f => f.lit
  | .yield f => f.lit
  | .pause f => f.lit
  | .sign f => f.lit
  | .cvdecl f => f.lit
  | .cvwait f => f.lit
  | .cvclr f => f.lit
  | .bara f => f.lit
  | .barw f => f.lit
  | .bar f => f.lit
  | .launch f => f.lit
  | .epush f => f.lit
  | .epop f => f.lit
  | .iadd f => f.lit
  | .iaddc f => f.lit
  | .isub f => f.lit
  | .isubb f => f.lit
  | .imul f => f.lit
  | .imulh f => f.lit
  | .imad f => f.lit
  | .imadw f => f.lit
  | .imin f => f.lit
  | .imax f => f.lit
  | .iabs f => f.lit
  | .icmp f => f.lit
  | .sel f => f.lit
  | .lea64 f => f.lit
  | .add64 f => f.lit
  | .mov f => f.lit
  | .movl f => f.lit
  | .shl f => f.lit
  | .shr f => f.lit
  | .sar f => f.lit
  | .dsh f => f.lit
  | .and f => f.lit
  | .or f => f.lit
  | .xor f => f.lit
  | .bool3 f => f.lit
  | .pbool f => f.lit
  | .clz f => f.lit
  | .ctz f => f.lit
  | .popc f => f.lit
  | .brev f => f.lit
  | .bfx f => f.lit
  | .bfi f => f.lit
  | .bil2 f => f.lit
  | .bil3 f => f.lit
  | .bdl2 f => f.lit
  | .bdl3 f => f.lit
  | .bysel f => f.lit
  | .permx f => f.lit
  | .permxCv f => f.lit
  | .ballot f => f.lit
  | .ballotCv f => f.lit
  | .vote f => f.lit
  | .voteCv f => f.lit
  | .laneMatch f => f.lit
  | .laneMatchCv f => f.lit
  | .lscan f => f.lit
  | .lscanCv f => f.lit
  | .lred f => f.lit
  | .lredCv f => f.lit
  | .elect f => f.lit
  | .electCv f => f.lit
  | .fadd f => f.lit
  | .fsub f => f.lit
  | .fmul f => f.lit
  | .ffma f => f.lit
  | .fmin f => f.lit
  | .fmax f => f.lit
  | .fcmp f => f.lit
  | .fclass f => f.lit
  | .frcp f => f.lit
  | .frsq f => f.lit
  | .fsqrt f => f.lit
  | .fexp2 f => f.lit
  | .flog2 f => f.lit
  | .fsin f => f.lit
  | .fcos f => f.lit
  | .ftanh f => f.lit
  | .fscale f => f.lit
  | .pkadd f => f.lit
  | .pkmul f => f.lit
  | .pkfma f => f.lit
  | .pkmin f => f.lit
  | .pkmax f => f.lit
  | .cvt f => f.lit
  | .pack f => f.lit
  | .unpk f => f.lit
  | .dot2 f => f.lit
  | .dot4 f => f.lit
  | .dot8 f => f.lit
  | .tagset f => f.lit
  | .tagget f => f.lit
  | .qclr f => f.lit
  | .qadd f => f.lit
  | .qaddSeg f => f.lit
  | .qmac f => f.lit
  | .qscan f => f.lit
  | .qrnd f => f.lit
  | .qmov f => f.lit
  | .qmovSeg f => f.lit
  | .qflag f => f.lit
  | .ld f => f.lit
  | .lda f => f.lit
  | .ldx f => f.lit
  | .lds f => f.lit
  | .st f => f.lit
  | .stl f => f.lit
  | .stx f => f.lit
  | .sts f => f.lit
  | .pref f => f.lit
  | .cinv f => f.lit
  | .cwb f => f.lit
  | .probe f => f.lit
  | .pgreq f => f.lit
  | .copy f => f.lit
  | .copyx f => f.lit
  | .chain f => f.lit
  | .chstat f => f.lit
  | .cmwait f => f.lit
  | .cmtest f => f.lit
  | .cmclr f => f.lit
  | .rkinit f => f.lit
  | .rkacq f => f.lit
  | .rkcommit f => f.lit
  | .rkwait f => f.lit
  | .rkrel f => f.lit
  | .atom f => f.lit
  | .cas f => f.lit
  | .red f => f.lit
  | .lcwait f => f.lit
  | .lcread f => f.lit
  | .lcadd f => f.lit
  | .towait f => f.lit
  | .fence f => f.lit
  | .tacq f => f.lit
  | .trel f => f.lit
  | .tzero f => f.lit
  | .mma f => f.lit
  | .mmax f => f.lit
  | .tread f => f.lit
  | .twrite f => f.lit
  | .tcvt f => f.lit
  | .mwait f => f.lit
  | .mstat f => f.lit
  | .gpost f => f.lit
  | .gcancel f => f.lit
  | .gstat f => f.lit
  | .gjoin f => f.lit
  | .gleave f => f.lit
  | .gver f => f.lit
  | .rankq f => f.lit
  | .trap _ => none
  | .brk _ => none
  | .eret _ => none
  | .kill _ => none
  | .sread _ => none
  | .swrite _ => none
  | .clock _ => none
  | .pmark _ => none
  | .reconvergenceTimeout _ _ => none
  | .firedRendezvousProceed _ _ _ => none
  | .loadFill _ _ => none
  | .refetch _ => none
  | .atomicReply _ => none
  | .sliceRequest _ => none
  | .fill _ _ => none
  | .seal _ _ => none
  | .metadataWriteback _ _ => none
  | .bindFrame _ => none
  | .bindFrameProceed _ => none
  | .unbindFrame _ => none
  | .keyLoad _ => none
  | .keyFree _ => none
  | .partCreate _ _ => none
  | .partDestroy _ => none
  | .rankTableLoad _ => none
  | .freezeRelease _ => none
  | .resetPartition _ => none
  | .launchQueueEntry _ _ => none
  | .qTail _ _ _ => none
  | .bar2Read _ _ _ _ => none
  | .bar2Write _ _ _ _ => none
  | .translationWalk _ => none
  | .xlInval _ _ _ => none
  | .shootdownComplete _ => none
  | .faultBatchWrite _ => none
  | .resumeReplay _ _ => none
  | .resumeDeliver _ _ => none
  | .resumeKill _ _ => none
  | .handlerEntry _ _ => none
  | .worldScrub _ => none
  | .launchRecordAccept => none
  | .gangDispatch _ _ => none
  | .gangComplete _ _ => none
  | .launchComplete _ => none
  | .preempt _ => none
  | .contextSave _ _ => none
  | .restore _ _ _ => none
  | .thermalMigrate _ _ => none
  | .chunkLand _ _ _ => none
  | .transferEnd _ _ => none
  | .matrixGrant _ => none
  | .passComplete _ => none
  | .tileOpApply _ _ => none
  | .counterReached _ _ => none
  | .counterWaitTimeout _ _ => none
  | .gateFire _ _ => none
  | .gateDone _ _ => none
  | .gateFault _ _ => none
  | .signalReceive _ _ _ => none
  | .reduceChunkApply _ _ => none
  | .headcountCollect _ _ _ => none
  | .drainReceive _ _ _ _ => none
  | .publishReceive _ _ _ _ => none
  | .linkArm _ => none
  | .linkTrained _ _ => none
  | .linkTrainTimeout _ => none
  | .linkSilenceTimeout _ => none
  | .flitReceive _ _ => none
  | .heartbeat _ => none
  | .podTransactionReceive _ _ _ => none
  | .podAckReceive _ _ _ => none
  | .multicastCopyReceive _ _ _ _ => none
  | .remotePacketReceive _ _ _ => none
  | .remoteReplyReceive _ _ => none
  | .remoteForcedSend _ => none
  | .remoteAckTimeout _ => none
  | .hostCompletion _ _ _ => none
  | .hostCompletionTimeout _ => none
  | .registerWrite _ _ _ _ => none
  | .getVersion _ _ => none
  | .getCapabilities _ _ => none
  | .negotiateAlgorithms _ _ => none
  | .getDigests _ _ => none
  | .getCertificate _ _ => none
  | .challenge _ _ => none
  | .getMeasurements _ _ => none
  | .keyExchange _ _ => none
  | .finish _ _ => none
  | .endSession _ _ => none
  | .lockInterfaceRequest _ _ => none
  | .startInterfaceRequest _ => none
  | .stopInterfaceRequest _ => none
  | .ideMacFail _ => none
  | .hxErrClear _ => none
  | .pwCapWrite _ _ => none
  | .coreClockStep _ _ _ => none
  | .coreFlaggedHot _ _ => none
  | .configurationRequest _ => none
  | .softError _ _ => none
  | .packetRetransmission _ => none
  | .laneSpare _ _ => none
  | .spareComplete _ => none
  | .resumeReserved _ _ => none
  | .ringSnoop _ _ => none
  | .attest _ _ => none
  | .lifecycle _ _ => none
  | .powerCap _ => none
  | .vfFlr _ => none
  | .moduleReset _ _ _ => none
  | .retrainComplete _ => none
  | .peerRevive _ => none
  | .deathNotice _ _ => none
  | .linkStateNotice _ _ _ _ _ _ => none
  | .traverseForward _ _ => none
  | .groupTableSet _ => none
  | .demotionExpire _ _ => none
  | .publishAck _ _ _ => none
  | .drainReport _ _ _ => none
  | .applyMapClose _ _ _ _ _ => none
  | .abortNotice _ _ _ => none
  | .plLimitWrite _ _ => none
  | .xlRegionWrite _ _ _ _ => none
  | .groupSlotWrite _ _ _ _ _ => none
  | .fqCons _ _ => none
  | .fqCtl _ _ => none
  | .thermalTrip => none
  | .thermalTripClear => none
  | .wipeComplete => none
  | .powerRemoval => none

/-- A block header (R189). -/
structure Header where
  length : Nat
  live : Nat
  reconv : Int
  hint : Nat
  spin : Bool
  rp : Bool
  bar : Bool
  cold : Bool
  short : Bool
  rsv : Nat
  deriving DecidableEq, Repr

/-- The fields of a header word (Table 8.1). -/
def headerOf (w : DWord) : Header :=
  { length := (w.extractLsb' 50 10).toNat, live := (w.extractLsb' 42 8).toNat,
    reconv := (w.extractLsb' 22 20).toInt, hint := (w.extractLsb' 18 4).toNat, spin := w.getLsbD 17,
    rp := w.getLsbD 16, bar := w.getLsbD 15, cold := w.getLsbD 14, short := w.getLsbD 13,
    rsv := (w.extractLsb' 0 13).toNat }

/-- A header word has class 0xF. -/
def isHeader (w : DWord) : Bool := w.extractLsb' 60 4 == 0xF

/-- The instruction your decoder reads from `nbits` bits `w`, the bits above them zero: the first word is
bits 63..0, its literal word bits 127..64. -/
def decodeTableWord (nbits w : Nat) : Option Instr :=
  let v := w % 2 ^ nbits
  match decode [BitVec.ofNat 64 v, BitVec.ofNat 64 (v / 2 ^ 64)] with
  | .ok (i, _) => some i
  | .error _ => none

end Sys2Proof
end

