-- ==== Sys2Proof/Machine/Crypto.lean ====
section
/-! DEFINITION. The public algorithms that the spec names: SHA3-512 and the SHAKE that ML-DSA uses (FIPS 202), AES-256
(FIPS 197), GCM (SP 800-38D) and AES-KW (SP 800-38F), on lists of bytes. -/

namespace Sys2Proof.Machine

/-! SHA3-512 and SHAKE (FIPS 202). Their state is a list of 25 lanes; lane (x, y) is number `x + 5y`. Rotations and round
constants are generated by the rules of the standard, not tabulated. -/

/-- Lane `i`. -/
def spongeLane (a : List DWord) (i : Nat) : DWord := (a[i]?).getD 0

/-- Parity of column `x`, taken modulo 5. -/
def columnParity (a : List DWord) (x : Nat) : DWord :=
  ((List.range 5).map fun y => spongeLane a (x % 5 + 5 * y)).foldl (· ^^^ ·) 0

/-- θ: every lane takes the parities of the two columns beside its own. -/
def spongeTheta (a : List DWord) : List DWord :=
  a.mapIdx fun i l => l ^^^ columnParity a (i + 4) ^^^ (columnParity a (i + 1)).rotateLeft 1

/-- Where π moves lane `i` = (x, y): to (y, 2x + 3y). -/
def laneAfter (i : Nat) : Nat := i / 5 + 5 * ((2 * (i % 5) + 3 * (i / 5)) % 5)

/-- ρ and π together: from lane `i` = (1, 0) on, the lane met after `t` moves is rotated by (t + 1)(t + 2) / 2 and moved.
Lane 0 stays. -/
def spongeTurn (a : List DWord) : Nat → Nat → Nat → List DWord → List DWord
  | 0, _, _, b => b
  | n + 1, t, i, b =>
    spongeTurn a n (t + 1) (laneAfter i) (b.set (laneAfter i) ((spongeLane a i).rotateLeft ((t + 1) * (t + 2) / 2 % 64)))

/-- χ: every lane takes, inverted, the next of its row under the one after that. -/
def spongeChi (a : List DWord) : List DWord :=
  a.mapIdx fun i l =>
    let row := 5 * (i / 5)
    l ^^^ (~~~ spongeLane a (row + (i + 1) % 5) &&& spongeLane a (row + (i + 2) % 5))

/-- The shift register of ι after `n` steps: multiplication by x modulo x^8 + x^6 + x^5 + x^4 + 1. -/
def iotaRegister : Nat → Byte
  | 0 => 1
  | n + 1 => (iotaRegister n <<< 1) ^^^ (if (iotaRegister n).msb then 0x71 else 0)

/-- ι's constant of round `r`: bit 2^j - 1 is the register's lowest bit after j + 7r steps. -/
def iotaConstant (r : Nat) : DWord :=
  ((List.range 7).map fun j =>
    if (iotaRegister (j + 7 * r)).getLsbD 0 then (1 : DWord) <<< (2 ^ j - 1) else 0).foldl (· ^^^ ·) 0

/-- Round `r` of the permutation. -/
def spongeRound (a : List DWord) (r : Nat) : List DWord :=
  let c := spongeTheta a
  let b := spongeChi (spongeTurn c 24 0 1 c)
  b.set 0 (spongeLane b 0 ^^^ iotaConstant r)

/-- The permutation. -/
def spongeTwist (a : List DWord) : List DWord := (List.range 24).foldl spongeRound a

/-- One block, of as many bytes as the rate, is taken in, and the state permuted. -/
def spongeBlock (a : List DWord) (block : List Byte) : List DWord :=
  let m := (List.range 25).map fun i => w64 (ofBytesLE ((block.drop (8 * i)).take 8))
  spongeTwist (List.zipWith (· ^^^ ·) a m)

def spongeBlocks (rate : Nat) : Nat → List DWord → List Byte → List DWord
  | 0, a, _ => a
  | n + 1, a, m => spongeBlocks rate n (spongeBlock a (m.take rate)) (m.drop rate)

/-- A whole message is taken in: it is followed by the function's own bits, then by 1, zeros and 1 up to a whole block;
`close` holds those bits and that first 1. -/
def spongeTake (rate : Nat) (close : Byte) (m : List Byte) : List DWord :=
  let zeros := rate - 1 - m.length % rate
  let closed := m ++ (if zeros == 0 then [close ^^^ 0x80] else [close] ++ List.replicate (zeros - 1) 0 ++ [0x80])
  spongeBlocks rate (closed.length / rate) (List.replicate 25 0) closed

/-- Blocks of output. -/
def spongeGive (rate : Nat) : Nat → List DWord → List Byte
  | 0, _ => []
  | n + 1, a => ((a.take (rate / 8)).flatMap fun l => bytesLE 8 l.toNat) ++ spongeGive rate n (spongeTwist a)

/-- SHA3-512 as 64 bytes: rate 72, own bits 01. -/
def sha3bytes (m : List Byte) : List Byte := (spongeGive 72 1 (spongeTake 72 0x06 m)).take 64
/-- Blocks of SHAKE128 and of SHAKE256: rates 168 and 136, own bits 1111. -/
def shake128 (blocks : Nat) (m : List Byte) : List Byte := spongeGive 168 blocks (spongeTake 168 0x1f m)
def shake256 (blocks : Nat) (m : List Byte) : List Byte := spongeGive 136 blocks (spongeTake 136 0x1f m)

/-- SHA3-512 as a number whose most significant byte is the first byte of the digest. -/
def sha3 (m : List Byte) : BitVec 512 := BitVec.ofNat 512 (ofBytesBE (sha3bytes m))

/-! AES-256. -/

/-- Multiplication by x in GF(2^8). -/
def gfX (a : Byte) : Byte := (a <<< 1) ^^^ (if a.getLsbD 7 then 0x1B else 0)
def gfMulGo : Nat → Byte → Byte → Byte
  | 0, _, _ => 0
  | n + 1, a, b => (if b.getLsbD 0 then a else 0) ^^^ gfMulGo n (gfX a) (b >>> 1)
def gfMul (a b : Byte) : Byte := gfMulGo 8 a b
/-- The inverse as the 254th power; 0 for 0. -/
def gfInv (a : Byte) : Byte :=
  let a2 := gfMul a a
  let a4 := gfMul a2 a2
  let a8 := gfMul a4 a4
  let a16 := gfMul a8 a8
  let a32 := gfMul a16 a16
  let a64 := gfMul a32 a32
  let a128 := gfMul a64 a64
  gfMul a128 (gfMul a64 (gfMul a32 (gfMul a16 (gfMul a8 (gfMul a4 a2)))))
def sbox (a : Byte) : Byte :=
  let b := gfInv a
  b ^^^ b.rotateLeft 1 ^^^ b.rotateLeft 2 ^^^ b.rotateLeft 3 ^^^ b.rotateLeft 4 ^^^ 0x63
def invSbox (a : Byte) : Byte :=
  gfInv (a.rotateLeft 1 ^^^ a.rotateLeft 3 ^^^ a.rotateLeft 6 ^^^ 0x05)

def subWord (w : List Byte) : List Byte := w.map sbox
def xorBytes (a b : List Byte) : List Byte := (a.zip b).map fun p => p.1 ^^^ p.2

/-- Key words `i` from the eight last ones, newest first (FIPS 197). -/
def keyGo : Nat → Nat → Byte → List (List Byte) → List (List Byte)
  | 0, _, _, ws => ws
  | n + 1, i, rcon, ws =>
    let prev := (ws[0]?).getD []
    let old := (ws[7]?).getD []
    let t :=
      if i % 8 == 0 then xorBytes (subWord (prev.drop 1 ++ prev.take 1)) [rcon, 0, 0, 0]
      else if i % 8 == 4 then subWord prev else prev
    keyGo n (i + 1) (if i % 8 == 0 then gfX rcon else rcon) (xorBytes old t :: ws)

def chunks4 : Nat → List Byte → List (List Byte)
  | 0, _ => []
  | n + 1, b => b.take 4 :: chunks4 n (b.drop 4)

/-- The fifteen round keys of 16 bytes. -/
def keySchedule (key : List Byte) : List (List Byte) :=
  let ws := (keyGo 52 8 1 (chunks4 8 key).reverse).reverse
  (List.range 15).map fun r => ((ws.drop (4 * r)).take 4).flatten

def byteAt (b : List Byte) (i : Nat) : Byte := (b[i]?).getD 0
/-- Column-major state: byte `r + 4c`. -/
def shiftRows (b : List Byte) : List Byte :=
  (List.range 16).map fun i => byteAt b (i % 4 + 4 * ((i / 4 + i % 4) % 4))
def invShiftRows (b : List Byte) : List Byte :=
  (List.range 16).map fun i => byteAt b (i % 4 + 4 * ((i / 4 + 4 - i % 4) % 4))
def mixWith (c0 c1 c2 c3 : Byte) (b : List Byte) : List Byte :=
  (List.range 16).map fun i =>
    let col := 4 * (i / 4)
    let r := i % 4
    let at_ := fun k => byteAt b (col + (r + k) % 4)
    gfMul c0 (at_ 0) ^^^ gfMul c1 (at_ 1) ^^^ gfMul c2 (at_ 2) ^^^ gfMul c3 (at_ 3)

def aesRounds : List (List Byte) → List Byte → List Byte
  | [], b => b
  | [k], b => xorBytes (shiftRows (b.map sbox)) k
  | k :: ks, b => aesRounds ks (xorBytes (mixWith 2 3 1 1 (shiftRows (b.map sbox))) k)

/-- AES-256 of one block. -/
def aesEncrypt (key block : List Byte) : List Byte :=
  match keySchedule key with
  | k :: ks => aesRounds ks (xorBytes block k)
  | [] => block

def aesInvRounds : List (List Byte) → List Byte → List Byte
  | [], b => b
  | [k], b => xorBytes ((invShiftRows b).map invSbox) k
  | k :: ks, b => aesInvRounds ks (mixWith 14 11 13 9 (xorBytes ((invShiftRows b).map invSbox) k))

def aesDecrypt (key block : List Byte) : List Byte :=
  match (keySchedule key).reverse with
  | k :: ks => aesInvRounds ks (xorBytes block k)
  | [] => block

/-! GCM. -/

/-- Multiplication in the field of GHASH; the leftmost bit is the coefficient of 1. -/
def ghMulGo : Nat → BitVec 128 → BitVec 128 → BitVec 128 → BitVec 128
  | 0, _, _, z => z
  | n + 1, x, v, z =>
    ghMulGo n (x <<< 1) ((v >>> 1) ^^^ (if v.getLsbD 0 then 0xE1#128 <<< 120 else 0))
      (if x.getLsbD 127 then z ^^^ v else z)
def ghMul (x h : BitVec 128) : BitVec 128 := ghMulGo 128 x h 0

def blockOf (b : List Byte) : BitVec 128 := BitVec.ofNat 128 (ofBytesBE (b ++ List.replicate (16 - b.length) 0))
def ghashGo : Nat → BitVec 128 → BitVec 128 → List Byte → BitVec 128
  | 0, _, y, _ => y
  | n + 1, h, y, m => ghashGo n h (ghMul (y ^^^ blockOf (m.take 16)) h) (m.drop 16)
/-- GHASH over bytes, padded with zeros to whole blocks. -/
def ghash (h y : BitVec 128) (m : List Byte) : BitVec 128 := ghashGo ((m.length + 15) / 16) h y m

/-- Counter block `J0 + n` of a 96-bit IV (`inc32`). -/
def counterBlock (iv : BitVec 96) (n : Nat) : List Byte := bytesBE 12 iv.toNat ++ bytesBE 4 n

def ctrGo (key : List Byte) (iv : BitVec 96) : Nat → Nat → List Byte → List Byte
  | 0, _, _ => []
  | n + 1, c, m =>
    xorBytes (m.take 16) (aesEncrypt key (counterBlock iv c)) ++ ctrGo key iv n (c + 1) (m.drop 16)
/-- Counter mode from `inc32(J0)`, its own inverse (R40). -/
def gcmCrypt (key : BitVec 256) (iv : BitVec 96) (m : List Byte) : List Byte :=
  ctrGo (bytesBE 32 key.toNat) iv ((m.length + 15) / 16) 2 m

/-- The authentication tag over AAD and ciphertext. -/
def gcmTag (key : BitVec 256) (iv : BitVec 96) (aad ct : List Byte) : BitVec 128 :=
  let k := bytesBE 32 key.toNat
  let h := blockOf (aesEncrypt k (List.replicate 16 0))
  let y := ghash h (ghash h 0 aad) ct
  let lens := bytesBE 8 (8 * aad.length) ++ bytesBE 8 (8 * ct.length)
  ghash h y lens ^^^ blockOf (aesEncrypt k (counterBlock iv 1))

/-- MSB_64 of a tag (R41, R43). -/
def msb64 (t : BitVec 128) : BitVec 64 := t.extractLsb' 64 64

/-! AES-KW. -/

/-- One unwrap step: `A` and the semiblocks. -/
def kwStep (key : List Byte) (n : Nat) (st : BitVec 64 × List DWord) (t : Nat) : BitVec 64 × List DWord :=
  let i := (t - 1) % n
  let r := (st.2[i]?).getD 0
  let b := aesDecrypt key (bytesBE 8 (st.1 ^^^ w64 t).toNat ++ bytesBE 8 r.toNat)
  (w64 (ofBytesBE (b.take 8)), st.2.set i (w64 (ofBytesBE (b.drop 8))))

/-- KW-AD: the key of five wrapped semiblocks, or none where the integrity check fails. -/
def keyUnwrap (kek : BitVec 256) (c : List DWord) : Option (BitVec 256) :=
  match c with
  | a :: rs =>
    let n := rs.length
    let ts := ((List.range (6 * n)).map (· + 1)).reverse
    let r := ts.foldl (kwStep (bytesBE 32 kek.toNat) n) (a, rs)
    if r.1 == 0xA6A6A6A6A6A6A6A6 then
      some (BitVec.ofNat 256 ((r.2.map fun d => d.toNat).foldl (fun x y => x * 2 ^ 64 + y) 0))
    else none
  | [] => none

end Sys2Proof.Machine
end

