-- ==== Sys2Proof/Config.lean ====
section
/-! DEFINITION. What the spec leaves to the implementation or to chance: free values and uninterpreted
functions, each an opaque constant with no body, and the few sizes that are fixed for the part. -/

namespace Sys2Proof.Config

/-- The `n`-th random draw of the module (R39 salts, R423 handle key, R43 metadata keys, R428 identity seed,
R422 on-die keys, R437 nonces) and every other value the spec leaves open: 512 free bits. Nothing constrains
them (log entry 5). -/
opaque freeBits : Nat → BitVec 512

/-- An ML-DSA-87 signature under the key of a seed (R429), which FIPS 204 lets a signer draw anew for each message;
uninterpreted (log entry 10). -/
opaque mlDsaSign : BitVec 256 → List Byte → List Byte

/-- Bytes of a LIFECYCLE token (R437), which the manual does not give (log entry 10). -/
opaque tokenBytes : Nat

/-- Whether a LIFECYCLE token verifies (R437): signer (`false` Saldan, `true` the owner whose key hash is given),
message and token; uninterpreted (log entry 10). -/
opaque tokenVerifies : Bool → BitVec 512 → List Byte → List Byte → Bool

/-- The owner key hash that an accepted MANUFACTURE to PROVISIONED token carries (R437); uninterpreted. -/
opaque tokenOwnerHash : List Byte → BitVec 512

/-- The algorithms of the SPDM connections (R428), by what they serve. -/
structure SpdmAlgorithms where
  extAsym : String
  hash : String
  dhe : String
  aead : String
  deriving DecidableEq, Repr

/-- What the device supports, and nothing else (R428). -/
def spdmAlgorithms : SpdmAlgorithms := ⟨"ML-DSA-87", "SHA3-512", "secp384r1", "AES-256-GCM"⟩

/-- The contents of an SPDM 1.3 response beyond what the manual states: the algorithms, the function, the messages of the
connection up to the request, and the index of the random draw that it may use (R428); uninterpreted (log entry 10). -/
opaque spdmResponse : SpdmAlgorithms → Nat → List Byte → Nat → List Byte

/-- The session key that an SPDM KEY_EXCHANGE agrees on (R428), under the algorithms, from the free draw;
uninterpreted. -/
opaque spdmSessionKey : SpdmAlgorithms → Nat → List Byte → BitVec 256

/-- Whether an SPDM FINISH verifies (R428); uninterpreted. -/
opaque spdmFinishOk : Nat → List Byte → Bool

/-- The measurement of the mask ROM (R429, index 0); a constant of the part that the manual does not give. -/
opaque romMeasurement : BitVec 512

/-- The bytes that measurement `i` of R429 hashes, from the numbers it covers: the manual gives what each index
measures and not how it is laid out (log entry 10). -/
opaque measured : Nat → List Nat → List Byte

/-- The set of an L2 slice that a line falls in, from bits <36:11> of its DPA (R127: a hash that affects only
performance), the set of an L1, from the space (0 local, 1 host, 2 global) and the number of the line (R132), and the
set of a cluster TLB, from the partition, the address and the size field of a leaf (Table 3.6); uninterpreted (log entry
26). -/
opaque l2Set : BitVec 26 → BitVec 13
opaque l1Set : Nat → Nat → BitVec 16
opaque tlbSet : Nat → Nat → Nat → BitVec 8

/-- Average power that a state of the clock draws is not given by any rule; the sensors' figure is an operand of
the event that reports it. The clock steps of R436, in MHz. -/
def clockMax : Nat := 2100
def clockMin : Nat := 700
def clockStepMhz : Nat := 25

end Sys2Proof.Config
end

