-- ==== Sys2Proof/Machine/Tab.lean ====
section
/-! DEFINITION. Sparse tables: sorted lists of key and value, in which no entry holds what an unlisted
key reads as, so that equal tables are equal data. Memory and register files are kept so. -/

namespace Sys2Proof.Machine

/-- A sparse table: keys strictly rising. -/
abbrev Tab (α : Type) := List (Nat × α)

/-- The value of key `k`; `d` where the key is not listed. -/
def tabGet {α : Type} (d : α) : Tab α → Nat → α
  | [], _ => d
  | (j, v) :: t, k => if j == k then v else tabGet d t k

/-- The entry of key `k`, if listed. -/
def tabFind {α : Type} : Tab α → Nat → Option α
  | [], _ => none
  | (j, v) :: t, k => if j == k then some v else tabFind t k

/-- The table with `k` put to `v`, listed whatever `v` is. -/
def tabPut {α : Type} : Tab α → Nat → α → Tab α
  | [], k, v => [(k, v)]
  | (j, w) :: t, k, v =>
    if k < j then (k, v) :: (j, w) :: t else if j == k then (k, v) :: t else (j, w) :: tabPut t k v

/-- The table without key `k`. -/
def tabDel {α : Type} (t : Tab α) (k : Nat) : Tab α := t.filter fun e => !(e.1 == k)

/-- The table with `k` reading as `v`: the entry is dropped where `v` is what an unlisted key reads as. -/
def tabSet {α : Type} [DecidableEq α] (d : α) (t : Tab α) (k : Nat) (v : α) : Tab α :=
  if v = d then tabDel t k else tabPut t k v

/-- Every key is below `k`… of the head: keys strictly rising. -/
def tabSorted {α : Type} : Tab α → Bool
  | [] => true
  | [_] => true
  | (j, _) :: (k, w) :: t => j < k && tabSorted ((k, w) :: t)

/-- The canonical form: keys strictly rising, no entry equal to the default. -/
def tabWf {α : Type} [DecidableEq α] (d : α) (t : Tab α) : Bool :=
  tabSorted t && t.all fun e => !(decide (e.2 = d))

/-- The table with the value of key `k` changed by `f`. -/
def tabMod {α : Type} [DecidableEq α] (d : α) (t : Tab α) (k : Nat) (f : α → α) : Tab α :=
  tabSet d t k (f (tabGet d t k))

/-- Every value changed by `f`, which leaves what an unlisted key reads as. -/
def tabMap {α : Type} [DecidableEq α] (d : α) (f : α → α) : Tab α → Tab α
  | [] => []
  | (k, v) :: t => if f v = d then tabDel (tabMap d f t) k else (k, f v) :: tabMap d f t

/-- The list with only the first `n` of the elements that meet `p`. -/
def keepFirst {α : Type} (p : α → Bool) : Nat → List α → List α
  | _, [] => []
  | n, x :: xs =>
    if !p x then x :: keepFirst p n xs
    else match n with
      | 0 => keepFirst p 0 xs
      | m + 1 => x :: keepFirst p m xs

end Sys2Proof.Machine
end

