-- ==== Sys2Proof/Machine/State.lean ====
section
/-! DEFINITION. The state of the module as plain data: every register, memory, queue and engine state that the
spec names, and the few fields that are the model's own (their docstrings say so). -/

namespace Sys2Proof.Machine

/-- Why a step stops with a fault. No step of this model stops so: every fault of the spec is taken by a thread, an
engine or a host request (Table 0.3). The one constructor is for an issue context that names no resident
thread, which no step builds; stopping there is safe. -/
inductive Fault where
  | noBundle
  deriving DecidableEq, Repr

/-- Why a step is refused. -/
inductive Refusal where
  /-- The instruction has no meaning in the model yet; raised by `exec`'s arms alone. Safe. -/
  | notModelled (mnemonic : String)
  deriving DecidableEq, Repr

/-! ## Threads -/

/-- A general register with its companions (R7, R161, R164, R184). -/
structure Reg where
  word : Word
  code : Code
  tag : Tag
  full : Bool
  pending : Bool
  /-- passes to which the register is lent (R184) -/
  lent : Nat
  deriving DecidableEq, Repr

/-- A register at launch (R161). -/
def Reg.zero : Reg := ⟨0, 5, .raw, true, false, 0⟩

/-- A fault of one lane, as its instruction finds it. `page` marks a demand fault (R405), `freezing` a PROTECT that
freezes the core (Table 18.7), `posted` a failed posted write that a release reports (R303). -/
structure FInfo where
  code : BitVec 8
  detail : BitVec 8
  access : Nat
  addr : Option DWord
  posted : Bool
  page : Option Nat
  freezing : Bool
  deriving DecidableEq, Repr

/-- Why a thread is BLOCKED (Table 7.2). -/
inductive Block where
  /-- a source is empty with a fill pending, or a destination has a fill pending or is lent (R165, R166, R184) -/
  | reg (r : Nat)
  /-- until an access in flight has ended: an acquire (R322), a write to the same sector (R325), the walk of an atomic's
  page (R297) -/
  | access (id : Nat)
  /-- until every earlier access of the thread has its verdict, so that a fault of one is precise (R404; log entry 12) -/
  | verdict
  /-- until the thread's earlier SO accesses have been performed (R320) -/
  | soOrder
  /-- a release waits for earlier accesses (R322) -/
  | drain (sc : Scope)
  /-- the channel is BUSY; `order` is the place in the line (R143), which the thread keeps while its release waits -/
  | channel (c order : Nat) (drain : Option Scope)
  /-- CMWAIT (R234) -/
  | mapBits (m : Nat) (mask : Nat)
  /-- RKACQ and RKWAIT (R238) -/
  | rinkFree (rk : Nat)
  | rinkFull (rk : Nat)
  /-- LCWAIT and TOWAIT (R306); `hit` once a change of the counter has left it reached -/
  | counter (takeoff : Bool) (idx thr : Nat) (deadline : Option Nat) (pred : Nat) (lit hit : Bool)
  /-- a pod peer has 4,096 unacknowledged transactions (R107) -/
  | podFull (peer : Nat)
  /-- LAUNCH, until the router has answered (R371): its status register, and whether it has a literal -/
  | router (dst : Nat) (lit : Bool)
  /-- EPUSH on a full edge (R372) -/
  | edge (e : Nat)
  /-- GPOST in the collective engine's line, since the clock of its arrival: by launch sequence number within a clock,
  then by `order` (R310) -/
  | gateSlot (clock seq order : Nat)
  /-- PGREQ, until its batch is written (R227) -/
  | queueRoom (batch : Nat)
  /-- TREAD, TCVT and MWAIT, until these tile operations are done (R284, R290) -/
  | tileOps (ids : List Nat)
  /-- the tile's queue holds 255 entries (R284) -/
  | tileQueue (tile : Nat)
  /-- a lower lane of the bundle waits: its key and its thread (R230, R315) -/
  | lane (key uid : Nat)
  deriving DecidableEq, Repr

/-- Thread status (Table 7.2). EXITED threads have left the core's table. -/
inductive Status where
  | ready
  | blocked (b : Block)
  | signed (cv : Nat)
  /-- waiting at a reconvergence point since a clock (R172) -/
  | reconv (p : DWord) (since : Nat)
  /-- parked on a record; none until the record is written (R410) -/
  | parked (rseq : Option Nat)
  /-- a policy fault was taken and the handler is entered in the next clock (R412) -/
  | trapping
  /-- YIELD takes the thread out of READY until this clock (R365) -/
  | yielded (until_ : Nat)
  deriving DecidableEq, Repr

/-- A failed posted write not yet reported (R122, R303). -/
structure Posted where
  addr : DWord
  code : BitVec 8
  detail : BitVec 8
  access : Nat
  deriving DecidableEq, Repr

/-- One resident thread (Table 7.1, Table 16.6, R384). -/
structure Thread where
  /-- the model's own name of the thread, never used twice -/
  uid : Nat
  /-- launch sequence number -/
  seq : Nat
  pc : DWord
  /-- current block: header address, and the header as it was when the block was entered (R188, R190) -/
  blk : DWord
  hdr : DWord
  /-- the entry block has been entered (R188) -/
  entered : Bool
  regs : Tab Reg
  preds : BitVec 7
  rstk : List DWord
  status : Status
  /-- clock since which the thread has been READY (R168) -/
  since : Nat
  demotedUntil : Nat
  /-- the first instruction's acquire is done (R385) -/
  acquired : Bool
  /-- the wait of the instruction at the PC has ended (R290, R227, R333); the model's own -/
  waited : Bool
  /-- the instance in whose bundle the thread began to issue the instruction at the PC, where lanes of that bundle had to
  wait; the model's own -/
  bundle : Option Nat
  epc : DWord
  eblk : DWord
  /-- the header of `eblk` as it was when that block was entered -/
  ehdr : DWord
  inHandler : Bool
  epcWritten : Bool
  trapinfo : DWord
  frec : BitVec 256
  posted : List Posted
  /-- index and extent at levels 0 to 7 (R384) -/
  gid : List Nat
  ext : List Nat
  deriving DecidableEq, Repr

/-! ## Slot rows and cores -/

/-- A convergence register (Table 7.6), with the instruction whose rendezvous is being signed (the model's own: it
is the word at `pc`). -/
structure CvReg where
  decl : BitVec 32
  signed : BitVec 32
  gmask : BitVec 32
  pc : DWord
  instr : Option Instr
  /-- fired and waiting as a whole (R175), with the place in the order of firing (R285) -/
  fired : Option Nat
  /-- BAR has arrived in this firing and waits for its phase (R369) -/
  arrived : Bool
  deriving DecidableEq, Repr

def CvReg.zero : CvReg := ⟨0, 0, 0, 0, none, none, false⟩

/-- A row's flags at the barrier of one level (R368), with the phase in which it arrived. -/
structure BarFlag where
  arrived : Bool
  waiting : Bool
  phase : Nat
  deriving DecidableEq, Repr

def BarFlag.zero : BarFlag := ⟨false, false, 0⟩

/-- A slot row in use (R159): its gang and its four convergence registers. -/
structure Row where
  seq : Nat
  /-- index of the top-level gang -/
  top : Nat
  /-- index of the row within its level-1 node (R383) -/
  index : Nat
  /-- indices at levels 1 to 7 -/
  path : List Nat
  cv : Tab CvReg
  bar : Tab BarFlag
  deriving DecidableEq, Repr

/-- An abacus register (Table 7.7). -/
structure Abacus where
  val : Nat
  ovf : Bool
  pinf : Bool
  ninf : Bool
  nan : Bool
  deriving DecidableEq, Repr

def Abacus.zero : Abacus := ⟨0, false, false, false, false⟩

/-- A chunk map (R151, R234). -/
structure ChunkMap where
  bits : Nat
  held : Bool
  code : BitVec 8
  /-- the chunks lie in memory, not in scratchpad (R155) -/
  mem : Bool
  deriving DecidableEq, Repr

def ChunkMap.clear : ChunkMap := ⟨2 ^ 128 - 1, false, 0, false⟩

/-- Rink stage states (Table 6.5). -/
inductive StageState where
  | free | acquired | inflight | full | faulted (code : BitVec 8) | consuming
  deriving DecidableEq, Repr

/-- A rink (R153). -/
structure Rink where
  base : Nat
  size : Nat
  count : Nat
  producer : Nat
  consumer : Nat
  stages : Tab StageState
  maps : Tab ChunkMap
  deriving DecidableEq, Repr

/-- Where a cached or translated address lies (R123, R132). -/
inductive Space where
  | local | host | global
  deriving DecidableEq, Repr

/-- An L1 line: 128 bytes of one space, tagged with a key slot, with those of its two sectors that are valid (R132).
`addr` counts lines. -/
structure L1Line where
  space : Space
  addr : Nat
  slot : Nat
  secs : Tab (List Datum)
  deriving DecidableEq, Repr

/-- A leaf translation (Table 3.4): fields of the leaf and the virtual page it covers. -/
structure Leaf where
  part : Nat
  vbase : Nat
  size : Nat
  base : Nat
  slot : Nat
  host : Bool
  x : Bool
  rd : Bool
  wr : Bool
  at_ : Bool
  cls : OrdClass
  deriving DecidableEq, Repr

/-- A failed check: code, step of Table 3.5, whether a table read of the walker's own failed (R76), and the page a
record names (R88). -/
structure XFail where
  code : BitVec 8
  step : Nat
  walker : Bool
  page : Nat
  deriving DecidableEq, Repr

/-- Where a requester stands: its core, if it is one, its cluster and its die. -/
structure Place where
  core : Option Nat
  cluster : Nat
  die : Nat
  deriving DecidableEq, Repr

/-- A walk that an engine, a fetch or a home has asked for and that waits for its slot, or for the walk of its granule
that is in progress (R80); and what it came to, until the request takes it up. -/
structure WalkReq where
  id : Nat
  place : Place
  part : Nat
  page : Nat
  result : Option (Except XFail Leaf)
  deriving DecidableEq, Repr

/-- A core gang in residence (R383): launch, top-level gang, its slot rows, its scratchpad allocation and the
clock of its placement. -/
structure CoreGang where
  seq : Nat
  top : Nat
  /-- indices of its nodes above the core -/
  path : List Nat
  rows : List Nat
  base : Nat
  size : Nat
  since : Nat
  deriving DecidableEq, Repr

/-- A frozen core's cause (Table 18.7): the FREEZE record's sequence once written, and the lanes that raised it. -/
structure Freeze where
  rseq : Option Nat
  uids : List Nat
  deriving DecidableEq, Repr

/-- One core (R159, R162). -/
structure Core where
  threads : Tab Thread
  rows : Tab Row
  q : Tab Abacus
  cm : Tab ChunkMap
  rk : Tab Rink
  split : Nat
  scratch : Tab Datum
  /-- lines of the L1, newest first -/
  l1 : List L1Line
  tlb : List Leaf
  /-- the launch whose gangs the core holds, or last held and not yet scrubbed (R160, R424) -/
  launch : Option Nat
  gangs : List CoreGang
  frozen : Option Freeze
  hot : Bool
  /-- pre-emption halts the core (R399) -/
  halting : Bool
  /-- a world's scrub is due (R424) -/
  scrubDue : Bool
  pmark : BitVec 8
  pmarkCount : BitVec 32
  deriving DecidableEq, Repr

def Core.empty : Core :=
  ⟨[], [], [], [], [], 6, [], [], [], none, [], none, false, false, false, 0, 0⟩

/-! ## Copy engine -/

/-- A transfer (R144, Table 6.3). -/
structure Transfer where
  /-- 0 plain, 1 gather, 2 scatter -/
  kind : Nat
  src : DWord
  dst : DWord
  srcSp : Bool
  dstSp : Bool
  srcStride : Int
  dstStride : Int
  rows : Nat
  rowBytes : Nat
  idx : Nat
  map : Option Nat
  lc : Option Nat
  toc : Option Nat
  deriving DecidableEq, Repr

/-- A fault that ended or is ending work: code, row and address, and whether it is a freezing PROTECT (R147). -/
structure WorkFault where
  code : BitVec 8
  /-- 0 of a read, 1 of a write -/
  access : Nat
  row : Nat
  addr : DWord
  freezing : Bool
  /-- writes an ENGINE record (R147, R149) -/
  report : Bool
  deriving DecidableEq, Repr

/-- Work that a channel runs (R143, R150). -/
structure Work where
  /-- the model's own name of the work, never used twice -/
  id : Nat
  /-- the issuing thread's launch and partition -/
  seq : Nat
  part : Nat
  /-- the top-level gang of the issuing thread -/
  top : Nat
  base : Nat
  size : Nat
  /-- the transfer that runs; none while the walk is at a record -/
  tr : Option Transfer
  /-- rink and stage whose implicit map it reports into (R239) -/
  rink : Option (Nat × Nat)
  /-- address of the current record of a chain -/
  chain : Option DWord
  /-- next record -/
  next : DWord
  /-- chunks of the destination stream that have been issued, and those that have landed -/
  issued : List Nat
  landed : List Nat
  /-- chunks of which an access has failed -/
  failed : List Nat
  /-- words read and not yet written, by their place in the stream -/
  buf : Tab Datum
  fault : Option WorkFault
  deriving DecidableEq, Repr

/-- A copy channel (Tables 6.1, 6.6, 6.7). -/
structure Channel where
  /-- 0 IDLE, 1 BUSY, 2 STOPPED, 3 FROZEN -/
  state : Nat
  resume : Bool
  code : BitVec 8
  row : Nat
  records : BitVec 32
  head : DWord
  faddr : DWord
  work : Option Work
  deriving DecidableEq, Repr

def Channel.zero : Channel := ⟨0, false, 0, 0, 0, 0, 0, none⟩

/-! ## Matrix engine -/

/-- A lane of B of a pass: its thread, and what its lent registers held at the firing (A, B, scale). A lent
register does not change, and the copy stands in for a thread that has ended before the grant. -/
structure PassLane where
  key : Nat
  uid : Nat
  words : List Datum
  deriving DecidableEq, Repr

/-- A matrix pass (R181, R287). -/
structure Pass where
  lanes : List PassLane
  a : Nat
  b : Nat
  scale : Option Nat
  z : Bool
  type : Tag
  prio : Nat
  entered : Nat
  /-- it has an entry of the reservation table; one withdrawn by a save waits at its restore for a free one (R186) -/
  inTable : Bool
  deriving DecidableEq, Repr

/-- An operation in a tile's queue (R284). -/
inductive TileOpKind where
  | pass (p : Pass)
  | zero
  | write (lane : Nat) (data : List Datum)
  | read (key dst : Nat)
  | cvt (key dst : Nat) (type : Tag) (mode : BitVec 2) (sat : Bool)
  deriving DecidableEq, Repr

structure TileOp where
  id : Nat
  core : Nat
  row : Nat
  cv : Nat
  kind : TileOpKind
  deriving DecidableEq, Repr

/-- An accumulator tile and its control word (Table 7.9, R284, R285). -/
structure Tile where
  elems : Tab Datum
  held : Bool
  core : Nat
  row : Nat
  cv : Nat
  code : BitVec 8
  tag : Tag
  lastSeq : Option Nat
  queue : List TileOp
  deriving DecidableEq, Repr

def Tile.zero : Tile := ⟨[], false, 0, 0, 0, 0, .raw, none, []⟩

/-- The pass that the engine has granted: its tile, and what it will write (none: a check failed). -/
structure Running where
  tile : Nat
  op : Nat
  result : Option (List Datum)
  since : Nat
  deriving DecidableEq, Repr

/-- One cluster (R162). -/
structure Cluster where
  tiles : Tab Tile
  running : Option Running
  chans : Tab Channel
  tlb : List Leaf
  deriving DecidableEq, Repr

def Cluster.empty : Cluster := ⟨[], none, [], []⟩

/-! ## Main memory and the L2 -/

/-- A metadata unit: a version block, or a tree node of levels 2 to 4 (Table 2.3, R44). -/
structure MUnit where
  ronly : Bool
  bound : Bool
  slot : Nat
  major : Nat
  ctr : Tab Nat
  deriving DecidableEq, Repr

def MUnit.blank : MUnit := ⟨false, false, 0, 0, []⟩

/-- A unit in the version cache (R45). -/
structure Cached where
  unit : MUnit
  changed : Bool
  deriving DecidableEq, Repr

/-- The tag of an L2 line (R127, R129): the key slot it was filled under, and its way. -/
structure L2Tag where
  slot : Nat
  way : Nat
  deriving DecidableEq, Repr

/-- A valid L2 sector (R127): its 16 words and its dirty bit. -/
structure L2Sector where
  words : List Datum
  dirty : Bool
  deriving DecidableEq, Repr

/-- A fill that has been requested (R47, R48): its tile, its key slot, the way mask under which it began (R131), and
the code of a re-seal's or a seal's fill of the tile that has failed meanwhile (R49, R53). -/
structure Fill where
  tile : Nat
  slot : Nat
  mask : BitVec 24
  failed : Option (BitVec 8)
  deriving DecidableEq, Repr

/-- A non-leaf entry in the walk cache (R79, R81). -/
structure WalkEntry where
  part : Nat
  level : Nat
  vbase : Nat
  table : Nat
  deriving DecidableEq, Repr

/-- Gate entry fields (Table 15.2). -/
structure Gate where
  dst : DWord
  src : DWord
  ver : Nat
  group : Nat
  coll : Nat
  thr : Nat
  expect : Nat
  words : Nat
  lc : Nat
  dlc : Nat
  toc : Nat
  value : BitVec 32
  kind : Nat
  op : Nat
  fmt : Nat
  rel : Bool
  newctx : Bool
  relative : Bool
  dlcEn : Bool
  toEn : Bool
  armEn : Bool
  deriving DecidableEq, Repr

/-- A gate slot (R310, R311, R344). -/
structure GateSlot where
  seq : Nat
  /-- 0 FREE, 1 ARMED, 2 FIRING, 3 DONE, 4 FAULTED, 5 CANCELLED -/
  state : Nat
  code : BitVec 8
  /-- order of finishing, for reuse -/
  finished : Nat
  part : Nat
  launch : Nat
  keySlot : Nat
  gate : Option Gate
  h : Nat
  /-- a test has found the conditions of R345 to hold -/
  ready : Bool
  /-- posted under a version not yet published (R310) -/
  heldBack : Bool
  /-- words read and not yet sent, by their place in the source -/
  buf : Tab Datum
  /-- the first access of the firing to fail -/
  fail : Option WorkFault
  deriving DecidableEq, Repr

def GateSlot.zero : GateSlot := ⟨0, 0, 0, 0, 0, 0, 0, none, 0, false, false, [], none⟩

/-- An apply-map entry (R350). -/
structure ApplyMap where
  src : Nat
  seq : Nat
  bits : Nat
  deriving DecidableEq, Repr

/-- A reduction context (R351). -/
structure RedCtx where
  part : Nat
  group : Nat
  coll : Nat
  aborted : Bool
  maps : List ApplyMap
  deriving DecidableEq, Repr

/-- A packet of the remote fabric as this module receives it (R114): source host id and port, the packet's place in its
transport's order, which a retransmission keeps, and its request identifier. -/
structure RemoteFrom where
  src : Nat
  port : Nat
  place : Nat
  id : Nat
  deriving DecidableEq, Repr

/-- Who sent a piece of a reduction chunk, and takes its answer. -/
inductive ChunkFrom where
  | pod (src seq : Nat)
  | remote (f : RemoteFrom)
  /-- a gate of this module: die, slot and sequence, first word and number of words -/
  | gate (die slot seq word n : Nat)
  deriving DecidableEq, Repr

/-- A piece of a reduction chunk in the staging SRAM (R341): it waits for the chunk's other pieces, for an apply-map
entry (R349), or for a frame that is being bound (R57). -/
structure Staged where
  from_ : ChunkFrom
  req : FabReq
  deriving DecidableEq, Repr

/-- One C-die with its L-die: tile engine, L2 tags, walker, collective engine. -/
structure Die where
  roots : Tab Nat
  /-- the draw that gave the metadata key (R43) -/
  metaDraw : Nat
  vcache : Tab Cached
  lastCode : BitVec 8
  lastStage : Nat
  failPending : Bool
  wiping : Bool
  failTile : Nat
  failSlot : Nat
  resealCount : BitVec 64
  failCount : BitVec 64
  exhaustCount : BitVec 64
  zeroCount : BitVec 64
  /-- metadata units that failed verification (R50): every frame beneath one is lost -/
  lost : List Nat
  /-- tree nodes whose major is exhausted (R46): every group beneath one is read-only, but for those bound anew or
  rotated since, which `exempt` lists -/
  exhausted : List Nat
  exempt : List Nat
  walkCache : List WalkEntry
  gates : Tab GateSlot
  ctxs : List RedCtx
  /-- the staging SRAM, oldest first (R341) -/
  staged : List Staged
  takeoff : Tab (BitVec 48)
  /-- partitions for which the collective engine is frozen (R416) -/
  frozenParts : List Nat
  deriving DecidableEq, Repr

def Die.reset (d : Nat) : Die :=
  ⟨[], d, [], 0, 0, false, false, 0, 0, 0, 0, 0, 0, [], [], [], [], [], [], [], [], []⟩

/-- A landing counter (Table 4.14). -/
structure Landing where
  count : BitVec 48
  pending : BitVec 16
  deriving DecidableEq, Repr

/-- A key slot (R39, R422). -/
structure KeySlot where
  loaded : Bool
  key : BitVec 256
  floor : Nat
  gen : Nat
  owner : Option Nat
  deriving DecidableEq, Repr

def KeySlot.empty : KeySlot := ⟨false, 0, 0, 0, none⟩

/-! ## Partitions -/

/-- A fault record (Table 18.1) and the threads parked on it, by uid. -/
structure FRec where
  kind : Nat
  die : Nat
  cluster : Nat
  core : Nat
  unit : Nat
  code : BitVec 8
  detail : BitVec 8
  access : Nat
  req : Bool
  lanes : BitVec 32
  seq : Nat
  pc : DWord
  addr : DWord
  uids : List Nat
  deriving DecidableEq, Repr

/-- A batch waiting to be written (R88, R409). -/
structure Batch where
  id : Nat
  recs : List FRec
  deriving DecidableEq, Repr

/-- A demand fault of one lane, kept until every lane of its instruction has its verdict (R88). -/
structure Demand where
  inst : Nat
  core : Nat
  key : Nat
  uid : Nat
  code : BitVec 8
  access : Nat
  page : Nat
  record : FRec
  deriving DecidableEq, Repr

/-- A token of an edge (R372): its words with their codes. -/
structure Token where
  lo : Datum
  hi : Datum
  /-- admitted: its gang of the consumer exists (R393) -/
  admitted : Bool
  deriving DecidableEq, Repr

/-- A graph edge (Table 17.7). -/
structure Edge where
  /-- 0 FREE, 1 PROD, 2 CONS, 3 OPEN, 4 CLOSED -/
  state : Nat
  cap : Nat
  tokens : List Token
  producer : Option Nat
  consumer : Option Nat
  deriving DecidableEq, Repr

def Edge.free : Edge := ⟨0, 0, [], none, none⟩

/-- A group slot (Table 15.5) and the bookkeeping of its round (R355). -/
structure GroupSlot where
  valid : Bool
  group : Nat
  coord : Nat
  version : Nat
  round : Nat
  count : Nat
  roster : Nat
  /-- current members, and the target of the round -/
  members : List Nat
  target : List Nat
  targetVer : Nat
  /-- GJOIN (true) and GLEAVE (false) requests taken by the next round -/
  requests : List (Nat × Bool)
  dead : List Nat
  reported : List Nat
  acked : List Nat
  /-- the version that the module's last GJOIN or GLEAVE returned, until it is published (R357) -/
  asked : Option Nat
  /-- the module takes its DRAIN report back, and the coordinator has not answered yet (R355) -/
  retracting : Bool
  /-- a new coordinator has restarted the round at COLLECT (R356) -/
  restarted : Bool
  deriving DecidableEq, Repr

def GroupSlot.zero : GroupSlot := ⟨false, 0, 0, 0, 0, 0, 0, [], [], 0, [], [], [], [], none, false, false⟩

/-- A shootdown in progress (R83): its range and the accesses it waits for. -/
structure Shootdown where
  lo : Nat
  hi : Nat
  waits : List Nat
  deriving DecidableEq, Repr

/-- TDI states (R430). -/
inductive Tdi where
  | unlocked | locked | run | error
  deriving DecidableEq, Repr

/-- One partition: translation, scheduling, fault, rank-table and collective blocks. -/
structure Part where
  exists_ : Bool
  clusters : BitVec 128
  descriptor : BitVec 1024
  xlRoot : DWord
  xlEnable : Bool
  xlGlobal : Bool
  badWrite : Bool
  invalErr : Bool
  shoot : Option Shootdown
  keymask : BitVec 256
  regions : Tab DWord
  /-- rank-table block, by doubleword index (Table 4.7) -/
  rt : Tab DWord
  l2Ways : BitVec 24
  spMax : Nat
  /-- LQ_CTL_q: stop and ceiling -/
  lqStop : BitVec 8
  lqCeiling : Tab Nat
  preemptCount : BitVec 64
  migrateCount : BitVec 64
  fqBase : DWord
  fqProd : BitVec 13
  fqCons : BitVec 13
  fqEnable : Bool
  writeFail : Bool
  badResume : Bool
  fqCount : BitVec 64
  svBase : DWord
  svSize : DWord
  nextRseq : Nat
  batches : List Batch
  /-- resumes, by rseq, that saved threads take at their restore (R411) -/
  resumes : Tab Nat
  edges : Tab Edge
  groups : Tab GroupSlot
  vfFrozen : Bool
  tdi : Tdi
  /-- the session under which the TDI was locked (R430) -/
  ideSecure : Bool
  deriving DecidableEq, Repr

def Part.reset : Part :=
  ⟨false, 0, 0, 0, false, false, false, false, none, 0, [], [], 0xFFFFFF, 6, 0, [], 0, 0, 0, 0, 0, false, false,
   false, 0, 0, 0, 1, [], [], [], [], false, .unlocked, true⟩

/-- A host queue (R426, R433). -/
structure HostQueue where
  base : DWord
  tail : DWord
  cons : DWord
  /-- entries of the ring that the proctor has seen posted, in CXL mode (R426) -/
  seen : DWord
  deriving DecidableEq, Repr

def HostQueue.zero : HostQueue := ⟨0, 0, 0, 0⟩

/-- A function: PF0 is 0, VF p is 1 + p (R426, R428, R434). -/
structure Fn where
  queues : Tab HostQueue
  errValid : Bool
  errFunc : Nat
  errCode : BitVec 8
  errAddr : DWord
  errCount : BitVec 64
  /-- SPDM: bytes of the connection so far, and the session key of an established session -/
  spdmLog : List Byte
  spdmPending : Option (BitVec 256)
  spdmKey : Option (BitVec 256)
  deriving DecidableEq, Repr

def Fn.reset : Fn := ⟨[], false, 0, 0, 0, 0, [], none, none⟩

/-! ## Accesses in flight and the fabrics -/

/-- What an access does (R219, R222, R297, R225, R226). -/
inductive AccKind where
  | load (dst bytes : Nat) (type : Tag) (ldx : Bool) (acq : Scope) (nrp : Nat)
  | store (ws : List Datum) (discardL1 : Bool)
  | sub (bytes : Nat) (w : Word) (pc : Code) (discardL1 : Bool)
  | atomic (op : AtomOp) (type : Tag) (operand new : List Datum) (dst : Option Nat) (scope : Scope)
  | probe (dst : Nat)
  | pref
  | cinv
  | cwb
  /-- the zero-length read of a release at .sy (R333) -/
  | zeroRead
  deriving DecidableEq, Repr

/-- Where an access stands. -/
inductive Stage where
  /-- waits for a table walk (R80) -/
  | walk
  /-- on its way to its home slice (R130) -/
  | slice
  /-- missed in the L2; waits for the fill of its tile (R48) -/
  | fill
  /-- sent to a pod peer (R107), to the remote fabric (R114), or to the host (R125) -/
  | pod (peer seq : Nat)
  | remote (id : Nat)
  | host (addr : Nat)
  /-- at the host interface, behind the thread's earlier SO access or an atomic that holds the line (R124, R320) -/
  | hold (addr : Nat)
  /-- performed: the words come back; `clean` grants a refetch (R26) -/
  | reply (ws : List Datum) (clean : Bool)
  /-- a PROBE's answer -/
  | probed (w : Word)
  /-- failed; the fault is taken once the thread's earlier accesses have their verdicts (R404) -/
  | failed (i : FInfo)
  deriving DecidableEq, Repr

/-- Where a global access goes. -/
inductive Dest where
  /-- this module is the home -/
  | self
  | pod (pos : Nat)
  | remote (hid prof : Nat)
  | multicast (group : Nat)
  deriving DecidableEq, Repr

/-- How packets reach a host id (R93, R113): its Ultra Ethernet address, and the paths and the entropy base of its
profile. -/
structure Route where
  addr : BitVec 128
  paths : Nat
  base : Nat
  deriving DecidableEq, Repr

def Route.none : Route := ⟨0, 0, 0⟩

/-- What steps 1 to 6 of Table 3.5 give a global access: it resolves its rank once, with the route of a remote home
(R94). -/
structure GDest where
  dest : Dest
  region : Nat
  offset : Nat
  cls : OrdClass
  route : Route
  deriving DecidableEq, Repr

/-- An access in flight. -/
structure Access where
  id : Nat
  core : Nat
  key : Nat
  uid : Nat
  seq : Nat
  /-- the top-level gang of its thread -/
  top : Nat
  /-- the instruction instance it belongs to, and that in which its bundle began to issue -/
  inst : Nat
  bundle : Nat
  part : Nat
  ea : DWord
  /-- the local address that is translated on this module -/
  lva : Nat
  order : OrderReq
  kind : AccKind
  cls : OrdClass
  /-- resolution of a global access -/
  dest : Option GDest
  /-- the thread as it was when it issued the instruction, kept until the verdict is known: a fault returns the thread
  to it, as if it had issued nothing since (R404; log entry 12) -/
  before : Option Thread
  /-- an atomic that waits for its page's walk, to issue again (R297) -/
  holds : Bool
  /-- it is an acquire, or a release, of its thread (Table 14.3) -/
  acq : Bool
  rel : Bool
  /-- already refetched once (R26) -/
  refetched : Bool
  /-- L1 sector that a reply installs, or that a write updates or discards: space, sector, key slot -/
  sector : Option (Space × Nat × Nat)
  /-- DPA and key slot of a local access -/
  place : Option (Nat × Nat)
  /-- base and size field of the leaf that translated it on this module (R83) -/
  leaf : Option (Nat × Nat)
  stage : Stage
  deriving DecidableEq, Repr

/-! ## Launches -/

/-- A core's gangs as a context save holds them (Table 18.6). -/
structure SavedCore where
  core : Nat
  gangs : List CoreGang
  threads : Tab Thread
  rows : Tab Row
  q : Tab Abacus
  cm : Tab ChunkMap
  rk : Tab Rink
  chans : Tab Channel
  scratch : Tab Datum
  tiles : Tab Tile
  /-- batches and faults of its parked threads that have no record yet (Table 18.8) -/
  batches : List Batch
  demands : List Demand
  deriving DecidableEq, Repr

inductive GangState where
  | waiting
  /-- the cores that hold it, one for each core gang -/
  | placed (cores : List Nat)
  | halting (cores : List Nat)
  /-- saved, with the base and size of its area in the save pool (R414). Gangs that were saved together have one
  context, which the first of them holds -/
  | saved (ctx : List SavedCore) (base size : Nat)
  | done
  deriving DecidableEq, Repr

/-- A top-level gang (R383, R389). -/
structure TopGang where
  idx : Nat
  state : GangState
  since : Nat
  dispatched : Nat
  carried : Nat
  migrated : Nat
  /-- in-edge and token that spawned it (R393) -/
  token : Option (Nat × Datum × Datum)
  popped : Bool
  deriving DecidableEq, Repr

/-- A barrier of a gang node (R368): level, the node's indices from that level up, phase and arrivals. -/
structure Barrier where
  level : Nat
  node : List Nat
  phase : Nat
  arrivals : Nat
  deriving DecidableEq, Repr

/-- An accepted launch (R381 to R386). -/
structure Launch where
  part : Nat
  record : BitVec 2048
  /-- its queue: that of the record, or for a LAUNCH the queue of the issuing launch (R387) -/
  queue : Nat
  keySlot : Nat
  gangs : List TopGang
  barriers : List Barrier
  completed : Nat
  admitted : Nat
  killed : Bool
  torn : Bool
  short : Bool
  /-- the place in the order in which consumers became owed (R395) -/
  owed : Option Nat
  deriving DecidableEq, Repr

/-- A record on its way to the router: from a host queue (function, queue, command) or from a thread. -/
inductive Submit where
  | host (fn q : Nat) (c : Cmd)
  | thread (core key uid : Nat)
  deriving DecidableEq, Repr

structure RouterItem where
  part : Nat
  record : BitVec 2048
  /-- the queue that a LAUNCH enters, that of its launch; none for a host record, which names its own (R387) -/
  queue : Option Nat
  from_ : Submit
  /-- the code of a record that could not be read (host launches) -/
  fail : Option (BitVec 8)
  deriving DecidableEq, Repr

/-! ## Fabric transactions -/

/-- Who waits for the answer of a fabric transaction. -/
inductive Owner where
  | access (id : Nat)
  /-- a word run of a gate's firing: the gate, by die, slot and sequence, its first word and the number of words, and
  whether it is written or read -/
  | gate (die slot seq word n : Nat) (write : Bool)
  /-- a word run of a copy: the work's name, the first word of the stream and the number of words, and whether it is
  written or read -/
  | copy (cluster ch work word n : Nat) (write : Bool)
  /-- a host read through the aperture of a VF (R432): function, aperture offset and number of bytes -/
  | bar2 (fn off len : Nat)
  /-- words of the operand of the proctor's command, by their place in it (R427) -/
  | opnd (word n : Nat)
  | none
  deriving DecidableEq, Repr

/-- A transaction sent to a pod peer and not acknowledged (R107). -/
structure PodTx where
  seq : Nat
  req : FabReq
  /-- the group of a multicast copy -/
  mc : Option Nat
  owner : Owner
  deriving DecidableEq, Repr

/-- The window of a source (R107): those of the last 4,096 sequence numbers that have come, with their answers (none while
a reduction piece is staged), the number after the highest received, and the lowest not received, the next for SO. -/
structure PodRx where
  seen : List (Nat × Option FabReply)
  top : Nat
  soNext : Nat
  deriving DecidableEq, Repr

/-- A pod peer (R103, R105, R107). -/
structure Peer where
  /-- 0 OFF, 1 ALIVE, 2 DETOUR, 3 DEAD -/
  state : Nat
  relay : Option Nat
  nextSeq : Nat
  unacked : List PodTx
  rx : PodRx
  /-- link-state notices of this origin already applied (R102) -/
  noticeSeen : List Nat
  deriving DecidableEq, Repr

def Peer.off : Peer := ⟨0, none, 0, [], ⟨[], 0, 0⟩, []⟩

/-- A pod link (Tables 4.8, 4.16). A message stands for its flits (log entry 29). -/
structure Link where
  state : Nat
  arm : Bool
  spared : Nat
  /-- a second lane has failed, which no retraining recovers (R99) -/
  lost : Bool
  miswire : Bool
  replays : BitVec 32
  /-- failures in a row of one flit: of the next to be delivered, and of the oldest not acknowledged (R98) -/
  inRow : Nat
  outRow : Nat
  /-- place of the next flit to be delivered (R98) -/
  rxSeq : Nat
  /-- held traffic, by channel, in order: the link is in SPARE or RETRAIN, or no credit is free (R97, R100) -/
  queue : List (Nat × PodMsg)
  /-- the replay buffer: flits sent and not acknowledged by the far end, in order (R98) -/
  buffer : List (Nat × PodMsg)
  /-- credits in use, by channel (R97): VC0 requests and responses, VC1 requests and responses, VCM -/
  used : Tab Nat
  /-- times of the last flit received, of the start of training and of the last heartbeat sent -/
  lastRx : Nat
  trainSince : Nat
  lastBeat : Nat
  deriving DecidableEq, Repr

def Link.off : Link := ⟨0, false, 15, false, false, 0, 0, 0, 0, [], [], [], 0, 0, 0⟩

/-- What the module has put on a pod port, and on which virtual channel (R97): 0, 1, or 2 for VCM. -/
structure PodOut where
  port : Nat
  vc : Nat
  msg : PodMsg
  deriving DecidableEq, Repr

/-- A remote request without an answer yet (R114 to R116). -/
structure RemoteReq where
  id : Nat
  /-- its place in its transport's order, kept by a retransmission (R114) -/
  place : Nat
  hid : Nat
  /-- the address and the entropy, as the rank was resolved (R94) -/
  addr : BitVec 128
  entropy : Nat
  path : Nat
  /-- the congestion entry it travels under: a pod key, or 2^28 for the overflow entry (R115) -/
  entry : Nat
  /-- time of its acceptance -/
  accepted : Nat
  /-- time of the first transmission -/
  sent : Option Nat
  /-- it was sent outside its congestion window (R115) -/
  forced : Bool
  /-- place of an ROD request in the order toward its home (R112) -/
  rod : Option Nat
  /-- the reply of an ROD request that has come before those of earlier ones (R112) -/
  early : Option FabReply
  req : FabReq
  owner : Owner
  deriving DecidableEq, Repr

/-- Congestion window and retransmission state of one path of a destination pod (R115): outstanding packets, the
window, and packets sent again. -/
structure PathState where
  busy : Nat
  window : Nat
  resent : Nat
  deriving DecidableEq, Repr

/-- A path before its first packet; the window's size affects timing only (log entry 11). -/
def PathState.new : PathState := ⟨0, 64, 0⟩

/-- A write, atomic or reduction of the remote fabric that this module has performed as a home, with its reply (R114);
no source sends one again 2 ms after (R116). -/
structure RemoteRx where
  from_ : RemoteFrom
  reply : FabReply
  at_ : Nat
  deriving DecidableEq, Repr

/-- Transport services (Table 4.13). -/
inductive Service where
  | rud | rod | rudi
  deriving DecidableEq, Repr

/-- What the module has put on its remote ports. -/
inductive RemoteOut where
  /-- to an Ultra Ethernet address through a port (R93, R113), under a service; an ROD packet names its place and the
  first place still waited for -/
  | packet (addr : BitVec 128) (port place id path entropy : Nat) (service : Service) (rod : Option (Nat × Nat))
      (req : FabReq)
  | answer (src port id : Nat) (reply : FabReply)
  /-- a notice of the collective engines to a host id -/
  | notice (hid : Nat) (m : PodMsg)
  deriving DecidableEq, Repr

/-- A host request without a completion yet (R125). -/
structure HostReq where
  id : Nat
  addr : Nat
  words : Nat
  owner : Owner
  sent : Nat
  /-- for an engine's or the host's read: the partition, and base and size field of the leaf that translated it (R83) -/
  via : Option (Nat × Nat × Nat)
  deriving DecidableEq, Repr

/-- The words of a command's operand that lie in host pages, read before it runs (R427): the command, the words by their
place in the operand, and the code of a read that failed. -/
structure OpndRead where
  cmd : Cmd
  words : Tab Datum
  fail : Option (BitVec 8)
  deriving DecidableEq, Repr

/-- What the module has put on the host link. -/
inductive HostOut where
  | read (id addr words : Nat)
  | write (addr : Nat) (bytes : List Byte) (relaxed : Bool)
  | atomic (id addr : Nat) (op : AtomOp) (operand new : List Word)
  | msix (fn vec : Nat)
  /-- a command entry completed: function, queue, host address of the entry, tag, status, operand doublewords -/
  | complete (fn q : Nat) (addr : DWord) (tag : BitVec 32) (status : BitVec 8) (dw : List DWord)
  /-- answer of a BAR2 read: none is an error completion, `ur` Unsupported Request -/
  | bar2 (bytes : Option (List Byte)) (ur : Bool)
  | bytes (fn : Nat) (addr : DWord) (bs : List Byte)
  | spdm (fn : Nat) (bs : List Byte)
  | tdisp (vf : Nat) (ok : Bool)
  | config (fn : Nat) (retry : Bool)
  /-- answer of a register read; none is a Completer Abort -/
  | reg (fn off : Nat) (value : Option DWord)
  deriving DecidableEq, Repr

/-! ## The module -/

/-- Life-cycle states (R437). -/
inductive LifeCycle where
  | manufacture | provisioned | deployed | rma
  deriving DecidableEq, Repr

/-- A cap register (Table 19.6). -/
structure Cap where
  window : Nat
  cap : Nat
  deriving DecidableEq, Repr

/-- The bundle whose instruction runs (R167): a core and the keys of its threads in ascending lane order. Key
`32 * slot + lane`. The model's own. -/
structure Issue where
  core : Nat
  keys : List Nat
  deriving DecidableEq, Repr

/-- What acts next (log entry 1): an event, the bundle that a core forms for a pipe (0 arithmetic, 1 memory), or
clocks that pass. -/
inductive Act where
  | event (i : Instr)
  | issue (core pipe : Nat)
  | tick (n : Nat)
  deriving DecidableEq, Repr

/-- The module. -/
structure State where
  /-- what acts next, oldest first; the model's own (log entry 1) -/
  agenda : List Act
  /-- events that have come and wait for a frame that is being bound, or for a walk slot (R57, R80); the model's own -/
  waiting : List Instr
  /-- walks that engines, fetches and homes wait for, in arrival order (R80) -/
  walks : List WalkReq
  /-- next core and pipe to issue in this clock; the model's own -/
  turn : Nat
  /-- cores and pipes that have issued in this clock (R167) -/
  issued : List (Nat × Nat)
  /-- the bundle whose instruction runs; the model's own -/
  issue : Issue
  /-- free values drawn so far; the model's own (log entry 2) -/
  freeCount : Nat
  /-- names for accesses, instances, operations, batches and threads; the model's own -/
  nextId : Nat
  clock : Nat
  /-- time in femtoseconds, by the fixed reference of R436; it rises by 10^9 / mhz with each clock -/
  time : Nat
  /-- power is on (R438) -/
  powered : Bool
  /-- bring-up done, and failed at self-test (R438) -/
  up : Bool
  selfTestFailed : Bool
  lifeCycle : LifeCycle
  ownerHash : BitVec 512
  identitySeed : BitVec 256
  /-- the draw that gave the handle key (R423) -/
  handleDraw : Nat
  attestNonce : Option (BitVec 512)
  /-- completion timeout value of PF0's Device Control 2, and whether it is disabled (Table 19.4) -/
  ctl2 : BitVec 5
  cxl : Bool
  pos : Nat
  cores : Tab Core
  clusters : Tab Cluster
  dies : Tab Die
  /-- HBM data bytes, by DPA, and side-band bytes, by DPA / 8 (R28, R36) -/
  hbm : List Host.Cell
  hbmSide : List Host.Cell
  /-- tags of the L2's lines by DPA / 128, and their valid sectors by DPA / 64 -/
  l2Tags : Tab L2Tag
  l2 : Tab L2Sector
  /-- fills requested and not ended, oldest first (R47) -/
  fills : List Fill
  /-- frames whose BIND_FRAME is in progress, with the command (R57) -/
  binds : List (Nat × Cmd)
  /-- frames whose UNBIND_FRAME waits for fills of the frame, with the command (R58) -/
  unbinds : List (Nat × Cmd)
  /-- what was just tried has met a frame that is being bound, or no free walk slot: it waits as a whole (R57, R80). The
  model's own; no step leaves it set -/
  stalled : Bool
  /-- key slots whose worlds the tile engines have reported to the proctor (R50) -/
  reports : List Nat
  /-- operand words that the proctor is reading from the host (R427) -/
  opnd : Option OpndRead
  /-- what completes a command whose wipe has not ended (R63) -/
  afterWipe : List HostOut
  keys : Tab KeySlot
  parts : Tab Part
  fns : Tab Fn
  landing : Tab Landing
  lcOwner : Tab (BitVec 5)
  mcGroup : Tab Word
  /-- launches by sequence number, the next number, and records on their way to the router -/
  launches : Tab Launch
  nextSeq : Nat
  routerQ : List RouterItem
  /-- accesses in flight, oldest first, and demand faults not yet batched -/
  accesses : List Access
  demands : List Demand
  peers : Tab Peer
  links : Tab Link
  /-- links of the pod that are up, as pairs a < b (R102) -/
  linkMap : List (Nat × Nat)
  noticeSeq : Nat
  relayCount : BitVec 64
  mcdropCount : BitVec 64
  podOut : List PodOut
  remotes : List RemoteReq
  /-- the next request identifier (R114), and places in the ROD orders toward and from host ids (R112) -/
  nextRid : Nat
  rodTx : Tab Nat
  rodRx : Tab Nat
  /-- what has been performed for remote sources (R114) -/
  remoteRx : List RemoteRx
  /-- path states, by entry and path: 64 times a pod key, plus the path (R115) -/
  congestion : Tab PathState
  remoteOut : List RemoteOut
  hostReqs : List HostReq
  /-- in plain PCIe mode, the leaves of posted writes of engines and of UN stores that no zero-length read has flushed
  (R83, R333): partition, base and size field, and the read that flushes them once it is out -/
  hostPosts : List ((Nat × Nat × Nat) × Option Nat)
  hostOut : List HostOut
  capHost : Cap
  capBmc : Cap
  /-- time at which the effective cap last changed (R436) -/
  capSince : Nat
  mhz : Nat
  watts : Nat
  badCap : Bool
  trip : Bool
  /-- the clock is held at 700 MHz since a trip (R436) -/
  tripHeld : Bool
  capped : Bool
  energy : BitVec 64
  tripTemp : Nat
  hotTemp : Nat
  deriving DecidableEq, Repr

/-- The module right after reset: bring-up done, every tile virgin, every slot EMPTY, no launch resident (R63, R64,
R438). -/
def State.reset : State where
  agenda := []
  waiting := []
  walks := []
  turn := 0
  issued := []
  issue := ⟨0, []⟩
  freeCount := 16
  nextId := 0
  clock := 0
  time := 0
  powered := true
  up := true
  selfTestFailed := false
  lifeCycle := .deployed
  ownerHash := 0
  identitySeed := 0
  handleDraw := 8
  attestNonce := none
  ctl2 := 0
  cxl := false
  pos := 0
  cores := []
  clusters := []
  dies := []
  hbm := []
  hbmSide := []
  l2Tags := []
  l2 := []
  fills := []
  binds := []
  unbinds := []
  stalled := false
  reports := []
  opnd := none
  afterWipe := []
  keys := []
  parts := []
  fns := []
  landing := []
  lcOwner := []
  mcGroup := []
  launches := []
  nextSeq := 1
  routerQ := []
  accesses := []
  demands := []
  peers := []
  links := []
  linkMap := []
  noticeSeq := 0
  relayCount := 0
  mcdropCount := 0
  podOut := []
  remotes := []
  nextRid := 0
  rodTx := []
  rodRx := []
  remoteRx := []
  congestion := []
  remoteOut := []
  hostReqs := []
  hostPosts := []
  hostOut := []
  capHost := ⟨100, 6400⟩
  capBmc := ⟨100, 6400⟩
  capSince := 0
  mhz := 2100
  watts := 0
  badCap := false
  trip := false
  tripHeld := false
  capped := false
  energy := 0
  tripTemp := 105
  hotTemp := 95

/-! ## Reading and writing the parts of the state -/

namespace State

def core (s : State) (c : Nat) : Core := tabGet Core.empty s.cores c
def setCore (s : State) (c : Nat) (x : Core) : State := { s with cores := tabSet Core.empty s.cores c x }
def modCore (s : State) (c : Nat) (f : Core → Core) : State := s.setCore c (f (s.core c))

def cluster (s : State) (c : Nat) : Cluster := tabGet Cluster.empty s.clusters c
def setCluster (s : State) (c : Nat) (x : Cluster) : State :=
  { s with clusters := tabSet Cluster.empty s.clusters c x }

def die (s : State) (d : Nat) : Die := tabGet (Die.reset d) s.dies d
def setDie (s : State) (d : Nat) (x : Die) : State := { s with dies := tabSet (Die.reset d) s.dies d x }

def part (s : State) (p : Nat) : Part := tabGet Part.reset s.parts p
def setPart (s : State) (p : Nat) (x : Part) : State := { s with parts := tabSet Part.reset s.parts p x }

def fn (s : State) (f : Nat) : Fn := tabGet Fn.reset s.fns f
def setFn (s : State) (f : Nat) (x : Fn) : State := { s with fns := tabSet Fn.reset s.fns f x }

def key (s : State) (k : Nat) : KeySlot := tabGet KeySlot.empty s.keys k
def setKey (s : State) (k : Nat) (x : KeySlot) : State := { s with keys := tabSet KeySlot.empty s.keys k x }

def peer (s : State) (p : Nat) : Peer := tabGet Peer.off s.peers p
def setPeer (s : State) (p : Nat) (x : Peer) : State := { s with peers := tabSet Peer.off s.peers p x }

def link (s : State) (k : Nat) : Link := tabGet Link.off s.links k
def setLink (s : State) (k : Nat) (x : Link) : State := { s with links := tabSet Link.off s.links k x }

/-- The thread of a key on a core. -/
def thread (s : State) (c k : Nat) : Option Thread := tabFind (s.core c).threads k
def setThread (s : State) (c k : Nat) (t : Thread) : State :=
  s.modCore c fun x => { x with threads := tabPut x.threads k t }
def delThread (s : State) (c k : Nat) : State :=
  s.modCore c fun x => { x with threads := tabDel x.threads k }
def modThread (s : State) (c k : Nat) (f : Thread → Thread) : State :=
  match s.thread c k with
  | some t => s.setThread c k (f t)
  | none => s

/-- A fresh name. -/
def fresh (s : State) : Nat × State := (s.nextId, { s with nextId := s.nextId + 1 })

/-- The next free draw (log entry 2). -/
def draw (s : State) : BitVec 512 × State :=
  (Config.freeBits s.freeCount, { s with freeCount := s.freeCount + 1 })

end State

end Sys2Proof.Machine
end

