-- ==== Sys2Proof/Machine/Memory.lean ====
section
/-! DEFINITION. Main memory and the L2: HBM bits, metadata units and the counter tree (R36 to R46), fills, seals
and re-seals (R47 to R56), binding (R57, R58), and the home slice's read, write and merge of words (R127 to R131,
R24, R25, R55). -/

namespace Sys2Proof.Machine

/-! ## Raw bits (R28, R34, R36) -/

abbrev dieBase (d : Nat) : Nat := d * 2 ^ 37
/-- The integrity area starts at 126 GiB of the die. -/
def integrityBase (d : Nat) : Nat := dieBase d + 126 * 2 ^ 30
def dieOf (dpa : Nat) : Nat := dpa / 2 ^ 37 % 8
def groupOf (dpa : Nat) : Nat := dpa % 2 ^ 37 / 2 ^ 16
def tileIn (dpa : Nat) : Nat := dpa / 2 ^ 10 % 64
/-- Offsets below 126 GiB are backed (R34). -/
def backed (dpa : Nat) : Bool := dpa < 2 ^ 40 && dpa % 2 ^ 37 < 126 * 2 ^ 30
/-- The home slice (R127). -/
def sliceOf (dpa : Nat) : Nat := (dpa / 2 ^ 7 % 16) ^^^ (dpa / 2 ^ 11 % 16)

def hbmRead (s : State) (a n : Nat) : List Byte := (List.range n).map fun i => tabGet 0 s.hbm (a + i)
def sideRead (s : State) (a n : Nat) : List Byte := (List.range n).map fun i => tabGet 0 s.hbmSide (a + i)

def cellsSet (t : List Host.Cell) : Nat → List Byte → List Host.Cell
  | _, [] => t
  | a, b :: bs => cellsSet (tabSet 0 t a b) (a + 1) bs

def hbmWrite (s : State) (a : Nat) (bs : List Byte) : State := { s with hbm := cellsSet s.hbm a bs }
def sideWrite (s : State) (a : Nat) (bs : List Byte) : State := { s with hbmSide := cellsSet s.hbmSide a bs }

/-! ## Metadata units (R36, R43, R44). Level 1 is a version block. -/

/-- Unit index of unit `n` of a level (Table 2.1). -/
def unitIndex (level n : Nat) : Nat :=
  match level with
  | 1 => 1008 * 8192 + n
  | 2 => 1264 * 8192 + n
  | 3 => 1268 * 8192 + n
  | _ => 1268 * 8192 + 512 + n

/-- Bits <1087:0> of a unit (Table 2.3, R44). -/
def unitBits (u : MUnit) : Nat :=
  ((List.range 64).map fun i => tabGet 0 u.ctr i % 2 ^ 16 * 2 ^ (16 * i)).foldl (· + ·) 0 +
  (u.major % 2 ^ 48) * 2 ^ 1024 + (u.slot % 256) * 2 ^ 1072 + b2n u.bound * 2 ^ 1080 + b2n u.ronly * 2 ^ 1081

def unitOfBits (x : Nat) : MUnit :=
  { ronly := bit x 1081, bound := bit x 1080, slot := field x 1079 1072, major := field x 1071 1024
    ctr := (List.range 64).foldl (fun t i => tabSet 0 t i (field x (16 * i + 15) (16 * i))) [] }

/-- The 144 bytes of a unit in HBM: 128 data bytes, then 16 side-band bytes. -/
def unitRaw (s : State) (d level n : Nat) : Nat :=
  let a := integrityBase d + 128 * unitIndex level n
  ofBytesLE (hbmRead s a 128 ++ sideRead s (a / 8) 16)

def metaKey (s : State) (d : Nat) : BitVec 256 := (Config.freeBits (s.die d).metaDraw).extractLsb' 0 256

/-- The IV of a unit under a version (R43). -/
def unitIv (level n ver : Nat) : BitVec 96 := BitVec.ofNat 96 (unitIndex level n * 2 ^ 72 + ver % 2 ^ 64 * 2 ^ 8)
/-- The MAC of a unit's bits (R43), which enter GCM most significant byte first (DESIGN CHOICE, log entry 16). -/
def unitMac (s : State) (d level n ver x : Nat) : Nat :=
  (msb64 (gcmTag (metaKey s d) (unitIv level n ver) (bytesBE 136 (x % 2 ^ 1088)) [])).toNat

/-- Write a unit with the MAC of its version. -/
def storeUnit (s : State) (d level n ver : Nat) (u : MUnit) : State :=
  let a := integrityBase d + 128 * unitIndex level n
  let x := unitBits u
  let bs := bytesLE 144 (x + unitMac s d level n ver x * 2 ^ 1088)
  sideWrite (hbmWrite s a (bs.take 128)) (a / 8) (bs.drop 128)

def cachedUnit (s : State) (d level n : Nat) : Option Cached := tabFind (s.die d).vcache (unitIndex level n)
def putUnit (s : State) (d level n : Nat) (u : MUnit) (changed : Bool) : State :=
  let x := s.die d
  s.setDie d { x with vcache := tabPut x.vcache (unitIndex level n) ⟨u, changed⟩ }

/-- A verified unit (R45), or the unit that failed. `fuel` is 5 minus the level. -/
def getUnit : Nat → State → Nat → Nat → Nat → Except Nat (MUnit × State)
  | 0, _, _, level, n => .error (unitIndex level n)
  | fuel + 1, s, d, level, n =>
    match cachedUnit s d level n with
    | some c => .ok (c.unit, s)
    | none =>
      let up : Except Nat (Nat × Bool × State) :=
        if level == 4 then
          let r := tabGet 0 (s.die d).roots n
          .ok (r, r == 0, s)
        else
          match getUnit fuel s d (level + 1) (n / 64) with
          | .ok (p, s') =>
            let c := tabGet 0 p.ctr (n % 64)
            .ok (2 ^ 16 * p.major + c, c == 0, s')
          | .error e => .error e
      match up with
      | .error e => .error e
      | .ok (ver, fresh, s') =>
        let x := unitRaw s' d level n
        if x == 0 && fresh then .ok (MUnit.blank, putUnit s' d level n MUnit.blank false)
        else if x / 2 ^ 1088 == unitMac s' d level n ver x then
          .ok (unitOfBits x, putUnit s' d level n (unitOfBits x) false)
        else .error (unitIndex level n)

/-- A unit as it stands, cached or stored, without verification. -/
def peekUnit (s : State) (d level n : Nat) : MUnit :=
  match cachedUnit s d level n with
  | some c => c.unit
  | none => unitOfBits (unitRaw s d level n)

/-- A group's tree nodes. -/
def ancestors (g : Nat) : List Nat :=
  [unitIndex 1 g, unitIndex 2 (g / 64), unitIndex 3 (g / 64 / 64), unitIndex 4 (g / 64 / 64 / 64)]

/-- A group is read-only by its own bit, which is read unverified where the block is not cached (DESIGN CHOICE, log
entry 22), or since a node above it was exhausted (R46, R54). -/
def groupReadOnly (s : State) (d g : Nat) : Bool :=
  (peekUnit s d 1 g).ronly ||
  ((ancestors g).any fun u => (s.die d).exhausted.contains u) && !(s.die d).exempt.contains g

/-- The group of an address is read-only (R54, R55, R46). -/
def readOnly (s : State) (dpa : Nat) : Bool := groupReadOnly s (dieOf dpa) (groupOf dpa)

/-- Groups beneath a unit of a level (R36, R44). -/
def groupsBeneath (level n : Nat) : List Nat :=
  ((List.range (64 ^ (level - 1))).map fun i => n * 64 ^ (level - 1) + i).filter fun g => g < 2064384

/-- A node's major is exhausted: every group beneath it becomes read-only, and each that was not adds to
TE_EXHAUST_COUNT (R46, R54). -/
def exhaustNode (s : State) (d level n : Nat) : State :=
  let x := s.die d
  let gs := groupsBeneath level n
  let u := unitIndex level n
  s.setDie d { x with
    exhausted := if x.exhausted.contains u then x.exhausted else u :: x.exhausted
    exempt := x.exempt.filter fun g => !gs.contains g
    exhaustCount := x.exhaustCount + BitVec.ofNat 64 (gs.filter fun g => !groupReadOnly s d g).length }

/-- A group that a bind or a rotation makes writable again (R57, R60). -/
def exemptGroup (s : State) (d g : Nat) : State :=
  let x := s.die d
  if (ancestors g).any fun u => x.exhausted.contains u then
    s.setDie d { x with exempt := if x.exempt.contains g then x.exempt else g :: x.exempt }
  else s

/-- Every child of a node whose counter would pass 65,535 restarts at 1 and is written again (R46); a child that is not
cached is written again as it stands in HBM, unverified (DESIGN CHOICE, log entry 17). -/
def restartChildren (s : State) (d level n major : Nat) (p : MUnit) : Nat → State × MUnit
  | 0 => (s, p)
  | k + 1 =>
    let r := restartChildren s d level n major p k
    if tabGet 0 r.2.ctr k == 0 then r
    else
      let u := peekUnit r.1 d (level - 1) (64 * n + k)
      (storeUnit r.1 d (level - 1) (64 * n + k) (2 ^ 16 * major + 1) u, { r.2 with ctr := tabSet 0 r.2.ctr k 1 })

/-- Write a changed unit back, raising its counter in its parent, or its root (R44 to R46). Where the parent fails
verification the unit stays in the cache and nothing is recorded (DESIGN CHOICE, log entry 18); where the parent's last
major is used up it is not written either, and stays changed in the cache (DESIGN CHOICE, log entry 96). -/
def writeBackUnit (s : State) (d level n : Nat) : State :=
  match cachedUnit s d level n with
  | none => s
  | some c =>
    if !c.changed then s
    else if level == 4 then
      let x := s.die d
      let r := (tabGet 0 x.roots n + 1) % 2 ^ 64
      putUnit (storeUnit (s.setDie d { x with roots := tabSet 0 x.roots n r }) d 4 n r c.unit) d 4 n c.unit false
    else
      match getUnit 4 s d (level + 1) (n / 64) with
      | .error _ => s
      | .ok (p, s1) =>
        let ctr := tabGet 0 p.ctr (n % 64) + 1
        if ctr ≤ 65535 then
          let p' := { p with ctr := tabSet 0 p.ctr (n % 64) ctr }
          putUnit (storeUnit (putUnit s1 d (level + 1) (n / 64) p' true) d level n (2 ^ 16 * p.major + ctr) c.unit)
            d level n c.unit false
        else if p.major + 1 < 2 ^ 48 then
          let s2 := putUnit s1 d level n c.unit true
          let r := restartChildren s2 d (level + 1) (n / 64) (p.major + 1) p 64
          let p' := { r.2 with major := p.major + 1 }
          putUnit (putUnit r.1 d (level + 1) (n / 64) p' true) d level n c.unit false
        else exhaustNode s1 d (level + 1) (n / 64)

/-! ## The version cache's capacity (R45) -/

/-- Level and number of a metadata unit index (Table 2.1). -/
def unitPlace (u : Nat) : Nat × Nat :=
  if u < 1264 * 8192 then (1, u - 1008 * 8192)
  else if u < 1268 * 8192 then (2, u - 1264 * 8192)
  else if u < 1268 * 8192 + 512 then (3, u - 1268 * 8192)
  else (4, u - 1268 * 8192 - 512)

/-- A unit is written back where it has changed, and leaves the cache once it need not be written any more. -/
def evictUnit (s : State) (d unit : Nat) : State :=
  match tabFind (s.die d).vcache unit with
  | none => s
  | some _ =>
    let p := unitPlace unit
    let s1 := writeBackUnit s d p.1 p.2
    match tabFind (s1.die d).vcache unit with
    | some x =>
      if x.changed then s1
      else
        let y := s1.die d
        s1.setDie d { y with vcache := tabDel y.vcache unit }
    | none => s1

/-- Cached units of one kind: version blocks, or tree nodes. -/
def cachedOf (s : State) (d : Nat) (blocks : Bool) : List Nat :=
  ((s.die d).vcache.map Prod.fst).filter fun u => (u < 1264 * 8192) == blocks

/-- The cache holds at most `cap` units of a kind: others than `keep` are evicted, lowest unit index first (DESIGN CHOICE,
log entry 95). -/
def trimKind (d cap keep : Nat) (blocks : Bool) (s : State) : State :=
  if (cachedOf s d blocks).length ≤ cap then s
  else (cachedOf s d blocks).foldl (fun st u =>
    if u == keep || (cachedOf st d blocks).length ≤ cap then st else evictUnit st d u) s

/-- 4,096 version blocks and 1,024 tree nodes (R45). -/
def trimCache (s : State) (d keep : Nat) : State := trimKind d 1024 keep false (trimKind d 4096 keep true s)

/-- A version block that the engine has changed is held in the cache. -/
def holdBlock (s : State) (d g : Nat) (vb : MUnit) : State := trimCache (putUnit s d 1 g vb true) d (unitIndex 1 g)

/-- An eviction of its own (R45): the parent that it brings into the cache may push out others in its turn. -/
def writeBack (s : State) (d unit : Nat) : State := trimCache (evictUnit s d unit) d unit

/-- The verified version block of an address, or the unit that failed (R45). -/
def versionBlock (s : State) (dpa : Nat) : Except Nat (MUnit × State) :=
  match getUnit 4 s (dieOf dpa) 1 (groupOf dpa) with
  | .ok (u, s1) => .ok (u, trimCache s1 (dieOf dpa) (unitIndex 1 (groupOf dpa)))
  | .error e => .error e

/-! ## Words of a tile -/

/-- Image bytes of 256 words: data, then the side-band bytes (R28, R40). -/
def imageData (ws : List Datum) : List Byte := (ws.map fun d => bytesLE 4 d.word.toNat).flatten
def imageSide : List Datum → List Byte
  | a :: b :: ws => (b.code ++ a.code) :: imageSide ws
  | [a] => [(0#4) ++ a.code]
  | [] => []

/-- Words of an image. -/
def wordsOf : Nat → List Byte → List Byte → List Datum
  | 0, _, _ => []
  | n + 1, bs, sd =>
    let c := (sd.head?).getD 0
    let lo : Datum := ⟨w32 (ofBytesLE (bs.take 4)), c.extractLsb' 0 4⟩
    let hi : Datum := ⟨w32 (ofBytesLE ((bs.drop 4).take 4)), c.extractLsb' 4 4⟩
    lo :: hi :: wordsOf n (bs.drop 8) (sd.drop 1)

/-- The 96-bit IV of a tile (R40); marker 0 for a data tile, 1 for a zero tile. -/
def tileIv (dpa major minor marker : Nat) : BitVec 96 :=
  BitVec.ofNat 96 (dpa / 2 ^ 10 % 2 ^ 30 * 2 ^ 66 + major % 2 ^ 48 * 2 ^ 18 + minor % 2 ^ 16 * 4 + marker)
/-- The IV as 16 bytes of AAD, most significant byte first (DESIGN CHOICE, log entry 16). -/
def tileAad (iv : BitVec 96) : List Byte := bytesBE 16 iv.toNat

/-- Address of a tile's tag in the tag array, in tile order (Table 2.1, R41). -/
def tagAddr (dpa : Nat) : Nat := integrityBase (dieOf dpa) + 8 * (dpa % 2 ^ 37 / 2 ^ 10)
def tileBase (dpa : Nat) : Nat := dpa / 1024 * 1024

def zeroTag (key : BitVec 256) (dpa major minor : Nat) : BitVec 64 :=
  let iv := tileIv dpa major minor 1
  msb64 (gcmTag key iv (tileAad iv) [])
def dataTag (key : BitVec 256) (dpa major minor : Nat) (ct : List Byte) : BitVec 64 :=
  let iv := tileIv dpa major minor 0
  msb64 (gcmTag key iv (tileAad iv) ct)

def zeroWords : List Datum := List.replicate 256 zeroDatum

/-! ## L2 -/

def sectorOf (dpa : Nat) : Nat := dpa / 64
def lineOf (dpa : Nat) : Nat := dpa / 128

/-- A hit needs the address and the key slot (R129). -/
def l2Hit (s : State) (dpa slot : Nat) : Option L2Sector :=
  match tabFind s.l2Tags (lineOf dpa) with
  | some x => if x.slot == slot then tabFind s.l2 (sectorOf dpa) else none
  | none => none

/-- The sector at an address is invalid from now on; a line without a valid sector leaves the L2. -/
def delSector (s : State) (dpa : Nat) : State :=
  let l2 := tabDel s.l2 (sectorOf dpa)
  let other := 2 * lineOf dpa + (1 - sectorOf dpa % 2)
  { s with l2 := l2, l2Tags := if (tabFind l2 other).isSome then s.l2Tags else tabDel s.l2Tags (lineOf dpa) }

/-- A clean copy of a sector under a slot is discarded; a dirty one stays (R26, Table 1.8). -/
def delClean (s : State) (dpa slot : Nat) : State :=
  match l2Hit s dpa slot with
  | some x => if x.dirty then s else delSector s dpa
  | none => s

/-- A line leaves the L2. -/
def delLine (s : State) (line : Nat) : State :=
  { s with l2 := tabDel (tabDel s.l2 (2 * line)) (2 * line + 1), l2Tags := tabDel s.l2Tags line }

/-- The line holds a dirty sector. -/
def lineDirty (s : State) (line : Nat) : Bool :=
  [2 * line, 2 * line + 1].any fun i => match tabFind s.l2 i with
    | some x => x.dirty
    | none => false

/-- Two lines of one slice fall in one set (R127). -/
def sameSet (a b : Nat) : Bool :=
  Config.l2Set (BitVec.ofNat 26 (128 * a / 2 ^ 11)) == Config.l2Set (BitVec.ofNat 26 (128 * b / 2 ^ 11))

/-- Lines of the slice of a line that stand in a way. -/
def inWay (s : State) (line way : Nat) : List Nat :=
  (s.l2Tags.filter fun e => e.2.way == way && e.1 != line && dieOf (128 * e.1) == dieOf (128 * line) &&
    sliceOf (128 * e.1) == sliceOf (128 * line)).map Prod.fst

/-- The line that has to leave for a line to stand in a way. -/
def victimOf (s : State) (line way : Nat) : Option Nat := (inWay s line way).find? (sameSet line)

/-- The way that a line is allocated to (R131): the one asked for where the mask permits it; else the lowest permitted
way that no line of the slice takes, or that no line of the set takes, or the lowest permitted. -/
def wayFor (s : State) (line : Nat) (mask : BitVec 24) (ask : Nat) : Nat :=
  if mask.getLsbD ask then ask
  else
    let ws := (List.range 24).filter mask.getLsbD
    match (ws.find? fun w => (inWay s line w).isEmpty) <|> (ws.find? fun w => (victimOf s line w).isNone) with
    | some w => w
    | none => (ws.head?).getD 0

/-- The operand of a fill that leaves the way to the slice. -/
def anyWay : Nat := 24

/-- Sectors of a tile that are placed: all but those held dirty (R48). -/
def placeSector (s : State) (sec : Nat) (ws : List Datum) : State :=
  match tabFind s.l2 sec with
  | some x => if x.dirty then s else { s with l2 := tabPut s.l2 sec ⟨ws, false⟩ }
  | none => { s with l2 := tabPut s.l2 sec ⟨ws, false⟩ }

/-- A line of a tile in its place; another slot's copy is left as it is (R129). -/
def placeLine (s : State) (line slot way : Nat) (ws : List Datum) : State :=
  match tabFind s.l2Tags line with
  | some x =>
    if x.slot == slot then placeSector (placeSector s (2 * line) (ws.take 16)) (2 * line + 1) ((ws.drop 16).take 16) else s
  | none =>
    let s1 := { s with l2Tags := tabPut s.l2Tags line ⟨slot, way⟩ }
    placeSector (placeSector s1 (2 * line) (ws.take 16)) (2 * line + 1) ((ws.drop 16).take 16)

/-- Record a failure in the tile engine's registers (R49, Tables 2.5 to 2.7). -/
def teFail (s : State) (dpa slot stage : Nat) (code : BitVec 8) : State :=
  let d := dieOf dpa
  let x := s.die d
  s.setDie d { x with
    lastCode := code, lastStage := stage, failPending := true, failTile := dpa / 1024, failSlot := slot
    failCount := if code == 0x19 then x.failCount + 1 else x.failCount }

/-- A number in its place of a rising list. -/
def insertNat (n : Nat) : List Nat → List Nat
  | [] => [n]
  | x :: xs => if n ≤ x then n :: x :: xs else x :: insertNat n xs

/-- Groups whose version block is cached or stored, in data or side-band bits: the candidates for being bound, in DPA
order. -/
def knownGroups (s : State) (d : Nat) : List Nat :=
  let lo := unitIndex 1 0
  let inRange := fun u => lo ≤ u && u < lo + 2064384
  let fromCache := ((s.die d).vcache.map Prod.fst).filter inRange
  let unitAt := fun a =>
    if integrityBase d ≤ a && a < integrityBase d + 2 ^ 31 then some ((a - integrityBase d) / 128) else none
  let stored := (s.hbm.filterMap fun c => unitAt c.1) ++ (s.hbmSide.filterMap fun c => unitAt (8 * c.1))
  (((fromCache ++ stored.filter inRange).map (· - lo)).eraseDups).foldl (fun t g => insertNat g t) []

/-- Key slots of the frames beneath a unit (R50), as their blocks stand, unverified (DESIGN CHOICE, log entry 20). -/
def slotsBeneath (s : State) (d u : Nat) : List Nat :=
  ((knownGroups s d).filter fun g => (ancestors g).contains u).filterMap fun g =>
    let b := peekUnit s d 1 g
    if b.bound then some b.slot else none

/-- The result of a fill: the tile's words are in the L2, or a code (R48). -/
inductive FillRes where
  | ok (s : State)
  | fail (s : State) (code : BitVec 8)

/-- Whether the data form of a tile's tag is right, with the words it opens to. -/
def openTile (s : State) (dpa slot major minor : Nat) (t : BitVec 64) : Option (List Datum) :=
  let key := (s.key slot).key
  let ct := hbmRead s (tileBase dpa) 1024 ++ sideRead s (tileBase dpa / 8) 128
  if t == dataTag key dpa major minor ct then
    let pt := gcmCrypt key (tileIv dpa major minor 0) ct
    some (wordsOf 128 (pt.take 1024) (pt.drop 1024))
  else none

/-- What a tile holds in HBM, after the binding, tag and version checks (R48): its words, or code and stage. -/
def readTile (s : State) (dpa slot : Nat) : Except (BitVec 8 × Nat × Option Nat × State) (List Datum × State) :=
  match versionBlock s dpa with
  | .error u => .error (0x19, 3, some u, s)
  | .ok (vb, s1) =>
    if !backed dpa || !vb.bound || vb.slot != slot then .error (0x12, 1, none, s1)
    else
      let m := tabGet 0 vb.ctr (tileIn dpa)
      if m == 0 then .ok (zeroWords, s1)
      else
        let t : BitVec 64 := w64 (ofBytesLE (hbmRead s1 (tagAddr dpa) 8))
        if t == zeroTag (s1.key slot).key dpa vb.major m then .ok (zeroWords, s1)
        else
          match openTile s1 dpa slot vb.major m t with
          | some ws => .ok (ws, s1)
          | none => .error (0x19, 2, none, s1)

/-- Fills of a tile under a slot that others wait for have failed with it (R49, R53). -/
def failJoined (s : State) (tile slot : Nat) (code : BitVec 8) : State :=
  { s with fills := s.fills.map fun f => if f.tile == tile && f.slot == slot then { f with failed := some code } else f }

/-- A failed fill: recorded, delivered to those that wait for the tile, and an INTEGRITY failure reported to the proctor
(R49, R50). A unit that fails makes every frame beneath it lost, a version block its own frame (DESIGN CHOICE, log
entry 20). -/
def failFill (s : State) (dpa slot : Nat) (code : BitVec 8) (stage : Nat) (u : Option Nat) : State :=
  let s1 := failJoined (teFail s dpa slot stage code) (dpa / 1024) slot code
  if code != 0x19 then s1
  else
    let d := dieOf dpa
    match u with
    | none => { s1 with reports := s1.reports ++ [slot] }
    | some u =>
      let x := s1.die d
      let s2 := s1.setDie d { x with lost := if x.lost.contains u then x.lost else u :: x.lost }
      { s2 with reports := s2.reports ++ (slot :: slotsBeneath s2 d u) }

/-- The sixteen sectors of a tile as the L2 holds them under a slot. -/
def heldSectors (s : State) (dpa slot : Nat) : List (Option L2Sector) :=
  (List.range 16).map fun i => l2Hit s (tileBase dpa + 64 * i) slot

/-- The 256 words of a tile: of each sector what is held, else what the image has. -/
def mergeHeld : List (Option L2Sector) → List Datum → List Datum
  | [], _ => []
  | x :: xs, ws => (match x with | some y => y.words | none => ws.take 16) ++ mergeHeld xs (ws.drop 16)

def tileDirty (s : State) (dpa : Nat) : Bool :=
  (List.range 16).any fun i => match tabFind s.l2 (sectorOf (tileBase dpa) + i) with
    | some x => x.dirty
    | none => false

/-- Mark a tile's sectors clean. -/
def cleanTile (s : State) (dpa : Nat) : Nat → State
  | 0 => s
  | k + 1 =>
    let a := sectorOf (tileBase dpa) + k
    let s' := match tabFind s.l2 a with
      | some x => { s with l2 := tabPut s.l2 a { x with dirty := false } }
      | none => s
    cleanTile s' dpa k

/-- Discard the dirty sectors of a tile (R51). -/
def dropDirty (s : State) (dpa : Nat) : Nat → State
  | 0 => s
  | k + 1 =>
    let a := sectorOf (tileBase dpa) + k
    let s' := match tabFind s.l2 a with
      | some x => if x.dirty then delSector s (64 * a) else s
      | none => s
    dropDirty s' dpa k

/-- Store a tile's image, or its zero form, under a version (R40 to R42, R52). A zero form adds to TE_ZERO_COUNT
whichever seal writes it, a re-seal's too (DESIGN CHOICE, log entry 21). -/
def writeTile (s : State) (dpa slot major minor : Nat) (ws : List Datum) : State :=
  let key := (s.key slot).key
  if ws == zeroWords then
    let s1 := hbmWrite s (tagAddr dpa) (bytesLE 8 (zeroTag key dpa major minor).toNat)
    let x := s1.die (dieOf dpa)
    s1.setDie (dieOf dpa) { x with zeroCount := x.zeroCount + 1 }
  else
    let ct := gcmCrypt key (tileIv dpa major minor 0) (imageData ws ++ imageSide ws)
    let s1 := sideWrite (hbmWrite s (tileBase dpa) (ct.take 1024)) (tileBase dpa / 8) (ct.drop 1024)
    hbmWrite s1 (tagAddr dpa) (bytesLE 8 (dataTag key dpa major minor ct).toNat)

/-- Raise a slot's floor (R39). -/
def raiseFloor (s : State) (slot major : Nat) : State :=
  let k := s.key slot
  s.setKey slot { k with floor := max k.floor major }

/-- The words that a seal takes: what the L2 holds, and the rest by a fill, whose lines are dropped again at once
(R51, R129; log entry 27). A fill that fails discards the tile's dirty lines. -/
def sealWords (s : State) (dpa slot : Nat) : Except State (List Datum × State) :=
  let held := heldSectors s dpa slot
  if held.all Option.isSome then .ok (mergeHeld held [], s)
  else
    match readTile s dpa slot with
    | .ok (ws, s1) => .ok (mergeHeld held ws, s1)
    | .error (code, stage, u, s1) => .error (dropDirty (failFill s1 dpa slot code stage u) dpa 16)

/-- The words of a tile that is sealed again: it is filled and checked, and its dirty sectors are taken from the L2; a
tile whose sectors are all dirty needs no fill (R53; log entry 28). -/
def resealWords (s : State) (dpa slot : Nat) : Except State (List Datum × State) :=
  let dirty := (heldSectors s dpa slot).map fun x => x.filter L2Sector.dirty
  if dirty.all Option.isSome then .ok (mergeHeld dirty [], s)
  else
    match readTile s dpa slot with
    | .ok (ws, s1) => .ok (mergeHeld dirty ws, s1)
    | .error (code, stage, u, s1) => .error (dropDirty (failFill s1 dpa slot code stage u) dpa 16)

/-- The words of every non-virgin tile of a group, read before any is sealed again; a tile whose fill fails keeps its
image (R53). `given` is the tile whose seal triggered the re-seal, with its words. -/
def gatherTiles (base slot : Nat) (vb : MUnit) (given : Option (Nat × List Datum)) :
    List Nat → State → List (Nat × List Datum) → State × List (Nat × List Datum)
  | [], s, acc => (s, acc)
  | i :: is, s, acc =>
    match given.filter fun e => e.1 == i with
    | some e => gatherTiles base slot vb given is s (e :: acc)
    | none =>
      if tabGet 0 vb.ctr i == 0 then gatherTiles base slot vb given is s acc
      else
        match resealWords s (base + 1024 * i) slot with
        | .ok (ws, s1) => gatherTiles base slot vb given is s1 ((i, ws) :: acc)
        | .error s1 => gatherTiles base slot vb given is s1 acc

/-- Re-seal a group under a new major (R53), with the data key in force when it is written. The group stays read-only
where it was: a rotation alone makes it writable again (R55). -/
def resealGroup (s : State) (d g : Nat) (vb : MUnit) (major : Nat) (given : Option (Nat × List Datum))
    (rekey : State → State) : State :=
  let base := dieBase d + g * 2 ^ 16
  let r := gatherTiles base vb.slot vb given (List.range 64) s []
  let s1 := rekey r.1
  let minors := (List.range 64).foldl
    (fun t i => if tabGet 0 vb.ctr i == 0 && !(given.any fun e => e.1 == i) then t else tabSet 0 t i 1) []
  let vb' : MUnit := { vb with major := major, ctr := minors }
  let s2 := r.2.foldl
    (fun st e => cleanTile (writeTile st (base + 1024 * e.1) vb.slot major 1 e.2) (base + 1024 * e.1) 16) s1
  holdBlock (raiseFloor s2 vb.slot major) d g vb'

/-- `seal(tile)` (R51), with re-seal (R53) and exhaustion (R54). Where no line has to be filled and the version block fails
its verification, or binds the group to another slot or none, the seal ends as one whose fill fails (DESIGN CHOICE, log
entry 97). -/
def sealTile (s : State) (dpa slot : Nat) : State :=
  match sealWords s dpa slot with
  | .error s1 => s1
  | .ok (ws, s0) =>
    match versionBlock s0 dpa with
    | .error u => dropDirty (failFill s0 dpa slot 0x19 3 (some u)) dpa 16
    | .ok (vb, s1) =>
      if !vb.bound || vb.slot != slot then dropDirty (failFill s1 dpa slot 0x12 1 none) dpa 16
      else
        let d := dieOf dpa
        let g := groupOf dpa
        let i := tileIn dpa
        let m := tabGet 0 vb.ctr i
        if m == 65535 then
          if vb.major + 1 < 2 ^ 48 then
            let s2 := resealGroup s1 d g vb (vb.major + 1) (some (i, ws)) id
            let x := s2.die d
            s2.setDie d { x with resealCount := x.resealCount + 1 }
          else dropDirty s1 dpa 16
        else
          let s2 := cleanTile (writeTile s1 dpa slot vb.major (m + 1) ws) dpa 16
          let exhaust := vb.major == 2 ^ 48 - 1 && m + 1 == 65534 && !vb.ronly
          let s3 := holdBlock s2 d g { vb with ctr := tabSet 0 vb.ctr i (m + 1), ronly := vb.ronly || exhaust }
          if exhaust then
            let x := s3.die d
            s3.setDie d { x with exhaustCount := x.exhaustCount + 1 }
          else s3

/-! ## Allocation, eviction and fills -/

/-- A line is evicted: a dirty one seals its tile first, a clean one is dropped silently (R129). -/
def evictLine (s : State) (line : Nat) : State :=
  match tabFind s.l2Tags line with
  | none => s
  | some x => delLine (if lineDirty s line then sealTile s (128 * line) x.slot else s) line

/-- A line of a tile is installed, after the line whose way it takes has been evicted. -/
def installLine (mask : BitVec 24) (ask slot : Nat) (s : State) (line : Nat) (ws : List Datum) : State :=
  if (tabFind s.l2Tags line).isSome then placeLine s line slot 0 ws
  else
    let way := wayFor s line mask ask
    let s1 := match victimOf s line way with
      | some v => evictLine s v
      | none => s
    placeLine s1 line slot way ws

/-- Install a tile: its eight lines in their home slices (R48). -/
def installTile (mask : BitVec 24) (ask slot : Nat) : Nat → State → Nat → List Datum → State
  | 0, s, _, _ => s
  | k + 1, s, line, ws => installTile mask ask slot k (installLine mask ask slot s line (ws.take 32)) (line + 1) (ws.drop 32)

/-- An access waits for the fill of a tile under its own key slot; one of another slot has a fill of its own (R47; DESIGN
CHOICE, log entry 19). -/
def waitsFill (tile slot : Nat) (b : Access) : Bool :=
  b.stage == .fill && match b.place with | some (q, k) => q / 1024 == tile && k == slot | none => false

/-- A fill that has brought its tile ends: those that joined it go on to their slices (R47). -/
def endFill (s : State) (tile slot : Nat) : State :=
  { s with
    fills := s.fills.filter fun f => !(f.tile == tile && f.slot == slot)
    accesses := s.accesses.map fun b => if waitsFill tile slot b then { b with stage := .slice } else b }

/-- A request for a tile joins the fill of the tile under its slot, or begins one under a mask (R47, R131). -/
def beginFill (s : State) (tile slot : Nat) (mask : BitVec 24) : State :=
  if s.fills.any fun f => f.tile == tile && f.slot == slot then s
  else { s with fills := s.fills ++ [⟨tile, slot, mask, none⟩] }

/-- `fill(dpa, slot)` (R48), into the ways of a mask. -/
def fillTile (s : State) (dpa slot : Nat) (mask : BitVec 24) (ask : Nat) : FillRes :=
  match readTile s dpa slot with
  | .ok (ws, s1) => .ok (endFill (installTile mask ask slot 8 s1 (lineOf (tileBase dpa)) ws) (dpa / 1024) slot)
  | .error (code, stage, u, s1) => .fail (failFill s1 dpa slot code stage u) code

/-! ## The home slice -/

/-- A word address's index in its sector. -/
def wordIn (dpa : Nat) : Nat := dpa / 4 % 16

/-- Words of a held sector. -/
def sectorWords (x : L2Sector) (dpa n : Nat) : List Datum := (x.words.drop (wordIn dpa)).take n

/-- Replace words of a list from index `i`. -/
def putWords (ws : List Datum) (i : Nat) : List Datum → List Datum
  | [] => ws
  | d :: ds => putWords (ws.set i d) (i + 1) ds

def storeSector (s : State) (dpa : Nat) (x : L2Sector) (ds : List Datum) : State :=
  { s with l2 := tabPut s.l2 (sectorOf dpa) { x with words := putWords x.words (wordIn dpa) ds, dirty := true } }

/-- A result at the home: words or unit, or the code of the failure. -/
inductive HomeRes (α : Type) where
  | ok (a : α) (s : State)
  | fail (code : BitVec 8) (s : State)

/-- A BIND_FRAME of the address's frame is in progress: accesses to it wait (R57). -/
def binding (s : State) (dpa : Nat) : Bool := s.binds.any fun e => e.1 == dpa / 2 ^ 16

/-- The sector of an address under a slot, filled at once where it is missing: what engines and fetches use. In a frame
that is being bound the request waits: whatever made it happens later, as a whole (R57). -/
def homeSector (s : State) (dpa slot : Nat) (mask : BitVec 24) : HomeRes L2Sector :=
  if binding s dpa then .fail 0x00 { s with stalled := true }
  else
    match l2Hit s dpa slot with
    | some x => .ok x s
    | none =>
      match fillTile s dpa slot mask anyWay with
      | .ok s1 =>
        match l2Hit s1 dpa slot with
        | some x => .ok x s1
        | none => .fail 0x12 s1
      | .fail s1 c => .fail c s1

/-- A mismatched word of a clean sector is refetched once: the L2's copy is discarded and the tile refilled
(R26, Table 1.8). -/
def refetchWords (s : State) (dpa slot n : Nat) (mask : BitVec 24) (x : L2Sector) : HomeRes (List Datum) :=
  let ws := sectorWords x dpa n
  if ws.all Datum.okay || x.dirty then .ok ws s
  else
    match homeSector (delSector s dpa) dpa slot mask with
    | .ok y s1 => .ok (sectorWords y dpa n) s1
    | .fail c s1 => .fail c s1

/-- Read `n` words that lie in one sector, unchecked (R22). -/
def homeRead (s : State) (dpa slot n : Nat) (mask : BitVec 24) : HomeRes (List Datum) :=
  match homeSector s dpa slot mask with
  | .ok x s1 => .ok (sectorWords x dpa n) s1
  | .fail c s1 => .fail c s1

/-- Read words at a consuming point: refetched once where they mismatch in a clean line, then DATUM (R21, R26). -/
def homeReadChecked (s : State) (dpa slot n : Nat) (mask : BitVec 24) : HomeRes (List Datum) :=
  match homeSector s dpa slot mask with
  | .fail c s1 => .fail c s1
  | .ok x s1 =>
    match refetchWords s1 dpa slot n mask x with
    | .fail c s2 => .fail c s2
    | .ok ws s2 => if ws.all Datum.okay then .ok ws s2 else .fail 0x18 s2

/-- Write words of one sector at the home (R130), refused in a read-only group (R55). -/
def homeWrite (s : State) (dpa slot : Nat) (ds : List Datum) (mask : BitVec 24) : HomeRes Unit :=
  match homeSector s dpa slot mask with
  | .fail c s1 => .fail c s1
  | .ok x s1 => if readOnly s1 dpa then .fail 0x1A (teFail s1 dpa slot 0 0x1A) else .ok () (storeSector s1 dpa x ds)

/-- Merge a sub-word store at the home (R24, R25). -/
def homeMerge (s : State) (dpa slot bytes : Nat) (w : Word) (pc : Code) (mask : BitVec 24) : HomeRes Unit :=
  match homeSector s dpa slot mask with
  | .fail c s1 => .fail c s1
  | .ok x s1 =>
    if readOnly s1 dpa then .fail 0x1A (teFail s1 dpa slot 0 0x1A)
    else
      let old := ((sectorWords x dpa 1).head?).getD zeroDatum
      .ok () (storeSector s1 dpa x [mergeSub old (dpa % 4) bytes w pc])

/-- The byte that local memory holds at an address under a key slot: what the L2 holds, else what the tile's image
opens to. A virgin or unreadable tile reads as zero. -/
def byteRead (s : State) (dpa slot : Nat) : Byte :=
  let w := match l2Hit s dpa slot with
    | some x => ((sectorWords x dpa 1).head?).getD zeroDatum
    | none =>
      match readTile s dpa slot with
      | .ok (ws, _) => (ws[dpa % 1024 / 4]?).getD zeroDatum
      | .error _ => zeroDatum
  byteOf w.word (dpa % 4)

/-- Lines of a frame removed from every L2 (R57, R58). -/
def dropFrameL2 (s : State) (frame : Nat) : State :=
  { s with l2 := s.l2.filter fun e => e.1 / 1024 != frame
           l2Tags := s.l2Tags.filter fun e => e.1 / 512 != frame }

/-- Lines of a frame removed from every L1; a load reply for such a line that arrives later is not installed
(R57, R58, R135). -/
def dropFrameL1 (s : State) (frame : Nat) : State :=
  let f := fun c : Core => { c with l1 := c.l1.filter fun x => !(x.space == .local && x.addr / 512 == frame) }
  let g := fun a : Access => { a with sector := a.sector.filter fun x => !(x.1 == .local && x.2.1 / 1024 == frame) }
  { s with cores := tabMap Core.empty f s.cores, accesses := s.accesses.map g }

end Sys2Proof.Machine
end

