-- ==== Sys2Proof/Machine/Operands.lean ====
section
/-! DEFINITION. Operands of a thread: guards, predicates, the source checks of R32 in their order, element
selects (R200), destination interlocks (R165, R184) and register writes with their codes and tags (R31, R242). -/

namespace Sys2Proof.Machine

/-! Fault codes (Table 0.3). -/
def fcIllegal : BitVec 8 := 0x01
def fcBadHeader : BitVec 8 := 0x02
def fcBadTarget : BitVec 8 := 0x03
def fcTag : BitVec 8 := 0x04
def fcEmpty : BitVec 8 := 0x05
def fcBibless : BitVec 8 := 0x06
def fcRendezvous : BitVec 8 := 0x07
def fcAlign : BitVec 8 := 0x08
def fcXlate : BitVec 8 := 0x10
def fcProtect : BitVec 8 := 0x11
def fcKey : BitVec 8 := 0x12
def fcDatum : BitVec 8 := 0x18
def fcIntegrity : BitVec 8 := 0x19
def fcVersion : BitVec 8 := 0x1A
def fcPeerDead : BitVec 8 := 0x20
def fcRank : BitVec 8 := 0x21
def fcHostUr : BitVec 8 := 0x22
def fcHostCa : BitVec 8 := 0x23
def fcRemote : BitVec 8 := 0x24
def fcCountSat : BitVec 8 := 0x28
def fcGen : BitVec 8 := 0x29
def fcNoSlot : BitVec 8 := 0x2A
def fcGroup : BitVec 8 := 0x2B
def fcRink : BitVec 8 := 0x30
def fcMapBusy : BitVec 8 := 0x31
def fcTrap : BitVec 8 := 0x40
def fcBreak : BitVec 8 := 0x41
def fcFrozen : BitVec 8 := 0x50
def fcEdge : BitVec 8 := 0x60

/-- What a check or a read gives: a value, a reason to wait, or a fault code. -/
inductive Got (α : Type) where
  | ok (a : α)
  | block (b : Block)
  | fault (c : BitVec 8)
  deriving Repr

def Got.bind {α β : Type} (x : Got α) (f : α → Got β) : Got β :=
  match x with
  | .ok a => f a
  | .block b => .block b
  | .fault c => .fault c

def Got.map {α β : Type} (f : α → β) (x : Got α) : Got β := x.bind fun a => .ok (f a)

/-- The registers of a thread; v255 is the constant of R7. -/
def Thread.reg (t : Thread) (r : Nat) : Reg := if r == 255 then Reg.zero else tabGet Reg.zero t.regs r
def Thread.setReg (t : Thread) (r : Nat) (x : Reg) : Thread :=
  if r == 255 then t else { t with regs := tabSet Reg.zero t.regs r x }
def Thread.modReg (t : Thread) (r : Nat) (f : Reg → Reg) : Thread := t.setReg r (f (t.reg r))

/-- Predicates; p7 reads true and discards writes (Table 7.1, R244). -/
def Thread.pred (t : Thread) (p : Nat) : Bool := if p == 7 then true else t.preds.getLsbD p
def Thread.setPred (t : Thread) (p : Nat) (v : Bool) : Thread :=
  if 7 ≤ p then t
  else { t with preds := (t.preds &&& ~~~ (1#7 <<< p)) ||| (if v then 1#7 <<< p else 0) }

/-- The guard (R193). -/
def Thread.guard (t : Thread) (g : Guard) : Bool := t.pred g.pred.toNat != g.neg

/-- A result with the code that the lane generates, full (R21, R242). -/
def Thread.write (t : Thread) (r : Nat) (tag : Tag) (w : Word) : Thread :=
  t.modReg r fun x => { x with word := w, code := lcc w, tag := tag, full := true, pending := false }
/-- A word written with the code it came with (R219, R372). -/
def Thread.fill (t : Thread) (r : Nat) (tag : Tag) (d : Datum) : Thread :=
  t.modReg r fun x => { x with word := d.word, code := d.code, tag := tag, full := true, pending := false }
/-- Mark a destination empty with a fill pending (R164). -/
def Thread.markEmpty (t : Thread) (r : Nat) (tag : Tag) : Thread :=
  t.modReg r fun x => { x with tag := tag, full := false, pending := true }
/-- A faulted destination: empty, no fill pending (R164, R404). -/
def Thread.leaveEmpty (t : Thread) (r : Nat) : Thread :=
  t.modReg r fun x => { x with full := false, pending := false }

/-- Consecutive registers from `r`, each with a word and a tag. -/
def Thread.writeAll (t : Thread) (r : Nat) : List (Tag × Word) → Thread
  | [] => t
  | (g, w) :: xs => (t.write r g w).writeAll (r + 1) xs
def Thread.fillAll (t : Thread) (r : Nat) : List (Tag × Datum) → Thread
  | [] => t
  | (g, d) :: xs => (t.fill r g d).fillAll (r + 1) xs
def Thread.emptyAll (t : Thread) (r : Nat) : List Tag → Thread
  | [] => t
  | g :: xs => (t.markEmpty r g).emptyAll (r + 1) xs
def Thread.leaveAll (t : Thread) (r : Nat) : Nat → Thread
  | 0 => t
  | n + 1 => (t.leaveEmpty r).leaveAll (r + 1) n

/-- A register result of a pair: low word, high word, both tags (R243). -/
def Thread.writePair (t : Thread) (r : Nat) (lo hi : Tag) (d : DWord) : Thread :=
  (t.write r lo (lo32 d)).write (r + 1) hi (hi32 d)

/-- The tests of R32 on one register, in their order (R166). -/
def Thread.check (t : Thread) (r : Nat) (expect : Tag) (trap : Bool) : Got Reg :=
  let x := t.reg r
  if !x.full then
    if trap then .fault fcEmpty
    else if x.pending then .block (.reg r)
    else .fault fcEmpty
  else if x.tag != .raw && expect != .raw && x.tag != expect then .fault fcTag
  else if x.code != lcc x.word then .fault fcDatum
  else .ok x

def Thread.checkAll (t : Thread) (r : Nat) (trap : Bool) : List Tag → Got (List Reg)
  | [] => .ok []
  | e :: es => (t.check r e trap).bind fun x => (t.checkAll (r + 1) trap es).map fun xs => x :: xs

/-- Element select (Table 8.9) on a word of a packed format. -/
def selectWord (t : Tag) (sel : BitVec 2) (w : Word) : Word :=
  let n := tagElems t
  if sel == 0 then w
  else joinSel t n (fun i => if sel == 1 then 0 else if sel == 2 then n - 1 else n - 1 - i)
where
  joinSel (t : Tag) (n : Nat) (f : Nat → Nat) : Word :=
    let b := 32 / tagElems t
    w32 (((List.range n).map fun i => (w.toNat / 2 ^ (b * f i)) % 2 ^ b * 2 ^ (b * i)).foldl (· + ·) 0)

/-- One source as the form reads it: registers checked and selected, or the immediate (R201). -/
def Thread.source (t : Thread) : Src → Got (List Reg)
  | .imm ws => .ok (ws.map fun w => { Reg.zero with word := w, code := lcc w })
  | .regs r es trap sel =>
    (t.checkAll r.toNat trap es).map fun xs =>
      match es with
      | [e] => xs.map fun x => { x with word := selectWord e sel x.word }
      | _ => xs

/-- The sources of a form in operand order; the first that fails decides (R32). -/
def Thread.sources (t : Thread) : List Src → Got (List (List Reg))
  | [] => .ok []
  | x :: xs => (t.source x).bind fun a => (t.sources xs).map fun as => a :: as

/-- A destination with a fill pending, or lent, blocks its writer (R165, R184). -/
def Thread.dstBlock (t : Thread) (r : Nat) : Nat → Option Block
  | 0 => none
  | n + 1 =>
    let x := t.reg r
    if x.pending || x.lent != 0 then some (.reg r) else t.dstBlock (r + 1) n

def Thread.dstReady (t : Thread) (r n : Nat) : Got Unit :=
  match t.dstBlock r n with
  | some b => .block b
  | none => .ok ()

/-- Source `i` of a form, word `j`. -/
def srcReg (xs : List (List Reg)) (i j : Nat) : Reg := ((xs[i]?).bind fun x => x[j]?).getD Reg.zero
def srcW (xs : List (List Reg)) (i : Nat) : Word := (srcReg xs i 0).word
def srcPair (xs : List (List Reg)) (i : Nat) : DWord := pair64 (srcReg xs i 0).word (srcReg xs i 1).word
def srcData (xs : List (List Reg)) (i : Nat) : List Datum := ((xs[i]?).getD []).map fun x => ⟨x.word, x.code⟩

/-- What one lane does with an instruction that concerns its own thread alone. -/
inductive LaneOut where
  | done (t : Thread)
  | block (b : Block)
  | fault (c : BitVec 8)
  deriving DecidableEq, Repr

def Got.lane (x : Got Thread) : LaneOut :=
  match x with
  | .ok t => .done t
  | .block b => .block b
  | .fault c => .fault c

/-- A form A instruction at one lane (R242): sources under R32, then the destination's interlock, then the
effect. A lane whose guard is false does nothing. -/
def laneA (r : ARule) (f : FmtA) (eff : Thread → List (List Reg) → Thread) (t : Thread) : LaneOut :=
  if !t.guard f.guard then .done t
  else
    ((t.sources (aSrcs r f)).bind fun xs =>
      (match r.dst with
       | .regs n => t.dstReady f.dst.toNat n
       | _ => .ok ()).map fun _ => eff t xs).lane

end Sys2Proof.Machine
end

