-- ==== Sys2Proof/Machine/Translate.lean ====
section
/-! DEFINITION. Addresses and translation: kinds of address (R65, R66), the rank table (R93), regions (R69, R70),
table walks (R72 to R77), the checks of Table 3.5 (R78), and the cached translations (R79, R81). -/

namespace Sys2Proof.Machine

/-- The access kinds of R78, as a record numbers them (Table 18.1). -/
inductive AKind where
  | load | store | atomic | fetch
  deriving DecidableEq, Repr

def AKind.num : AKind → Nat
  | .load => 0 | .store => 1 | .atomic => 2 | .fetch => 3

/-- Address kinds (Table 3.1). -/
inductive Addr where
  | local (va : Nat)
  | unicast (rank region offset : Nat)
  | multicast (group region offset : Nat)
  /-- non-canonical (R66) -/
  | bad
  deriving DecidableEq, Repr

def addrOf (d : DWord) : Addr :=
  let n := d.toNat
  if !bit n 63 then (if field n 62 57 == 0 then .local (field n 56 0) else .bad)
  else if !bit n 62 then .unicast (field n 61 45) (field n 44 39) (field n 38 0)
  else if bit n 45 then .bad
  else .multicast (field n 61 46) (field n 44 39) (field n 38 0)


/-- Demand faults: steps 7 to 11 but for the walker's own reads (R405). -/
def XFail.demand (x : XFail) : Bool := 7 ≤ x.step && !x.walker

def ordOf : Nat → Option OrdClass
  | 0 => some .so | 1 => some .rc | 2 => some .un | _ => none

/-- The order field is an assertion of the class (R218). -/
def orderOk (o : OrderReq) (c : OrdClass) : Bool :=
  match o with
  | .page => true
  | .so => c == .so
  | .rc => c == .rc
  | .un => c == .un

/-! ## Walks -/

/-- A table entry as the walker classes it (R73, R75). -/
inductive Pte where
  | absent
  | malformed
  | table (dpa : Nat)
  | leaf (l : Leaf)
  deriving DecidableEq, Repr

def levelShift : Nat → Nat
  | 0 => 12 | 1 => 21 | 2 => 30 | 3 => 39 | _ => 48

/-- The meaning of an entry at a level, for an address (Tables 3.3, 3.4, R74, R75). -/
def classify (p level va e : Nat) : Pte :=
  if !bit e 0 then .absent
  else if !bit e 1 then
    if level == 0 || field e 11 2 != 0 || field e 63 40 != 0 then .malformed else .table (field e 39 12 * 4096)
  else
    let size := field e 5 2
    let base := field e 51 12 * 4096
    let host := bit e 11
    let lvOk := (level == 0 && size ≤ 8) || (level == 1 && 9 ≤ size)
    match ordOf (field e 7 6) with
    | none => .malformed
    | some cls =>
      if field e 63 61 != 0 || !lvOk || (bit e 9 && !bit e 8) || (bit e 10 && !(bit e 8 && bit e 9)) ||
        base % 2 ^ (size + 12) != 0 || (!host && 2 ^ 40 ≤ base) then .malformed
      else .leaf ⟨p, va / 2 ^ (size + 12) * 2 ^ (size + 12), size, base, field e 59 52, host, bit e 60, bit e 8,
        bit e 9, bit e 10, cls⟩

/-- A lookup in the walk cache (R79). -/
def walkHit (s : State) (d p level va : Nat) : Option Nat :=
  ((s.die d).walkCache.find? fun w => w.part == p && w.level == level && w.vbase == va / 2 ^ levelShift level).map
    WalkEntry.table

/-- Walk from a table of a level downward (R72): at most five reads. The die is the walker's. -/
def walkFrom : Nat → State → Nat → Nat → Nat → Nat → Except XFail Leaf × State
  | 0, s, _, p, va, table => walkRead s p va 0 table
  | level + 1, s, d, p, va, table =>
    match walkHit s d p (level + 1) va with
    | some t => walkFrom level s d p va t
    | none =>
      match entryAt s p va (level + 1) table with
      | .fail c s1 => (.error ⟨c, 9, true, va / 4096 * 4096⟩, s1)
      | .ok e s1 =>
        match classify p (level + 1) va e with
        | .absent => (.error ⟨fcXlate, 8, false, va / 4096 * 4096⟩, s1)
        | .malformed => (.error ⟨fcXlate, 9, false, va / 4096 * 4096⟩, s1)
        | .leaf l => (.ok l, s1)
        | .table t =>
          let x := s1.die d
          let w : WalkEntry := ⟨p, level + 1, va / 2 ^ levelShift (level + 1), t⟩
          walkFrom level (s1.setDie d { x with walkCache := (w :: x.walkCache).take 1024 }) d p va t
where
  /-- One entry, read as a unit of 8 bytes with its codes checked (R76). -/
  entryAt (s : State) (p va level table : Nat) : HomeRes Nat :=
    let a := table + 8 * (va / 2 ^ levelShift level % 512)
    match homeReadChecked s a (field (s.part p).xlRoot.toNat 7 0) 2 (s.part p).l2Ways with
    | .fail c s1 => .fail c s1
    | .ok ws s1 =>
      match ws with
      | [lo, hi] => .ok (pair64 lo.word hi.word).toNat s1
      | _ => .fail 0x18 s1
  walkRead (s : State) (p va level table : Nat) : Except XFail Leaf × State :=
    match entryAt s p va level table with
    | .fail c s1 => (.error ⟨c, 9, true, va / 4096 * 4096⟩, s1)
    | .ok e s1 =>
      match classify p level va e with
      | .absent => (.error ⟨fcXlate, 8, false, va / 4096 * 4096⟩, s1)
      | .leaf l => (.ok l, s1)
      | _ => (.error ⟨fcXlate, 9, false, va / 4096 * 4096⟩, s1)

/-- A walk of a partition's tables (R72). -/
def walk (s : State) (d p va : Nat) : Except XFail Leaf × State :=
  walkFrom 4 s d p va (field (s.part p).xlRoot.toNat 39 12 * 4096)

/-! ## Permissions -/

def leafPerm (l : Leaf) : AKind → Bool
  | .load => l.rd
  | .store => l.wr
  | .atomic => l.rd && l.wr && l.at_
  | .fetch => l.x

/-- Steps 10 and 11 of Table 3.5 on a leaf. -/
def leafFail (s : State) (p : Nat) (l : Leaf) (k : AKind) (o : OrderReq) (cls : Option OrdClass) : Option XFail :=
  if !leafPerm l k || !orderOk o l.cls || (cls.isSome && cls != some l.cls) then
    some ⟨fcProtect, 10, false, l.vbase⟩
  else if !(s.part p).keymask.getLsbD l.slot then some ⟨fcKey, 11, false, l.vbase⟩
  else none

def leafCovers (l : Leaf) (p va : Nat) : Bool :=
  l.part == p && l.vbase ≤ va && va < l.vbase + 2 ^ (l.size + 12)

/-- The address a leaf gives (R74). -/
def leafAddr (l : Leaf) (va : Nat) : Nat := l.base + (va - l.vbase)

def tlbFind (t : List Leaf) (p va : Nat) : Option Leaf := t.find? fun l => leafCovers l p va

/-- A leaf at the head of a list of leaves. -/
def tlbPut (t : List Leaf) (l : Leaf) : List Leaf :=
  l :: t.filter fun x => !(x.part == l.part && x.vbase == l.vbase && x.size == l.size)

/-- Two leaves fall in one set of a cluster TLB (Table 3.6; log entry 26). -/
def sameTlbSet (a b : Leaf) : Bool := Config.tlbSet a.part a.vbase a.size == Config.tlbSet b.part b.vbase b.size

/-- A core TLB holds 64 leaves, fully associative; a cluster TLB 2,048 in 256 sets of 8 ways (Table 3.6). -/
def coreTlbPut (t : List Leaf) (l : Leaf) : List Leaf := (tlbPut t l).take 64
def clusterTlbPut (t : List Leaf) (l : Leaf) : List Leaf :=
  let u := tlbPut t l
  if u.length ≤ 8 then u else keepFirst (sameTlbSet l) 8 u

def cacheLeaf (s : State) (core : Option Nat) (cluster : Nat) (l : Leaf) : State :=
  let c := s.cluster cluster
  let s1 := s.setCluster cluster { c with tlb := clusterTlbPut c.tlb l }
  match core with
  | some k => s1.modCore k fun x => { x with tlb := coreTlbPut x.tlb l }
  | none => s1


def corePlace (c : Nat) : Place := ⟨some c, c / 4, c / 64⟩
def clusterPlace (k : Nat) : Place := ⟨none, k, k / 16⟩
def diePlace (d : Nat) : Place := ⟨none, 16 * d, d⟩

/-- A cached translation (R79): the core's TLB, then the cluster's. -/
def cachedLeaf (s : State) (w : Place) (p va : Nat) : Option Leaf :=
  ((w.core.bind fun c => tlbFind (s.core c).tlb p va).orElse fun _ => tlbFind (s.cluster w.cluster).tlb p va)

/-- Granules (partition and page) that wait for a walk on a die, for those that came before name `n`, each once: those of
threads' accesses, and those of the requests that engines, fetches and homes have queued (R80). -/
def walksAhead (s : State) (d n : Nat) : List (Nat × Nat) :=
  let threads : List Access := s.accesses.filter fun b => b.stage == .walk && b.core / 64 == d && b.id < n
  let others : List WalkReq := s.walks.filter fun x => x.result.isNone && x.place.die == d && x.id < n
  ((threads.map fun b : Access => (b.part, b.lva / 4096)) ++ others.map fun x : WalkReq => (x.part, x.page)).eraseDups

/-- What the checks after the walk give on a leaf. -/
def leafVerdict (s : State) (p : Nat) (l : Leaf) (k : AKind) (o : OrderReq) (cls : Option OrdClass) : Except XFail Leaf :=
  match leafFail s p l k o cls with
  | some e => .error e
  | none => .ok l

/-- A request of an engine, a fetch or a home waits for the walker: whatever made it happens later, as a whole. -/
def queueWalk (s : State) (w : Place) (p page : Nat) : Except XFail Leaf × State :=
  (.error ⟨0x00, 9, true, 0⟩,
   { s with stalled := true, nextId := s.nextId + 1, walks := s.walks ++ [⟨s.nextId, w, p, page, none⟩] })

/-- Steps 7 to 11 for engines, fetches and homes. A lookup that would fault on a cached leaf walks afresh (R81). The walk
is made at once where a slot is free and no walk of its granule is in progress; else the request joins that walk, or waits
in arrival order for one of the 64 slots (R80). -/
def translate (s : State) (w : Place) (p va : Nat) (k : AKind) (o : OrderReq) (cls : Option OrdClass) :
    Except XFail Leaf × State :=
  if !(s.part p).xlEnable then (.error ⟨fcXlate, 7, false, va / 4096 * 4096⟩, s)
  else
    match (cachedLeaf s w p va).filter fun l => (leafFail s p l k o cls).isNone with
    | some l => (.ok l, s)
    | none =>
      match s.walks.find? fun x => x.place == w && x.part == p && x.page == va / 4096 with
      | some x =>
        match x.result with
        | none => (.error ⟨0x00, 9, true, 0⟩, { s with stalled := true })
        | some r =>
          let s1 := { s with walks := s.walks.filter fun y => y.id != x.id }
          (match r with | .ok l => leafVerdict s1 p l k o cls | .error e => .error e, s1)
      | none =>
        let ahead := walksAhead s w.die s.nextId
        if ahead.contains (p, va / 4096) || 64 ≤ ahead.length then queueWalk s w p (va / 4096)
        else
          match walk s w.die p va with
          | (.error e, s1) => (.error e, s1)
          | (.ok l, s1) => (leafVerdict s1 p l k o cls, cacheLeaf s1 w.core w.cluster l)

/-! ## Ranks (R91 to R93) -/

/-- A rank-table block doubleword, by byte offset. -/
def rtWord (s : State) (p off : Nat) : Nat := (tabGet 0 (s.part p).rt (off / 8)).toNat
def rtSelf (s : State) (p : Nat) : Nat := field (rtWord s p 0x8) 48 32
def rtSelfHid (s : State) (p : Nat) : Nat := field (rtWord s p 0x8) 31 0
def rtRadix (s : State) (p i : Nat) : Nat := field (rtWord s p (0x20 + 8 * i)) 17 0
def rtRules (s : State) (p i : Nat) : Nat := field (rtWord s p (0x20 + 8 * i)) 21 18
def rtRule (s : State) (p i j : Nat) : Nat :=
  rtWord s p (0x100 + 128 * i + 16 * j) + 2 ^ 64 * rtWord s p (0x108 + 128 * i + 16 * j)

/-- The exception that governs a rank: its doubleword. -/
def rtException (s : State) (p rank : Nat) : Option Nat :=
  (((s.part p).rt.filter fun e => 0x400 ≤ e.1 && e.1 < 0x800).map fun e => e.2.toNat).find? fun x =>
    bit x 63 && field x 56 40 == rank

/-- Host id and profile by the level rules. -/
def rtDigits (s : State) (p : Nat) : Nat → Nat → Nat → Nat → Nat → Option (Nat × Nat)
  | 0, _, _, hid, prof => some (hid, prof)
  | k + 1, i, x, hid, prof =>
    let n := rtRadix s p i
    let dig := x % n
    match (List.range (rtRules s p i)).find? fun j =>
        let u := rtRule s p i j
        field u 127 110 ≤ dig && dig < field u 127 110 + field u 109 92 with
    | none => none
    | some j =>
      let u := rtRule s p i j
      rtDigits s p k (i + 1) (x / n)
        ((hid + field u 63 32 + field u 31 0 * (dig - field u 127 110)) % 2 ^ 32)
        (if i == 1 then field u 91 89 else prof)

/-- What a rank resolves to (R93). A dead result keeps the host id where the rules gave one (R314). -/
inductive Resolved where
  | invalid
  | dead (hid : Option (Nat × Nat))
  | loc (hid prof : Nat)
  | pod (hid prof : Nat)
  | remote (hid prof : Nat)
  deriving DecidableEq, Repr

/-- State of a pod position; the module's own reads ALIVE (Table 4.15). -/
def peerState (s : State) (t : Nat) : Nat := if t == s.pos then 1 else (s.peer t).state

def resolveRank (s : State) (p rank : Nat) : Resolved :=
  if field (rtWord s p 0) 17 0 ≤ rank then .invalid
  else
    let e := rtException s p rank
    match e.filter fun x => field x 62 61 == 1 with
    | some _ => .dead none
    | none =>
      let r := match e with
        | some x => some (field x 31 0, field x 59 57)
        | none => rtDigits s p 4 0 rank 0 0
      match r with
      | none => .invalid
      | some (hid, prof) =>
        if rank == rtSelf s p then .loc hid prof
        else if hid / 16 == rtSelfHid s p / 16 then
          if hid % 16 == rtSelfHid s p % 16 then .invalid
          else if peerState s (hid % 16) == 0 || peerState s (hid % 16) == 3 then .dead (some (hid, prof))
          else .pod hid prof
        else .remote hid prof

/-- The Ultra Ethernet address of a host id (R93). -/
def ueAddr (s : State) (p hid : Nat) : BitVec 128 := BitVec.ofNat 128 (rtWord s p 0x10 * 2 ^ 64 + hid % 2 ^ 32)

/-- RT_PROFILE_k (Table 4.5). -/
def profilePaths (s : State) (p k : Nat) : Nat := field (rtWord s p (0x40 + 8 * k)) 6 0
def profileBase (s : State) (p k : Nat) : Nat := field (rtWord s p (0x40 + 8 * k)) 31 16

/-- The route of a resolved rank: that of a remote one (R94). -/
def routeOf (s : State) (p : Nat) : Resolved → Route
  | .remote hid prof => ⟨ueAddr s p hid, profilePaths s p prof, profileBase s p prof⟩
  | .invalid | .dead _ | .loc _ _ | .pod _ _ => .none

/-! ## Global addresses at the source: steps 1 to 6 -/

def regionWord (s : State) (p i : Nat) : Nat := (tabGet 0 (s.part p).regions i).toNat
def regionClass (r : Nat) : OrdClass := (ordOf (field r 2 1)).getD .so

/-- Steps 5 and 6. -/
def regionCheck (s : State) (p region offset : Nat) (k : AKind) (o : OrderReq) (mc : Bool) : Except XFail OrdClass :=
  let r := regionWord s p region
  if !bit r 0 then .error ⟨fcXlate, 5, false, 0⟩
  else if 2 ^ (field r 10 5 + 12) ≤ offset || ((k == .store || k == .atomic) && !bit r 3) || (mc && !bit r 4) ||
      !orderOk o (regionClass r) then .error ⟨fcProtect, 6, false, 0⟩
  else .ok (regionClass r)

/-- A group entry of the module (Table 4.10). -/
def mcEntry (s : State) (g : Nat) : Nat := (tabGet 0 s.mcGroup g).toNat
def groupOwned (s : State) (p g : Nat) : Bool := bit (mcEntry s g) 31 && field (mcEntry s g) 30 27 == p

/-- Steps 1 to 6 of Table 3.5 for a global or multicast address. The second component of a failure says that it
freezes a core: PROTECT under R109. -/
def sourceCheck (s : State) (p : Nat) (a : Addr) (k : AKind) (o : OrderReq) : Except (XFail × Bool) GDest :=
  match a with
  | .local _ => .error (⟨fcXlate, 1, false, 0⟩, false)
  | .bad => .error (⟨fcXlate, 1, false, 0⟩, false)
  | .unicast rank region offset =>
    if !(s.part p).xlGlobal then .error (⟨fcProtect, 3, false, 0⟩, false)
    else
      match resolveRank s p rank with
      | .invalid => .error (⟨fcRank, 4, false, 0⟩, false)
      | .dead _ => .error (⟨fcPeerDead, 4, false, 0⟩, false)
      | r =>
        match regionCheck s p region offset k o false with
        | .error e => .error (e, false)
        | .ok c =>
          .ok ⟨match r with
               | .pod hid _ => .pod (hid % 16)
               | .remote hid prof => .remote hid prof
               | _ => .self, region, offset, c, routeOf s p r⟩
  | .multicast g region offset =>
    if k != .store then .error (⟨fcProtect, 2, false, 0⟩, false)
    else if !(s.part p).xlGlobal then .error (⟨fcProtect, 3, false, 0⟩, false)
    else
      match regionCheck s p region offset k o true with
      | .error e => .error (e, false)
      | .ok c => if groupOwned s p g then .ok ⟨.multicast g, region, offset, c, .none⟩
                 else .error (⟨fcProtect, 6, false, 0⟩, true)

/-- The local address that a region's offset has at its home (R71). -/
def regionLocal (s : State) (p region offset : Nat) : Nat := field (regionWord s p region) 56 12 * 4096 + offset

/-- The key slot that a launch's handle names (Table 19.1). -/
def launchSlot (s : State) (seq : Nat) : Nat :=
  match tabFind s.launches seq with
  | some l => l.keySlot
  | none => 0

/-- The partition of a launch. -/
def launchPart (s : State) (seq : Nat) : Nat :=
  match tabFind s.launches seq with
  | some l => l.part
  | none => 0

end Sys2Proof.Machine
end

