-- ==== Sys2Proof/Machine/Faults.lean ====
section
/-! DEFINITION. Faults: fault records and %trapinfo (R406, R407), fault policies (R412), parking and batches (R88,
R409), freezing of a core (R416), the end of a thread (R364) and of a launch (R418), and entering a trap handler
and returning from it (R375, R376). -/

namespace Sys2Proof.Machine

/-! ## Launch fields (Table 17.1) -/

def launchField (s : State) (seq hi lo : Nat) : Nat :=
  match tabFind s.launches seq with
  | some l => field l.record.toNat hi lo
  | none => 0
def launchPolicy (s : State) (seq : Nat) : Nat := launchField s seq 335 334
def launchHandler (s : State) (seq : Nat) : DWord := w64 (launchField s seq 127 64)
/-- The queue of a launch (R387). -/
def launchQueue (s : State) (seq : Nat) : Option Nat := (tabFind s.launches seq).map Launch.queue
def launchTop (s : State) (seq : Nat) : Nat := launchField s seq 345 343
def launchRegs (s : State) (seq : Nat) : Nat := launchField s seq 375 368
def launchSpBytes (s : State) (seq : Nat) : Nat := (launchField s seq 364 346 + 255) / 256 * 256
def modLaunch (s : State) (seq : Nat) (f : Launch → Launch) : State :=
  match tabFind s.launches seq with
  | some l => { s with launches := tabPut s.launches seq (f l) }
  | none => s

/-! ## What a lane raises -/

/-- A policy fault without an address. -/
def fi (c : BitVec 8) : FInfo := ⟨c, 0, 0, none, false, none, false⟩
/-- A policy fault of an access. -/
def fiAt (c : BitVec 8) (k : AKind) (a : DWord) : FInfo := ⟨c, 0, k.num, some a, false, none, false⟩
/-- A failed check of Table 3.5 on this module. -/
def fiX (x : XFail) (k : AKind) (a : DWord) : FInfo :=
  ⟨x.code, 0, k.num, some a, false, if x.demand then some x.page else none, false⟩

/-- The bits of a record (Table 18.1). -/
def recBits (r : FRec) (phase : Bool) (rseq : Nat) : BitVec 256 :=
  BitVec.ofNat 256 (b2n phase * 2 ^ 255 + rseq % 2 ^ 20 * 2 ^ 235 + r.kind % 8 * 2 ^ 232 + r.die % 8 * 2 ^ 229 +
    r.cluster % 16 * 2 ^ 225 + r.core % 4 * 2 ^ 223 + r.unit % 16 * 2 ^ 219 + r.code.toNat * 2 ^ 211 +
    r.detail.toNat * 2 ^ 203 + r.access % 4 * 2 ^ 201 + b2n r.req * 2 ^ 200 + r.lanes.toNat * 2 ^ 160 +
    r.seq % 2 ^ 31 * 2 ^ 129 + r.pc.toNat * 2 ^ 64 + r.addr.toNat)

/-- %trapinfo (Table 18.3). -/
def trapInfo (i : FInfo) : DWord :=
  w64 (i.code.toNat + i.detail.toNat * 2 ^ 8 + i.access % 4 * 2 ^ 16 + b2n i.addr.isSome * 2 ^ 18 +
    b2n i.posted * 2 ^ 19)

/-- The record of one thread's fault on a core (R407). -/
def laneRec (c key : Nat) (t : Thread) (i : FInfo) : FRec :=
  { kind := if i.page.isSome then 0 else if i.freezing then 5 else 1
    die := c / 64, cluster := c / 4 % 16, core := c % 4, unit := 0, code := i.code, detail := i.detail
    access := i.access, req := false, lanes := 1#32 <<< (key % 32), seq := t.seq, pc := t.pc
    addr := i.addr.getD 0, uids := [t.uid] }

/-- A record against a launch (kind LAUNCH, Table 18.2). -/
def launchRec (c seq : Nat) (code detail : BitVec 8) (access : Nat) (addr : DWord) : FRec :=
  { kind := 4, die := c / 64, cluster := c / 4 % 16, core := c % 4, unit := 0, code := code, detail := detail
    access := access, req := false, lanes := 0, seq := seq, pc := 0, addr := addr, uids := [] }

/-! ## Batches -/

/-- A batch joins a partition's queue of batches (R88, R409). -/
def pushBatch (s : State) (p : Nat) (rs : List FRec) : State :=
  match rs with
  | [] => s
  | _ =>
    let r := s.fresh
    let x := r.2.part p
    r.2.setPart p { x with batches := x.batches ++ [⟨r.1, rs⟩] }

/-- Faults of one instance on one page, or of one code, share a record (R88, R409). -/
def sameRec (a b : Demand) : Bool :=
  a.record.kind == b.record.kind && a.code == b.code && a.record.pc == b.record.pc &&
  (a.record.kind != 0 || a.page == b.page)

def insertLane (d : Demand) : List Demand → List Demand
  | [] => [d]
  | x :: xs => if d.key % 32 < x.key % 32 then d :: x :: xs else x :: insertLane d xs

/-- The lanes of an instance that are grouped: one record for each group, in ascending order of lowest lane. -/
def groupDemands : Nat → List Demand → List FRec
  | 0, _ => []
  | _, [] => []
  | n + 1, d :: ds =>
    let same := ds.filter (sameRec d)
    { d.record with lanes := same.foldl (fun m x => m ||| x.record.lanes) d.record.lanes
                    uids := d.record.uids ++ (same.map fun x => x.record.uids).flatten } ::
      groupDemands n (ds.filter fun x => !sameRec d x)

/-! ## Parking -/

/-- A thread is held at a TREAD or TCVT of an instance, whose verdict comes from the tile (R288, R289). -/
def Thread.heldIn (t : Thread) (inst : Nat) : Bool :=
  t.bundle == some inst && match t.status with | .blocked (.tileOps _) => true | _ => false

/-- An instance still has lanes without a verdict: in a table walk, or at all. -/
def undecided (s : State) (inst : Nat) (walks : Bool) : Bool :=
  (s.accesses.any fun a => a.inst == inst && (a.before.isSome || a.holds) && (!walks || a.stage == .walk)) ||
  (!walks && s.cores.any fun c => c.2.threads.any fun e => e.2.heldIn inst)

/-- The batch of one kind of an instance's faults, once every lane has its verdict. -/
def settleKind (s : State) (inst kind : Nat) (wait : Bool) : State :=
  let mine := fun d : Demand => d.inst == inst && d.record.kind == kind
  match s.demands.filter mine with
  | [] => s
  | d :: ds =>
    if wait then s
    else
      pushBatch { s with demands := s.demands.filter fun x => !mine x } (launchPart s d.record.seq)
        (groupDemands (ds.length + 1) (d :: ds))

/-- The batches that an instance's faults form: DEMAND, PARKED and FREEZE. -/
def settleInst (s : State) (inst : Nat) : State :=
  let s1 := settleKind s inst 0 (undecided s inst true)
  let s2 := settleKind s1 inst 1 (undecided s1 inst false)
  settleKind s2 inst 5 (undecided s2 inst true)

/-- Parks a thread on a record to be written (R404). -/
def parkOn (s : State) (c k inst page : Nat) (r : FRec) : State :=
  match s.thread c k with
  | none => s
  | some t =>
    let s1 := s.setThread c k { t with status := .parked none }
    { s1 with demands := insertLane ⟨inst, c, k, t.uid, r.code, r.access, page, r⟩ s1.demands }

/-- Freezes a core (R416); the record is written once. -/
def freezeCore (s : State) (c uid : Nat) : State :=
  s.modCore c fun x =>
    { x with frozen := some (match x.frozen with
        | some f => { f with uids := f.uids ++ [uid] }
        | none => ⟨none, [uid]⟩) }

/-- An earlier access of a thread has no verdict yet: nothing that the thread does may reach beyond it (R404). -/
def openVerdict (s : State) (uid : Nat) : Bool := s.accesses.any fun a => a.uid == uid && a.before.isSome

/-- A change of a thread that comes from outside it: of the thread, and of what its open accesses keep of it. -/
def modEver (s : State) (c k uid : Nat) (f : Thread → Thread) : State :=
  { s.modThread c k f with accesses := s.accesses.map fun a =>
      if a.uid == uid then { a with before := a.before.map f } else a }

/-! ## The end of a thread (R364, R176, R286, R368) -/

/-- Slot rows of a gang node that hold a live thread (R368). -/
def rowsOf (s : State) (seq level : Nat) (node : List Nat) : Nat :=
  (s.cores.map fun e => (e.2.rows.filter fun r =>
    r.2.seq == seq && r.2.path.drop (level - 1) == node).length).foldl (· + ·) 0

/-- Phases whose arrivals are complete (R369). -/
def checkBarriers (s : State) (seq : Nat) : State :=
  modLaunch s seq fun l =>
    { l with barriers := l.barriers.map fun b =>
        if b.arrivals != 0 && b.arrivals == rowsOf s seq b.level b.node then
          { b with arrivals := 0, phase := b.phase + 1 }
        else b }

/-- A row leaves every barrier: its arrival in a phase still open is taken back. -/
def leaveBarriers (s : State) (r : Row) : State :=
  modLaunch s r.seq fun l =>
    { l with barriers := l.barriers.map fun b =>
        let f := tabGet BarFlag.zero r.bar b.level
        if f.arrived && f.phase == b.phase && r.path.drop (b.level - 1) == b.node then
          { b with arrivals := b.arrivals - 1 }
        else b }

/-- A tile whose bib is returned: the elements stay (R286). -/
def Tile.returned (t : Tile) : Tile := { t with held := false, core := 0, row := 0, cv := 0, code := 0 }

/-- Bibs of sets whose row has ended, once their queues are empty (R286). -/
def settleTiles (s : State) (cluster : Nat) : State :=
  let x := s.cluster cluster
  let f := fun t : Tile =>
    if t.held && t.queue.isEmpty && (tabFind (s.core (4 * cluster + t.core)).rows t.row).isNone then t.returned
    else t
  s.setCluster cluster { x with tiles := tabMap Tile.zero f x.tiles }

/-- The last live thread of a row has ended. -/
def endRow (s : State) (c row : Nat) (r : Row) : State :=
  let s1 := (leaveBarriers s r).modCore c fun x => { x with rows := tabDel x.rows row }
  settleTiles (checkBarriers s1 r.seq) (c / 4)

def clearLane (m : BitVec 32) (l : Nat) : BitVec 32 := m &&& ~~~ (1#32 <<< l)

/-- A lane leaves its row's convergence registers (R176). -/
def Row.without (r : Row) (l : Nat) : Row :=
  { r with cv := tabMap CvReg.zero (fun v =>
      { v with decl := clearLane v.decl l, signed := clearLane v.signed l, gmask := clearLane v.gmask l }) r.cv }

/-- Unreported failed posted writes of an ended thread become records against its launch (R364). -/
def reportPosted (s : State) (c : Nat) (t : Thread) : State :=
  pushBatch s (launchPart s t.seq)
    (t.posted.map fun p => launchRec c t.seq p.code p.detail p.access p.addr)

/-- A thread ends (R364); `killed` sets the launch's flag. -/
def endThread (s : State) (c k : Nat) (killed : Bool) : State :=
  match s.thread c k with
  | none => s
  | some t =>
    let s1 := (reportPosted s c t).delThread c k
    let s2 := if killed then modLaunch s1 t.seq fun l => { l with killed := true } else s1
    let s3 := { s2 with demands := s2.demands.filter fun d => d.uid != t.uid }
    let row := k / 32
    match tabFind (s3.core c).rows row with
    | none => s3
    | some r =>
      let r' := r.without (k % 32)
      if (s3.core c).threads.any fun e => e.1 / 32 == row then
        s3.modCore c fun x => { x with rows := tabPut x.rows row r' }
      else endRow s3 c row r'

/-! ## Teardown (R418) and edges (R392) -/

/-- A launch's sides of its partition's edges end. -/
def endEdge (seq : Nat) (e : Edge) : Edge :=
  let p := e.producer == some seq
  let q := e.consumer == some seq
  if !p && !q then e
  else
    let e' := { e with producer := if p then none else e.producer
                       consumer := if q then none else e.consumer, state := 4 }
    if e'.producer.isNone && e'.consumer.isNone && e'.tokens.isEmpty then Edge.free else e'

def endEdges (s : State) (p seq : Nat) : State :=
  let x := s.part p
  s.setPart p { x with edges := tabMap Edge.free (endEdge seq) x.edges }

/-- A core whose launch is torn down: nothing of it runs, and its world is to be scrubbed. -/
def Core.torn (x : Core) : Core :=
  { x with threads := [], rows := [], gangs := [], frozen := none, halting := false, scrubDue := true }

/-- The cluster's state without a core of the module: its channels and its tiles' work are dropped. -/
def Cluster.dropCore (x : Cluster) (c : Nat) : Cluster :=
  { x with
    chans := x.chans.filter fun e => e.1 / 4 != c % 4
    running := x.running.filter fun r =>
      !((tabGet Tile.zero x.tiles r.tile).queue.any fun o => o.id == r.op && o.core == c)
    tiles := tabMap Tile.zero (fun t =>
      let t' := { t with queue := t.queue.filter fun o => o.core != c }
      if t.held && t.core == c % 4 then t'.returned else t') x.tiles }

/-! ## The reservation table (R181, R186) -/

def TileOpKind.isPass : TileOpKind → Bool
  | .pass _ => true
  | _ => false

/-- A request in the reservation table. -/
def TileOpKind.entered : TileOpKind → Bool
  | .pass p => p.inTable
  | _ => false

/-- Requests that occupy the cluster's reservation table. -/
def passCount (s : State) (cluster : Nat) : Nat :=
  ((s.cluster cluster).tiles.map fun e => (e.2.queue.filter fun o => o.kind.entered).length).foldl (· + ·) 0

/-- The withdrawn request that enters next: the first in the saved order,
but for those of a core that is being saved (R186). -/
def nextWithdrawn (s : State) (cluster : Nat) : Option Nat :=
  ((s.cluster cluster).tiles.map fun e => e.2.queue.filterMap fun o =>
    match o.kind with
    | .pass p => if p.inTable || (s.core o.core).halting then none else some o.id
    | _ => none).flatten.foldl (fun best i => match best with
      | none => some i
      | some b => some (min b i)) none

def TileOp.enter (o : TileOp) : TileOp :=
  match o.kind with
  | .pass p => { o with kind := .pass { p with inTable := true } }
  | _ => o

/-- Withdrawn requests enter the table, in order, while it has free entries (R181, R186). -/
def fillTable : Nat → State → Nat → State
  | 0, s, _ => s
  | n + 1, s, cluster =>
    match nextWithdrawn s cluster with
    | none => s
    | some i =>
      if 16 ≤ passCount s cluster then s
      else
        let x := s.cluster cluster
        fillTable n (s.setCluster cluster { x with tiles := x.tiles.map fun e =>
          (e.1, { e.2 with queue := e.2.queue.map fun o => if o.id == i then o.enter else o }) }) cluster

/-- A core leaves its cluster, and withdrawn requests take the entries that come free. -/
def dropCore (s : State) (c : Nat) : State :=
  fillTable 16 (s.setCluster (c / 4) ((s.cluster (c / 4)).dropCore c)) (c / 4)

def tearCores (seq : Nat) : List (Nat × Core) → State → State
  | [], s => s
  | (c, x) :: cs, s =>
    if x.launch == some seq then
      let s1 := x.threads.foldl (fun st e => reportPosted st c e.2) s
      tearCores seq cs (dropCore (s1.setCore c x.torn) c)
    else tearCores seq cs s

/-- The contexts of a partition's saved gangs. -/
def TopGang.context (g : TopGang) : List SavedCore :=
  match g.state with
  | .saved ctx _ _ => ctx
  | _ => []
def savedCores (s : State) (p : Nat) : List SavedCore :=
  ((s.launches.filter fun e => e.2.part == p).map fun e => (e.2.gangs.map TopGang.context).flatten).flatten

def Thread.parkedOn (t : Thread) : Option Nat :=
  match t.status with
  | .parked r => r
  | _ => none

/-- Pending resumes end with the last saved thread they name. -/
def trimResumes (s : State) (p : Nat) : State :=
  let x := s.part p
  let live := ((savedCores s p).map fun y => y.threads.filterMap fun t => t.2.parkedOn).flatten
  s.setPart p { x with resumes := x.resumes.filter fun e => live.contains e.1 }

/-- The saved threads of a gang end: their unreported failed posted writes become records against the launch. -/
def endSaved (s : State) (g : TopGang) : State :=
  g.context.foldl (fun st x => x.threads.foldl (fun st t => reportPosted st x.core t.2) st) s

/-- Ends a launch without saving it (R418). -/
def teardown (s : State) (seq : Nat) : State :=
  match tabFind s.launches seq with
  | none => s
  | some l =>
    if l.torn then s
    else
      let s1 := l.gangs.foldl endSaved (tearCores seq s.cores s)
      let s2 := modLaunch s1 seq fun l =>
        { l with torn := true, barriers := [], gangs := l.gangs.map fun g => { g with state := .done } }
      trimResumes (endEdges { s2 with accesses := s2.accesses.filter fun a => a.seq != seq
                                      demands := s2.demands.filter fun d => d.record.seq != seq } l.part seq) l.part

/-- Every launch of a partition torn down. -/
def teardownPart (s : State) (p : Nat) : State :=
  s.launches.foldl (fun st e => if e.2.part == p then teardown st e.1 else st) s

/-! ## Policies (Table 18.5) -/

/-- A policy fault at a thread, whose %frec and %trapinfo are written. -/
def policyFault (s : State) (c k inst : Nat) (r : FRec) : State :=
  match s.thread c k with
  | none => s
  | some t =>
    let pol := launchPolicy s t.seq
    if t.inHandler || pol == 1 || (pol == 0 && launchHandler s t.seq == 0) then parkOn s c k inst 0 r
    else if pol == 0 then s.setThread c k { t with status := .trapping }
    else if pol == 2 then endThread s c k true
    else
      pushBatch (teardown s t.seq) (launchPart s t.seq)
        [{ r with kind := 4, pc := 0, lanes := 0, uids := [] }]

/-- One lane takes a fault (R404 to R407). -/
def takeFault (s : State) (c k inst : Nat) (i : FInfo) : State :=
  match s.thread c k with
  | none => s
  | some t =>
    let r := laneRec c k t i
    let s1 := s.setThread c k { t with frec := recBits r false 0, trapinfo := trapInfo i, waited := false, bundle := none }
    match i.page, i.freezing with
    | some p, _ => parkOn s1 c k inst p r
    | none, true => freezeCore (parkOn s1 c k inst 0 r) c t.uid
    | none, false => policyFault s1 c k inst r

/-- The faults of an instance's lanes, in ascending lane order, and the batches they form. -/
def takeFaults (s : State) (c inst : Nat) (fs : List (Nat × FInfo)) : State :=
  settleInst (fs.foldl (fun st e => takeFault st c e.1 inst e.2) s) inst

/-- The faults of a bundle: none leaves the state as it is. -/
def bundleFaults (s : State) (c inst : Nat) (fs : List (Nat × FInfo)) : State :=
  match fs with
  | [] => s
  | _ => takeFaults s c inst fs

end Sys2Proof.Machine
end

