-- ==== Sys2Proof/Machine/Entry.lean ====
section
/-! DEFINITION. How lanes run one instruction (R167, R230), how the PC moves (R188), fetching words and entering
blocks (R189, R190, R205), branching (R362), reconvergence (R171, R172), and entering a trap handler and returning
from it (R375, R376). -/

namespace Sys2Proof.Machine

/-! ## Headers (Table 8.1) -/

def hdrLen (h : DWord) : Nat := field h.toNat 59 50
def hdrLive (h : DWord) : Nat := field h.toNat 49 42
def hdrReconv (h : DWord) : Int := sgn 20 (field h.toNat 41 22)
def hdrSpin (h : DWord) : Bool := bit h.toNat 17
def hdrRp (h : DWord) : Bool := bit h.toNat 16
def hdrBar (h : DWord) : Bool := bit h.toNat 15
def hdrShort (h : DWord) : Bool := bit h.toNat 13
/-- Class of a word (Table 8.2). -/
def wordClass (w : DWord) : Nat := field w.toNat 63 60

/-- The faults of a header's fields, in their order (R190). -/
def headerFault (h : DWord) : Option (BitVec 8) :=
  if field h.toNat 12 0 != 0 then some fcIllegal
  else if hdrLen h == 0 || (hdrShort h && 16 < hdrLen h) then some fcBadHeader
  else none

/-- The end of the current block (R187). -/
def Thread.blockEnd (t : Thread) : DWord := t.blk + w64 (8 * (hdrLen t.hdr + 1))

/-! ## The PC (R188) and issue -/

/-- A thread that issues an instruction of its block: its waiting starts anew (R168), and a spin block demotes
it (R169). -/
def Thread.issued (t : Thread) (clock : Nat) : Thread :=
  { t with status := .ready, since := clock, waited := false, bundle := none
           demotedUntil := if hdrSpin t.hdr then clock + 256 else t.demotedUntil }

/-- The PC after an instruction, 8 or 16 further; at the block's end the next header is still to be entered. -/
def Thread.advance (t : Thread) (clock : Nat) (lit : Bool) : Thread :=
  let u := t.issued clock
  let pc := t.pc + (if lit then 16 else 8)
  { u with pc := pc, entered := pc != t.blockEnd }

/-- The PC after an instruction at which the thread was held since it issued it: demotion ran from the issue (R169). -/
def Thread.proceed (t : Thread) (clock : Nat) (lit : Bool) : Thread :=
  { t.advance clock lit with demotedUntil := t.demotedUntil }

/-- The PC after an instruction, whether the thread was held at it or not (R169). -/
def Thread.goOn (t : Thread) (clock : Nat) (lit : Bool) : Thread :=
  if t.waited then t.proceed clock lit else t.advance clock lit

/-- The PC at a header whose checks have passed. -/
def Thread.enter (t : Thread) (h hdr : DWord) : Thread := { t with pc := h, blk := h, hdr := hdr, entered := true }

/-- The PC at a saved place within a saved block (R376, R205). -/
def Thread.resumeAt (t : Thread) (pc blk hdr : DWord) : Thread :=
  let u := { t with pc := pc, blk := blk, hdr := hdr }
  { u with entered := pc != blk && pc != u.blockEnd }

/-- A thread that issues an instruction of a spin block is demoted, also where the instruction faults (R169); one that was
held at the instruction has issued it before. -/
def Thread.spun (t : Thread) (clock : Nat) : Thread :=
  if hdrSpin t.hdr && !t.waited then { t with demotedUntil := clock + 256 } else t

/-! ## What waits as a whole (R57, R80) -/

/-- A state whose walks are those it has and those that have been asked for since (R80). -/
def State.keepWalks (s t : State) : State :=
  { s with walks := s.walks ++ t.walks.filter fun x => s.nextId ≤ x.id, nextId := t.nextId }

/-- What has come about; or nothing yet, where it has met a frame that is being bound or no free walk slot: `stalled`
then tells the step that it waits. -/
def orWait (s t : State) : State := if t.stalled && !s.stalled then { s.keepWalks t with stalled := true } else t
def happens (s t : State) : Host.Outcome State Fault Refusal := .next (orWait s t)

/-! ## Lanes of a bundle -/

/-- What one lane does with an instruction, when its effect may reach beyond its thread. -/
inductive LaneEff where
  | done (s : State)
  | block (b : Block) (s : State)
  | fault (i : FInfo) (s : State)

def blockThread (s : State) (c k : Nat) (b : Block) : State :=
  s.modThread c k fun t => { t with status := .blocked b }

/-- Where the lanes of a bundle act in order, those that wait keep the name of the instance in which their bundle began to
issue. -/
def markBundle (hold : Bool) (c n : Nat) (ks : List Nat) (s : State) : State :=
  if !hold || ks.length ≤ 1 then s
  else
    ks.foldl (fun st k => st.modThread c k fun t => match t.status with
      | .blocked _ => { t with bundle := some (t.bundle.getD n) }
      | _ => t) { s with nextId := max s.nextId (n + 1) }

/-- Lanes act one at a time, in ascending lane order. A lane that faults does not stop later lanes; with `hold`, a
lane that waits holds back every later lane of the bundle (R230, R315). A fault waits until the thread's earlier accesses
have their verdicts (R404). -/
def runLanes (hold : Bool) (c : Nat) (eff : State → Nat → Thread → LaneEff) :
    List Nat → State → State × List (Nat × FInfo)
  | [], s => (s, [])
  | k :: ks, s =>
    match s.thread c k with
    | none => runLanes hold c eff ks s
    | some t =>
      match eff s k t with
      | .done s1 => runLanes hold c eff ks s1
      | .block b s1 =>
        let s2 := blockThread s1 c k b
        if hold then (ks.foldl (fun st j => blockThread st c j (.lane k t.uid)) s2, [])
        else runLanes hold c eff ks s2
      | .fault i s1 =>
        if openVerdict s t.uid then
          let s2 := blockThread s c k .verdict
          if hold then (ks.foldl (fun st j => blockThread st c j (.lane k t.uid)) s2, [])
          else runLanes hold c eff ks s2
        else
          let r := runLanes hold c eff ks s1
          (r.1, (k, i) :: r.2)

/-- The faults of an instruction's lanes are taken; each of them has issued it (R169). -/
def takeLanes (s : State) (c inst : Nat) (fs : List (Nat × FInfo)) : State :=
  bundleFaults (fs.foldl (fun st e => st.modThread c e.1 fun t => t.spun st.clock) s) c inst fs

/-- An instruction run by the lanes of the bundle in issue. -/
def runBundle (hold : Bool) (eff : State → Nat → Thread → LaneEff) (s : State) :
    Host.Outcome State Fault Refusal :=
  match s.issue.keys with
  | [] => .fault .noBundle
  | ks =>
    let r := runLanes hold s.issue.core eff ks s
    happens s (takeLanes (markBundle hold s.issue.core s.nextId ks r.1) s.issue.core s.nextId r.2)

/-- The effect of a lane-local instruction. -/
def localEff (c : Nat) (lit : Bool) (f : Thread → LaneOut) (s : State) (k : Nat) (t : Thread) : LaneEff :=
  match f t with
  | .done u => .done (s.setThread c k (u.advance s.clock lit))
  | .block b => .block b s
  | .fault x => .fault (fi x) s

/-- A lane-local instruction (classes 0x1, 0x2, 0x4 and 0x5 and others). -/
def runLocal (lit : Bool) (f : Thread → LaneOut) (s : State) : Host.Outcome State Fault Refusal :=
  runBundle false (localEff s.issue.core lit f) s

/-- A lane whose guard is false only advances. -/
def skipLane (c : Nat) (lit : Bool) (s : State) (k : Nat) (t : Thread) : LaneEff :=
  .done (s.setThread c k (t.advance s.clock lit))

/-- The sources of a lane, then its effect. -/
def withSources (srcs : List Src) (t : Thread) (s : State) (f : List (List Reg) → LaneEff) : LaneEff :=
  match t.sources srcs with
  | .ok xs => f xs
  | .block b => .block b s
  | .fault c => .fault (fi c) s

/-- The destination's interlock, then the effect (R165, R184). -/
def withDst (t : Thread) (r n : Nat) (s : State) (f : LaneEff) : LaneEff :=
  match t.dstBlock r n with
  | some b => .block b s
  | none => f

/-! ## Fetch (Table 8.10, steps 1 to 4) -/

inductive FetchRes where
  | ok (w : DWord) (s : State)
  | fail (i : FInfo) (s : State)

/-- Fetch of one code word (R206, R207). A leaf with host = 1 fails before the checks of Table 3.5 (R205). -/
def fetchAt (s : State) (c p : Nat) (a : DWord) : FetchRes :=
  match addrOf a with
  | .local va =>
    match translate s (corePlace c) p va .fetch .page none with
    | (.error x, s1) =>
      if 10 ≤ x.step && (cachedLeaf s1 (corePlace c) p va).any Leaf.host then .fail (fiAt fcProtect .fetch a) s1
      else .fail (fiX x .fetch a) s1
    | (.ok l, s1) =>
      if l.host then .fail (fiAt fcProtect .fetch a) s1
      else
        match homeReadChecked s1 (leafAddr l va) l.slot 2 (s1.part p).l2Ways with
        | .fail x s2 => .fail (fiAt x .fetch a) s2
        | .ok ws s2 =>
          match ws with
          | [lo, hi] => .ok (pair64 lo.word hi.word) s2
          | _ => .fail (fiAt fcDatum .fetch a) s2
  | _ => .fail (fiAt fcXlate .fetch a) s

/-- Steps 1 to 4 for a word that a branch, call, return or ERET targets. -/
def checkTarget (s : State) (c p : Nat) (a : DWord) : FetchRes :=
  if a.toNat % 8 != 0 || bit a.toNat 63 then .fail (fi fcBadTarget) s
  else
    match fetchAt s c p a with
    | .fail i s1 => .fail i s1
    | .ok w s1 =>
      if wordClass w != 15 then .fail (fi fcBadTarget) s1
      else
        match headerFault w with
        | some x => .fail (fi x) s1
        | none => .ok w s1

/-- Steps 1 to 4 for a word reached by falling through, or at a launch's entry (R382). -/
def checkFallen (s : State) (c p : Nat) (first : Bool) (a : DWord) : FetchRes :=
  match fetchAt s c p a with
  | .fail i s1 => .fail i s1
  | .ok w s1 =>
    if wordClass w != 15 then .fail (fi (if first then fcBadTarget else fcBadHeader)) s1
    else
      match headerFault w with
      | some x => .fail (fi x) s1
      | none => .ok w s1

/-! ## Reconvergence (R171, R172) -/

/-- The reconvergence point of the current block; none for displacement 0. -/
def Thread.point (t : Thread) : Option DWord :=
  if hdrReconv t.hdr == 0 then none else some (t.blk + w64 (wrap 64 (8 * hdrReconv t.hdr)))

/-- The check of P when a branch would push it. -/
def checkPoint (s : State) (c p : Nat) (a : DWord) : FetchRes :=
  match checkTarget s c p a with
  | .fail i s1 => .fail i s1
  | .ok w s1 => if hdrRp w then .ok w s1 else .fail (fi fcBadTarget) s1

def Thread.push (t : Thread) (p : Option DWord) : Thread :=
  match p with
  | none => t
  | some a => if t.rstk.head? == some a then t else { t with rstk := (a :: t.rstk).take 4 }

/-- A thread at a header it has entered: it steps past it, and waits if the header is its top entry (R172). -/
def Thread.pastHeader (t : Thread) (clock : Nat) : Thread :=
  let u := { t with pc := t.pc + 8 }
  if t.rstk.head? == some t.blk then { u with rstk := t.rstk.drop 1, status := .reconv t.blk clock } else u

/-- One READY thread enters the block at its PC, if it stands at a header. -/
def enterThread (c : Nat) (s : State) (k : Nat) (t : Thread) : LaneEff :=
  if !t.entered then
    match checkFallen s c (launchPart s t.seq) (!t.acquired) t.pc with
    | .fail i s1 => if s1.stalled then .done (s.keepWalks s1) else .fault i s1
    | .ok w s1 => .done (s1.setThread c k ((t.enter t.pc w).pastHeader s.clock))
  else if t.pc == t.blk then .done (s.setThread c k (t.pastHeader s.clock))
  else .done s

/-- A core issues: it is neither frozen nor halting (R416, R399). -/
def Core.issues (x : Core) : Bool := x.frozen.isNone && !x.halting

/-- Every READY thread of a core that stands at a header enters its block. -/
def enterBlocks (s : State) (c : Nat) : State :=
  let x := s.core c
  if x.issues then
    let ks := (x.threads.filter fun e => e.2.status == .ready && (!e.2.entered || e.2.pc == e.2.blk)).map Prod.fst
    let r := runLanes false c (enterThread c) ks s
    bundleFaults r.1 c s.nextId r.2
  else s

/-! ## Branches (R362) -/

/-- One lane of a branch: `reg` takes the target from a pair, `push` pushes P, `link` writes the link pair. -/
def branchLane (reg push link : Bool) (f : FmtB) (c : Nat) (s : State) (k : Nat) (t : Thread) : LaneEff :=
  withSources (if reg then [.regs f.target [.addrLo, .addrHi] f.trap 0] else []) t s fun xs =>
    let part := launchPart s t.seq
    let p := if push then t.point else none
    let go := fun s1 : State =>
      if !t.guard f.guard then .done (s1.setThread c k ((t.push p).advance s1.clock false))
      else
        withDst t f.dst.toNat (if link then 2 else 0) s1
          (let a := if reg then srcPair xs 0 else t.pc + w64 (wrap 64 (8 * sgn 32 f.disp.toNat))
           match checkTarget s1 c part a with
           | .fail i s2 => .fault i s2
           | .ok w s2 =>
             let u := if link then t.writePair f.dst.toNat .addrLo .addrHi t.blockEnd else t
             .done (s2.setThread c k (((u.push p).issued s2.clock).enter a w)))
    match p with
    | none => go s
    | some a =>
      match checkPoint s c part a with
      | .fail i s1 => .fault i s1
      | .ok _ s1 => go s1

/-! ## Trap handlers (R375, R376) -/

/-- TRAP and BRK resume at the word that follows them; every other fault at the faulting instruction. -/
def Thread.resumePc (t : Thread) : DWord :=
  let code := t.trapinfo.extractLsb' 0 8
  if code == fcTrap || code == fcBreak then t.pc + 8 else t.pc

/-- A trapping thread enters its handler, or parks with the fault of the entry. -/
def enterHandler (s : State) (c k : Nat) : State :=
  match s.thread c k with
  | none => s
  | some t =>
    let u := { t with epc := t.resumePc, eblk := t.blk, ehdr := t.hdr, inHandler := true, epcWritten := false }
    match checkTarget (s.setThread c k u) c (launchPart s t.seq) (launchHandler s t.seq) with
    | .ok w s1 => s1.setThread c k { (u.enter (launchHandler s t.seq) w) with status := .ready, since := s.clock }
    | .fail i s1 => takeFaults s1 c s1.nextId [(k, { i with page := none })]

/-- One lane of ERET. -/
def eretLane (f : FmtS) (c : Nat) (s : State) (k : Nat) (t : Thread) : LaneEff :=
  if !t.guard f.guard then skipLane c false s k t
  else if !t.inHandler then .fault (fi fcIllegal) s
  else
    let u := { (t.issued s.clock) with inHandler := false }
    if !t.epcWritten then .done (s.setThread c k (u.resumeAt t.epc t.eblk t.ehdr))
    else
      match checkTarget s c (launchPart s t.seq) t.epc with
      | .fail i s1 => .fault i s1
      | .ok w s1 => .done (s1.setThread c k (u.enter t.epc w))

end Sys2Proof.Machine
end

