-- ==== Sys2Proof/Machine/Num.lean ====
section
/-! DEFINITION. Numbers: the formats of Table 1.2 as exact values, one rounding (R15 to R17, R259), the
functions of Tables 11.2 and 11.3, and conversions (R270). A finite value is an integer times a power of two;
nothing is rounded before the one rounding that the spec names. -/

namespace Sys2Proof.Machine

/-- The rounding modes of Table 1.4 that an instruction's var selects (R15). -/
inductive RMode where
  | rne | rz | rd | ru
  deriving DecidableEq, Repr

def rmodeOf (v : BitVec 2) : RMode :=
  if v == 0 then .rne else if v == 1 then .rz else if v == 2 then .rd else .ru

/-- A floating-point format (Tables 1.2, 1.3): widths of the whole and of the fraction, bias, the encoding of
the largest finite magnitude, of infinity and of the canonical NaN where there are such. -/
structure FFmt where
  width : Nat
  frac : Nat
  bias : Int
  maxFin : Nat
  inf : Option Nat
  nan : Option Nat
  deriving DecidableEq, Repr

def fmtF32 : FFmt := ⟨32, 23, 127, 0x7F7FFFFF, some 0x7F800000, some 0x7FC00000⟩
def fmtF16 : FFmt := ⟨16, 10, 15, 0x7BFF, some 0x7C00, some 0x7E00⟩
def fmtBF16 : FFmt := ⟨16, 7, 127, 0x7F7F, some 0x7F80, some 0x7FC0⟩
def fmtE4M3 : FFmt := ⟨8, 3, 7, 0x7E, none, some 0x7F⟩
def fmtE5M2 : FFmt := ⟨8, 2, 15, 0x7B, some 0x7C, some 0x7E⟩
def fmtE2M1 : FFmt := ⟨4, 1, 1, 7, none, none⟩

/-- The format of a tag that is a floating-point format with a sign. -/
def ffmtOf : Tag → Option FFmt
  | .f32 => some fmtF32 | .bf16x2 => some fmtBF16 | .f16x2 => some fmtF16 | .e4m3x4 => some fmtE4M3
  | .e5m2x4 => some fmtE5M2 | .e2m1x8 => some fmtE2M1 | _ => none

/-- A number: NaN, an infinity, or `(-1)^neg * m * 2^e`; a zero keeps its sign. -/
inductive FVal where
  | nan
  | inf (neg : Bool)
  | fin (neg : Bool) (m : Nat) (e : Int)
  deriving DecidableEq, Repr

/-- The magnitude field of an encoding, and its sign. -/
def magOf (f : FFmt) (x : Nat) : Nat := x % 2 ^ (f.width - 1)
def negOf (f : FFmt) (x : Nat) : Bool := bit x (f.width - 1)

/-- The value of an encoding (R10, R11). -/
def decodeF (f : FFmt) (x : Nat) : FVal :=
  let mag := magOf f x
  let neg := negOf f x
  if mag ≤ f.maxFin then
    let e := mag / 2 ^ f.frac
    let fr := mag % 2 ^ f.frac
    if e == 0 then .fin neg fr (1 - f.bias - f.frac) else .fin neg (2 ^ f.frac + fr) (e - f.bias - f.frac)
  else if f.inf == some mag then .inf neg else .nan

/-- An encoding with its sign. -/
def signed (f : FFmt) (neg : Bool) (mag : Nat) : Nat := if neg then mag + 2 ^ (f.width - 1) else mag

/-- The canonical NaN of a format; E2M1 has none and holds +0 (R13). -/
def nanOf (f : FFmt) : Nat := f.nan.getD 0

/-- How an inexact value is rounded: a mode of Table 1.4, or stochastic rounding with `k` random bits (R16). -/
inductive Rounding where
  | mode (m : RMode)
  | sr (k rnd : Nat)
  deriving DecidableEq, Repr

/-- Whether the magnitude `lo + rem / 2^s` rounds up (Table 1.4, R16). -/
def roundsUp (r : Rounding) (neg : Bool) (lo rem s : Nat) : Bool :=
  match r with
  | .mode .rne => 2 ^ s < 2 * rem || (2 * rem == 2 ^ s && lo % 2 == 1)
  | .mode .rz => false
  | .mode .rd => neg && rem != 0
  | .mode .ru => !neg && rem != 0
  | .sr k rnd => rem != 0 && 2 ^ k ≤ rem * 2 ^ k / 2 ^ s + rnd

/-- The magnitude `m * 2^e` rounded to the format's spacing with an unbounded exponent (R17): the encoding it
would have. -/
def roundMag (f : FFmt) (r : Rounding) (neg : Bool) (m : Nat) (e : Int) : Nat :=
  if m == 0 then 0 else
    let top : Int := max (Nat.log2 m + e) (1 - f.bias)
    let ulp : Int := top - f.frac
    let sig :=
      if ulp ≤ e then m * 2 ^ (e - ulp).toNat
      else
        let s := (ulp - e).toNat
        let lo := m / 2 ^ s
        if roundsUp r neg lo (m % 2 ^ s) s then lo + 1 else lo
    (top + f.bias - 1).toNat * 2 ^ f.frac + sig

/-- A finite overflow keeps the largest magnitude under RZ, under RD for positive and RU for negative values
(R17, R259). -/
def keepsMax (r : Rounding) (neg : Bool) : Bool :=
  match r with
  | .mode .rz => true
  | .mode .rd => !neg
  | .mode .ru => neg
  | _ => false

/-- What an infinite result, or a finite overflow that goes beyond, becomes: infinity where the format has it,
NaN in E4M3, the largest magnitude in E2M1 (Table 1.5). -/
def overMag (f : FFmt) : Nat := (f.inf.orElse fun _ => f.nan).getD f.maxFin

/-- The rounding of a value to a format, overflow by R17 and R259; `sat` is CVT's .sat. -/
def roundTo (f : FFmt) (r : Rounding) (sat : Bool) (x : FVal) : Nat :=
  match x with
  | .nan => nanOf f
  | .inf neg =>
    if sat then signed f neg f.maxFin
    else if f.inf.isNone && f.nan.isSome then nanOf f else signed f neg (overMag f)
  | .fin neg m e =>
    let g := roundMag f r neg m e
    if g ≤ f.maxFin then signed f neg g
    else if sat || keepsMax r neg then signed f neg f.maxFin
    else if f.inf.isNone && f.nan.isSome then nanOf f else signed f neg (overMag f)

/-- `rnd_T` (R259). -/
def rndT (f : FFmt) (m : RMode) (x : FVal) : Nat := roundTo f (.mode m) false x

def FVal.isNan : FVal → Bool
  | .nan => true
  | _ => false
def FVal.isZero : FVal → Bool
  | .fin _ m _ => m == 0
  | _ => false
def FVal.isNeg : FVal → Bool
  | .nan => false
  | .inf n => n
  | .fin n _ _ => n
def FVal.flip : FVal → FVal
  | .nan => .nan
  | .inf n => .inf (!n)
  | .fin n m e => .fin (!n) m e

/-- The exact product; zero by infinity has none (IEEE 754-2019). -/
def mulF : FVal → FVal → FVal
  | .nan, _ => .nan
  | _, .nan => .nan
  | .inf a, .inf b => .inf (a != b)
  | .inf a, .fin b m _ => if m == 0 then .nan else .inf (a != b)
  | .fin a m _, .inf b => if m == 0 then .nan else .inf (a != b)
  | .fin a m e, .fin b n f => .fin (a != b) (m * n) (e + f)

/-- The least exponent of the finite terms. -/
def minExp : List FVal → Int → Int
  | [], a => a
  | .fin _ _ e :: t, a => minExp t (min a e)
  | _ :: t, a => minExp t a

/-- A finite term as a multiple of `2^lo`. -/
def scaledTo (lo : Int) : FVal → Int
  | .fin n m e => let v : Int := ((m * 2 ^ (e - lo).toNat : Nat) : Int); if n then -v else v
  | _ => 0

/-- The exact sum of terms (R259, R266): NaN where a term is NaN or both infinities occur; the sign of a zero
sum follows R259. -/
def sumF (m : RMode) (ts : List FVal) : FVal :=
  if ts.any FVal.isNan then .nan
  else
    let pinf := ts.any (· == .inf false)
    let ninf := ts.any (· == .inf true)
    if pinf && ninf then .nan
    else if pinf then .inf false
    else if ninf then .inf true
    else
      let lo := minExp ts 0
      let v := (ts.map (scaledTo lo)).foldl (· + ·) 0
      if v == 0 then
        if ts.all (fun t => t.isZero && t.isNeg) && !ts.isEmpty then .fin true 0 0
        else if ts.all (fun t => t.isZero && !t.isNeg) then .fin false 0 0
        else .fin (m == .rd) 0 0
      else .fin (decide (v < 0)) v.natAbs lo

/-- Order of encodings of one format, -0 below +0; NaN apart. -/
def fKey (f : FFmt) (x : Nat) : Int :=
  if negOf f x then -1 - ((magOf f x : Nat) : Int) else ((magOf f x : Nat) : Int)

/-- minimumNumber and maximumNumber (R261). -/
def minNum (f : FFmt) (a b : Nat) : Nat :=
  match (decodeF f a).isNan, (decodeF f b).isNan with
  | true, true => nanOf f
  | true, false => b
  | false, true => a
  | false, false => if fKey f a ≤ fKey f b then a else b
def maxNum (f : FFmt) (a b : Nat) : Nat :=
  match (decodeF f a).isNan, (decodeF f b).isNan with
  | true, true => nanOf f
  | true, false => b
  | false, true => a
  | false, false => if fKey f a ≤ fKey f b then b else a

/-- The order of two values that are not NaN; zeros are equal (R263). -/
def fCmpKey (f : FFmt) (x : Nat) : Int :=
  if negOf f x then -((magOf f x : Nat) : Int) else ((magOf f x : Nat) : Int)

/-- The condition of Table 11.4. -/
def fCond (c : Nat) (a b : Nat) : Bool :=
  let un := (decodeF fmtF32 a).isNan || (decodeF fmtF32 b).isNan
  let x := fCmpKey fmtF32 a
  let y := fCmpKey fmtF32 b
  match c with
  | 0 => !un && x == y
  | 1 => un || x != y
  | 2 => !un && decide (x < y)
  | 3 => !un && decide (x ≤ y)
  | 4 => !un && decide (y < x)
  | 5 => !un && decide (y ≤ x)
  | 6 => un
  | _ => !un

/-- FCLASS (Table 11.5). -/
def fClass (a : Nat) : Nat :=
  let neg := negOf fmtF32 a
  let mag := magOf fmtF32 a
  if mag > 0x7F800000 then (if bit a 22 then 2 ^ 9 else 2 ^ 8)
  else if mag == 0x7F800000 then (if neg then 2 ^ 0 else 2 ^ 7)
  else if mag == 0 then (if neg then 2 ^ 3 else 2 ^ 4)
  else if mag < 0x00800000 then (if neg then 2 ^ 2 else 2 ^ 5)
  else (if neg then 2 ^ 1 else 2 ^ 6)

/-! Roots and quotients: the exact value cut below the rounding position, its lowest bit set where something
was cut, rounds as the exact value does. -/

/-- The largest integer whose square is at most `n`, found bit by bit from bit `k`. -/
def isqrtGo (n : Nat) : Nat → Nat → Nat
  | 0, r => r
  | k + 1, r => let t := r + 2 ^ k; isqrtGo n k (if t * t ≤ n then t else r)
def isqrt (n : Nat) : Nat := isqrtGo n (Nat.log2 n / 2 + 1) 0

/-- A magnitude cut to an integer, with a mark for what was cut. -/
def jam (q : Nat) (inexact : Bool) : Nat := 2 * q + b2n inexact

/-- 1/a (R261, Table 11.3). -/
def rcpF : FVal → FVal
  | .nan => .nan
  | .inf n => .fin n 0 0
  | .fin n m e =>
    if m == 0 then .inf n else .fin n (jam (2 ^ 128 / m) (2 ^ 128 % m != 0)) (-128 - e - 1)

/-- √a (R261, Table 11.3). -/
def sqrtF : FVal → FVal
  | .nan => .nan
  | .inf n => if n then .nan else .inf false
  | .fin n m e =>
    if m == 0 then .fin n 0 0 else if n then .nan
    else
      let odd := e % 2 != 0
      let m' := (if odd then 2 * m else m) * 2 ^ 128
      let e' := (if odd then e - 1 else e) - 128
      let r := isqrt m'
      .fin false (jam r (r * r != m')) (e' / 2 - 1)

/-- 1/√a (R261, Table 11.3). -/
def rsqF : FVal → FVal
  | .nan => .nan
  | .inf n => if n then .nan else .fin false 0 0
  | .fin n m e =>
    if m == 0 then .inf n else if n then .nan
    else
      -- 1/√(m·2^e) with e even is √(2^k/m)·2^(-e/2-k/2)
      let odd := e % 2 != 0
      let m' := if odd then 2 * m else m
      let e' := if odd then e - 1 else e
      let q := 2 ^ 256 / m'
      let r := isqrt q
      .fin false (jam r (r * r * m' != 2 ^ 256)) (-(e' / 2) - 128 - 1)

/-- The exponent of FSCALE, cut where every result is the same (R261). -/
def scaleF (x : FVal) (k : Int) : FVal :=
  match x with
  | .fin n m e => .fin n m (e + max (-1000) (min 1000 k))
  | v => v

/-! The functions FEXP2 to FTANH in fixed point with `p` fraction bits. Each answer is within `slack` of the
exact value in units of `2^-p`; both ends of that interval round to the same result at some precision of the
ladder, since no such result is a midpoint or an encoding but where it is taken apart below. -/

def slack : Int := 2 ^ 24

/-- `exp(t)` for a fixed-point `t` of magnitude at most 1: `n` terms of the series. -/
def expGo (p : Nat) (t : Int) : Nat → Nat → Int → Int → Int
  | 0, _, _, acc => acc
  | n + 1, k, term, acc => expGo p t n (k + 1) (term * t / 2 ^ p / (k + 1 : Nat)) (acc + term)
def expFix (p : Nat) (t : Int) : Int := expGo p t (p / 4 + 32) 0 (2 ^ p) 0

/-- `z + z^3/3 + z^5/5 …` for a fixed-point `z` of magnitude at most 1/3, or with alternating signs. -/
def atanhGo (p : Nat) (z2 : Int) (s : Int) : Nat → Nat → Int → Int → Int
  | 0, _, _, acc => acc
  | n + 1, k, pw, acc => atanhGo p z2 s n (k + 2) (s * (pw * z2 / 2 ^ p)) (acc + pw / (k : Nat))
def atanhFix (p : Nat) (z : Int) : Int := atanhGo p (z * z / 2 ^ p) 1 (p / 3 + 16) 1 z 0
def atanFix (p : Nat) (z : Int) : Int := atanhGo p (z * z / 2 ^ p) (-1) (p / 3 + 16) 1 z 0

/-- ln 2 = 2 atanh(1/3), π = 16 atan(1/5) − 4 atan(1/239). -/
def ln2Fix (p : Nat) : Int := 2 * atanhFix p (2 ^ p / 3)
def piFix (p : Nat) : Int := 16 * atanFix p (2 ^ p / 5) - 4 * atanFix p (2 ^ p / 239)

/-- sin and cos of a fixed-point `t` of magnitude below 2. -/
def sinGo (p : Nat) (t2 : Int) : Nat → Nat → Int → Int → Int
  | 0, _, _, acc => acc
  | n + 1, k, term, acc =>
    sinGo p t2 n (k + 2) (-(term * t2 / 2 ^ p / ((k + 1) * (k + 2) : Nat))) (acc + term)
def sinFix (p : Nat) (t : Int) : Int := sinGo p (t * t / 2 ^ p) (p / 6 + 32) 1 t 0
def cosFix (p : Nat) (t : Int) : Int := sinGo p (t * t / 2 ^ p) (p / 6 + 32) 0 (2 ^ p) 0

/-- A finite value in fixed point, cut downward. -/
def toFix (p : Nat) (n : Bool) (m : Nat) (e : Int) : Int :=
  let k := e + p
  let v : Int := if 0 ≤ k then ((m * 2 ^ k.toNat : Nat) : Int) else ((m / 2 ^ (-k).toNat : Nat) : Int)
  if n then -v else v

/-- A fixed-point number as a value. -/
def fixVal (p : Nat) (v : Int) (sh : Int) : FVal := .fin (decide (v < 0)) v.natAbs (sh - p)

/-- An approximation at precision `p`: a fixed-point number and a power of two it is scaled by. -/
def enclosed (m : RMode) (p : Nat) (v sh : Int) : Option Nat :=
  let a := rndT fmtF32 m (fixVal p (v - slack) sh)
  let b := rndT fmtF32 m (fixVal p (v + slack) sh)
  if a == b then some a else none

/-- The first precision of the ladder that decides the rounding. -/
def ladder (m : RMode) (f : Nat → Int × Int) : List Nat → Nat
  | [] => let r := f 2560; rndT fmtF32 m (fixVal 2560 r.1 r.2)
  | p :: ps => match enclosed m p (f p).1 (f p).2 with
    | some r => r
    | none => ladder m f ps
def precisions : List Nat := [160, 320, 640, 1280]

/-- A value strictly between `m·2^e` and its neighbour on either side, nearer than any rounding position. -/
def nudge (neg : Bool) (m : Nat) (e : Int) (up : Bool) : FVal :=
  .fin neg (if up then m * 2 ^ 80 + 1 else m * 2 ^ 80 - 1) (e - 80)

/-- 2^(x) (R261, Table 11.3). -/
def exp2F (md : RMode) : FVal → Nat
  | .nan => nanOf fmtF32
  | .inf n => if n then 0 else 0x7F800000
  | .fin n m e =>
    if m == 0 then 0x3F800000
    else
      let mag : Int := Nat.log2 m + e          -- floor(log2 |x|)
      if 8 ≤ mag then rndT fmtF32 md (.fin false 1 (if n then -300 else 300))
      else if mag < -60 then rndT fmtF32 md (nudge false 1 0 (!n))
      else
        let whole : Int := let v := toFix 0 n m e; if n && (m : Int) * 2 ^ (max e 0).toNat % 2 ^ (-e).toNat != 0 then v - 1 else v
        let fracZero := (0 ≤ e) || m % 2 ^ (-e).toNat == 0
        if fracZero then rndT fmtF32 md (.fin false 1 whole)
        else ladder md (fun p => (expFix p ((toFix p n m e - whole * 2 ^ p) * ln2Fix p / 2 ^ p), whole)) precisions

/-- log2(x) (R261, Table 11.3). -/
def log2F (md : RMode) : FVal → Nat
  | .nan => nanOf fmtF32
  | .inf n => if n then nanOf fmtF32 else 0x7F800000
  | .fin n m e =>
    if m == 0 then 0xFF800000 else if n then nanOf fmtF32
    else
      let l := Nat.log2 m
      let k : Int := l + e
      if m == 2 ^ l then rndT fmtF32 md (.fin (decide (k < 0)) k.natAbs 0)
      else ladder md (fun p =>
        let x := toFix p false m (-(l : Int))           -- in [1, 2)
        let z := (x - 2 ^ p) * 2 ^ p / (x + 2 ^ p)
        (k * 2 ^ p + 2 * atanhFix p z * 2 ^ p / ln2Fix p, 0)) precisions

/-- The argument reduced modulo π/2, whatever its magnitude (R261): the quadrant and the rest. -/
def reduceF (p : Nat) (m : Nat) (e : Int) : Nat × Int :=
  let w := p + 320
  let x := toFix w false m e
  let h := piFix w / 2
  let q := x / h
  ((q % 4).toNat, (x - q * h) / 2 ^ 320)

/-- sin(x) in radians (R261, Table 11.3). -/
def sinF (md : RMode) : FVal → Nat
  | .nan => nanOf fmtF32
  | .inf _ => nanOf fmtF32
  | .fin n m e =>
    if m == 0 then signed fmtF32 n 0
    else if (Nat.log2 m : Int) + e < -40 then rndT fmtF32 md (nudge n m e false)
    else ladder md (fun p =>
      let r := reduceF p m e
      let v := match r.1 with
        | 0 => sinFix p r.2 | 1 => cosFix p r.2 | 2 => -(sinFix p r.2) | _ => -(cosFix p r.2)
      (if n then -v else v, 0)) precisions

/-- cos(x) in radians (R261, Table 11.3). -/
def cosF (md : RMode) : FVal → Nat
  | .nan => nanOf fmtF32
  | .inf _ => nanOf fmtF32
  | .fin _ m e =>
    if m == 0 then 0x3F800000
    else if (Nat.log2 m : Int) + e < -40 then rndT fmtF32 md (nudge false 1 0 false)
    else ladder md (fun p =>
      let r := reduceF p m e
      (match r.1 with
        | 0 => cosFix p r.2 | 1 => -(sinFix p r.2) | 2 => -(cosFix p r.2) | _ => sinFix p r.2, 0)) precisions

/-- The square, `k` times, of a fixed-point number. -/
def squares (p : Nat) : Nat → Int → Int
  | 0, q => q
  | k + 1, q => squares p k (q * q / 2 ^ p)

/-- tanh(x) (R261, Table 11.3). -/
def tanhF (md : RMode) : FVal → Nat
  | .nan => nanOf fmtF32
  | .inf n => signed fmtF32 n 0x3F800000
  | .fin n m e =>
    if m == 0 then signed fmtF32 n 0
    else if (Nat.log2 m : Int) + e < -40 then rndT fmtF32 md (nudge n m e false)
    else if 5 ≤ (Nat.log2 m : Int) + e then rndT fmtF32 md (nudge n 1 0 false)
    else ladder md (fun p =>
      let q := squares p 6 (expFix p (-(toFix p false m (e + 1 - 6))))     -- e^(-2|x|)
      let v := (2 ^ p - q) * 2 ^ p / (2 ^ p + q)
      (if n then -v else v, 0)) precisions

/-! Elements and conversions. -/

/-- Bits of an element of a format. -/
def elemBits (t : Tag) : Nat := 32 / tagElems t

/-- Element `i` of a word (Table 1.1). -/
def elem (t : Tag) (w : Word) (i : Nat) : Nat := w.toNat / 2 ^ (elemBits t * i) % 2 ^ elemBits t

/-- A word of elements, element 0 least significant. -/
def joinElems (t : Tag) (f : Nat → Nat) : Word :=
  w32 (((List.range (tagElems t)).map fun i => f i % 2 ^ elemBits t * 2 ^ (elemBits t * i)).foldl (· + ·) 0)

/-- The integer value of an element of an integer format (R9). -/
def intElem (t : Tag) (x : Nat) : Int :=
  match t with
  | .i32 => sgn 32 x
  | .i8x4 => sgn 8 x
  | .i4x8 => sgn 4 x
  | .u8x4 => ((x % 256 : Nat) : Int)
  | _ => ((x % 2 ^ 32 : Nat) : Int)

/-- Range of an integer format (R9). -/
def intMin : Tag → Int
  | .i32 => -(2 ^ 31)
  | .i8x4 => -128
  | .i4x8 => -8
  | _ => 0
def intMax : Tag → Int
  | .i32 => 2 ^ 31 - 1
  | .u32 => 2 ^ 32 - 1
  | .i8x4 => 127
  | .u8x4 => 255
  | .i4x8 => 7
  | _ => 2 ^ 32 - 1
def clampTo (t : Tag) (x : Int) : Int := max (intMin t) (min (intMax t) x)

/-- A value rounded to an integer (R270). -/
def roundInt (md : RMode) (n : Bool) (m : Nat) (e : Int) : Int :=
  let mag : Nat :=
    if 0 ≤ e then m * 2 ^ e.toNat
    else
      let s := (-e).toNat
      let lo := m / 2 ^ s
      if roundsUp (.mode md) n lo (m % 2 ^ s) s then lo + 1 else lo
  if n then -(mag : Int) else mag

/-- The exact value of an element (R269). -/
def elemVal (t : Tag) (x : Nat) : FVal :=
  match ffmtOf t with
  | some f => decodeF f x
  | none =>
    if t == .e8m0x4 then (if x == 0xFF then .nan else .fin false 1 (x - 127))
    else let v := intElem t x; .fin (decide (v < 0)) v.natAbs 0

/-- `convert` (Table 11.10). -/
def convertTo (t : Tag) (md : RMode) (sat : Bool) (sr : Option (Nat × Nat)) (x : FVal) : Nat :=
  match ffmtOf t with
  | some f => roundTo f (match sr with | some (k, r) => .sr k r | none => .mode md) sat x
  | none =>
    if t == .e8m0x4 then
      match x with
      | .nan => 0xFF
      | .inf _ => 0xFF
      | .fin _ m e => if m == 0 then 0 else (max ((Nat.log2 m : Int) + e) (-127) + 127).toNat
    else
      wrap (elemBits t) (match x with
        | .nan => 0
        | .inf n => if n then intMin t else intMax t
        | .fin n m e => clampTo t (roundInt md n m e))

/-- The value of a word in F32. -/
def f32Val (w : Word) : FVal := decodeF fmtF32 w.toNat

end Sys2Proof.Machine
end

