-- ==== Sys2Proof/Machine/Flags.lean ====
section
/-! DEFINITION. Predicates and flags that instructions compute: carries and borrows (R247), the conditions of
ICMP and the truth words of PBOOL (R249), and the sticky flags of an abacus register (R12, R179, R273). -/

namespace Sys2Proof.Machine

/-- Carry out of an unsigned addition (Table 10.2, IADDC). -/
def carryOut (a b : Word) (cin : Bool) : Bool := 2 ^ 32 ≤ a.toNat + b.toNat + b2n cin

/-- Borrow of an unsigned subtraction (Table 10.2, ISUBB). -/
def borrowOut (a b : Word) (bin : Bool) : Bool := a.toNat < b.toNat + b2n bin

/-- ICMP's condition (Table 10.1). -/
def icmpCond (t : Tag) (v : BitVec 2) (a b : Word) : Bool :=
  let x := intElem t a.toNat
  let y := intElem t b.toNat
  if v == 0 then x == y else if v == 1 then x != y else if v == 2 then decide (x < y) else decide (y ≤ x)

/-- The truth word of BOOL3 and PBOOL (R249). -/
def truthWord (f : FmtA) : BitVec 8 :=
  f.var ++ f.modA.extractLsb' 1 2 ++ f.modB.extractLsb' 1 2 ++ f.modC.extractLsb' 1 2

def truthBit (tt : BitVec 8) (a b c : Bool) : Bool := tt.getLsbD (b2n a + 2 * b2n b + 4 * b2n c)

/-- The exact value of an abacus register: 656 bits, two's complement (R178). -/
def Abacus.value (q : Abacus) : Int := sgn 656 q.val

/-- The representable range: 640 bits with a sign (R178). -/
def Abacus.inRange (q : Abacus) : Bool := -(2 ^ 639) ≤ q.value && q.value < 2 ^ 639

/-- A read first sets ovf where val is out of range (R179). -/
def Abacus.noteRead (q : Abacus) : Abacus := if q.inRange then q else { q with ovf := true }

/-- `add(q, l)` of R273 with a term given as a value. -/
def Abacus.addTerm (q : Abacus) (t : FVal) : Abacus :=
  match t with
  | .nan => { q with nan := true }
  | .inf false => { q with pinf := true }
  | .inf true => { q with ninf := true }
  | .fin n m e =>
    let mag : Int := (m : Int) * 2 ^ (e + 298).toNat
    { q with val := wrap 656 (q.value + (if n then -mag else mag)) }

/-- QADD.seg (R273). -/
def Abacus.addSeg (q : Abacus) (k : Nat) (w : Word) : Abacus :=
  let x : Int := if k < 19 then (w.toNat : Int) else sgn 32 w.toNat
  { q with val := wrap 656 (q.value + x * 2 ^ (32 * k)) }

/-- QFLAG's word (R273). -/
def Abacus.flagWord (q : Abacus) : Word :=
  w32 (b2n q.ovf + 2 * b2n q.pinf + 4 * b2n q.ninf + 8 * b2n q.nan)

/-- The result of an abacus read (Table 11.13), by type. -/
def Abacus.readWord (q : Abacus) (t : Tag) (m : RMode) : Word :=
  let top := bit q.val 655
  let f := if t == .bf16x2 then fmtBF16 else fmtF32
  let isInt := t == .i32
  let neg := decide (q.value < 0)
  if q.nan || (q.pinf && q.ninf) then (if isInt then 0 else w32 (nanOf f))
  else if q.pinf then (if isInt then 0x7FFFFFFF else w32 (rndT f m (.inf false)))
  else if q.ninf then (if isInt then 0x80000000 else w32 (rndT f m (.inf true)))
  else if q.ovf then
    (if isInt then (if top then 0x80000000 else 0x7FFFFFFF) else w32 (rndT f m (.inf top)))
  else if q.val == 0 then 0
  else if isInt then i32 (clampTo .i32 (roundInt m neg q.value.natAbs (-298)))
  else w32 (rndT f m (.fin neg q.value.natAbs (-298)))

end Sys2Proof.Machine
end

