-- ==== Sys2Proof/Machine/IntOps.lean ====
section
/-! DEFINITION. Classes 0x1 and 0x2 at one lane (R247, R250): pure functions of a thread. -/

namespace Sys2Proof.Machine

/-- `fit` on every element (R245). -/
def fitElems (t : Tag) (sat : Bool) (f : Nat → Int) : Word :=
  joinElems t fun i => wrap (elemBits t) (if sat then clampTo t (f i) else f i)

def elemI (t : Tag) (w : Word) (i : Nat) : Int := intElem t (elem t w i)

/-- Tag of a pair result (R243). -/
def pairTags (t : Tag) : Tag × Tag := if t == .addrLo then (.addrLo, .addrHi) else (t, t)

/-- A one-register result (R242). -/
def res1 (f : FmtA) (tag : Tag) (g : List (List Reg) → Word) : Thread → List (List Reg) → Thread :=
  fun t xs => t.write f.dst.toNat tag (g xs)

def laneIadd (f : FmtA) : Thread → LaneOut :=
  laneA (ruleIntAdd f) f (res1 f f.type fun xs =>
    fitElems f.type f.sat fun i => elemI f.type (srcW xs 0) i + elemI f.type (srcW xs 1) i)

def laneIsub (f : FmtA) : Thread → LaneOut :=
  laneA (ruleIntAdd f) f (res1 f f.type fun xs =>
    fitElems f.type f.sat fun i => elemI f.type (srcW xs 0) i - elemI f.type (srcW xs 1) i)

def laneIaddc (f : FmtA) : Thread → LaneOut :=
  laneA (ruleCarry f) f fun t xs =>
    let k := f.srcC.toNat
    let cin := t.pred k
    let a := srcW xs 0
    let b := srcW xs 1
    (t.write f.dst.toNat f.type (w32 (a.toNat + b.toNat + b2n cin))).setPred k (carryOut a b cin)

def laneIsubb (f : FmtA) : Thread → LaneOut :=
  laneA (ruleCarry f) f fun t xs =>
    let k := f.srcC.toNat
    let bin := t.pred k
    let a := srcW xs 0
    let b := srcW xs 1
    (t.write f.dst.toNat f.type (i32 ((a.toNat : Int) - b.toNat - b2n bin))).setPred k (borrowOut a b bin)

def laneImul (f : FmtA) : Thread → LaneOut :=
  laneA (ruleMul f) f (res1 f f.type fun xs => srcW xs 0 * srcW xs 1)

def laneImulh (f : FmtA) : Thread → LaneOut :=
  laneA (ruleMul f) f (res1 f f.type fun xs =>
    i32 (intElem f.type (srcW xs 0).toNat * intElem f.type (srcW xs 1).toNat / 2 ^ 32))

def laneImad (f : FmtA) : Thread → LaneOut :=
  laneA (ruleMad f) f (res1 f f.type fun xs => srcW xs 0 * srcW xs 1 + srcW xs 2)

def laneImadw (f : FmtA) : Thread → LaneOut :=
  laneA (ruleMadw f) f fun t xs =>
    let p := intElem f.type (srcW xs 0).toNat * intElem f.type (srcW xs 1).toNat
    t.writePair f.dst.toNat f.type f.type (w64 (wrap 64 (p + (srcPair xs 2).toNat)))

def laneImin (f : FmtA) : Thread → LaneOut :=
  laneA (ruleMinMax f) f (res1 f f.type fun xs =>
    fitElems f.type false fun i => min (elemI f.type (srcW xs 0) i) (elemI f.type (srcW xs 1) i))

def laneImax (f : FmtA) : Thread → LaneOut :=
  laneA (ruleMinMax f) f (res1 f f.type fun xs =>
    fitElems f.type false fun i => max (elemI f.type (srcW xs 0) i) (elemI f.type (srcW xs 1) i))

def laneIabs (f : FmtA) : Thread → LaneOut :=
  laneA (ruleAbs f) f (res1 f f.type fun xs =>
    fitElems f.type f.sat fun i => ((elemI f.type (srcW xs 0) i).natAbs : Int))

def laneIcmp (f : FmtA) : Thread → LaneOut :=
  laneA (ruleIcmp f) f fun t xs =>
    t.setPred f.dst.toNat (icmpCond f.type f.var (srcW xs 0) (srcW xs 1))

/-- The tag of a carried result: the source's own for type 0 (R243). -/
def carriedTag (type : Tag) (x : Reg) : Tag := if type == .raw then x.tag else type

def laneSel (f : FmtA) : Thread → LaneOut :=
  laneA (ruleSel f) f fun t xs =>
    let x := if t.pred f.srcC.toNat then srcReg xs 0 0 else srcReg xs 1 0
    t.write f.dst.toNat (carriedTag f.type x) x.word

/-- LEA64's scale (Table 10.1). -/
def leaScale (v : BitVec 2) : Int := if v == 0 then 1 else if v == 1 then 4 else if v == 2 then 8 else 16

def laneLea64 (f : FmtA) : Thread → LaneOut :=
  laneA (ruleLea64 f) f fun t xs =>
    t.writePair f.dst.toNat .addrLo .addrHi
      (w64 (wrap 64 ((srcPair xs 0).toNat + sgn 32 (srcW xs 1).toNat * leaScale f.var)))

def laneAdd64 (f : FmtA) : Thread → LaneOut :=
  laneA (ruleAdd64 f) f fun t xs =>
    t.writePair f.dst.toNat (pairTags f.type).1 (pairTags f.type).2 (srcPair xs 0 + srcPair xs 1)

def laneMov (f : FmtA) : Thread → LaneOut :=
  laneA (ruleMov f) f fun t xs =>
    let x := srcReg xs 0 0
    t.write f.dst.toNat (carriedTag f.type x) x.word

def laneMovl (f : FmtA) : Thread → LaneOut :=
  laneA (ruleMovl f) f fun t xs =>
    let x := srcReg xs 0 0
    let y := srcReg xs 0 1
    if f.type == .raw then (t.write f.dst.toNat x.tag x.word).write (f.dst.toNat + 1) y.tag y.word
    else t.writePair f.dst.toNat (pairTags f.type).1 (pairTags f.type).2 (pair64 x.word y.word)

/-! Class 0x2. -/

def shlW (a b : Word) : Word := if 32 ≤ b.toNat then 0 else a <<< b.toNat
def shrW (a b : Word) : Word := if 32 ≤ b.toNat then 0 else a >>> b.toNat
def sarW (a b : Word) : Word := a.sshiftRight (min b.toNat 31)

/-- DSH: the double word has b as its high half. -/
def dshW (left : Bool) (a b c : Word) : Word :=
  let n := min c.toNat 32
  let x := a.toNat + 2 ^ 32 * b.toNat
  if left then w32 (x * 2 ^ n / 2 ^ 32) else w32 (x / 2 ^ n)

/-- A word given bit by bit. -/
def bitsWord (f : Nat → Bool) : Word :=
  w32 (((List.range 32).map fun j => b2n (f j) * 2 ^ j).foldl (· + ·) 0)

/-- Leading zeros of the low `n` bits. -/
def leadZeros : Nat → Nat → Nat
  | 0, _ => 0
  | n + 1, x => if x.testBit n then 0 else 1 + leadZeros n x
/-- Trailing zeros, counted up to `n`. -/
def trailZeros : Nat → Nat → Nat
  | 0, _ => 0
  | n + 1, x => if x.testBit 0 then 0 else 1 + trailZeros n (x / 2)

def brevW (a : Word) : Word := bitsWord fun j => a.getLsbD (31 - j)

/-- Position and width of a bit field (R250, BFX). -/
def bfPos (b : Word) : Nat := min (b.toNat % 256) 32
def bfLen (b : Word) : Nat := min (b.toNat / 256 % 256) (32 - bfPos b)

def bfxW (t : Tag) (a b : Word) : Word :=
  let n := bfLen b
  let f := a.toNat / 2 ^ bfPos b % 2 ^ n
  if t == .i32 && n != 0 then i32 (sgn n f) else w32 f

def bfiW (a b c : Word) : Word :=
  let p := bfPos c
  let n := bfLen c
  let m := w32 ((2 ^ n - 1) * 2 ^ p)
  (b &&& ~~~ m) ||| (w32 (a.toNat % 2 ^ n * 2 ^ p) &&& m)

def bil2W (a b : Word) : Word := bitsWord fun j => if j % 2 == 0 then a.getLsbD (j / 2) else b.getLsbD (j / 2)
def bil3W (a b c : Word) : Word :=
  bitsWord fun j =>
    if 30 ≤ j then false
    else if j % 3 == 0 then a.getLsbD (j / 3) else if j % 3 == 1 then b.getLsbD (j / 3) else c.getLsbD (j / 3)
/-- Part `k` of a word taken apart into `m` (BDL). -/
def bdlW (m k lim : Nat) (a : Word) : Word := bitsWord fun i => i < lim && a.getLsbD (m * i + k)

/-- One byte of BYSEL. -/
def byselByte (x : Nat) (ctl : Nat) : Nat :=
  let y := x / 2 ^ (8 * (ctl % 8)) % 256
  match ctl / 8 % 4 with
  | 0 => y
  | 1 => if y.testBit 7 then 0xFF else 0
  | 2 => ((List.range 8).map fun j => b2n (y.testBit (7 - j)) * 2 ^ j).foldl (· + ·) 0
  | _ => 0
def byselW (a b c : Word) : Word :=
  let x := a.toNat + 2 ^ 32 * b.toNat
  joinElems .u8x4 fun i => byselByte x (c.toNat / 2 ^ (8 * i) % 256)

def laneShl (f : FmtA) : Thread → LaneOut :=
  laneA (ruleShift f) f (res1 f f.type fun xs => shlW (srcW xs 0) (srcW xs 1))
def laneShr (f : FmtA) : Thread → LaneOut :=
  laneA (ruleShift f) f (res1 f f.type fun xs => shrW (srcW xs 0) (srcW xs 1))
def laneSar (f : FmtA) : Thread → LaneOut :=
  laneA (ruleSar f) f (res1 f f.type fun xs => sarW (srcW xs 0) (srcW xs 1))
def laneDsh (f : FmtA) : Thread → LaneOut :=
  laneA (ruleDsh f) f (res1 f f.type fun xs => dshW (f.var == 1) (srcW xs 0) (srcW xs 1) (srcW xs 2))
def laneAnd (f : FmtA) : Thread → LaneOut :=
  laneA (ruleLogic f) f (res1 f f.type fun xs => srcW xs 0 &&& srcW xs 1)
def laneOr (f : FmtA) : Thread → LaneOut :=
  laneA (ruleLogic f) f (res1 f f.type fun xs => srcW xs 0 ||| srcW xs 1)
def laneXor (f : FmtA) : Thread → LaneOut :=
  laneA (ruleLogic f) f (res1 f f.type fun xs => srcW xs 0 ^^^ srcW xs 1)
def laneBool3 (f : FmtA) : Thread → LaneOut :=
  laneA (ruleBool3 f) f (res1 f f.type fun xs =>
    bitsWord fun j => truthBit (truthWord f) ((srcW xs 0).getLsbD j) ((srcW xs 1).getLsbD j)
      ((srcW xs 2).getLsbD j))
def lanePbool (f : FmtA) : Thread → LaneOut :=
  laneA (rulePbool f) f fun t _ =>
    t.setPred f.dst.toNat
      (truthBit (truthWord f) (t.pred f.srcA.toNat) (t.pred f.srcB.toNat) (t.pred f.srcC.toNat))
def laneClz (f : FmtA) : Thread → LaneOut :=
  laneA (ruleCount f) f (res1 f .u32 fun xs => w32 (leadZeros 32 (srcW xs 0).toNat))
def laneCtz (f : FmtA) : Thread → LaneOut :=
  laneA (ruleCount f) f (res1 f .u32 fun xs => w32 (trailZeros 32 (srcW xs 0).toNat))
def lanePopc (f : FmtA) : Thread → LaneOut :=
  laneA (ruleCount f) f (res1 f .u32 fun xs => w32 (popCount 32 (srcW xs 0).toNat))
def laneBrev (f : FmtA) : Thread → LaneOut :=
  laneA (ruleBrev f) f (res1 f f.type fun xs => brevW (srcW xs 0))
def laneBfx (f : FmtA) : Thread → LaneOut :=
  laneA (ruleShift f) f (res1 f f.type fun xs => bfxW f.type (srcW xs 0) (srcW xs 1))
def laneBfi (f : FmtA) : Thread → LaneOut :=
  laneA (ruleBfi f) f (res1 f f.type fun xs => bfiW (srcW xs 0) (srcW xs 1) (srcW xs 2))
def laneBil2 (f : FmtA) : Thread → LaneOut :=
  laneA (ruleBil2 f) f (res1 f f.type fun xs => bil2W (srcW xs 0) (srcW xs 1))
def laneBil3 (f : FmtA) : Thread → LaneOut :=
  laneA (ruleBil3 f) f (res1 f f.type fun xs => bil3W (srcW xs 0) (srcW xs 1) (srcW xs 2))
def laneBdl2 (f : FmtA) : Thread → LaneOut :=
  laneA (ruleBdl 2 f) f fun t xs =>
    let a := srcW xs 0
    t.writeAll f.dst.toNat [(f.type, bdlW 2 0 16 a), (f.type, bdlW 2 1 16 a)]
def laneBdl3 (f : FmtA) : Thread → LaneOut :=
  laneA (ruleBdl 3 f) f fun t xs =>
    let a := srcW xs 0
    t.writeAll f.dst.toNat [(f.type, bdlW 3 0 10 a), (f.type, bdlW 3 1 10 a), (f.type, bdlW 3 2 10 a)]
def laneBysel (f : FmtA) : Thread → LaneOut :=
  laneA (ruleBysel f) f (res1 f f.type fun xs => byselW (srcW xs 0) (srcW xs 1) (srcW xs 2))

end Sys2Proof.Machine
end

