-- ==== Sys2Proof/Machine/FloatOps.lean ====
section
/-! DEFINITION. Classes 0x4 and 0x5 at one lane (R261 to R271): pure functions of a thread. -/

namespace Sys2Proof.Machine

/-- A form of class 0x4 with one register result in F32. -/
def f32Form (r : ARule) (f : FmtA) (g : RMode → List (List Reg) → Nat) : Thread → LaneOut :=
  laneA r f (res1 f .f32 fun xs => w32 (g (rmodeOf f.var) xs))

def srcF (xs : List (List Reg)) (i : Nat) : FVal := f32Val (srcW xs i)

def laneFadd (f : FmtA) : Thread → LaneOut :=
  f32Form (ruleF2 f) f fun m xs => rndT fmtF32 m (sumF m [srcF xs 0, srcF xs 1])
def laneFsub (f : FmtA) : Thread → LaneOut :=
  f32Form (ruleF2 f) f fun m xs => rndT fmtF32 m (sumF m [srcF xs 0, (srcF xs 1).flip])
def laneFmul (f : FmtA) : Thread → LaneOut :=
  f32Form (ruleF2 f) f fun m xs => rndT fmtF32 m (mulF (srcF xs 0) (srcF xs 1))
def laneFfma (f : FmtA) : Thread → LaneOut :=
  f32Form (ruleF3 f) f fun m xs => rndT fmtF32 m (sumF m [mulF (srcF xs 0) (srcF xs 1), srcF xs 2])
def laneFmin (f : FmtA) : Thread → LaneOut :=
  f32Form (ruleFminmax f) f fun _ xs => minNum fmtF32 (srcW xs 0).toNat (srcW xs 1).toNat
def laneFmax (f : FmtA) : Thread → LaneOut :=
  f32Form (ruleFminmax f) f fun _ xs => maxNum fmtF32 (srcW xs 0).toNat (srcW xs 1).toNat
def laneFcmp (f : FmtA) : Thread → LaneOut :=
  laneA (ruleFcmp f) f fun t xs =>
    t.setPred f.dst.toNat (fCond (f.srcC.toNat % 8) (srcW xs 0).toNat (srcW xs 1).toNat)
def laneFclass (f : FmtA) : Thread → LaneOut :=
  laneA (ruleFclass f) f (res1 f .u32 fun xs => w32 (fClass (srcW xs 0).toNat))
def laneFrcp (f : FmtA) : Thread → LaneOut :=
  f32Form (ruleF1 f) f fun m xs => rndT fmtF32 m (rcpF (srcF xs 0))
def laneFrsq (f : FmtA) : Thread → LaneOut :=
  f32Form (ruleF1 f) f fun m xs => rndT fmtF32 m (rsqF (srcF xs 0))
def laneFsqrt (f : FmtA) : Thread → LaneOut :=
  f32Form (ruleF1 f) f fun m xs => rndT fmtF32 m (sqrtF (srcF xs 0))
def laneFexp2 (f : FmtA) : Thread → LaneOut := f32Form (ruleF1 f) f fun m xs => exp2F m (srcF xs 0)
def laneFlog2 (f : FmtA) : Thread → LaneOut := f32Form (ruleF1 f) f fun m xs => log2F m (srcF xs 0)
def laneFsin (f : FmtA) : Thread → LaneOut := f32Form (ruleF1 f) f fun m xs => sinF m (srcF xs 0)
def laneFcos (f : FmtA) : Thread → LaneOut := f32Form (ruleF1 f) f fun m xs => cosF m (srcF xs 0)
def laneFtanh (f : FmtA) : Thread → LaneOut := f32Form (ruleF1 f) f fun m xs => tanhF m (srcF xs 0)
/-- An infinite, zero or NaN a is returned unchanged, with NaN made canonical (Table 11.2). -/
def laneFscale (f : FmtA) : Thread → LaneOut :=
  f32Form (ruleFscale f) f fun m xs =>
    rndT fmtF32 m (scaleF (srcF xs 0) (sgn 32 (srcW xs 1).toNat))

/-! Class 0x5. -/

/-- The format of PK and DOT elements. -/
def fmtOfTag (t : Tag) : FFmt := (ffmtOf t).getD fmtF32

/-- A packed form, element by element (R264). -/
def pkForm (r : ARule) (f : FmtA) (g : FFmt → RMode → (Nat → Nat) → Nat) : Thread → LaneOut :=
  laneA r f (res1 f f.type fun xs =>
    joinElems f.type fun i => g (fmtOfTag f.type) (rmodeOf f.var) fun j => elem f.type (srcW xs j) i)

def lanePkadd (f : FmtA) : Thread → LaneOut :=
  pkForm (rulePk2 f) f fun t m x => rndT t m (sumF m [decodeF t (x 0), decodeF t (x 1)])
def lanePkmul (f : FmtA) : Thread → LaneOut :=
  pkForm (rulePk2 f) f fun t m x => rndT t m (mulF (decodeF t (x 0)) (decodeF t (x 1)))
def lanePkfma (f : FmtA) : Thread → LaneOut :=
  pkForm (rulePk3 f) f fun t m x =>
    rndT t m (sumF m [mulF (decodeF t (x 0)) (decodeF t (x 1)), decodeF t (x 2)])
def lanePkmin (f : FmtA) : Thread → LaneOut :=
  pkForm (rulePkMinMax f) f fun t _ x => minNum t (x 0) (x 1)
def lanePkmax (f : FmtA) : Thread → LaneOut :=
  pkForm (rulePkMinMax f) f fun t _ x => maxNum t (x 0) (x 1)

/-- `dot(l)` (R266): the float branch rounds one exact sum. -/
def dotFloat (m : RMode) (c : FVal) (ps : List FVal) : Nat := rndT fmtF32 m (sumF m (c :: ps))

/-- The result of a dot product. -/
def dotWord (f : FmtA) (xs : List (List Reg)) : Word :=
  let is := List.range (tagElems f.type)
  if dotInt f.type then
    let t : Int := sgn 32 (srcW xs 2).toNat +
      (is.map fun i => elemI f.type (srcW xs 0) i * elemI f.type (srcW xs 1) i).foldl (· + ·) 0
    i32 (if f.sat then clampTo .i32 t else t)
  else
    let t := fmtOfTag f.type
    w32 (dotFloat (rmodeOf f.var) (srcF xs 2)
      (is.map fun i => mulF (decodeF t (elem f.type (srcW xs 0) i)) (decodeF t (elem f.type (srcW xs 1) i))))

def dotForm (types : List Tag) (f : FmtA) : Thread → LaneOut :=
  laneA (ruleDot types f) f (res1 f (if dotInt f.type then .i32 else .f32) (dotWord f))

def laneDot2 (f : FmtA) : Thread → LaneOut := dotForm [.bf16x2, .f16x2] f
def laneDot4 (f : FmtA) : Thread → LaneOut := dotForm [.e4m3x4, .e5m2x4, .i8x4, .u8x4] f
def laneDot8 (f : FmtA) : Thread → LaneOut := dotForm [.e2m1x8, .i4x8] f

/-- `cvt(l)` (R269). -/
def cvtWord (f : FmtA) (s : Tag) (a b : Word) : Word :=
  let ns := tagElems s
  let nd := tagElems f.type
  let part := cvtPart f.srcC
  let k := 32 / nd
  joinElems f.type fun j =>
    let i := if nd ≤ ns then part * nd + j else j % ns
    if nd ≤ ns || j / ns == part then
      convertTo f.type (rmodeOf f.var) f.sat
        (if cvtSr f.srcC then some (k, b.toNat / 2 ^ (k * j) % 2 ^ k) else none) (elemVal s (elem s a i))
    else 0

def laneCvt (f : FmtA) : Thread → LaneOut :=
  laneA (ruleCvt f) f (res1 f f.type fun xs =>
    cvtWord f ((cvtStype f.srcC).getD .raw) (srcW xs 0) (srcW xs 1))

/-- PACK and UNPK (Table 11.11). -/
def packWord (t : Tag) (a b : Word) : Word :=
  let h := tagElems t / 2
  joinElems t fun i => if i < h then elem t a i else elem t b (i - h)
def unpkWord (t : Tag) (hi : Bool) (a : Word) : Word :=
  let h := tagElems t / 2
  joinElems t fun i => if i < h then elem t a (if hi then i + h else i) else 0

def lanePack (f : FmtA) : Thread → LaneOut :=
  laneA (rulePack f) f (res1 f f.type fun xs => packWord f.type (srcW xs 0) (srcW xs 1))
def laneUnpk (f : FmtA) : Thread → LaneOut :=
  laneA (ruleUnpk f) f fun t xs =>
    let a := srcW xs 0
    t.writeAll f.dst.toNat [(f.type, unpkWord f.type false a), (f.type, unpkWord f.type true a)]
def laneTagset (f : FmtA) : Thread → LaneOut :=
  laneA (ruleTagset f) f (res1 f f.type fun xs => srcW xs 0)
def laneTagget (f : FmtA) : Thread → LaneOut :=
  laneA (ruleTagget f) f (res1 f .u32 fun xs => w32 (tagNum (srcReg xs 0 0).tag))

end Sys2Proof.Machine
end

