-- ==== Sys2Proof/Machine/Lanes.lean ====
section
/-! DEFINITION. Class 0x3, the cross-lane instructions (R251 to R255), over an executing set; and class 0x6, the
abacus instructions (R272 to R275), lane by lane on the core's registers. -/

namespace Sys2Proof.Machine

/-! ## Executing sets -/

/-- A lane of P with what it has read: lane, thread, sources. -/
structure PLane where
  key : Nat
  thread : Thread
  srcs : List (List Reg)

def PLane.lane (x : PLane) : Nat := x.key % 32
/-- Source `i` of a lane. -/
def PLane.reg (x : PLane) (i : Nat) : Reg := srcReg x.srcs i 0
def PLane.word (x : PLane) (i : Nat) : Word := srcW x.srcs i

/-- A cross-lane form: its sources, the registers it writes, and what each lane of P becomes. -/
structure Cross where
  srcs : List Src
  dst : Option Nat
  eff : List PLane → PLane → Thread

/-- Lanes of a plain form after R32 (R251): those that execute, and the others with what they do. -/
def plainSet (x : Cross) (g : Guard) (s : State) (c : Nat) : List Nat → List PLane × List (Nat × Block) × List (Nat × FInfo) × List Nat
  | [] => ([], [], [], [])
  | k :: ks =>
    let r := plainSet x g s c ks
    match s.thread c k with
    | none => r
    | some t =>
      if !t.guard g then (r.1, r.2.1, r.2.2.1, k :: r.2.2.2)
      else
        match t.sources x.srcs with
        | .fault e => (r.1, r.2.1, (k, fi e) :: r.2.2.1, r.2.2.2)
        | .block b => (r.1, (k, b) :: r.2.1, r.2.2.1, r.2.2.2)
        | .ok xs =>
          match x.dst.bind fun d => t.dstBlock d 1 with
          | some b => (r.1, (k, b) :: r.2.1, r.2.2.1, r.2.2.2)
          | none => (⟨k, t, xs⟩ :: r.1, r.2.1, r.2.2.1, r.2.2.2)

/-- Every lane of P writes after all have read (R252). -/
def crossWrite (x : Cross) (c : Nat) (ps : List PLane) (s : State) : State :=
  ps.foldl (fun st p => st.setThread c p.key (x.eff ps p)) s

def advanceAll (c : Nat) (lit : Bool) (ks : List Nat) (s : State) : State :=
  ks.foldl (fun st k => st.modThread c k fun t => t.advance s.clock lit) s

/-- A plain cross-lane instruction (R251). -/
def runCross (x : Cross) (g : Guard) (lit : Bool) (s : State) : Host.Outcome State Fault Refusal :=
  match s.issue.keys with
  | [] => .fault .noBundle
  | ks =>
    let c := s.issue.core
    let r := plainSet x g s c ks
    let s1 := advanceAll c lit (r.2.2.2 ++ r.1.map PLane.key) (crossWrite x c r.1 s)
    let s2 := r.2.1.foldl (fun st e => blockThread st c e.1 e.2) s1
    .next (takeLanes s2 c s.nextId r.2.2.1)

/-! ## The instructions (R254, R255) -/

def inSet (ps : List PLane) (i : Nat) : Option PLane := ps.find? fun p => p.lane == i

/-- A mask of lanes. -/
def laneMask (ps : List PLane) (f : PLane → Bool) : Word :=
  ps.foldl (fun m p => if f p then m ||| (1#32 <<< p.lane) else m) 0

def crossPermx (cv : Bool) (f : FmtA) : Cross :=
  { srcs := aSrcs (rulePermx cv f) f, dst := some f.dst.toNat
    eff := fun ps p =>
      let k := 4 + f.modB.toNat / 2
      match inSet ps (p.word 1).toNat with
      | some q => (p.thread.write f.dst.toNat (carriedTag f.type (q.reg 0)) (q.word 0)).setPred k true
      | none => (p.thread.write f.dst.toNat (carriedTag f.type (p.reg 2)) (p.word 2)).setPred k false }

def crossBallot (f : FmtA) : Cross :=
  { srcs := [], dst := some f.dst.toNat
    eff := fun ps p => p.thread.write f.dst.toNat .u32 (laneMask ps fun q => q.thread.pred f.srcA.toNat) }

def crossVote (f : FmtA) : Cross :=
  { srcs := [], dst := none
    eff := fun ps p =>
      let all := ps.all fun q => q.thread.pred f.srcA.toNat
      let any := ps.any fun q => q.thread.pred f.srcA.toNat
      p.thread.setPred f.dst.toNat (if f.srcB == 0 then all else if f.srcB == 1 then any else all || !any) }

def crossMatch (cv : Bool) (f : FmtA) : Cross :=
  { srcs := aSrcs (ruleMatch cv f) f, dst := some f.dst.toNat
    eff := fun ps p => p.thread.write f.dst.toNat .u32 (laneMask ps fun q => q.word 0 == p.word 0) }

def crossElect (f : FmtA) : Cross :=
  { srcs := [], dst := none
    eff := fun ps p => p.thread.setPred f.dst.toNat (ps.all fun q => p.lane ≤ q.lane) }

/-- Operators of Table 10.5. -/
def foldOp (op : Nat) (t : Tag) (a b : Word) : Word :=
  let le := if t == .i32 then decide (a.toInt ≤ b.toInt) else decide (a.toNat ≤ b.toNat)
  match op with
  | 0 => if t == .f32 then w32 (rndT fmtF32 .rne (sumF .rne [f32Val a, f32Val b])) else a + b
  | 1 => if t == .f32 then w32 (minNum fmtF32 a.toNat b.toNat) else if le then a else b
  | 2 => if t == .f32 then w32 (maxNum fmtF32 a.toNat b.toNat) else if le then b else a
  | 3 => a &&& b
  | 4 => a ||| b
  | _ => a ^^^ b

def foldIdentity (op : Nat) (t : Tag) : Word :=
  match op, t with
  | 0, .f32 => 0x80000000
  | 1, .f32 => 0x7F800000
  | 2, .f32 => 0xFF800000
  | 1, .i32 => 0x7FFFFFFF
  | 2, .i32 => 0x80000000
  | 1, _ => 0xFFFFFFFF
  | 3, _ => 0xFFFFFFFF
  | _, _ => 0

/-- The fold of a non-empty list of values in order; the identity of an empty one. -/
def foldLanes (op : Nat) (t : Tag) : List Word → Word
  | [] => foldIdentity op t
  | a :: as => as.foldl (foldOp op t) a

def crossLscan (cv : Bool) (f : FmtA) : Cross :=
  { srcs := aSrcs (ruleLscan cv f) f, dst := some f.dst.toNat
    eff := fun ps p =>
      let ex := f.srcB.getLsbD 3
      let upTo := ps.filter fun q => q.lane < p.lane || (!ex && q.lane == p.lane)
      p.thread.write f.dst.toNat f.type (foldLanes (f.srcB.toNat % 8) f.type (upTo.map fun q => q.word 0)) }

def crossLred (cv : Bool) (f : FmtA) : Cross :=
  { srcs := aSrcs (ruleLred cv f) f, dst := some f.dst.toNat
    eff := fun ps p =>
      p.thread.write f.dst.toNat f.type (foldLanes (f.srcB.toNat % 8) f.type (ps.map fun q => q.word 0)) }

/-! ## Abacus (R273 to R275) -/

def Core.abacus (x : Core) (n : Nat) : Abacus := tabGet Abacus.zero x.q n
def Core.setAbacus (x : Core) (n : Nat) (q : Abacus) : Core := { x with q := tabSet Abacus.zero x.q n q }

/-- One lane of an abacus instruction: the core's registers and the thread, in ascending lane order (R275). -/
def abacusEff (r : ARule) (f : FmtA) (eff : Core → Thread → List (List Reg) → Core × Thread) (c : Nat) (s : State)
    (k : Nat) (t : Thread) : LaneEff :=
  if !t.guard f.guard then skipLane c f.lit.isSome s k t
  else
    withSources (aSrcs r f) t s fun xs =>
      withDst t f.dst.toNat (match r.dst with | .regs n => n | _ => 0) s
        (let y := eff (s.core c) t xs
         .done ((s.setCore c y.1).setThread c k (y.2.advance s.clock f.lit.isSome)))

def runAbacus (r : ARule) (f : FmtA) (eff : Core → Thread → List (List Reg) → Core × Thread) (s : State) :
    Host.Outcome State Fault Refusal :=
  runBundle false (abacusEff r f eff s.issue.core) s

/-- The term of QADD and QSCAN, and of QMAC. -/
def termOf (t : Tag) (w : Word) : FVal :=
  if t == .f32 then f32Val w else .fin (decide (w.toInt < 0)) w.toInt.natAbs 0
def qmacTerm (t : Tag) (a b : Word) : FVal := mulF (termOf t a) (termOf t b)

def effQclr (f : FmtA) (x : Core) (t : Thread) (_ : List (List Reg)) : Core × Thread :=
  (x.setAbacus f.dst.toNat Abacus.zero, t)
def effQadd (f : FmtA) (x : Core) (t : Thread) (xs : List (List Reg)) : Core × Thread :=
  (x.setAbacus f.dst.toNat ((x.abacus f.dst.toNat).addTerm (termOf f.type (srcW xs 0))), t)
def effQaddSeg (f : FmtA) (x : Core) (t : Thread) (xs : List (List Reg)) : Core × Thread :=
  (x.setAbacus f.dst.toNat ((x.abacus f.dst.toNat).addSeg f.srcB.toNat (srcW xs 0)), t)
def effQmac (f : FmtA) (x : Core) (t : Thread) (xs : List (List Reg)) : Core × Thread :=
  (x.setAbacus f.dst.toNat ((x.abacus f.dst.toNat).addTerm (qmacTerm f.type (srcW xs 0) (srcW xs 1))), t)
def effQscan (f : FmtA) (x : Core) (t : Thread) (xs : List (List Reg)) : Core × Thread :=
  let q := (x.abacus f.srcB.toNat).noteRead
  (x.setAbacus f.srcB.toNat (q.addTerm (termOf f.type (srcW xs 0))),
   t.write f.dst.toNat f.type (q.readWord f.type (rmodeOf f.var)))
def effQrnd (f : FmtA) (x : Core) (t : Thread) (_ : List (List Reg)) : Core × Thread :=
  let q := (x.abacus f.srcA.toNat).noteRead
  (x.setAbacus f.srcA.toNat q, t.write f.dst.toNat f.type (q.readWord f.type (rmodeOf f.var)))
def effQmov (f : FmtA) (x : Core) (t : Thread) (_ : List (List Reg)) : Core × Thread :=
  let q := (x.abacus f.srcA.toNat).noteRead
  ((x.setAbacus f.srcA.toNat q).setAbacus f.dst.toNat q, t)
def effQmovSeg (f : FmtA) (x : Core) (t : Thread) (_ : List (List Reg)) : Core × Thread :=
  let q := (x.abacus f.srcA.toNat).noteRead
  (x.setAbacus f.srcA.toNat q, t.write f.dst.toNat .raw (w32 (q.val / 2 ^ (32 * f.srcB.toNat))))
def effQflag (f : FmtA) (x : Core) (t : Thread) (_ : List (List Reg)) : Core × Thread :=
  let q := (x.abacus f.srcA.toNat).noteRead
  (x.setAbacus f.srcA.toNat q, t.write f.dst.toNat .u32 q.flagWord)

end Sys2Proof.Machine
end

