-- ==== Sys2Proof/Machine/MatrixOps.lean ====
section
/-! DEFINITION. The matrix engine (R181 to R186, R278 to R293): tiles and bibs, the queue of a tile, what a fired
MMA enters, grants and passes, and the lane operations. -/

namespace Sys2Proof.Machine

/-! ## Tiles and sets -/

/-- A rendezvous set (R176): core of the module, slot row and convergence register. -/
structure MSet where
  core : Nat
  row : Nat
  cv : Nat
  deriving DecidableEq, Repr

def MSet.cluster (m : MSet) : Nat := m.core / 4

def tileOf (s : State) (cluster t : Nat) : Tile := tabGet Tile.zero (s.cluster cluster).tiles t
def setTile (s : State) (cluster t : Nat) (x : Tile) : State :=
  let c := s.cluster cluster
  s.setCluster cluster { c with tiles := tabSet Tile.zero c.tiles t x }

/-- The set holds the tile's bib (R183). -/
def Tile.heldBy (t : Tile) (m : MSet) : Bool := t.held && t.core == m.core % 4 && t.row == m.row && t.cv == m.cv

/-- Tiles a set holds, in ascending order. -/
def heldTiles (s : State) (m : MSet) : List Nat :=
  ((s.cluster m.cluster).tiles.filter fun e => e.2.heldBy m).map Prod.fst

def tileTagOk (t : Tile) : Bool := t.tag == .f32 || t.tag == .raw

/-- The tile control word (Table 7.9). -/
def Tile.control (t : Tile) : Word :=
  w32 (b2n t.held * 2 ^ 31 + t.core * 2 ^ 29 + t.row * 2 ^ 25 + t.cv * 2 ^ 23 + t.code.toNat * 2 ^ 15 +
    tagNum t.tag * 2 ^ 11)

/-- Index of the first of a lane's eight elements (R279). -/
def laneElem (l : Nat) : Nat := 8 * l
def laneElems (t : Tile) (l : Nat) : List Datum :=
  (List.range 8).map fun i => tabGet zeroDatum t.elems (laneElem l + i)
def putElems (e : Tab Datum) : Nat → List Datum → Tab Datum
  | _, [] => e
  | i, d :: ds => putElems (tabSet zeroDatum e i d) (i + 1) ds

/-! ## TACQ and TREL (R285, R286) -/

/-- The set takes a free bib. -/
def takeBib (s : State) (m : MSet) (seq t : Nat) : State :=
  let x := tileOf s m.cluster t
  let y := if x.lastSeq == some seq then x else { x with elems := [], tag := .f32, code := 0 }
  setTile s m.cluster t { y with held := true, core := m.core % 4, row := m.row, cv := m.cv, lastSeq := some seq }

/-! ## Passes (R181, R287) -/

def lendReg (t : Thread) (r : Nat) : Thread := t.modReg r fun x => { x with lent := x.lent + 1 }
def returnReg (t : Thread) (r : Nat) : Thread := t.modReg r fun x => { x with lent := x.lent - 1 }

/-- Registers that a pass reads in a lane: A, B and the scale. -/
def Pass.regs (p : Pass) : List Nat :=
  (List.range 4).map (p.a + ·) ++ (List.range 4).map (p.b + ·) ++ p.scale.toList

def regWords (t : Thread) (rs : List Nat) : List Datum := rs.map fun r => ⟨(t.reg r).word, (t.reg r).code⟩

/-- Thread of a lane of a pass, while it lives. -/
def passThread (s : State) (core : Nat) (l : PassLane) : Option Thread :=
  (s.thread core l.key).filter fun t => t.uid == l.uid

/-- An operation joins a tile's queue. -/
def pushOp (s : State) (m : MSet) (t : Nat) (k : TileOpKind) : State :=
  let x := tileOf s m.cluster t
  let o : TileOp := ⟨s.nextId, m.core, m.row, m.cv, k⟩
  { setTile s m.cluster t { x with queue := x.queue ++ [o] } with nextId := s.nextId + 1 }

/-- A fired MMA or MMAX enters its request and lends its registers (R184). -/
def enterPass (s : State) (m : MSet) (t : Nat) (f : FmtE) (scaled : Bool) (prio : Nat) (ks : List Nat) : State :=
  let a := f.srcA.toNat
  let b := f.srcB.toNat
  let sc := if scaled then some f.srcC.toNat else none
  let p0 : Pass := ⟨[], a, b, sc, f.fn.getLsbD 0, f.type, prio, s.clock, true⟩
  let lanes := ks.filterMap fun k => (s.thread m.core k).map fun u => (⟨k, u.uid, regWords u p0.regs⟩ : PassLane)
  let s1 := ks.foldl (fun st k => st.modThread m.core k fun u => p0.regs.foldl lendReg u) s
  pushOp s1 m t (.pass { p0 with lanes := lanes })

/-- The words a pass reads in a lane: the lent registers, or what they held. -/
def laneInputs (s : State) (core : Nat) (p : Pass) (l : PassLane) : List Datum :=
  match passThread s core l with
  | some u => regWords u p.regs
  | none => l.words

/-- Elements of a fragment: lane's words, first word of the fragment, and the element of R278. -/
def fragElem (t : Tag) (first k : Nat) (ws : List Datum) : FVal :=
  let e := tagElems t
  let w := ((ws[first + k / (2 * e)]?).getD zeroDatum).word
  elemVal t (elem t w (k % e))

/-- The scale of row or column `i` at index `k` (R280): none when it comes from an absent lane. -/
def scaleElem (t : Tag) (ins : Nat → Option (List Datum)) (i k part : Nat) : Option FVal :=
  let l := if t == .e2m1x8 then i + 16 * (k / 32) else i
  (ins l).map fun ws => elemVal .e8m0x4 (elem .e8m0x4 ((ws[8]?).getD zeroDatum).word part)

/-- One product, unless it is omitted (R281). -/
def passTerm (p : Pass) (ins : Nat → Option (List Datum)) (m n k : Nat) : Option FVal :=
  let h := k / tagElems p.type % 2
  match ins (16 * h + m), ins (16 * h + n) with
  | some x, some y =>
    let ab := mulF (fragElem p.type 0 k x) (fragElem p.type 4 k y)
    if p.scale.isNone then some ab
    else
      match scaleElem p.type ins m k 0, scaleElem p.type ins n k 1 with
      | some sa, some sb => some (mulF (mulF sa ab) sb)
      | _, _ => none
  | _, _ => none

/-- K of Table 12.1. -/
def passK (t : Tag) : Nat := 8 * tagElems t

/-- The 256 elements that a pass writes, in element order. -/
def passResult (p : Pass) (ins : Nat → Option (List Datum)) (old : Tab Datum) : List Datum :=
  (List.range 256).map fun i =>
    let l := i / 8
    let m := l % 16
    let n := 8 * (l / 16) + i % 8
    let ts := (List.range (passK p.type)).filterMap (passTerm p ins m n)
    let all := if p.z then ts else ts ++ [f32Val (tabGet zeroDatum old i).word]
    mk (w32 (rndT fmtF32 .rne (sumF .rne all)))

/-- A lane of an executing set. -/
def findLane (ls : List (Nat × List Datum)) (l : Nat) : Option (List Datum) :=
  (ls.find? fun e => e.1 == l).map Prod.snd

/-- The pass at the grant (R185, R287): what it will write, or none where a check fails. -/
def grantPass (s : State) (core : Nat) (t : Tile) (p : Pass) : Option (List Datum) :=
  let ls := p.lanes.map fun l => (l.key % 32, laneInputs s core p l)
  let bad := (ls.any fun e => !e.2.all Datum.okay) || (!p.z && t.elems.any fun e => !Datum.okay e.2)
  if bad || t.code != 0 then none else some (passResult p (findLane ls) t.elems)

/-- Registers are returned at the grant (R184), also in what the open accesses of a thread keep of it. -/
def returnLent (s : State) (core : Nat) (p : Pass) : State :=
  p.lanes.foldl (fun st l =>
    match passThread st core l with
    | some _ => modEver st core l.key l.uid fun u => p.regs.foldl returnReg u
    | none => st) s

/-- The registers of a withdrawn pass are lent again (R186). -/
def relend (s : State) (core : Nat) (p : Pass) : State :=
  p.lanes.foldl (fun st l =>
    match passThread st core l with
    | some u => st.setThread core l.key (p.regs.foldl lendReg u)
    | none => st) s

/-- A queued pass is withdrawn from the table (R186). -/
def TileOp.withdraw (o : TileOp) : TileOp :=
  match o.kind with
  | .pass p => { o with kind := .pass { p with inTable := false } }
  | _ => o

/-- The passes of a core that are queued and hold an entry of the table. -/
def queuedPasses (s : State) (c : Nat) : List (TileOp × Pass) :=
  let x := s.cluster (c / 4)
  (x.tiles.map fun e => e.2.queue.filterMap fun o =>
    match o.kind with
    | .pass p =>
      if o.core == c && p.inTable && !(x.running.any fun r => r.op == o.id) then some (o, p) else none
    | _ => none).flatten

/-- A core's queued requests are withdrawn, and their registers returned (R186). -/
def withdrawCore (s : State) (c : Nat) : State :=
  let os := queuedPasses s c
  let s1 := os.foldl (fun st e => returnLent st c e.2) s
  let x := s1.cluster (c / 4)
  s1.setCluster (c / 4) { x with tiles := x.tiles.map fun e =>
    (e.1, { e.2 with queue := e.2.queue.map fun o => if os.any fun y => y.1.id == o.id then o.withdraw else o }) }

/-! ## The arbiter (R182) -/

structure Request where
  tile : Nat
  head : Bool
  op : TileOp
  pass : Pass

/-- Every pending pass of the cluster that has an entry. -/
def requests (s : State) (cluster : Nat) : List Request :=
  let x := s.cluster cluster
  let going := fun o : TileOp => match x.running with | some r => r.op == o.id | none => false
  (x.tiles.map fun e => e.2.queue.zipIdx.filterMap fun o =>
    match o.1.kind with
    | .pass p => if going o.1 || !p.inTable then none else some (⟨e.1, o.2 == 0, o.1, p⟩ : Request)
    | _ => none).flatten

/-- The oldest pending request of its set. -/
def oldestOf (rs : List Request) (r : Request) : Bool :=
  rs.all fun q => !(q.op.core == r.op.core && q.op.row == r.op.row && q.op.cv == r.op.cv && q.op.id < r.op.id)

def effPrio (now : Nat) (r : Request) : Nat := r.pass.prio + (now - r.pass.entered) / 64

/-- The order of R182. -/
def beats (now : Nat) (a b : Request) : Bool :=
  if effPrio now a != effPrio now b then effPrio now b < effPrio now a
  else if a.pass.entered != b.pass.entered then a.pass.entered < b.pass.entered
  else if a.op.core != b.op.core then a.op.core < b.op.core
  else if a.op.row != b.op.row then a.op.row < b.op.row
  else if a.op.cv != b.op.cv then a.op.cv < b.op.cv
  else a.op.id < b.op.id

/-- The request that the arbiter grants, if any. Those of a core that is being saved stay queued (R186). -/
def arbiter (s : State) (cluster : Nat) : Option Request :=
  let rs := requests s cluster
  ((rs.filter fun r => oldestOf rs r && r.head && !(s.core r.op.core).halting).foldl (fun best r =>
    match best with
    | none => some r
    | some b => if beats s.clock r b then some r else best) none)

/-- A grant (R182). -/
def grant (s : State) (cluster : Nat) : State :=
  match (s.cluster cluster).running, arbiter s cluster with
  | none, some r =>
    let t := tileOf s cluster r.tile
    let res := grantPass s r.op.core t r.pass
    let s1 := returnLent s r.op.core r.pass
    let x := s1.cluster cluster
    s1.setCluster cluster { x with running := some ⟨r.tile, r.op.id, res, s.clock⟩ }
  | _, _ => s

/-- The clocks of a pass (R181). -/
def passClocks : Nat := 32

/-- The pass completes: its elements are written, or the code field is set; its entry is freed. -/
def finishPass (s : State) (cluster : Nat) : State :=
  let x := s.cluster cluster
  match x.running.filter fun r => r.since + passClocks ≤ s.clock with
  | none => s
  | some r =>
    let t := tabGet Tile.zero x.tiles r.tile
    let t1 := match r.result with
      | some ds => { t with elems := putElems [] 0 ds, tag := .f32 }
      | none => if t.code == 0 then { t with code := fcDatum } else t
    let t2 := { t1 with queue := t1.queue.filter fun o => o.id != r.op }
    fillTable 16 (settleTiles (s.setCluster cluster
      { x with running := none, tiles := tabSet Tile.zero x.tiles r.tile t2 }) cluster) cluster

/-! ## Lane operations (R288 to R291) -/

/-- The thread held at this operation. -/
def heldAt (s : State) (o : TileOp) (key : Nat) : Option Thread :=
  (s.thread o.core key).filter fun t => t.status == .blocked (.tileOps [o.id])

/-- Words that TCVT writes for eight elements (R289). -/
def cvtElems (t : Tag) (mode : BitVec 2) (sat : Bool) (ds : List Datum) : List Word :=
  let e := tagElems t
  (List.range (tcvtRegs t)).map fun j => joinElems t fun p =>
    convertTo t (rmodeOf mode) sat none (f32Val ((ds[e * j + p]?).getD zeroDatum).word)

/-- The verdict of a TREAD or TCVT: the thread takes its words and goes on, or faults. -/
def moveOut (s : State) (t : Tile) (o : TileOp) (key dst n : Nat) (f : Thread → List Datum → Thread) : State :=
  match heldAt s o key with
  | none => s
  | some u =>
    let ds := laneElems t (key % 32)
    let failed := fun c : BitVec 8 =>
      takeFaults (s.setThread o.core key { u.leaveAll dst n with bundle := none }) o.core (u.bundle.getD o.id) [(key, fi c)]
    if !tileTagOk t then failed fcTag
    else if t.code != 0 then failed t.code
    else if !ds.all Datum.okay then failed fcDatum
    else settleInst (s.setThread o.core key ((f u ds).proceed s.clock false)) (u.bundle.getD o.id)

/-- The operation at the head of a tile's queue is applied, unless it is a pass (R284). -/
def applyOp (s : State) (cluster tile : Nat) : State :=
  let t := tileOf s cluster tile
  match t.queue with
  | [] => s
  | o :: os =>
    let rest := { t with queue := os }
    let put := fun x : Tile => setTile s cluster tile x
    match o.kind with
    | .pass _ => s
    | .zero => settleTiles (put { rest with elems := [], tag := .f32, code := 0 }) cluster
    | .write l ds =>
      settleTiles (put (if t.code == 0 then { rest with elems := putElems t.elems (laneElem l) ds, tag := .f32 }
        else rest)) cluster
    | .read key dst =>
      settleTiles (moveOut (put rest) t o key dst 8 fun u ds =>
        u.fillAll dst (ds.map fun d => (Tag.f32, d))) cluster
    | .cvt key dst ty mode sat =>
      settleTiles (moveOut (put rest) t o key dst 0 fun u ds =>
        u.writeAll dst ((cvtElems ty mode sat ds).map fun w => (ty, w))) cluster

/-- A lane of TZERO, TREAD, TWRITE, TCVT or MWAIT: declared in cvC, whose set holds the bib (R283). -/
def declared (s : State) (c k cv : Nat) : Bool :=
  match tabFind (s.core c).rows (k / 32) with
  | some r => (tabGet CvReg.zero r.cv cv).decl.getLsbD (k % 32)
  | none => false
def laneSet (c k : Nat) (f : FmtE) : MSet := ⟨c, k / 32, f.cv.toNat⟩

/-- A lane form of class 0xA: sources, the bib, then `eff` on the tile. -/
def tileLane (srcs : List Src) (f : FmtE) (eff : Nat → State → Nat → Thread → List (List Reg) → Tile → LaneEff) (c : Nat)
    (s : State) (k : Nat) (t : Thread) : LaneEff :=
  if !t.guard f.guard then skipLane c false s k t
  else
    withSources srcs t s fun xs =>
      let x := tileOf s (c / 4) f.unit.toNat
      if !declared s c k f.cv.toNat || !x.heldBy (laneSet c k f) then .fault (fi fcBibless) s
      else eff c s k t xs x

def queueFull (x : Tile) : Bool := 255 ≤ x.queue.length

def effTzero (f : FmtE) (c : Nat) (s : State) (k : Nat) (t : Thread) (_ : List (List Reg)) (x : Tile) : LaneEff :=
  if queueFull x then .block (.tileQueue f.unit.toNat) s
  else .done ((pushOp s (laneSet c k f) f.unit.toNat .zero).setThread c k (t.advance s.clock false))

def effTwrite (f : FmtE) (c : Nat) (s : State) (k : Nat) (t : Thread) (xs : List (List Reg)) (x : Tile) : LaneEff :=
  if x.code != 0 then .fault (fi x.code) s
  else if queueFull x then .block (.tileQueue f.unit.toNat) s
  else .done ((pushOp s (laneSet c k f) f.unit.toNat (.write (k % 32) (srcData xs 0))).setThread c k
    (t.advance s.clock false))

/-- TREAD and TCVT enter their operation, and the thread is held at it; the lanes of one instance have their faults
batched together (R409). -/
def holdAtOp (f : FmtE) (op : TileOpKind) (u : Thread) (inst c : Nat) (s : State) (k : Nat) : LaneEff :=
  .done ((pushOp s (laneSet c k f) f.unit.toNat op).setThread c k
    { u.spun s.clock with status := .blocked (.tileOps [s.nextId]), bundle := some inst })

def effTread (f : FmtE) (inst c : Nat) (s : State) (k : Nat) (t : Thread) (_ : List (List Reg)) (x : Tile) : LaneEff :=
  withDst t f.dst.toNat 8 s
    (if queueFull x then .block (.tileQueue f.unit.toNat) s
     else holdAtOp f (.read k f.dst.toNat) (t.emptyAll f.dst.toNat (List.replicate 8 .f32)) inst c s k)

def effTcvt (f : FmtE) (inst c : Nat) (s : State) (k : Nat) (t : Thread) (_ : List (List Reg)) (x : Tile) : LaneEff :=
  withDst t f.dst.toNat (tcvtRegs f.type) s
    (if queueFull x then .block (.tileQueue f.unit.toNat) s
     else holdAtOp f (.cvt k f.dst.toNat f.type f.var (f.fn.getLsbD 0)) t inst c s k)

/-- One lane of MWAIT (R290). A thread that has waited has issued it already, and makes no check of step 7 again; the
demotion of a spin block runs from the issue (R169). -/
def mwaitLane (f : FmtE) (c : Nat) (s : State) (k : Nat) (t : Thread) : LaneEff :=
  if !t.guard f.guard then skipLane c false s k t
  else
    let m := laneSet c k f
    let ts := if f.fn.getLsbD 0 then heldTiles s m else [f.unit.toNat]
    let xs := ts.map fun i => tileOf s m.cluster i
    if !t.waited && (!declared s c k f.cv.toNat || xs.any fun x => !x.heldBy m) then .fault (fi fcBibless) s
    else
      let ops := (xs.map fun x => x.queue.map TileOp.id).flatten
      if !t.waited && !ops.isEmpty then .block (.tileOps ops) (s.setThread c k (t.spun s.clock))
      else
        match xs.find? fun x => x.code != 0 with
        | some x => .fault (fi x.code) s
        | none => .done (s.setThread c k (t.goOn s.clock false))

/-- One lane of MSTAT (R290). -/
def mstatLane (f : FmtE) (c : Nat) (s : State) (k : Nat) (t : Thread) : LaneEff :=
  if !t.guard f.guard then skipLane c false s k t
  else
    withDst t f.dst.toNat 2 s
      (let x := tileOf s (c / 4) f.unit.toNat
       .done (s.setThread c k ((t.writeAll f.dst.toNat
         [(.u32, x.control), (.u32, w32 x.queue.length)]).advance s.clock false)))

end Sys2Proof.Machine
end

