-- ==== Sys2Proof/Machine/Fabric.lean ====
section
/-! DEFINITION. Sending on the pod links (R95, R103 to R107, R109), on the remote fabric (R111 to R116) and on the
host link (R123 to R125). -/

namespace Sys2Proof.Machine

/-! ## Pod -/

/-- The port toward a position (R95). -/
def portTo (s : State) (t : Nat) : Nat := (t + 15 - s.pos) % 16
/-- The position that a port reaches. -/
def farPos (s : State) (k : Nat) : Nat := (s.pos + k + 1) % 16

/-- The port of a first hop: the peer's own, or its relay's (R103, R105). -/
def routePort (s : State) (t : Nat) : Nat :=
  let p := s.peer t
  if p.state == 2 then (match p.relay with | some m => portTo s m | none => portTo s t) else portTo s t

def txMsg (t : Nat) (x : PodTx) : PodMsg :=
  match x.mc with
  | none => .txn t x.seq x.req
  | some g => .multicast t x.seq g x.req

/-! ## Ports: held traffic, credits and the replay buffer (R97, R98, R100) -/

/-- Links that carry traffic and notices: UP, SPARE and RETRAIN. -/
def Link.carries (l : Link) : Bool := l.state == 2 || l.state == 3 || l.state == 4

/-- A message that answers a request. -/
def msgAnswers : PodMsg → Bool
  | .answer _ _ _ => true
  | .relayed _ (.answer _ _ _) => true
  | _ => false

/-- The channel whose credits a message takes: VC0 and VC1 have credits of requests and of responses, VCM its own
(R97). -/
def channelOf (vc : Nat) (m : PodMsg) : Nat := if vc == 2 then 4 else 2 * vc + b2n (msgAnswers m)

/-- Credits of each channel; the number affects timing only (DESIGN CHOICE, log entry 30). -/
def linkCredits : Nat := 256

/-- The channel has a free credit, and no earlier message of it is held. -/
def Link.free (l : Link) (ch : Nat) : Bool := tabGet 0 l.used ch < linkCredits && !l.queue.any fun e => e.1 == ch

def podEmit (s : State) (port vc : Nat) (m : PodMsg) : State := { s with podOut := s.podOut ++ [⟨port, vc, m⟩] }

/-- A message leaves: it takes a credit, and stays in the replay buffer until the far end has acknowledged it. -/
def portSend (s : State) (port ch : Nat) (m : PodMsg) : State :=
  let l := s.link port
  podEmit (s.setLink port { l with
    buffer := l.buffer ++ [(ch, m)], used := tabSet 0 l.used ch (tabGet 0 l.used ch + 1) }) port (ch / 2) m

/-- A message to a port: sent at once where the link is UP with a credit free, held where it is in SPARE or RETRAIN or
lacks credits, and lost where the link is OFF, in TRAIN or DOWN. -/
def podPut (s : State) (port vc : Nat) (m : PodMsg) : State :=
  let l := s.link port
  let ch := channelOf vc m
  if l.state == 2 && l.free ch then portSend s port ch m
  else if l.carries then s.setLink port { l with queue := l.queue ++ [(ch, m)] }
  else s

/-- Held messages leave in order, channel by channel, while credits are free. -/
def drainPort (s : State) (port : Nat) : State :=
  let l := s.link port
  if l.state != 2 then s
  else l.queue.foldl (fun st e =>
    let x := st.link port
    if x.free e.1 then portSend st port e.1 e.2 else st.setLink port { x with queue := x.queue ++ [e] })
    (s.setLink port { l with queue := [] })

/-- Every flit that is not acknowledged is sent again, in order (R98, R99). -/
def replayPort (s : State) (port : Nat) : State :=
  let l := s.link port
  l.buffer.foldl (fun st e => podEmit st port (e.1 / 2) e.2)
    (s.setLink port { l with replays := l.replays + BitVec.ofNat 32 l.buffer.length })

/-! ## Transactions (R107) -/

/-- A transaction to a peer takes the next sequence number (R107). -/
def podSend (s : State) (t : Nat) (req : FabReq) (o : Owner) (mc : Option Nat) : State :=
  let p := s.peer t
  let x : PodTx := ⟨p.nextSeq, req, mc, o⟩
  let s1 := s.setPeer t { p with nextSeq := (p.nextSeq + 1) % 2 ^ 24, unacked := p.unacked ++ [x] }
  podPut s1 (routePort s t) 0 (txMsg t x)

/-- Numbers of a source's transactions from a number on, modulo 2^24. -/
def seqSpan (lo hi : Nat) : Nat := (hi + 2 ^ 24 - lo % 2 ^ 24) % 2 ^ 24

/-- A peer takes no more until the oldest transaction is acknowledged: the numbers from it on are 4,096, so that every
transaction that can be resent lies within the destination's window (R107; DEDUCED, log entry 31). -/
def podFull (s : State) (t : Nat) : Bool :=
  let p := s.peer t
  match p.unacked with
  | [] => false
  | x :: _ => 4096 ≤ seqSpan x.seq p.nextSeq

/-- Unacknowledged transactions are sent again in sequence order when the path changes (R107). -/
def podResend (s : State) (t : Nat) : State :=
  (s.peer t).unacked.foldl (fun st x => podPut st (routePort st t) 0 (txMsg t x)) s

/-- Peers that a multicast write is copied to: one for each egress bit whose peer is ALIVE or DETOUR (R109). -/
def mcPeers (s : State) (g : Nat) : List Nat :=
  ((List.range 15).filter fun k => bit (mcEntry s g) k).map (farPos s) |>.filter fun t =>
    (s.peer t).state == 1 || (s.peer t).state == 2

/-! ## Remote -/

def overflowEntry : Nat := 2 ^ 28

/-- The entry that a request to a pod takes: its own, where it holds one or one of the 4,096 is free, else the overflow
entry (R115). -/
def entryFor (s : State) (podKey : Nat) : Nat :=
  let used := ((s.remotes.map RemoteReq.entry).filter fun e => e != overflowEntry).eraseDups
  if used.contains podKey || used.length < 4096 then podKey else overflowEntry

def pathState (s : State) (entry path : Nat) : PathState := tabGet .new s.congestion (64 * entry + path)
def modPath (s : State) (entry path : Nat) (f : PathState → PathState) : State :=
  { s with congestion := tabSet .new s.congestion (64 * entry + path) (f (pathState s entry path)) }

/-- The path of a sprayed request: that with the fewest outstanding packets, the lowest of them (R113; log entry 11). -/
def choosePath (s : State) (entry paths : Nat) : Nat :=
  (List.range paths).foldl (fun best p =>
    if (pathState s entry p).busy < (pathState s entry best).busy then p else best) 0

/-- The first request identifier from the next one on that no outstanding packet has (R114). -/
def freeRid (s : State) : Nat :=
  (((List.range (s.remotes.length + 1)).map fun i => (s.nextRid + i) % 2 ^ 32).find? fun i =>
    !s.remotes.any fun r => r.id == i).getD s.nextRid

/-- The transport service of a request (Table 4.13). -/
def serviceOf (r : FabReq) : Service :=
  match r.cls, r.op with
  | .so, _ => .rod
  | .un, .read _ _ | .un, .probe => .rudi
  | _, _ => .rud

/-- The first place in the ROD order toward a home that has no reply yet. -/
def rodFirst (s : State) (hid own : Nat) : Nat :=
  (s.remotes.filterMap fun r => if r.hid == hid then r.rod else none).foldl min own

def remotePacket (s : State) (r : RemoteReq) : RemoteOut :=
  .packet r.addr (r.path % 4) r.place r.id r.path r.entropy (serviceOf r.req) (r.rod.map fun n => (n, rodFirst s r.hid n))
    r.req

/-- A request is transmitted for the first time. -/
def transmit (s : State) (r : RemoteReq) : State :=
  modPath { s with remotes := s.remotes.map fun x => if x.id == r.id then { x with sent := some s.time } else x
                   remoteOut := s.remoteOut ++ [remotePacket s r] } r.entry r.path
    fun x => { x with busy := x.busy + 1 }

/-- The window of a request's path has room. -/
def pathOpen (s : State) (r : RemoteReq) : Bool :=
  (pathState s r.entry r.path).busy < (pathState s r.entry r.path).window

/-- A remote request is accepted, and sent at once where the window of its path allows (R113 to R115). It keeps the
route that its rank had when it was resolved (R94). SO travels on path 0, in order; other requests choose a path. -/
def remoteSend (s : State) (hid : Nat) (w : Route) (req : FabReq) (o : Owner) : State :=
  let e := entryFor s (hid / 16)
  let so := req.cls == .so
  let place := tabGet 0 s.rodTx hid
  let path := if so then 0 else choosePath s e w.paths
  let r : RemoteReq := ⟨freeRid s, s.nextId, hid, w.addr, (w.base + path) % 2 ^ 16, path, e, s.time,
    none, false, if so then some place else none, none, req, o⟩
  let s1 := { s with remotes := s.remotes ++ [r], nextRid := (freeRid s + 1) % 2 ^ 32, nextId := s.nextId + 1
                     rodTx := if so then tabSet 0 s.rodTx hid (place + 1) else s.rodTx }
  if pathOpen s1 r then transmit s1 r else s1

/-- A request ends: its place in its path's window is free, and a held request of the path is sent. An entry without an
outstanding packet is released (R115). -/
def remoteDone (s : State) (r : RemoteReq) : State :=
  let s1 := { s with remotes := s.remotes.filter fun x => x.id != r.id }
  let s2 := if r.sent.isSome then
      modPath s1 r.entry r.path fun x => { x with busy := x.busy - 1, window := min 64 (x.window + 1) }
    else s1
  let s3 := if s2.remotes.any fun x => x.entry == r.entry then s2
    else { s2 with congestion := s2.congestion.filter fun e => e.1 / 64 != r.entry }
  match s3.remotes.find? fun x => x.entry == r.entry && x.path == r.path && x.sent.isNone with
  | some x => if pathOpen s3 x then transmit s3 x else s3
  | none => s3

/-! ## Host -/

/-- A read of host memory (R124), through a leaf where an engine or the host makes it. A zero-length read flushes the
posted writes before it (R333). -/
def hostReadVia (s : State) (addr words : Nat) (o : Owner) (via : Option (Nat × Nat × Nat)) : State :=
  let n := s.fresh
  { n.2 with hostReqs := n.2.hostReqs ++ [⟨n.1, addr, words, o, s.time, via⟩]
             hostPosts := if words == 0 then s.hostPosts.map fun e => (e.1, e.2.orElse fun _ => some n.1) else s.hostPosts
             hostOut := n.2.hostOut ++ [.read n.1 addr words] }
def hostRead (s : State) (addr words : Nat) (o : Owner) : State := hostReadVia s addr words o none
def Leaf.via (l : Leaf) : Option (Nat × Nat × Nat) := some (l.part, l.vbase, l.size)

/-- A write to host memory: codes are dropped (R29), and only UN writes are relaxed (R333). In plain PCIe mode the leaf
it went through, where given, is kept until a zero-length read has flushed the write (R83). -/
def hostWrite (s : State) (addr : Nat) (bs : List Byte) (cls : OrdClass) (via : Option (Nat × Nat × Nat)) : State :=
  { s with hostOut := s.hostOut ++ [.write addr bs (cls == .un && !s.cxl)]
           hostPosts := match via with
             | some v => if s.cxl || s.hostPosts.contains (v, none) then s.hostPosts else s.hostPosts ++ [(v, none)]
             | none => s.hostPosts }

/-- A host read has ended: what a zero-length read was to flush is flushed. -/
def postsDone (s : State) (id : Nat) : State := { s with hostPosts := s.hostPosts.filter fun e => e.2 != some id }

/-- A PCIe AtomicOp (R124). -/
def hostAtomic (s : State) (addr : Nat) (op : AtomOp) (a b : List Datum) (o : Owner) : State :=
  let n := s.fresh
  { n.2 with hostReqs := n.2.hostReqs ++ [⟨n.1, addr, a.length, o, s.time, none⟩]
             hostOut := n.2.hostOut ++ [.atomic n.1 addr op (a.map Datum.word) (b.map Datum.word)] }

def wordBytes (ws : List Datum) : List Byte := (ws.map fun d => bytesLE 4 d.word.toNat).flatten

end Sys2Proof.Machine
end

