-- ==== Sys2Proof/Machine/Home.lean ====
section
/-! DEFINITION. What a home does with a request: runs of words at the home slices (R117, R130), the atomic unit
(R295, R297), landing and takeoff counters (R118 to R121, R305), and requests of pod and remote sources (R71). -/

namespace Sys2Proof.Machine

/-! ## Runs of words -/

/-- Read `n` words from a device address, sector by sector. -/
def readRange (mask : BitVec 24) (slot : Nat) : Nat → State → Nat → Nat → HomeRes (List Datum)
  | 0, s, _, _ => .ok [] s
  | fuel + 1, s, dpa, n =>
    if n == 0 then .ok [] s
    else
      let m := min n (16 - wordIn dpa)
      match homeRead s dpa slot m mask with
      | .fail c s1 => .fail c s1
      | .ok ws s1 =>
        match readRange mask slot fuel s1 (dpa + 4 * m) (n - m) with
        | .fail c s2 => .fail c s2
        | .ok vs s2 => .ok (ws ++ vs) s2

/-- Sector addresses that a run of words touches. -/
def runSectors (dpa n : Nat) : List Nat :=
  (List.range ((wordIn dpa + n + 15) / 16)).map fun i => 64 * (dpa / 64 + i)

/-- No sector of a run is held dirty (R26). -/
def runClean (s : State) (slot dpa n : Nat) : Bool :=
  (runSectors dpa n).all fun a => match l2Hit s a slot with
    | some x => !x.dirty
    | none => true

/-- The clean copies of a run's sectors are discarded, for a refetch (Table 1.8). -/
def dropClean (s : State) (slot dpa n : Nat) : State := (runSectors dpa n).foldl (fun st a => delClean st a slot) s

/-- Read a run of words at a consuming point: sector by sector, refetched where R26 allows, or DATUM. -/
def readChecked (mask : BitVec 24) (slot : Nat) : Nat → State → Nat → Nat → HomeRes (List Datum)
  | 0, s, _, _ => .ok [] s
  | fuel + 1, s, dpa, n =>
    if n == 0 then .ok [] s
    else
      let m := min n (16 - wordIn dpa)
      match homeReadChecked s dpa slot m mask with
      | .fail c s1 => .fail c s1
      | .ok ws s1 =>
        match readChecked mask slot fuel s1 (dpa + 4 * m) (n - m) with
        | .fail c s2 => .fail c s2
        | .ok vs s2 => .ok (ws ++ vs) s2

/-- Every sector of a run is present and may be written (R48, R55). -/
def writable (mask : BitVec 24) (slot : Nat) : Nat → State → Nat → Nat → HomeRes Unit
  | 0, s, _, _ => .ok () s
  | fuel + 1, s, dpa, n =>
    if n == 0 then .ok () s
    else
      let m := min n (16 - wordIn dpa)
      match homeSector s dpa slot mask with
      | .fail c s1 => .fail c s1
      | .ok _ s1 =>
        if readOnly s1 dpa then .fail 0x1A (teFail s1 dpa slot 0 0x1A)
        else writable mask slot fuel s1 (dpa + 4 * m) (n - m)

def writeRange (mask : BitVec 24) (slot : Nat) : Nat → State → Nat → List Datum → State
  | 0, s, _, _ => s
  | fuel + 1, s, dpa, ws =>
    if ws.isEmpty then s
    else
      let m := 16 - wordIn dpa
      match homeWrite s dpa slot (ws.take m) mask with
      | .fail _ s1 => writeRange mask slot fuel s1 (dpa + 4 * m) (ws.drop m)
      | .ok _ s1 => writeRange mask slot fuel s1 (dpa + 4 * m) (ws.drop m)

/-- Write a run of words, or nothing where any sector of it fails (R117). -/
def placeWords (s : State) (dpa slot : Nat) (ws : List Datum) (mask : BitVec 24) : HomeRes Unit :=
  match writable mask slot ws.length s dpa ws.length with
  | .fail c s1 => .fail c s1
  | .ok _ s1 => .ok () (writeRange mask slot ws.length s1 dpa ws)

/-- Sectors that a run of bytes touches (R120). -/
def sectorsOf (a bytes : Nat) : Nat := if bytes == 0 then 0 else (a + bytes - 1) / 64 - a / 64 + 1

/-! ## The atomic unit (Table 13.2) -/

/-- The value of one or two words (R243). -/
def wordsVal (ws : List Datum) : Nat := ofBytesLE (wordBytes ws)
def valWords (k v : Nat) : List Word := (List.range k).map fun i => w32 (v / 2 ^ (32 * i))

/-- The new words of an atomic, and whether they are written. -/
def atomicNew (op : AtomOp) (t : Tag) (old operand new : List Datum) : List Word × Bool :=
  let k := old.length
  let a := wordsVal old
  let b := wordsVal operand
  let w := 32 * k
  let sg := fun x : Nat => if t == .i32 then sgn w x else ((x % 2 ^ w : Nat) : Int)
  match op with
  | .and => (valWords k (a &&& b), true)
  | .or => (valWords k (a ||| b), true)
  | .xor => (valWords k (a ^^^ b), true)
  | .xch => (operand.map Datum.word, true)
  | .cas =>
    if old.map Datum.word == operand.map Datum.word then
      (new.map Datum.word, old.map Datum.word != new.map Datum.word)
    else (old.map Datum.word, false)
  | .add =>
    if t == .f32 then ([w32 (rndT fmtF32 .rne (sumF .rne [decodeF fmtF32 a, decodeF fmtF32 b]))], true)
    else (valWords k (a + b), true)
  | .min =>
    if t == .f32 then ([w32 (minNum fmtF32 a b)], true)
    else (valWords k (if sg a ≤ sg b then a else b), true)
  | .max =>
    if t == .f32 then ([w32 (maxNum fmtF32 a b)], true)
    else (valWords k (if sg a ≤ sg b then b else a), true)

/-- An atomic at the home slice, as one step: the old words, or the code of its refusal (R55, R297). -/
def homeAtomic (s : State) (dpa slot : Nat) (op : AtomOp) (t : Tag) (operand new : List Datum)
    (mask : BitVec 24) : HomeRes (List Datum) :=
  match homeSector s dpa slot mask with
  | .fail c s1 => .fail c s1
  | .ok _ s1 =>
    if readOnly s1 dpa then .fail 0x1A (teFail s1 dpa slot 0 0x1A)
    else
      match homeReadChecked s1 dpa slot operand.length mask with
      | .fail c s2 => .fail c s2
      | .ok old s2 =>
        let r := atomicNew op t old operand new
        if !r.2 then .ok old s2
        else
          match homeWrite s2 dpa slot (r.1.map mk) mask with
          | .fail c s3 => .fail c s3
          | .ok _ s3 => .ok old s3

/-! ## Counters -/

/-- LC_OWNER_j is valid for a partition (R119). -/
def lcOwned (s : State) (p j : Nat) : Bool :=
  let x := tabGet 0 s.lcOwner j
  x.getLsbD 4 && (x.extractLsb' 0 4).toNat == p

/-- R305 for a landing counter, and for a takeoff counter of a die. -/
def landingOk (s : State) (p i : Nat) : Bool := i < 16384 && lcOwned s p (i / 64)
def takeoffOk (s : State) (p d t : Nat) : Bool := t < 4096 && lcOwned s p (32 * d + t / 128)

def landing (s : State) (i : Nat) : Landing := tabGet ⟨0, 0⟩ s.landing i
def setLanding (s : State) (i : Nat) (x : Landing) : State := { s with landing := tabSet ⟨0, 0⟩ s.landing i x }

/-- The counter is reached (R306). -/
def reached (c h : Nat) : Bool := (c + 2 ^ 48 - h % 2 ^ 48) % 2 ^ 48 < 2 ^ 47

/-- A wait on a counter after a change of it to a value: it stays hit, whatever the counter does later (R306). -/
def Status.tested (tk : Bool) (i v : Nat) (x : Status) : Status :=
  match x with
  | .blocked (.counter tk' i' h d p lit hit) =>
    .blocked (.counter tk' i' h d p lit (hit || (tk == tk' && i == i' && reached v h)))
  | x => x

/-- Every wait of a core on a counter is tested after a change (R306). -/
def Core.tested (tk : Bool) (i v : Nat) (x : Core) : Core :=
  { x with threads := x.threads.map fun e => (e.1, { e.2 with status := e.2.status.tested tk i v }) }

/-! ## Gates that wait on a counter (R345) -/

/-- A version comes before another in the order of R355. -/
def olderVer (a b : Nat) : Bool := a != b && (b + 2 ^ 32 - a % 2 ^ 32) % 2 ^ 32 < 2 ^ 31

def gate (s : State) (d i : Nat) : GateSlot := tabGet GateSlot.zero (s.die d).gates i
def setGate (s : State) (d i : Nat) (g : GateSlot) : State :=
  let x := s.die d
  s.setDie d { x with gates := tabSet GateSlot.zero x.gates i g }


/-- Every gate slot of the module in use, with its die and index. -/
def allGates (s : State) : List (Nat × Nat × GateSlot) :=
  (s.dies.map fun d => d.2.gates.map fun g => (d.1, g.1, g.2)).flatten

def liveGate (g : GateSlot) : Bool := g.state == 1 || g.state == 2

/-- No gate of an older version of the group is ARMED or FIRING on the module (R345). -/
def olderDone (s : State) (g : GateSlot) (e : Gate) : Bool :=
  !(allGates s).any fun x => liveGate x.2.2 && x.2.2.part == g.part && !x.2.2.heldBack &&
    (x.2.2.gate.map fun y => y.group == e.group && olderVer y.ver e.ver).getD false

/-- What R345 asks of an ARMED gate holds now. -/
def gateMeets (s : State) (g : GateSlot) : Bool :=
  match g.gate with
  | none => false
  | some e => g.state == 1 && !g.heldBack && (!e.armEn || reached (landing s e.lc).count.toNat g.h) && olderDone s g e

/-- A test of the gates that `p` names: one that meets the conditions fires, whatever its counter does afterwards. -/
def testGates (s : State) (p : Gate → Bool) : State :=
  let f := fun g : GateSlot => if (g.gate.map p).getD false && gateMeets s g then { g with ready := true } else g
  { s with dies := s.dies.map fun d => (d.1, { d.2 with gates := d.2.gates.map fun g => (g.1, f g.2) }) }

/-- Adds to a landing counter's count, modulo 2^48, and tests the waits and the gates on it (R118, R306, R308, R345). -/
def addLanding (s : State) (i : Nat) (n : Int) : State :=
  let x := landing s i
  let v := wrap 48 ((x.count.toNat : Int) + n)
  testGates
    (setLanding { s with cores := s.cores.map fun e => (e.1, e.2.tested false i v) } i { x with count := BitVec.ofNat 48 v })
    fun e => e.armEn && e.lc == i

def takeoff (s : State) (d t : Nat) : BitVec 48 := tabGet 0 (s.die d).takeoff t
/-- Adds to a takeoff counter of a die, and tests the waits on it (R121, R306). -/
def addTakeoff (s : State) (d t n : Nat) : State :=
  let x := s.die d
  let v := tabGet 0 x.takeoff t + BitVec.ofNat 48 n
  ({ s with cores := s.cores.map fun e => (e.1, if e.1 / 64 == d then e.2.tested true t v.toNat else e.2) } : State).setDie d
    { x with takeoff := tabSet 0 x.takeoff t v }

/-! ## Probes (Table 9.3) -/

/-- The word of a probe, from a code, the home and scope fields, and the leaf if one was found. -/
def probeWord (code : BitVec 8) (home : Bool) (scope : Nat) (l : Option Leaf) : Word :=
  let cls := fun c : OrdClass => match c with | .so => 0 | .rc => 1 | .un => 2
  let f := match l with
    | none => 0
    | some l => l.size * 2 ^ 17 + cls l.cls * 2 ^ 15 + b2n l.host * 2 ^ 14 + b2n l.x * 2 ^ 13 + b2n l.at_ * 2 ^ 12 +
        b2n l.wr * 2 ^ 11 + b2n l.rd * 2 ^ 10
  w32 (code.toNat * 2 ^ 24 + b2n home * 2 ^ 23 + scope * 2 ^ 21 + f)

/-- Steps 7 to 11 for a probe: the code, and the leaf the walk found. -/
def probeLocal (s : State) (w : Place) (p va : Nat) (cls : Option OrdClass) : (BitVec 8 × Option Leaf) × State :=
  if !(s.part p).xlEnable then ((fcXlate, none), s)
  else
    match translate s w p va .load .page cls with
    | (.ok l, s1) => ((0, some l), s1)
    | (.error x, s1) =>
      if 10 ≤ x.step then ((x.code, cachedLeaf s1 w p va), s1) else ((x.code, none), s1)

/-! ## Requests of other modules (R71, R117) -/

/-- The unit that translates for requests that arrive from outside: cluster 0 and the walker of die 0 (DESIGN CHOICE,
log entry 25). -/
def inPlace : Place := ⟨none, 0, 0⟩

def fabKind : FabOp → AKind
  | .read _ _ | .probe => .load
  | .write _ | .sub _ _ _ | .signal _ => .store
  | .atomic _ _ _ _ _ => .atomic
  | .reduce _ _ _ _ _ _ _ _ _ _ => .atomic

/-- A request performed at this module as its home, translated where `w` stands. A counted write counts no more sectors
than its bytes touch here (R120). Signals and reduction chunks are the collective engine's. -/
def homeRequest (s : State) (w : Place) (r : FabReq) : FabReply × State :=
  let lcBad := match r.lc with
    | some i => r.cls == .un && !landingOk s r.part i
    | none => false
  let va := regionLocal s r.part r.region r.offset
  match r.op with
  | .probe =>
    let x := probeLocal s w r.part va (some r.cls)
    let host := x.1.2.any fun l => l.host
    (.probed (probeWord (if x.1.1 == 0 && host then fcProtect else x.1.1) true 0 x.1.2), x.2)
  | _ =>
    match translate s w r.part va (fabKind r.op) .page (some r.cls) with
    | (.error x, s1) => (.refused x.code (x.step == 8), s1)
    | (.ok l, s1) =>
      let dpa := leafAddr l va
      let mask := (s1.part r.part).l2Ways
      if l.host || lcBad then (.refused fcProtect false, s1)
      else
        match r.op with
        | .read n again =>
          match readRange mask l.slot n (if again then dropClean s1 l.slot dpa n else s1) dpa n with
          | .ok ws s2 => (.data ws (runClean s2 l.slot dpa n), s2)
          | .fail c s2 => (.refused c false, s2)
        | .write ws =>
          match placeWords s1 dpa l.slot ws mask with
          | .ok _ s2 =>
            (.ack, match r.lc.filter fun _ => r.cls == .un with
              | some i => addLanding s2 i (min r.count (sectorsOf dpa (4 * ws.length)) : Nat)
              | none => s2)
          | .fail c s2 => (.refused c false, s2)
        | .sub n w pc =>
          match homeMerge s1 dpa l.slot n w pc mask with
          | .ok _ s2 =>
            (.ack, match r.lc.filter fun _ => r.cls == .un with
              | some i => addLanding s2 i (min r.count (sectorsOf dpa n) : Nat)
              | none => s2)
          | .fail c s2 => (.refused c false, s2)
        | .atomic op t a b ret =>
          match homeAtomic s1 dpa l.slot op t a b mask with
          | .ok old s2 => (if ret then .data old true else .ack, s2)
          | .fail c s2 => (.refused c false, s2)
        | _ => (.refused fcProtect false, s1)

end Sys2Proof.Machine
end

