-- ==== Sys2Proof/Machine/Access.lean ====
section
/-! DEFINITION. Accesses of threads from issue to verdict: the L1 (R132 to R134), translation (R78 to R81, R86),
the home slice (R130), fills (R48), the pod, remote and host paths, replies (R26, R27) and failed posted writes
(R122). -/

namespace Sys2Proof.Machine

/-! ## Access records -/

def AccKind.check : AccKind → AKind
  | .store _ _ | .sub _ _ _ _ => .store
  | .atomic _ _ _ _ _ _ => .atomic
  | _ => .load

/-- Destination registers that an access fills: first register and count. -/
def AccKind.dsts : AccKind → Nat × Nat
  | .load d n _ _ _ _ => (d, (n + 3) / 4)
  | .atomic _ _ a _ (some d) _ => (d, a.length)
  | .probe d => (d, 1)
  | _ => (0, 0)

/-- Words that an access reads or writes. -/
def AccKind.words : AccKind → Nat
  | .load _ n _ _ _ _ => (n + 3) / 4
  | .store ws _ => ws.length
  | .atomic _ _ a _ _ _ => a.length
  | _ => 1

def AccKind.isLoad : AccKind → Bool
  | .load _ _ _ _ _ _ => true
  | _ => false

/-- A kind that writes its location. -/
def AccKind.writes : AccKind → Bool
  | .store _ _ | .sub _ _ _ _ | .atomic _ _ _ _ _ _ => true
  | _ => false

/-- A kind whose answer the L1 may take. -/
def AccKind.fetches : AccKind → Bool
  | .load _ _ _ _ _ _ | .pref => true
  | _ => false

/-- A PROBE fills a register later, but raises nothing then. -/
def AccKind.probes : AccKind → Bool
  | .probe _ => true
  | _ => false

/-- A write that its thread posts: a store, or a reduction without a result (R222, R300). -/
def AccKind.isPost : AccKind → Bool
  | .store _ _ | .sub _ _ _ _ => true
  | .atomic _ _ _ _ none _ => true
  | _ => false

def findAcc (s : State) (id : Nat) : Option Access := s.accesses.find? fun a => a.id == id
def putAcc (s : State) (a : Access) : State :=
  { s with accesses := s.accesses.map fun x => if x.id == a.id then a else x }
def dropAcc (s : State) (id : Nat) : State := { s with accesses := s.accesses.filter fun x => x.id != id }

/-- The thread of an access, while it is resident and still the same thread. -/
def accThread (s : State) (a : Access) : Option Thread := (s.thread a.core a.key).filter fun t => t.uid == a.uid

/-- An earlier access of the thread has no verdict yet. -/
def olderOpen (s : State) (a : Access) : Bool :=
  s.accesses.any fun b => b.uid == a.uid && b.id < a.id && b.before.isSome

/-- What an access does to its thread, at its place in program order: the thread takes `f`, and so does what its later
accesses keep of it. -/
def retire (s : State) (a : Access) (f : Thread → Thread) : State :=
  let s1 := { s with accesses := s.accesses.map fun b =>
    if b.uid == a.uid && a.id < b.id then { b with before := b.before.map f } else b }
  match accThread s1 a with
  | none => s1
  | some t => s1.setThread a.core a.key (f t)

/-- The verdict of an access is that it raises no fault (R404). -/
def settled (s : State) (a : Access) : State := putAcc s { a with before := none }

/-- A thread returned to where it was before an access: what came to it from outside since then stays. -/
def Thread.backTo (now old : Thread) : Thread :=
  { old with posted := now.posted, demotedUntil := now.demotedUntil, acquired := now.acquired }

/-- The thread issues its instruction again from the start. -/
def reissue (s : State) (a : Access) : State :=
  match accThread s a, a.before with
  | some t, some old => s.setThread a.core a.key { t.backTo old with status := .ready, since := s.clock }
  | _, _ => s

/-- A fault found where the access is translated: on this module it is the thread's own, behind a global address it
comes back as REMOTE_FAULT with the home's code (R71). -/
def accInfo (a : Access) (code : BitVec 8) : FInfo :=
  if a.dest.isSome then { fiAt fcRemote a.kind.check a.ea with detail := code } else fiAt code a.kind.check a.ea

/-- The destinations of a faulted access: empty, with the tags of R31 and no fill pending (R27, R89, R404), those of an
ATOM or CAS too (R297; DEDUCED, log entry 34). -/
def Access.emptied (a : Access) (t : Thread) : Thread :=
  match a.kind with
  | .load d n type _ _ _ => (t.emptyAll d (dataTags type ((n + 3) / 4))).leaveAll d ((n + 3) / 4)
  | .atomic _ type x _ (some d) _ => (t.emptyAll d (dataTags type x.length)).leaveAll d x.length
  | .probe d => (t.emptyAll d [.u32]).leaveAll d 1
  | _ => t

/-- An access faults: its thread is as it was at the instruction, has issued nothing since, and takes the fault
(R404). -/
def failNow (s : State) (a : Access) (i : FInfo) : State :=
  let s1 := { s with accesses := s.accesses.filter fun b =>
    !(b.uid == a.uid && a.id < b.id && (b.before.isSome || b.kind.probes)) }
  let s2 := dropAcc s1 a.id
  match accThread s2 a with
  | none => s2
  | some t => takeFault (s2.setThread a.core a.key (a.emptied (t.backTo (a.before.getD t)))) a.core a.key a.inst i

/-- A fault of an access, which waits for the verdicts of the thread's earlier accesses (R404). -/
def failWith (s : State) (a : Access) (i : FInfo) : State :=
  if olderOpen s a then putAcc s { a with stage := .failed i } else failNow s a i

def failAcc (s : State) (a : Access) (i : FInfo) : State := settleInst (failWith s a i) a.inst

/-! ## The L1 -/

/-- A sector as an access names it: space, address, key slot. -/
abbrev SectorName := Space × Nat × Nat

/-- The line holds what a name names, whichever of its sectors are valid. -/
def L1Line.holds (x : L1Line) (n : SectorName) : Bool := x.space == n.1 && x.addr == n.2.1 / 2 && x.slot == n.2.2

/-- The words of a sector that the L1 of a core holds. -/
def l1Find (s : State) (c : Nat) (n : SectorName) : Option (List Datum) :=
  ((s.core c).l1.find? fun x => x.holds n).bind fun x => tabFind x.secs (n.2.1 % 2)

/-- Replies on their way to a core for a sector are not installed: a write of the core came after their read. -/
def noInstall (s : State) (c : Nat) (n : SectorName) : State :=
  { s with accesses := s.accesses.map fun a =>
      if a.core == c && a.kind.fetches && a.sector == some n then { a with sector := none } else a }

/-- A line without one of its sectors; a line without any leaves the L1. -/
def L1Line.without (n : SectorName) (x : L1Line) : Option L1Line :=
  if x.holds n then
    let secs := tabDel x.secs (n.2.1 % 2)
    if secs.isEmpty then none else some { x with secs := secs }
  else some x

/-- A core's copy of a sector goes. -/
def l1Remove (s : State) (c : Nat) (n : SectorName) : State :=
  s.modCore c fun x => { x with l1 := x.l1.filterMap (L1Line.without n) }

/-- Discard a core's copy of a sector, and what is on its way. -/
def l1Drop (s : State) (c : Nat) (n : SectorName) : State := noInstall (l1Remove s c n) c n

/-- Change a core's copy of a sector (Table 5.1). -/
def l1Change (s : State) (c : Nat) (n : SectorName) (f : List Datum → List Datum) : State :=
  let g := fun y : L1Line =>
    if y.holds n then { y with secs := y.secs.map fun e => if e.1 == n.2.1 % 2 then (e.1, f e.2) else e } else y
  noInstall (s.modCore c fun x => { x with l1 := x.l1.map g }) c n

/-- Every RC and UN sector of a core's L1 is discarded, those on their way included: a reply that arrives later is
installed and discarded with the others (R133, R134, Table 5.5). SO sectors are never held. -/
def l1Acquire (s : State) (c : Nat) : State :=
  let s1 := s.modCore c fun x => { x with l1 := [] }
  { s1 with accesses := s1.accesses.map fun a =>
      if a.core == c && a.kind.fetches then { a with sector := none } else a }

def scopeNum : Scope → Nat
  | .th => 0 | .co => 1 | .cl => 2 | .de => 3 | .pd => 4 | .sy => 5

/-- The L1's part of an acquire at a scope (Table 5.2). -/
def acquireAt (s : State) (c : Nat) (sc : Scope) : State := if 2 ≤ scopeNum sc then l1Acquire s c else s

/-- Sets of an L1 of a split: 8 ways of 128-byte lines in what the scratchpad leaves of 512 KiB (R132). -/
def l1Sets (split : Nat) : Nat := (8 - split) * 64

/-- Two lines fall in one set of an L1 (log entry 26). -/
def sameL1Set (split : Nat) (a b : L1Line) : Bool :=
  let num := fun x : L1Line => match x.space with | .local => 0 | .host => 1 | .global => 2
  (Config.l1Set (num a) a.addr).toNat % l1Sets split == (Config.l1Set (num b) b.addr).toNat % l1Sets split

/-- A sector joins its line, which becomes the newest; a set keeps its eight newest lines (R132). -/
def l1Put (split : Nat) (l1 : List L1Line) (n : SectorName) (ws : List Datum) : List L1Line :=
  let old := match l1.find? fun x => x.holds n with | some x => x.secs | none => []
  let line : L1Line := ⟨n.1, n.2.1 / 2, n.2.2, tabPut old (n.2.1 % 2) ws⟩
  let u := line :: l1.filter fun x => !x.holds n
  if u.length ≤ 8 then u else keepFirst (sameL1Set split line) 8 u

/-- Install a sector, removing the lines at the listed positions. -/
def l1Install (s : State) (c : Nat) (n : SectorName) (ws : List Datum) (evict : List Nat) : State :=
  s.modCore c fun x =>
    let kept := (x.l1.zipIdx.filter fun e => !evict.contains e.2 || e.1.holds n).map Prod.fst
    { x with l1 := l1Put x.split kept n ws }

/-- Index of an access's first word in its sector. -/
def Access.wordIdx (a : Access) : Nat := a.ea.toNat / 4 % 16

/-- A write reaches the L1 as Table 5.1 gives: stores update a copy, or discard it for STX; atomics discard it. -/
def l1Write (s : State) (a : Access) : State :=
  match a.sector with
  | none => s
  | some n =>
    match a.kind with
    | .store ws false => l1Change s a.core n fun old => putWords old a.wordIdx ws
    | .sub b w pc false => l1Change s a.core n fun old =>
        putWords old a.wordIdx [mergeSub ((old[a.wordIdx]?).getD zeroDatum) (a.ea.toNat % 4) b w pc]
    | .load _ _ _ _ _ _ => s
    | _ => l1Drop s a.core n

/-! ## Loads: delivery -/

/-- The words of a load among the words of a reply, which is the sector where the L1 allocates it. -/
def Access.pick (a : Access) (ws : List Datum) : List Datum :=
  if ws.length == 16 then (ws.drop a.wordIdx).take a.kind.words else ws

/-- Byte or halfword of a word, extended (R219). -/
def loadPart (t : Tag) (bytes off : Nat) (w : Word) : Word :=
  let x := w.toNat / 2 ^ (8 * off) % 2 ^ (8 * bytes)
  if t == .i32 then i32 (sgn (8 * bytes) x) else w32 x

/-- Registers of a load take its words (R219), and a .nr load's predicate is set (R86). -/
def fillLoad (dst bytes : Nat) (type : Tag) (nrp : Nat) (ea : DWord) (ws : List Datum) (t : Thread) : Thread :=
  let t1 := if nrp == 7 then t else t.setPred nrp true
  match bytes, ws with
  | 1, [d] => t1.write dst type (loadPart type 1 (ea.toNat % 4) d.word)
  | 2, [d] => t1.write dst type (loadPart type 2 (ea.toNat % 4) d.word)
  | _, ws => t1.fillAll dst ((dataTags type ws.length).zip ws)

/-- A load whose words are checked is delivered; an acquire then acts on the L1. -/
def deliverLoad (s : State) (a : Access) (ws : List Datum) : State :=
  match a.kind with
  | .load dst bytes type _ acq nrp =>
    acquireAt (retire (dropAcc s a.id) a (fillLoad dst bytes type nrp a.ea (a.pick ws))) a.core acq
  | _ => s

/-- A .nr load whose step 8 fails: zeros, and its predicate cleared (R86). -/
def deliverAbsent (s : State) (a : Access) : State :=
  match a.kind with
  | .load dst bytes type _ acq nrp =>
    let f := fun t : Thread =>
      (t.fillAll dst ((dataTags type ((bytes + 3) / 4)).map fun g => (g, zeroDatum))).setPred nrp false
    acquireAt (retire (dropAcc s a.id) a f) a.core acq
  | _ => s

def AccKind.nrp : AccKind → Nat
  | .load _ _ _ _ _ n => n
  | _ => 7

/-! ## Host memory (R123 to R125, R299, R333) -/

/-- Plain PCIe sends only these atomics (R299). -/
def pcieAtomic (op : AtomOp) (t : Tag) : Bool :=
  match op with
  | .add => t == .i32 || t == .u32
  | .xch | .cas => true
  | _ => false

/-- An access to a host page leaves through the host interface. -/
def startHost (s : State) (a : Access) (addr : Nat) : State :=
  let b := { a with stage := .host addr }
  match a.kind with
  | .load _ _ _ _ _ _ =>
    let base := if a.sector.isSome then addr / 64 * 64 else addr
    hostRead (putAcc s b) base (if a.sector.isSome then 16 else a.kind.words) (.access a.id)
  | .pref =>
    match a.sector with
    | some _ => hostRead (putAcc s b) (addr / 64 * 64) 16 (.access a.id)
    | none => dropAcc s a.id
  | .store ws _ => posted b (wordBytes ws)
  | .sub n w _ _ => posted b (bytesLE n w.toNat)
  | .atomic op t x y _ _ =>
    let s1 := match a.sector with
      | some n => l1Drop s a.core n
      | none => s
    if s.cxl then hostRead (putAcc s1 b) addr x.length (.access a.id)
    else if pcieAtomic op t then hostAtomic (putAcc s1 b) addr op x y (.access a.id)
    else failWith s a (fiAt fcHostUr .atomic a.ea)
  | .probe _ | .zeroRead | .cinv | .cwb => s
where
  /-- A posted write: with CXL it is performed on its line; in plain PCIe mode an RC or SO write stays until a
  zero-length read has flushed it (R333). -/
  posted (b : Access) (bs : List Byte) : State :=
    let s1 := l1Write (hostWrite s addr bs a.cls (if a.cls == .un then a.leaf.map fun l => (a.part, l) else none)) a
    if s.cxl || a.cls == .un then dropAcc s1 a.id else putAcc s1 { b with before := none }

/-! ## After translation -/

/-- Both sectors of the 128-byte line are discarded from the issuing core's L1 (R140). -/
def l1DropLine (s : State) (c : Nat) (n : SectorName) : State :=
  l1Drop (l1Drop s c (n.1, n.2.1 / 2 * 2, n.2.2)) c (n.1, n.2.1 / 2 * 2 + 1, n.2.2)

/-- A load served from the L1. A mismatch in the clean copy is refetched: the L1's copy is discarded, and the L2 serves
it, refilled if its own copy is clean; a dirty copy of the L2 serves it as it is (R26, Table 1.8; DESIGN CHOICE, log
entry 14). -/
def hitL1 (s : State) (a : Access) (n : SectorName) (ws : List Datum) : State :=
  if (a.pick ws).all Datum.okay then deliverLoad s a ws
  else
    let s1 := l1Remove s a.core n
    let s2 := match a.place with
      | some (dpa, slot) => delClean s1 dpa slot
      | none => s1
    putAcc s2 { a with refetched := true, stage := .slice }

/-- A posted write that the host interface has accepted (R125); in plain PCIe mode only a zero-length read shows that
it is performed (R333). -/
def hostPost (a : Access) : Bool :=
  match a.kind, a.stage with
  | .store _ _, .host _ => true
  | .sub _ _ _ _, .host _ => true
  | _, _ => false

/-- An access that has been performed: its words have been read, or the host interface has accepted it (R320). -/
def Access.performed (b : Access) : Bool :=
  match b.stage with
  | .reply _ _ | .probed _ => true
  | _ => hostPost b

/-- An access that is, or may turn out to be, of class SO. -/
def Access.maybeSo (b : Access) : Bool := b.stage == .walk || b.cls == .so

/-- An access that has left the core's own queues: its words are being fetched, or have been read. -/
def Access.underway (b : Access) : Bool :=
  match b.stage with
  | .fill | .pod _ _ | .remote _ | .host _ | .reply _ _ => true
  | .walk | .slice | .hold _ | .probed _ | .failed _ => false

/-- Another load or prefetch of the core is bringing the sector of a load: a core has one miss for a sector, that of an
earlier access, or of a later one that is under way. -/
def missAhead (s : State) (a : Access) : Bool :=
  a.kind.fetches && a.sector.isSome && s.accesses.any fun b =>
    b.id != a.id && (b.id < a.id || b.underway) && b.core == a.core && b.kind.fetches && b.sector == a.sector

/-- Two accesses name the same sector: by its home, or as the L1 names it. -/
def sameSector (a b : Access) : Bool :=
  (match a.place, b.place with | some x, some y => x.1 / 64 == y.1 / 64 | _, _ => false) ||
  a.sector.isSome && a.sector == b.sector

/-- An earlier write of the core to a load's sector has not been performed: the core's own writes are seen in the order
in which they issued (R134, R322). -/
def writeAhead (s : State) (a : Access) : Bool :=
  a.kind.fetches && s.accesses.any fun b =>
    b.id < a.id && b.core == a.core && b.kind.writes && !b.performed && sameSector a b

/-- Where an access stands behind earlier ones of its thread, wherever its home: behind those that may name the same
bytes and are not yet translated (R325), behind an acquire (R322), a write behind those without a verdict (R404), an SO
access behind SO accesses, acquires and releases (R320); and a load behind the core's miss for its sector and the core's
writes to it. -/
def behind (s : State) (a : Access) : Bool :=
  missAhead s a || writeAhead s a ||
  s.accesses.any fun b =>
    b.id < a.id && b.uid == a.uid &&
    (b.stage == .walk && b.kind != .pref || b.acq || (a.kind.writes && b.before.isSome) ||
      (a.cls == .so && !b.performed && (b.cls == .so || b.rel)))

/-- Lanes of an atomic, and of a store to an SO page, act in ascending order (R224, R298), also where some of the bundle's
lanes had to wait. -/
def laneAhead (s : State) (a : Access) : Bool :=
  a.kind.writes && (a.cls == .so || !(a.kind.isPost && a.kind.check == .store)) &&
  s.accesses.any fun b => b.id < a.id && (b.inst == a.inst || b.bundle == a.bundle) && !b.performed

/-- An atomic in CXL mode holds the host line exclusive (R124). -/
def lineHeld (s : State) (addr : Nat) : Bool :=
  s.cxl && s.accesses.any fun b => match b.kind, b.stage with
    | .atomic _ _ _ _ _ _, .host x => x / 64 == addr / 64
    | _, _ => false

/-- Bytes of host memory touch a line that an atomic holds (R124, R330). -/
def linesHeld (s : State) (addr bytes : Nat) : Bool :=
  (List.range ((addr % 64 + bytes + 63) / 64)).any fun i => lineHeld s (64 * (addr / 64 + i))

/-- An access to host memory waits at the host interface: behind earlier ones of its thread, and for a line that is
held. -/
def hostHolds (s : State) (a : Access) (addr : Nat) : Bool :=
  lineHeld s addr || behind s a || laneAhead s a ||
  s.accesses.any fun b => b.id < a.id && b.uid == a.uid && match b.stage with
    | .hold _ => true
    | _ => false

/-- A load of host data: from the L1, where a mismatch is read again over the host link (Table 1.8), else from the
host. -/
def loadHost (s : State) (a : Access) (addr : Nat) : State :=
  match a.sector.bind fun n => (l1Find s a.core n).map fun ws => (n, ws) with
  | some (n, ws) =>
    if (a.pick ws).all Datum.okay then deliverLoad s a ws
    else startHost (l1Remove s a.core n) { a with refetched := true } addr
  | none => startHost s a addr

/-- An access of host memory leaves, unless it has to wait. -/
def toHost (s : State) (a : Access) (addr : Nat) : State :=
  if hostHolds s a addr then putAcc s { a with stage := .hold addr }
  else if a.kind.isLoad then loadHost s a addr
  else startHost s a addr

/-- An access whose leaf is known and permits it goes on. -/
def mapped (s : State) (a : Access) (l : Leaf) : State :=
  let addr := leafAddr l a.lva
  if l.host && a.dest.isSome then
    match a.kind with
    | .probe _ => putAcc s { a with stage := .probed (probeWord fcProtect true 0 (some l)) }
    | .pref => dropAcc s a.id
    | _ => failWith s a (accInfo a fcProtect)
  else
    let name : SectorName := (if l.host then .host else .local, addr / 64, l.slot)
    let ldx := match a.kind with | .load _ _ _ x _ _ => x | _ => false
    let a1 := { a with
      stage := .slice, cls := l.cls, leaf := some (l.vbase, l.size), place := if l.host then none else some (addr, l.slot)
      sector := if ldx || l.cls == .so then none else some name }
    match a.kind with
    | .probe _ => putAcc s { a with stage := .probed (probeWord 0 a.dest.isSome 0 (some l)) }
    | .cinv =>
      let s1 := l1DropLine s a.core name
      if l.host then dropAcc s1 a.id else putAcc s1 { a1 with before := none, sector := none, stage := .slice }
    | .cwb => if l.host then dropAcc s a.id else putAcc s { a1 with before := none, sector := none, stage := .slice }
    | _ =>
      if l.host then toHost s a1 addr
      else
        match (a1.sector.filter fun _ => a.kind.isLoad && !behind s a1).bind fun n =>
            (l1Find s a.core n).map fun ws => (n, ws) with
        | some (n, ws) => hitL1 s a1 n ws
        | none => putAcc s { a1 with stage := .slice }

/-- An access whose translation fails on this module (Table 3.5, R86, R226). -/
def unmapped (s : State) (a : Access) (x : XFail) (l : Option Leaf) : State :=
  match a.kind with
  | .pref => dropAcc s a.id
  | .probe _ => putAcc s { a with stage := .probed (probeWord x.code a.dest.isSome 0 l) }
  | k =>
    if x.step == 8 && k.nrp != 7 then deliverAbsent s a
    else failWith s a (if a.dest.isSome then accInfo a x.code else fiX x k.check a.ea)

/-! ## Table walks (R80) -/


/-- A lane of the same instruction whose address lies in the page that the walk found: one lookup serves both. -/
def sharesPage (a : Access) (r : Except XFail Leaf) (b : Access) : Bool :=
  b.stage == .walk && b.inst == a.inst && b.part == a.part &&
  match r with
  | .ok l => leafCovers l a.part b.lva
  | .error _ => false

/-- Class that a request carries to its home (R71). -/
def Access.asked (a : Access) : Option OrdClass := a.dest.map GDest.cls

/-- An atomic whose release still has to wait issues again, now that its translation is known (R297). -/
def AccKind.gated : AccKind → Bool
  | .atomic _ _ _ _ _ sc => 2 ≤ scopeNum sc
  | _ => false

/-- One access receives the result of the walk it waits for. -/
def walked (r : Except XFail Leaf) (s : State) (a : Access) : State :=
  match r with
  | .error x => unmapped s a x none
  | .ok l =>
    let s1 := cacheLeaf s (some a.core) (a.core / 4) l
    match leafFail s1 a.part l a.kind.check a.order a.asked with
    | some x => unmapped s1 a x (some l)
    | none => if a.holds then reissue (dropAcc s1 a.id) a else mapped s1 a l

/-- The requests of engines, fetches and homes that joined the walk of a granule receive its result, and a leaf is cached
where they stand. -/
def walkServes (s : State) (d p page : Nat) (r : Except XFail Leaf) : State :=
  let mine := fun x : WalkReq => x.place.die == d && x.part == p && x.page == page && x.result.isNone
  let s1 := { s with walks := s.walks.map fun x => if mine x then { x with result := some r } else x }
  match r with
  | .ok l => (s.walks.filter mine).foldl (fun st x => cacheLeaf st x.place.core x.place.cluster l) s1
  | .error _ => s1

/-- The walk of an address's granule ends on a die: all that joined it go on, and so do the accesses that `more` names.
The batches of the instructions concerned follow. -/
def granuleEnds (s : State) (d p va : Nat) (more : Except XFail Leaf → Access → Bool) : State :=
  let r := if (s.part p).xlEnable then walk s d p va else (.error ⟨fcXlate, 7, false, va / 4096 * 4096⟩, s)
  let js := s.accesses.filter fun b =>
    (b.stage == .walk && b.core / 64 == d && b.part == p && b.lva / 4096 == va / 4096) || more r.1 b
  let t := js.foldl (walked r.1) (walkServes r.2 d p (va / 4096) r.1)
  ((js.map Access.inst).eraseDups).foldl settleInst t

/-- A walk ends: every access that joined it goes on, and every lane of its instruction on the same page (R80). -/
def walkEnds (s : State) (a : Access) : State := granuleEnds s (a.core / 64) a.part a.lva (sharesPage a)

/-- Walks start in arrival order, at most 64 at a time on a die (R80): the distinct granules ahead of this one. -/
def walkReady (s : State) (a : Access) : Bool := (walksAhead s (a.core / 64) a.id).length < 64

/-! ## The home slice -/

/-- Requests of a core to a slice are in issue order (R130), behind what they have to stand behind. Accesses to a frame
that is being bound wait (R57). -/
def sliceReady (s : State) (a : Access) (dpa : Nat) : Bool :=
  !binding s dpa && !behind s a && !laneAhead s a &&
  s.accesses.all fun b =>
    !(b.id < a.id && b.core == a.core && b.stage == .slice &&
      match b.place with | some (q, _) => dieOf q == dieOf dpa && sliceOf q == sliceOf dpa | none => false)

/-- CINV and CWB at the L2 (Table 5.4): dirty sectors of the line are sealed; CINV then removes them. -/
def lineMaint (s : State) (dpa slot : Nat) (remove : Bool) : State :=
  let q := dpa / 128 * 128
  if !(tabFind s.l2Tags (lineOf q)).any fun x => x.slot == slot then s
  else
    let s1 := if lineDirty s (lineOf q) then sealTile s q slot else s
    if remove then delLine s1 (lineOf q) else s1

/-- An access misses in the L2: it joins the fill of its tile (R47, R131). -/
def missL2 (s : State) (a : Access) (dpa slot : Nat) : State :=
  beginFill (putAcc s { a with stage := .fill }) (dpa / 1024) slot (s.part a.part).l2Ways

/-- A local write is refused in a read-only group (R55). -/
def refuseWrite (s : State) (a : Access) (dpa slot : Nat) : State :=
  failAcc (teFail s dpa slot 0 0x1A) a (accInfo a fcVersion)

/-- The access is performed at its slice, or misses there (R130). A load looks in its L1 first. -/
def atSlice (s : State) (a : Access) (dpa slot : Nat) : State :=
  match a.kind, l2Hit s dpa slot with
  | .cinv, _ => dropAcc (lineMaint s dpa slot true) a.id
  | .cwb, _ => dropAcc (lineMaint s dpa slot false) a.id
  | .load _ _ _ _ _ _, hit =>
    match a.sector.bind fun n => (l1Find s a.core n).map fun ws => (n, ws) with
    | some (n, ws) => hitL1 s a n ws
    | none =>
      match hit with
      | none => missL2 s a dpa slot
      | some x =>
        let ws := if a.sector.isSome then x.words else sectorWords x dpa a.kind.words
        putAcc s { a with stage := .reply ws (!x.dirty) }
  | _, none => missL2 s a dpa slot
  | .pref, some x => if a.sector.isSome then putAcc s { a with stage := .reply x.words (!x.dirty) } else dropAcc s a.id
  | .store ws _, some x =>
    if readOnly s dpa then refuseWrite s a dpa slot else dropAcc (l1Write (storeSector s dpa x ws) a) a.id
  | .sub n w pc _, some x =>
    if readOnly s dpa then refuseWrite s a dpa slot
    else
      let old := ((sectorWords x dpa 1).head?).getD zeroDatum
      dropAcc (l1Write (storeSector s dpa x [mergeSub old (dpa % 4) n w pc]) a) a.id
  | .atomic op t b c dst _, some x =>
    let old := sectorWords x dpa b.length
    if readOnly s dpa then refuseWrite s a dpa slot
    else if !old.all Datum.okay then
      if x.dirty || a.refetched then failAcc s a (accInfo a fcDatum)
      else missL2 (delSector s dpa) { a with refetched := true } dpa slot
    else
      let r := atomicNew op t old b c
      let s1 := l1Write (if r.2 then storeSector s dpa x (r.1.map mk) else s) a
      match dst with
      | some _ => putAcc s1 { a with stage := .reply old true }
      | none => dropAcc s1 a.id
  | .probe _, _ => s
  | .zeroRead, _ => s

/-! ## Fills -/

/-- A fill fails: every requester that joined it receives its code; a prefetch records nothing (R49). -/
def deliverFail (s : State) (tile slot : Nat) (code : BitVec 8) : State :=
  let js := s.accesses.filter (waitsFill tile slot)
  let s1 := { s with fills := s.fills.filter fun f => !(f.tile == tile && f.slot == slot) }
  let s2 := js.foldl (fun st b =>
    match b.kind with
    | .pref => dropAcc st b.id
    | _ => failWith st b (accInfo b code)) s1
  ((js.map Access.inst).eraseDups).foldl settleInst s2

/-- The oldest fill of a tile ends, into a way that its mask permits (R47, R48, R131); one that has failed with a seal of
the tile is delivered as failed (R49, R51, R53). -/
def fillEnds (s : State) (f : Fill) (way : Nat) : State :=
  match f.failed with
  | some code => deliverFail s f.tile f.slot code
  | none =>
    match fillTile s (1024 * f.tile) f.slot f.mask way with
    | .ok s1 => s1
    | .fail s1 code => deliverFail s1 f.tile f.slot code

/-! ## Replies -/

/-- A load's reply whose words mismatch, and which may be refetched (R26). -/
def mustRefetch (a : Access) : Bool :=
  match a.stage with
  | .reply ws clean => a.kind.isLoad && !(a.pick ws).all Datum.okay && clean && !a.refetched
  | _ => false

/-- A reply reaches its register (R219), or is discarded with its thread (R364). -/
def loadReply (s : State) (a : Access) (ws : List Datum) (evict : List Nat) : State :=
  let inst := fun st : State => match a.sector with
    | some n => if ws.length == 16 then l1Install st a.core n ws evict else st
    | none => st
  match a.kind with
  | .pref => inst (dropAcc s a.id)
  | _ =>
    match accThread s a with
    | none => dropAcc s a.id
    | some _ =>
      if (a.pick ws).all Datum.okay then deliverLoad (inst s) a ws
      else failAcc s a (fiAt fcDatum .load a.ea)

/-- A PROBE's word fills its register (R226). -/
def probeReply (s : State) (a : Access) (w : Word) : State :=
  match a.kind with
  | .probe dst => retire (dropAcc s a.id) a fun t => t.write dst .u32 w
  | _ => s

/-- The old value of an ATOM or CAS reaches its registers, and the acquire acts (R297). -/
def atomReply (s : State) (a : Access) (ws : List Datum) : State :=
  match a.kind with
  | .atomic _ t _ _ (some d) sc =>
    match accThread s a with
    | none => dropAcc s a.id
    | some _ =>
      acquireAt (retire (dropAcc (l1Write s a) a.id) a fun u => u.fillAll d ((dataTags t ws.length).zip ws)) a.core sc
  | _ => s

/-! ## Failed posted writes (R122) -/

def addPosted (p : Posted) (t : Thread) : Thread := { t with posted := t.posted ++ [p] }

def onUid (uid : Nat) (f : Thread → Thread) (ts : Tab Thread) : Tab Thread :=
  ts.map fun e => if e.2.uid == uid then (e.1, f e.2) else e

/-- A thread wherever it is, resident or saved. -/
def modUid (s : State) (uid : Nat) (f : Thread → Thread) : State :=
  let onSaved := fun g : TopGang => match g.state with
    | .saved ctx b n => { g with state := .saved (ctx.map fun x => { x with threads := onUid uid f x.threads }) b n }
    | _ => g
  { s with cores := s.cores.map fun e => (e.1, { e.2 with threads := onUid uid f e.2.threads })
           launches := s.launches.map fun e => (e.1, { e.2 with gangs := e.2.gangs.map onSaved }) }

def hasUid (s : State) (uid : Nat) : Bool :=
  (s.cores.any fun e => e.2.threads.any fun t => t.2.uid == uid) ||
  s.launches.any fun e => e.2.gangs.any fun g => match g.state with
    | .saved ctx _ _ => ctx.any fun x => x.threads.any fun t => t.2.uid == uid
    | _ => false

/-- A posted write has failed: its thread keeps it for its next reporting release; an ended thread's is recorded
against the launch (R122, R364). -/
def postFail (s : State) (a : Access) (code detail : BitVec 8) : State :=
  let s1 := dropAcc s a.id
  if hasUid s1 a.uid then modUid s1 a.uid (addPosted ⟨a.ea, code, detail, a.kind.check.num⟩)
  else pushBatch s1 a.part [launchRec a.core a.seq code detail a.kind.check.num a.ea]

/-! ## Answers from a pod or remote home, and from the host -/

/-- The answer of a home to an access (R71, R86, R117, R226). -/
def fabAnswer (s : State) (a : Access) (r : FabReply) : State :=
  match r with
  | .data ws clean => putAcc (if a.kind.isLoad then s else l1Write s a) { a with stage := .reply ws clean }
  | .probed w => putAcc s { a with stage := .probed (w ||| w32 (2 ^ 21 * (match a.stage with
      | .pod _ _ => 1 | .remote _ => 2 | _ => 0))) }
  | .ack => dropAcc (l1Write s a) a.id
  | .refused code step8 =>
    match a.kind with
    | .pref => dropAcc s a.id
    | k =>
      if k.isPost then postFail s a fcRemote code
      else if step8 && k.nrp != 7 then deliverAbsent s a
      else failAcc s a { fiAt fcRemote k.check a.ea with detail := code }

/-- The peer is dead, or no answer came in time (R103, R116, R226). -/
def fabDead (s : State) (a : Access) : State :=
  match a.kind with
  | .pref => dropAcc s a.id
  | .probe _ => putAcc s { a with stage := .probed (probeWord fcPeerDead false (match a.stage with
      | .pod _ _ => 1 | _ => 2) none) }
  | k => if k.isPost then postFail s a fcPeerDead 0 else failAcc s a (fiAt fcPeerDead k.check a.ea)

/-- The code of an error completion (R125). -/
def hostCode : HostStatus → BitVec 8
  | .unsupported => fcHostUr
  | _ => fcHostCa

/-- The thread of a zero-length read waits at the release that sent it. -/
def atRelease (s : State) (a : Access) : Bool :=
  (accThread s a).any fun t => match t.status with | .blocked (.drain _) => true | _ => false

/-- A zero-length read has ended: the posted writes before it are done with, and an error faults the release that waits
for it (R125, R333). That of a context save or of a gang's end reports nothing (R303). -/
def zeroAnswer (s : State) (a : Access) (st : HostStatus) : State :=
  let s1 := { s with accesses := s.accesses.filter fun b =>
    b.id != a.id && !(b.uid == a.uid && b.id < a.id && b.kind.isPost && match b.stage with
      | .host _ => true | _ => false) }
  if st != .success && atRelease s a then failAcc s1 a (fi (hostCode st)) else s1

/-- A completion from the host: codes are generated (R29); errors fault (R125). -/
def hostAnswer (s : State) (a : Access) (st : HostStatus) (data : List Word) : State :=
  match st, a.kind with
  | _, .zeroRead => zeroAnswer s a st
  | .success, .atomic op t b c dst _ =>
    let old := data.map mk
    let r := atomicNew op t old b c
    let s1 := match a.stage with
      | .host addr => if s.cxl && r.2 then hostWrite s addr (wordBytes (r.1.map mk)) a.cls none else s
      | _ => s
    match dst with
    | some _ => putAcc (l1Write s1 a) { a with stage := .reply old true }
    | none => dropAcc (l1Write s1 a) a.id
  | .success, _ => putAcc s { a with stage := .reply (data.map mk) true }
  | _, .pref => dropAcc s a.id
  | st, k => failAcc s a (fiAt (hostCode st) k.check a.ea)

end Sys2Proof.Machine
end

