-- ==== Sys2Proof/Machine/MemOps.lean ====
section
/-! DEFINITION. One lane of a memory instruction at issue: effective addresses (R195), alignment, scratchpad
(R136), releases (R322, R302, R303, R333), and the start of an access (R78, R107, R109, R320, R325). -/

namespace Sys2Proof.Machine

/-! ## Addresses and bundles -/

/-- The effective address (R195). -/
def effAddr (f : FmtM) (base : DWord) (idx : Word) : DWord :=
  base + w64 (wrap 64 ((sgn 8 f.disp.toNat + sgn 32 idx.toNat) * mBytes f))
/-- The scratchpad offset of LDS and STS (R195), modulo 2^32. -/
def effOffset (f : FmtM) (base idx : Word) : Word :=
  base + w32 (wrap 32 ((sgn 8 f.disp.toNat + sgn 32 idx.toNat) * mBytes f))

/-- A memory instruction run by the bundle in issue: one instance, whose faults are batched together (R88). -/
def runMem (hold : Bool) (eff : Nat → State → Nat → Thread → LaneEff) (s : State) :
    Host.Outcome State Fault Refusal :=
  match s.issue.keys with
  | [] => .fault .noBundle
  | ks =>
    let n := s.fresh
    let r := runLanes hold s.issue.core (eff n.1) ks n.2
    happens s (settleInst (takeLanes (markBundle hold s.issue.core n.1 ks r.1) s.issue.core n.1 r.2) n.1)

/-- The top-level gang of a thread. -/
def topOf (s : State) (c k : Nat) : Nat :=
  match tabFind (s.core c).rows (k / 32) with
  | some r => r.top
  | none => 0

/-- The core gang of a thread, with its scratchpad allocation (R136, R383). -/
def gangOf (s : State) (c k : Nat) : Option CoreGang :=
  match tabFind (s.core c).rows (k / 32) with
  | some r => (s.core c).gangs.find? fun g => g.seq == r.seq && g.top == r.top && g.rows.contains (k / 32)
  | none => none

/-- Absolute scratchpad address of bytes of a thread's allocation; none beyond it (R136). -/
def scratchAt (s : State) (c k off bytes : Nat) : Option Nat :=
  match gangOf s c k with
  | some g => if off + bytes ≤ g.size then some (g.base + off) else none
  | none => none

def scratchWord (x : Core) (a : Nat) : Datum := tabGet zeroDatum x.scratch (a / 4)
def scratchWords (x : Core) (a n : Nat) : List Datum := (List.range n).map fun i => scratchWord x (a + 4 * i)
def putScratch (x : Core) (a : Nat) : List Datum → Core
  | [] => x
  | d :: ds => putScratch { x with scratch := tabSet zeroDatum x.scratch (a / 4) d } (a + 4) ds

/-! ## Releases (Table 5.2, R303) -/

/-- Accesses that a release of their thread waits for: all but prefetches, and counted writes, which have left the
core. Posted host writes are waited for at .sy, through a zero-length read (R333). -/
def holdsRelease (a : Access) : Bool :=
  match a.kind, a.stage with
  | .pref, _ => false
  | k, .pod _ _ => !(k.isPost && a.cls == .un)
  | k, .remote _ => !(k.isPost && a.cls == .un)
  | .store _ _, .host _ => false
  | .sub _ _ _ _, .host _ => false
  | _, _ => true

/-- A thread's release need not wait any longer. -/
def released (s : State) (uid : Nat) : Bool := !s.accesses.any fun a => a.uid == uid && holdsRelease a

/-- One zero-length read for each thread that has posted host writes among those that meet `p`, unless it has one under
way (R333). -/
def flushPosts (p : Access → Bool) (s : State) : State :=
  (((s.accesses.filter fun a => p a && hostPost a).map Access.uid).eraseDups).foldl flushOf s
where
  flushOf (s : State) (u : Nat) : State :=
    match s.accesses.find? fun a => a.uid == u && hostPost a with
    | some a =>
      if s.accesses.any fun b => b.uid == u && b.kind == .zeroRead then s
      else
        let n := s.fresh
        let b := { a with id := n.1, kind := .zeroRead, before := none, rel := false, stage := .host 0 }
        hostRead { n.2 with accesses := n.2.accesses ++ [b] } 0 0 (.access n.1)
    | none => s

inductive Rel where
  | ready (s : State)
  | wait (b : Block) (s : State)
  | report (i : FInfo) (s : State)

/-- The oldest failed posted write of a thread, as a reporting release raises it (R303). -/
def reportPost (p : Posted) : FInfo := ⟨p.code, p.detail, p.access, some p.addr, true, none, false⟩

/-- The zero-length read of a release at .sy (R333). -/
def zeroAcc (s : State) (c k : Nat) (t : Thread) : Access :=
  { id := s.nextId, core := c, key := k, uid := t.uid, seq := t.seq, top := topOf s c k, inst := s.nextId
    bundle := s.nextId, part := launchPart s t.seq, ea := 0, lva := 0, order := .page, kind := .zeroRead, cls := .so, dest := none
    before := none, holds := false, acq := false, rel := false, refetched := false, sector := none, place := none
    leaf := none, stage := .host 0 }

/-- A release of a thread at a scope; `reports` marks the reporting releases at .pd and .sy. -/
def release (s : State) (c k : Nat) (t : Thread) (sc : Scope) (reports : Bool) : Rel :=
  if scopeNum sc < 2 then .ready s
  else if !released s t.uid then .wait (.drain sc) s
  else if sc == .sy && s.accesses.any fun a => a.uid == t.uid && hostPost a then
    .wait (.drain sc)
      (hostRead { s with accesses := s.accesses ++ [zeroAcc s c k t], nextId := s.nextId + 1 } 0 0 (.access s.nextId))
  else
    match t.posted with
    | [] => .ready s
    | p :: ps =>
      if reports && 4 ≤ scopeNum sc then .report (reportPost p) (s.setThread c k { t with posted := ps })
      else .ready s

/-- A release, then the effect. -/
def withRelease (s : State) (c k : Nat) (t : Thread) (sc : Scope) (reports : Bool) (f : State → LaneEff) : LaneEff :=
  match release s c k t sc reports with
  | .ready s1 => f s1
  | .wait b s1 => .block b s1
  | .report i s1 => .fault i s1

/-! ## The start of an access -/

/-- A new access of a lane; it may still fault. -/
def newAcc (s : State) (c k : Nat) (t : Thread) (inst : Nat) (ea : DWord) (o : OrderReq) (kind : AccKind) : Access :=
  { id := s.nextId, core := c, key := k, uid := t.uid, seq := t.seq, top := topOf s c k, inst := inst
    bundle := t.bundle.getD inst, part := launchPart s t.seq, ea := ea, lva := field ea.toNat 56 0, order := o, kind := kind, cls := .so, dest := none
    before := some t, holds := false, acq := false, rel := false, refetched := false, sector := none, place := none
    leaf := none, stage := .walk }

/-- The access joins those in flight, and its thread goes on. -/
def enqueue (s : State) (a : Access) (lit : Bool) : State :=
  ({ s with accesses := s.accesses ++ [a], nextId := s.nextId + 1 } : State).modThread a.core a.key fun t =>
    t.advance s.clock lit

/-- An atomic whose page has to be walked before its release: the walk joins the accesses in flight, the thread waits
for it, and the instruction then issues again (R297). -/
def awaitWalk (s : State) (a : Access) : LaneEff :=
  .block (.access a.id) { s with accesses := s.accesses ++ [{ a with holds := true }], nextId := s.nextId + 1 }

/-- A leaf that is cached and permits the access (R79, R81). -/
def readyLeaf (s : State) (a : Access) : Option Leaf :=
  if !(s.part a.part).xlEnable then none
  else
    (cachedLeaf s (corePlace a.core) a.part a.lva).filter fun l =>
      (leafFail s a.part l a.kind.check a.order a.asked).isNone

/-- A local access, or one whose home is this module: translated now, or waiting for a walk. -/
def startLocal (s : State) (a : Access) (lit : Bool) : State :=
  let s1 := enqueue s a lit
  match readyLeaf s a with
  | some l => mapped s1 a l
  | none => s1

def fabOpOf : AccKind → Nat → FabOp
  | .store ws _, _ => .write ws
  | .sub n w pc _, _ => .sub n w pc
  | .atomic op t b c dst _, _ => .atomic op t b c dst.isSome
  | .probe _, _ => .probe
  | _, n => .read n false

/-- The request of an access to a pod or remote home: a load that the L1 allocates reads its sector. A thread's write
names no landing counter. -/
def fabReqOf (a : Access) (d : GDest) : FabReq :=
  let whole := a.sector.isSome && a.kind.fetches
  { part := a.part, region := d.region, offset := if whole then d.offset / 64 * 64 else d.offset, cls := d.cls
    op := match fabOpOf a.kind (if whole then 16 else a.kind.words) with
      | .read n _ => .read n a.refetched
      | x => x
    lc := none, count := 0, keygen := 0 }

/-- Sends an access to its home. -/
def sendAcc (s : State) (a : Access) (d : GDest) : State :=
  match d.dest with
  | .pod t =>
    podSend (putAcc s { a with stage := .pod t (s.peer t).nextSeq }) t (fabReqOf a d) (.access a.id) none
  | .remote hid _ => remoteSend (putAcc s { a with stage := .remote (freeRid s) }) hid d.route (fabReqOf a d) (.access a.id)
  | _ => s

/-- The homes off the module that an access reaches. -/
def homesOf (s : State) (d : GDest) : List Dest :=
  match d.dest with
  | .multicast g => (mcPeers s g).map Dest.pod
  | .self => []
  | x => [x]

/-- Where an access at pod or remote scope stands until it is acknowledged or answered. -/
def Access.awayAt (b : Access) : Option Dest :=
  match b.stage, b.dest with
  | .pod p _, _ => some (.pod p)
  | .remote _, some d => some d.dest
  | _, _ => none

/-- An earlier access that holds one to a global address back until it is acknowledged: a write of the core, or of the
thread an access of which either is a write, that may touch the same sector at the same home. Regions start at granules,
so only equal offsets within a granule may name one sector (R325). -/
def sectorBusy (s : State) (a : Access) (d : GDest) : Option Access :=
  s.accesses.find? fun b =>
    b.core == a.core && (b.kind.writes || (b.uid == a.uid && a.kind.writes)) &&
    (match b.awayAt with | some x => (homesOf s d).contains x | none => false) &&
    (match b.dest with | some e => e.offset % 4096 / 64 == d.offset % 4096 / 64 | none => false)

/-- A local copy of a multicast write stands behind the thread's earlier accesses of this module that may name its
sector (R325). -/
def copyBusy (s : State) (a : Access) (d : GDest) : Option Access :=
  match d.dest with
  | .multicast g =>
    if bit (mcEntry s g) 15 then
      s.accesses.find? fun b => b.uid == a.uid && b.awayAt.isNone && !b.performed && b.kind != .pref &&
        b.lva % 4096 / 64 == d.offset % 4096 / 64
    else none
  | _ => none

/-- An SO access to another module waits for the thread's earlier SO accesses to be performed, but for those to the same
module, which it follows there; and for its earlier releases (R320). Every access waits for an acquire (R322). -/
def orderBusy (s : State) (a : Access) (d : GDest) : Option Access :=
  s.accesses.find? fun b => b.uid == a.uid &&
    (b.acq || (d.cls == .so && !b.performed && (b.rel || b.maybeSo) &&
      !(b.cls == .so && homesOf s d == (match b.awayAt with | some x => [x] | none => []))))

/-- Another load of the core is bringing the sector (log entry 33). -/
def missBusy (s : State) (a : Access) : Option Access :=
  if a.kind.isLoad && a.sector.isSome then
    s.accesses.find? fun b => b.core == a.core && b.kind.fetches && b.sector == a.sector
  else none

/-- What an access to a global address waits for at issue: a write for the verdicts of the thread's earlier accesses
(R404), then what orders it, then room at its peers (R107). -/
def globalWait (s : State) (a : Access) (d : GDest) : Option Block :=
  if a.kind.writes && openVerdict s a.uid then some .verdict
  else
    match orderBusy s a d <|> sectorBusy s a d <|> copyBusy s a d <|> missBusy s a with
    | some b => some (.access b.id)
    | none => (((homesOf s d).filterMap fun x => match x with | .pod p => some p | _ => none).find? (podFull s)).map
        Block.podFull

/-- Copies of a multicast write, one access for each, and the local copy (R109). -/
def sendCopies (a : Access) (d : GDest) (g : Nat) : List Nat → State → State
  | [], s => s
  | p :: ps, s =>
    let b := { a with id := s.nextId, stage := .pod p (s.peer p).nextSeq }
    let s1 := { s with accesses := s.accesses ++ [b], nextId := s.nextId + 1 }
    sendCopies a d g ps (podSend s1 p (fabReqOf b d) (.access b.id) (some g))

/-- The local copy of a multicast write is performed at once, translated where its core stands; it reaches the core's own
L1 as a write of the core does (Table 5.1, R325). -/
def localCopy (s : State) (a : Access) (d : GDest) (g : Nat) : State :=
  if bit (mcEntry s g) 15 then
    let va := regionLocal s a.part d.region d.offset
    match homeRequest s (corePlace a.core) (fabReqOf a d) with
    | (.refused code _, s1) => postFail s1 a fcRemote code
    | (_, s1) =>
      match cachedLeaf s1 (corePlace a.core) a.part va with
      | some l => l1Write s1 { a with sector := some (.local, leafAddr l va / 64, l.slot) }
      | none => s1
  else s

/-- A name under which the L1 may hold a sector that a global write changes: another name whose offset in its granule is
that of the write, since regions start at granules (R325). -/
def mayAlias (a : Access) (d : GDest) (n : SectorName) : Bool :=
  n.1 == .global && a.sector != some n && match addrOf (w64 (64 * n.2.1)) with
    | .unicast _ _ o => o % 4096 / 64 == d.offset % 4096 / 64
    | _ => false

/-- Names of the sectors that a core's L1 holds, or is about to hold. -/
def l1Names (s : State) (c : Nat) : List SectorName :=
  ((s.core c).l1.map fun x => x.secs.map fun e => (x.space, 2 * x.addr + e.1, x.slot)).flatten ++
  s.accesses.filterMap fun b => if b.core == c && b.kind.fetches then b.sector else none

/-- A write to a global address leaves no copy of its sector under another global name in its core's L1: the core sees its
own writes by every name (R325, R327). -/
def dropAliases (s : State) (a : Access) (d : GDest) : State :=
  if a.kind.writes then ((l1Names s a.core).filter (mayAlias a d)).foldl (fun st n => l1Drop st a.core n) s else s

/-- A load of a pod or remote home: from the L1, where a mismatch is read again at the home (Table 1.8), else from the
home. -/
def loadGlobal (s : State) (a : Access) (d : GDest) : State :=
  match a.sector.bind fun n => (l1Find s a.core n).map fun ws => (n, ws) with
  | some (n, ws) =>
    if (a.pick ws).all Datum.okay then deliverLoad s a ws
    else sendAcc (l1Remove s a.core n) { a with refetched := true } d
  | none => sendAcc s a d

/-- An access to a global address that has passed steps 1 to 6. -/
def startGlobal (s : State) (c k : Nat) (a : Access) (d : GDest) (lit : Bool) : LaneEff :=
  let ldx := match a.kind with | .load _ _ _ x _ _ => x | _ => false
  let a1 := { a with
    dest := some d, cls := d.cls
    sector := if d.cls == .so || ldx then none else some (.global, a.ea.toNat / 64, launchSlot s a.seq) }
  match d.dest with
  | .self => .done (startLocal s { a1 with lva := regionLocal s a.part d.region d.offset, sector := none } lit)
  | x =>
    match globalWait s a1 d with
    | some b => .block b s
    | none =>
      let a2 := if a1.kind.isPost then { a1 with before := none } else a1
      let s0 := dropAliases s a2 d
      match x with
      | .multicast g =>
        .done ((sendCopies a2 d g (mcPeers s g) (localCopy s0 a2 d g)).modThread c k fun u => u.advance s.clock lit)
      | _ =>
        let s1 := enqueue s0 a2 lit
        match a2.kind with
        | .load _ _ _ _ _ _ => .done (loadGlobal s1 a2 d)
        | .pref => .done (if a2.sector.isNone then dropAcc s1 a2.id else sendAcc s1 a2 d)
        | .atomic _ _ _ _ _ _ | .store _ true | .sub _ _ _ true =>
          .done (sendAcc (match a2.sector with | some n => l1Drop s1 c n | none => s1) a2 d)
        | _ => .done (sendAcc s1 a2 d)

/-- An access at issue: its kind of address, and steps 1 to 6 of Table 3.5. -/
def startAccess (s : State) (c k : Nat) (t : Thread) (a : Access) (lit : Bool) : LaneEff :=
  match addrOf a.ea with
  | .local _ => .done (startLocal s a lit)
  | x =>
    match sourceCheck s a.part x a.kind.check a.order with
    | .ok d => startGlobal s c k a d lit
    | .error (e, frz) =>
      match a.kind with
      | .pref => .done (s.setThread c k (t.advance s.clock lit))
      | _ => .fault { fiX e a.kind.check a.ea with freezing := frz } s

/-! ## Lanes of loads, stores and atomics -/

/-- A load that faults at its lane: its destinations are empty, with the tags of R31 (R404). -/
def emptyDsts (s : State) (c k d : Nat) (tags : List Tag) : State :=
  s.modThread c k fun u => (u.emptyAll d tags).leaveAll d tags.length

/-- LD, LDA and LDX (R219, R220): `acq` is the scope of LDA. -/
def loadLane (ldx : Bool) (acq : Option Scope) (f : FmtM) (c inst : Nat) (s : State) (k : Nat) (t : Thread) : LaneEff :=
  if !t.guard f.guard then skipLane c f.lit.isSome s k t
  else
    withSources (mAddrSrcs true f) t s fun xs =>
      let n := mWords f.size
      withDst t f.dst.toNat n s
        (let ea := effAddr f (srcPair xs 0) (srcW xs 1)
         let tags := dataTags f.type n
         if ea.toNat % mBytes f != 0 then .fault (fiAt fcAlign .load ea) (emptyDsts s c k f.dst.toNat tags)
         else
           let s1 := s.setThread c k (t.emptyAll f.dst.toNat tags)
           let kind : AccKind := .load f.dst.toNat (mBytes f) f.type ldx (acq.getD .th) f.nrp.toNat
           match startAccess s1 c k t { newAcc s1 c k t inst ea f.order kind with acq := acq.isSome } f.lit.isSome with
           | .fault i s2 => .fault i (s2.modThread c k fun u => u.leaveAll f.dst.toNat n)
           | .block b _ => .block b s
           | r => r)

/-- The data of a store: whole words, or the low bytes of one with their partial code (R24). -/
def storeKind (f : FmtM) (ds : List Datum) (discard : Bool) : AccKind :=
  if f.size == 3 then
    let d := (ds.head?).getD zeroDatum
    .sub (mBytes f) (d.word &&& byteMask 0 (mBytes f)) (partialCode d (mBytes f)) discard
  else .store ds discard

def mDataSrc (f : FmtM) (n : Nat) : Src := .regs f.dst (dataTags f.type n) f.trap 0

/-- ST, STL and STX (R222, R223): `rel` is the scope of STL. -/
def storeLane (discard : Bool) (rel : Option Scope) (f : FmtM) (c inst : Nat) (s : State) (k : Nat) (t : Thread) :
    LaneEff :=
  if !t.guard f.guard then skipLane c f.lit.isSome s k t
  else
    withSources (mDataSrc f (mWords f.size) :: mAddrSrcs true f) t s fun xs =>
      let ea := effAddr f (srcPair xs 1) (srcW xs 2)
      if ea.toNat % mBytes f != 0 then .fault (fiAt fcAlign .store ea) s
      else
        withRelease s c k t (rel.getD .th) true fun s1 =>
          let kind := storeKind f (srcData xs 0) discard
          startAccess s1 c k t { newAcc s1 c k t inst ea f.order kind with rel := rel.isSome } f.lit.isSome

/-- A lane of an instruction whose fault leaves its destinations empty (R404). -/
def LaneEff.emptying (c k d : Nat) (tags : List Tag) : LaneEff → LaneEff
  | .fault i s => .fault i (emptyDsts s c k d tags)
  | r => r

/-- ATOM, CAS and RED (R297). The destinations are marked empty once the release is done and the access is under way, and
a fault found before leaves them empty too (R27, R89, R404; DEDUCED, log entry 34). -/
def atomLane (op : AtomOp) (ret : Bool) (f : FmtM) (c inst : Nat) (s : State) (k : Nat) (t : Thread) : LaneEff :=
  if !t.guard f.guard then skipLane c f.lit.isSome s k t
  else
    let n := mWords f.size
    let m := if op == .cas then 2 * n else n
    withSources (mDataSrc f m :: mAddrSrcs true f) t s fun xs =>
      withDst t f.dst.toNat (if ret then n else 0) s <| LaneEff.emptying c k f.dst.toNat
        (if ret then dataTags f.type n else [])
        (let ea := effAddr f (srcPair xs 1) (srcW xs 2)
         if ea.toNat % (4 * n) != 0 then .fault (fiAt fcAlign .atomic ea) s
         else
           let ds := srcData xs 0
           let kind : AccKind := .atomic op f.type (ds.take n) (ds.drop n) (if ret then some f.dst.toNat else none) f.scope
           let sync := f.scope != .th
           let new := fun s1 : State => { newAcc s1 c k t inst ea f.order kind with acq := ret && sync, rel := sync }
           let lit := f.lit.isSome
           let go := fun s1 : State =>
             let u := if ret then t.emptyAll f.dst.toNat (dataTags f.type n) else t
             match startAccess (s1.setThread c k u) c k t (new s1) lit with
             | .block b _ => .block b s1
             | .fault i _ => .fault i s1
             | r => r
           -- at home on this module, the release waits for the translation
           let here := fun a : Access =>
             if kind.gated && (readyLeaf s a).isNone then awaitWalk s a else withRelease s c k t f.scope true go
           match addrOf ea with
           | .local _ => here (new s)
           | x =>
             match sourceCheck s (launchPart s t.seq) x .atomic f.order with
             | .error (e, frz) => .fault { fiX e .atomic ea with freezing := frz } s
             | .ok d =>
               if d.dest == .self then
                 here { new s with dest := some d, cls := d.cls, lva := regionLocal s (launchPart s t.seq) d.region d.offset }
               else withRelease s c k t f.scope true go)

/-- PREF, CINV and CWB (R225); a PREF that would wait or fault is dropped, and no thread waits at issue. -/
def maintLane (kind : AccKind) (f : FmtM) (c inst : Nat) (s : State) (k : Nat) (t : Thread) : LaneEff :=
  if !t.guard f.guard then skipLane c f.lit.isSome s k t
  else
    withSources (mAddrSrcs true f) t s fun xs =>
      let ea := effAddr f (srcPair xs 0) (srcW xs 1)
      let a := newAcc s c k t inst ea f.order kind
      let a1 := if kind == .pref then { a with before := none } else a
      let lit := f.lit.isSome
      match addrOf ea with
      | .local _ => .done (startLocal s a1 lit)
      | x =>
        match sourceCheck s a.part x .load f.order with
        | .error (e, _) => if kind == .pref then skipLane c lit s k t else .fault (fiX e .load ea) s
        | .ok d =>
          if kind == .pref then
            match startGlobal s c k a1 d lit with
            | .done s1 => .done s1
            | _ => skipLane c lit s k t
          else if d.dest == .self then startGlobal s c k a1 d lit
          else
            let s1 := if kind == .cinv then l1DropLine s c (.global, ea.toNat / 64, launchSlot s t.seq) else s
            .done (s1.modThread c k fun u => u.advance s.clock lit)

/-- PROBE (R226): steps 1 and 2 fault; everything later is reported in the word. -/
def probeLane (f : FmtM) (c inst : Nat) (s : State) (k : Nat) (t : Thread) : LaneEff :=
  if !t.guard f.guard then skipLane c f.lit.isSome s k t
  else
    withSources (mAddrSrcs true f) t s fun xs =>
      withDst t f.dst.toNat 1 s
        (let ea := effAddr f (srcPair xs 0) (srcW xs 1)
         let a := { newAcc s c k t inst ea f.order (.probe f.dst.toNat) with before := none }
         let marked := s.setThread c k (t.markEmpty f.dst.toNat .u32)
         let failed := fun x : XFail => LaneEff.fault (fiX x .load ea) (emptyDsts s c k f.dst.toNat [.u32])
         let say := fun w : Word => LaneEff.done (s.setThread c k ((t.write f.dst.toNat .u32 w).advance s.clock f.lit.isSome))
         match addrOf ea with
         | .local _ => .done (startLocal marked a f.lit.isSome)
         | .unicast rank r o =>
           match sourceCheck s a.part (.unicast rank r o) .load .page with
           | .ok d =>
             match startGlobal marked c k a d f.lit.isSome with
             | .block b _ => .block b s
             | x => x
           | .error (e, _) =>
             let scope := if e.step ≤ 3 then 0 else match resolveRank s a.part rank with
               | .pod _ _ => 1 | .remote _ _ => 2 | .dead _ => 3 | _ => 0
             say (probeWord e.code false scope none)
         | .multicast _ _ _ => failed ⟨fcProtect, 2, false, 0⟩
         | .bad => failed ⟨fcXlate, 1, false, 0⟩)

/-- An acquire of the thread whose read is outstanding: later accesses wait for it (R322). -/
def openAcquire (s : State) (uid : Nat) : Option Access := s.accesses.find? fun a => a.uid == uid && a.acq

/-- LDS (R219, R136): the scratchpad answers at once, and words are checked without a refetch. -/
def ldsLane (f : FmtM) (c : Nat) (s : State) (k : Nat) (t : Thread) : LaneEff :=
  if !t.guard f.guard then skipLane c f.lit.isSome s k t
  else
    withSources (mAddrSrcs false f) t s fun xs =>
      let n := mWords f.size
      withDst t f.dst.toNat n s
        (let off := (effOffset f (srcW xs 0) (srcW xs 1)).toNat
         let failed := fun code =>
           LaneEff.fault (fiAt code .load (w64 off)) (emptyDsts s c k f.dst.toNat (dataTags f.type n))
         if off % mBytes f != 0 then failed fcAlign
         else
           match scratchAt s c k off (mBytes f), openAcquire s t.uid with
           | none, _ => failed fcProtect
           | some _, some b => .block (.access b.id) s
           | some a, none =>
             let ws := scratchWords (s.core c) a n
             if !ws.all Datum.okay then failed fcDatum
             else .done (s.setThread c k
               ((fillLoad f.dst.toNat (mBytes f) f.type 7 (w64 a) ws t).advance s.clock f.lit.isSome)))

/-- STS (R222, R136). -/
def stsLane (f : FmtM) (c : Nat) (s : State) (k : Nat) (t : Thread) : LaneEff :=
  if !t.guard f.guard then skipLane c f.lit.isSome s k t
  else
    let n := mWords f.size
    withSources (mDataSrc f n :: mAddrSrcs false f) t s fun xs =>
      let off := (effOffset f (srcW xs 1) (srcW xs 2)).toNat
      if off % mBytes f != 0 then .fault (fiAt fcAlign .store (w64 off)) s
      else
        match scratchAt s c k off (mBytes f) with
        | none => .fault (fiAt fcProtect .store (w64 off)) s
        | some a =>
          let ds := match storeKind f (srcData xs 0) false with
            | .sub b w pc _ => [mergeSub (scratchWord (s.core c) a) (a % 4) b w pc]
            | _ => srcData xs 0
          let s1 := s.modCore c fun x => putScratch x a ds
          .done (s1.modThread c k fun u => u.advance s.clock f.lit.isSome)

/-- FENCE (R302): the wait for maintenance (R225), which every kind has at .cl and wider, and one with a release part at .co;
the release part, then the acquire part. -/
def fenceLane (f : FmtM) (c : Nat) (s : State) (k : Nat) (t : Thread) : LaneEff :=
  if !t.guard f.guard then skipLane c f.lit.isSome s k t
  else
    let maint := f.scope == .th || (f.scope == .co && f.fn == 1) || !s.accesses.any fun a => a.uid == t.uid && (a.kind == .cinv || a.kind == .cwb)
    if !maint then .block (.drain f.scope) s
    else
      withRelease s c k t (if f.fn == 1 then .th else f.scope) true fun s1 =>
        let s2 := if f.fn == 2 then s1 else acquireAt s1 c f.scope
        .done (s2.modThread c k fun u => u.advance s.clock false)

/-! ## PGREQ (R227) -/

/-- The record of a lane's page request. -/
def requestRec (c k : Nat) (t : Thread) (page : Nat) : FRec :=
  { laneRec c k t (fiAt fcXlate .load (w64 page)) with kind := 2, req := true, uids := [] }

/-- What a lane of PGREQ gives: nothing, the granule it asks for, a wait or a fault. -/
inductive Ask where
  | skip
  | page (p : Nat)
  | block (b : Block)
  | fault (i : FInfo)

def askLane (f : FmtM) (t : Thread) : Ask :=
  if !t.guard f.guard || t.waited then .skip
  else
    match t.sources (mAddrSrcs true f) with
    | .block b => .block b
    | .fault x => .fault (fi x)
    | .ok xs =>
      let ea := effAddr f (srcPair xs 0) (srcW xs 1)
      match addrOf ea with
      | .local va => .page (va / 4096 * 4096)
      | .bad => .fault (fiAt fcXlate .load ea)
      | _ => .fault (fiAt fcProtect .load ea)

/-- One record for each granule, in ascending order of its lowest lane. -/
def joinAsks : Nat → List (Nat × FRec) → List FRec
  | 0, _ => []
  | _, [] => []
  | n + 1, (p, r) :: rs =>
    let same := rs.filter fun e => e.1 == p
    { r with lanes := same.foldl (fun m e => m ||| e.2.lanes) r.lanes } :: joinAsks n (rs.filter fun e => e.1 != p)

/-- The lanes of one PGREQ: their records form one batch, for which they wait. -/
def pgreqLanes (f : FmtM) (c : Nat) (ks : List Nat) (s : State) : State × List (Nat × FInfo) :=
  let step := fun (acc : State × List (Nat × FInfo) × List (Nat × FRec)) (k : Nat) =>
    match acc.1.thread c k with
    | none => acc
    | some t =>
      match askLane f t with
      | .skip => (acc.1.setThread c k (t.goOn s.clock f.lit.isSome), acc.2.1, acc.2.2)
      | .page p => (blockThread (acc.1.setThread c k (t.spun s.clock)) c k (.queueRoom s.nextId), acc.2.1,
                    acc.2.2 ++ [(p, requestRec c k t p)])
      | .block b => (blockThread acc.1 c k b, acc.2.1, acc.2.2)
      | .fault i => (acc.1, acc.2.1 ++ [(k, i)], acc.2.2)
  let r := ks.foldl step (s, [], [])
  match ks.head?.bind fun k => s.thread c k with
  | none => (r.1, r.2.1)
  | some t => (pushBatch r.1 (launchPart s t.seq) (joinAsks r.2.2.length r.2.2), r.2.1)

end Sys2Proof.Machine
end

