-- ==== Sys2Proof/Machine/Fire.lean ====
section
/-! DEFINITION. Rendezvous (R173 to R177): signing, firing, what each rendezvous instruction does when it fires, and
the barriers of a launch (R368 to R370). -/

namespace Sys2Proof.Machine

/-! ## Convergence registers -/

def rowAt (s : State) (c r : Nat) : Option Row := tabFind (s.core c).rows r
def modRow (s : State) (c r : Nat) (f : Row → Row) : State :=
  match rowAt s c r with
  | some x => s.modCore c fun y => { y with rows := tabPut y.rows r (f x) }
  | none => s
def Row.reg (r : Row) (cv : Nat) : CvReg := tabGet CvReg.zero r.cv cv
def Row.setReg (r : Row) (cv : Nat) (v : CvReg) : Row := { r with cv := tabSet CvReg.zero r.cv cv v }
def cvReg (s : State) (m : MSet) : CvReg :=
  match rowAt s m.core m.row with
  | some r => r.reg m.cv
  | none => CvReg.zero
def setCv (s : State) (m : MSet) (v : CvReg) : State := modRow s m.core m.row fun r => r.setReg m.cv v

/-- Keys of the lanes of a mask in a row, in ascending lane order. -/
def maskKeys (row : Nat) (m : BitVec 32) : List Nat := ((List.range 32).filter m.getLsbD).map (32 * row + ·)

/-- Live lanes of a row. -/
def liveMask (s : State) (c row : Nat) : BitVec 32 :=
  (s.core c).threads.foldl (fun m e => if e.1 / 32 == row then m ||| (1#32 <<< (e.1 % 32)) else m) 0

/-! ## Levels (Table 17.3, Table 16.3) -/

def levelWord (s : State) (seq k : Nat) : Nat := launchField s seq (512 + 64 * k + 63) (512 + 64 * k)
def levelDomain (s : State) (seq k : Nat) : Nat := field (levelWord s seq k) 57 55
def domainScope : Nat → Scope
  | 0 => .th | 1 => .co | 2 => .co | 3 => .cl | 4 => .de | _ => .pd

/-! ## Barriers (R368, R369) -/

/-- The barrier of a row's node at a level. -/
def barrierOf (s : State) (r : Row) (k : Nat) : Barrier :=
  ((tabFind s.launches r.seq).bind fun l =>
    l.barriers.find? fun b => b.level == k && b.node == r.path.drop (k - 1)).getD ⟨k, r.path.drop (k - 1), 0, 0⟩

def setBarrier (s : State) (seq : Nat) (b : Barrier) : State :=
  modLaunch s seq fun l =>
    { l with barriers := b :: l.barriers.filter fun x => !(x.level == b.level && x.node == b.node) }

def rowFlag (s : State) (m : MSet) (k : Nat) : BarFlag :=
  match rowAt s m.core m.row with
  | some r => tabGet BarFlag.zero r.bar k
  | none => BarFlag.zero
def setFlag (s : State) (m : MSet) (k : Nat) (f : BarFlag) : State :=
  modRow s m.core m.row fun r => { r with bar := tabSet BarFlag.zero r.bar k f }

/-- The row arrives: its flag takes the phase, and the phase may complete. -/
def arrive (s : State) (m : MSet) (r : Row) (k : Nat) (waiting : Bool) : State :=
  let b := barrierOf s r k
  checkBarriers (setBarrier (setFlag s m k ⟨true, waiting, b.phase⟩) r.seq { b with arrivals := b.arrivals + 1 }) r.seq

/-- The phase in which the row arrived has completed. -/
def phaseDone (s : State) (m : MSet) (r : Row) (k : Nat) : Bool :=
  (rowFlag s m k).phase < (barrierOf s r k).phase

/-! ## Firing (R174, R175) -/

/-- What a fired rendezvous does: it waits as a whole, or executes, with the faults of its lanes. -/
inductive FireRes where
  | wait (s : State)
  | go (s : State) (faults : List (Nat × FInfo))

def faultAll (s : State) (ks : List Nat) (c : BitVec 8) : FireRes := .go s (ks.map fun k => (k, fi c))

/-- A set that fired earlier in the cluster and still waits with such an instruction. -/
def waitsBefore (s : State) (cluster order : Nat) (p : Instr → Bool) : Bool :=
  (List.range 4).any fun i => (s.core (4 * cluster + i)).rows.any fun r => r.2.cv.any fun e =>
    match e.2.fired, e.2.instr with
    | some o, some x => o < order && p x
    | _, _ => false

/-- The place of a firing among all: by clock, then core, slot row and convergence register (R285). -/
def fireOrder (s : State) (m : MSet) : Nat := 32768 * s.clock + 64 * m.core + 4 * m.row + m.cv

/-- TACQ takes the bib once the clock of its firing is over, so that sets that fired in one clock receive it in their
order (R285). -/
def fireTacq (s : State) (m : MSet) (seq order : Nat) (f : FmtE) (bs : List Nat) : FireRes :=
  let t := tileOf s m.cluster f.unit.toNat
  let mine := fun i : Instr => match i with | .tacq g => g.unit == f.unit | _ => false
  if bs.isEmpty || t.heldBy m then .go s []
  else if t.held || s.clock ≤ order / 32768 || waitsBefore s m.cluster order mine then .wait s
  else .go (takeBib s m seq f.unit.toNat) []

def fireTrel (s : State) (m : MSet) (f : FmtE) (bs : List Nat) : FireRes :=
  let t := tileOf s m.cluster f.unit.toNat
  if bs.isEmpty then .go s []
  else if !t.heldBy m then faultAll s bs fcBibless
  else if !t.queue.isEmpty then .wait s
  else .go (setTile s m.cluster f.unit.toNat t.returned) []

/-- Priority that the gang of a row carried at dispatch (R182, R388). -/
def rowPrio (s : State) (r : Row) : Nat :=
  ((tabFind s.launches r.seq).bind fun l => (l.gangs.find? fun g => g.idx == r.top).map TopGang.carried).getD 0

def isMma : Instr → Bool
  | .mma _ => true
  | .mmax _ => true
  | _ => false

def fireMma (s : State) (m : MSet) (r : Row) (order : Nat) (scaled : Bool) (f : FmtE) (bs : List Nat) : FireRes :=
  let t := tileOf s m.cluster f.unit.toNat
  if bs.isEmpty then .go s []
  else if !t.heldBy m then faultAll s bs fcBibless
  else if !tileTagOk t then faultAll s bs fcTag
  else if t.code != 0 then faultAll s bs t.code
  else if 16 ≤ passCount s m.cluster || queueFull t || waitsBefore s m.cluster order isMma then .wait s
  else .go (enterPass s m f.unit.toNat f scaled (rowPrio s r) bs) []

/-- BARA, BARW and BAR: `arr` arrives, `waits` waits for the phase. -/
def fireBar (s : State) (m : MSet) (r : Row) (v : CvReg) (arr waits : Bool) (f : FmtE) (bs ss : List Nat) : FireRes :=
  let k := f.unit.toNat
  let sc := domainScope (levelDomain s r.seq k)
  if launchTop s r.seq < k || levelDomain s r.seq k == 0 then faultAll s ss fcIllegal
  else if arr && !v.arrived && (rowFlag s m k).arrived then faultAll s bs fcRendezvous
  else if !arr && !(rowFlag s m k).arrived then faultAll s bs fcRendezvous
  else
    let unreleased := 2 ≤ scopeNum sc && ss.any fun x =>
      match s.thread m.core x with | some t => !released s t.uid | none => false
    if arr && !v.arrived && unreleased then .wait s
    else
      let s1 := if arr && !v.arrived then arrive s m r k waits else s
      if !waits then .go s1 []
      else if phaseDone s1 m r k then .go (setFlag (acquireAt s1 m.core sc) m k BarFlag.zero) []
      else .wait (setFlag (setCv s1 m { v with arrived := arr }) m k { rowFlag s1 m k with waiting := true })

def always : Guard := ⟨7, false⟩

/-- A fired cross-lane instruction (R252). -/
def fireCross (x : Cross) (s : State) (c : Nat) (bs : List Nat) : FireRes :=
  let r := plainSet x always s c bs
  if !r.2.1.isEmpty then .wait s else .go (crossWrite x c r.1 s) r.2.2.1

/-- What a rendezvous instruction does when it fires: `bs` is B, `ss` the signers, `order` the place of its
firing. -/
def fireInstr (s : State) (m : MSet) (r : Row) (v : CvReg) (order : Nat) (bs ss : List Nat) (i : Instr) : FireRes :=
  match i with
  | .tacq f => fireTacq s m r.seq order f bs
  | .trel f => fireTrel s m f bs
  | .mma f => fireMma s m r order false f bs
  | .mmax f => fireMma s m r order true f bs
  | .bara f => fireBar s m r v true false f bs ss
  | .barw f => fireBar s m r v false true f bs ss
  | .bar f => fireBar s m r v true true f bs ss
  | .permxCv f => fireCross (crossPermx true f) s m.core bs
  | .ballotCv f => fireCross (crossBallot f) s m.core bs
  | .voteCv f => fireCross (crossVote f) s m.core bs
  | .laneMatchCv f => fireCross (crossMatch true f) s m.core bs
  | .lscanCv f => fireCross (crossLscan true f) s m.core bs
  | .lredCv f => fireCross (crossLred true f) s m.core bs
  | .electCv f => fireCross (crossElect f) s m.core bs
  | _ => .go s []

/-- A rendezvous instruction with a literal is two words long. -/
def rendezvousLit : Instr → Bool
  | .permxCv f | .lscanCv f | .lredCv f => f.lit.isSome
  | _ => false

/-- The firing is over: signers that did not fault resume, the register is re-armed, its lanes' faults are taken. -/
def endFiring (s : State) (m : MSet) (ss : List Nat) (lit : Bool) (fs : List (Nat × FInfo)) : State :=
  let v := cvReg s m
  let s1 := setCv s m { CvReg.zero with decl := v.decl }
  let resumed := ss.filter fun k => !fs.any fun e => e.1 == k
  bundleFaults (resumed.foldl (fun st k => st.modThread m.core k fun t => t.proceed s.clock lit) s1) m.core s.nextId fs

/-- A fired register executes, or goes on waiting. -/
def tryFire (s : State) (m : MSet) : State :=
  match rowAt s m.core m.row with
  | none => s
  | some r =>
    let v := r.reg m.cv
    match v.fired, v.instr with
    | some o, some i =>
      let bs := maskKeys m.row v.gmask
      let ss := maskKeys m.row v.signed
      match fireInstr s m r v o bs ss i with
      | .wait s1 => s1
      | .go s1 fs => endFiring s1 m ss (rendezvousLit i) fs
    | _, _ => s

/-- A register whose signatures have become complete fires (R174, R176). -/
def CvReg.complete (v : CvReg) : Bool := v.signed != 0 && v.signed == v.decl && v.fired.isNone

/-- Registers of a core that are complete, in order of row and register. -/
def completeRegs (s : State) (c : Nat) : List MSet :=
  ((s.core c).rows.map fun r => ((r.2.cv.filter fun e => e.2.complete).map fun e => (⟨c, r.1, e.1⟩ : MSet))).flatten

def fireOne (s : State) (m : MSet) : State :=
  let v := cvReg s m
  if v.complete then
    tryFire (setCv s m { v with fired := some (fireOrder s m) }) m
  else s

/-- Every complete register of a core fires; a firing that ends threads may complete another. -/
def settleRegs : Nat → State → Nat → State
  | 0, s, _ => s
  | n + 1, s, c =>
    match completeRegs s c with
    | [] => s
    | ms => settleRegs n (ms.foldl fireOne s) c

/-- A core that is being saved fires nothing (R177). -/
def settleCore (s : State) (c : Nat) : State := if (s.core c).halting then s else settleRegs 65 s c

/-! ## Signing (R174) -/

def signLane (i : Instr) (g : Guard) (cv : Nat) (srcs : List Src) (c : Nat) (s : State) (k : Nat) (t : Thread) : LaneEff :=
  let m : MSet := ⟨c, k / 32, cv⟩
  let v := cvReg s m
  let l := k % 32
  let yes := t.guard g
  if !v.decl.getLsbD l || (v.signed != 0 && v.pc != t.pc) then .fault (fi fcRendezvous) s
  else
    withSources (if yes then srcs else []) t s fun _ =>
      let b := 1#32 <<< l
      .done ((setCv s m { v with pc := t.pc, signed := v.signed ||| b
                                 gmask := if yes then v.gmask ||| b else v.gmask, instr := some i }).setThread c k
        { t.spun s.clock with status := .signed cv })

/-- A bundle signs a rendezvous. -/
def runSign (i : Instr) (g : Guard) (cv : Nat) (srcs : List Src) (s : State) : Host.Outcome State Fault Refusal :=
  match s.issue.keys with
  | [] => .fault .noBundle
  | ks =>
    let c := s.issue.core
    let r := runLanes false c (signLane i g cv srcs c) ks s
    happens s (settleCore (takeLanes r.1 c s.nextId r.2) c)

/-! ## SIGN, CVDECL and CVCLR (R173, R367) -/

def signReadLane (f : FmtE) (c : Nat) (s : State) (k : Nat) (t : Thread) : LaneEff :=
  if !t.guard f.guard then skipLane c false s k t
  else
    withDst t f.dst.toNat 1 s
      (let v := cvReg s ⟨c, k / 32, f.cv.toNat⟩
       .done (s.setThread c k ((t.write f.dst.toNat .u32 (v.decl &&& ~~~ v.signed)).advance s.clock false)))

def cvdeclLane (f : FmtE) (c : Nat) (s : State) (k : Nat) (t : Thread) : LaneEff :=
  if !t.guard f.guard then skipLane c f.lit.isSome s k t
  else
    withSources (eSrcs ruleCvdecl f) t s fun xs =>
      let m : MSet := ⟨c, k / 32, f.cv.toNat⟩
      if (cvReg s m).signed != 0 then .fault (fi fcRendezvous) s
      else .done ((setCv s m { CvReg.zero with decl := srcW xs 0 &&& liveMask s c (k / 32) }).setThread c k
        (t.advance s.clock f.lit.isSome))

def cvclrLane (f : FmtE) (c : Nat) (s : State) (k : Nat) (t : Thread) : LaneEff :=
  if !t.guard f.guard then skipLane c false s k t
  else
    let m : MSet := ⟨c, k / 32, f.cv.toNat⟩
    if (cvReg s m).signed != 0 then .fault (fi fcRendezvous) s
    else .done ((setCv s m CvReg.zero).setThread c k (t.advance s.clock false))

/-! ## EXIT and KILL (R364) -/

def endLane (killed : Bool) (g : Guard) (c : Nat) (s : State) (k : Nat) (t : Thread) : LaneEff :=
  if !t.guard g then skipLane c false s k t
  else .done (endThread (s.setThread c k (t.issued s.clock)) c k killed)

def runEnd (killed : Bool) (g : Guard) (s : State) : Host.Outcome State Fault Refusal :=
  match s.issue.keys with
  | [] => .fault .noBundle
  | ks =>
    let c := s.issue.core
    let r := runLanes false c (endLane killed g c) ks s
    happens s (settleCore (takeLanes r.1 c s.nextId r.2) c)

end Sys2Proof.Machine
end

