-- ==== Sys2Proof/Machine/CopyOps.lean ====
section
/-! DEFINITION. Copy engines (R142 to R158): channels, transfers and their runs of words, transfer records and
chains, chunk maps and rinks; and one lane of each instruction of class 0x8 (R229 to R240). -/

namespace Sys2Proof.Machine

/-! ## Channels and maps -/

def chan (s : State) (cl ch : Nat) : Channel := tabGet Channel.zero (s.cluster cl).chans ch
def setChan (s : State) (cl ch : Nat) (x : Channel) : State :=
  let c := s.cluster cl
  s.setCluster cl { c with chans := tabSet Channel.zero c.chans ch x }
def modWork (s : State) (cl ch : Nat) (f : Work → Work) : State :=
  let x := chan s cl ch
  setChan s cl ch { x with work := x.work.map f }
/-- The core that owns a channel (R142). -/
def chanCore (cl ch : Nat) : Nat := 4 * cl + ch / 4

def Core.map (x : Core) (m : Nat) : ChunkMap := tabGet ChunkMap.clear x.cm m
def Core.setMap (x : Core) (m : Nat) (v : ChunkMap) : Core := { x with cm := tabSet ChunkMap.clear x.cm m v }
def Rink.stage (r : Rink) (i : Nat) : StageState := tabGet .free r.stages i
def Rink.setStage (r : Rink) (i : Nat) (v : StageState) : Rink := { r with stages := tabSet .free r.stages i v }
def modRink (s : State) (c k : Nat) (f : Rink → Rink) : State :=
  match tabFind (s.core c).rk k with
  | some r => s.modCore c fun x => { x with rk := tabPut x.rk k (f r) }
  | none => s

/-- Changes the map that work reports into: a chunk map, or the implicit map of a rink's stage. -/
def modWorkMap (s : State) (c : Nat) (w : Work) (f : ChunkMap → ChunkMap) : State :=
  match w.rink, w.tr.bind Transfer.map with
  | some (k, i), _ => modRink s c k fun r => { r with maps := tabSet ChunkMap.clear r.maps i (f (tabGet ChunkMap.clear r.maps i)) }
  | none, some m => s.modCore c fun x => x.setMap m (f (x.map m))
  | none, none => s

/-! ## Transfers (R144) -/

def Transfer.total (t : Transfer) : Nat := t.rows * t.rowBytes
def Transfer.chunks (t : Transfer) : Nat := (t.total + 511) / 512

/-- The first three rows of Table 6.2. -/
def Transfer.limits (t : Transfer) : Bool :=
  4 ≤ t.rowBytes && t.rowBytes ≤ 65536 && t.rowBytes % 4 == 0 && 1 ≤ t.rows && t.rows ≤ 4096 &&
  (t.map.isNone || t.total ≤ 65536)

/-- An address of a side: row times stride, modulo 2^64, or 2^32 for a scratchpad offset. -/
def sideAddr (base : DWord) (sp : Bool) (stride : Int) (n : Nat) : DWord :=
  let a := wrap 64 ((base.toNat : Int) + n * stride)
  w64 (if sp then a % 2 ^ 32 else a)

def wfault (code : BitVec 8) (access row : Nat) (a : DWord) : WorkFault := ⟨code, access, row, a, false, false⟩

/-- The index word of a row (Table 6.2, R148). -/
def rowIndex (s : State) (c : Nat) (w : Work) (t : Transfer) (j : Nat) : Except WorkFault Nat :=
  if t.kind == 0 then .ok j
  else if t.idx % 4 != 0 then .error (wfault fcAlign 0 j (w64 t.idx))
  else if w.size < t.idx + 4 * t.rows then .error (wfault fcProtect 0 j (w64 t.idx))
  else
    let d := scratchWord (s.core c) (w.base + t.idx + 4 * j)
    if Datum.okay d then .ok d.word.toNat else .error (wfault fcDatum 0 j (w64 (t.idx + 4 * j)))

/-- Source and destination of a row, or its fault. -/
def rowAddrs (s : State) (c : Nat) (w : Work) (t : Transfer) (j : Nat) : Except WorkFault (DWord × DWord) :=
  match rowIndex s c w t j with
  | .error e => .error e
  | .ok i =>
    let a := sideAddr t.src t.srcSp t.srcStride (if t.kind == 1 then i else j)
    let d := sideAddr t.dst t.dstSp t.dstStride (if t.kind == 2 then i else j)
    if t.src.toNat % 4 != 0 || t.srcStride % 4 != 0 || a.toNat % 4 != 0 then .error (wfault fcAlign 0 j a)
    else if t.dst.toNat % 4 != 0 || t.dstStride % 4 != 0 || d.toNat % 4 != 0 then .error (wfault fcAlign 1 j d)
    else .ok (a, d)

/-- A failed check of Table 3.5 for an engine (R147). -/
def engineFail (x : XFail) (access row : Nat) (a : DWord) : WorkFault :=
  ⟨x.code, access, row, a, x.code == fcProtect && x.step != 10, x.code == fcXlate || (x.code == fcProtect && x.step == 10)⟩

/-- What an engine's access gives. -/
inductive Moved (α : Type) where
  | ok (a : α) (s : State)
  | sent (s : State)
  | fail (e : WorkFault) (s : State)

/-- Parts of a run of bytes that do not cross a multiple of 256, by their offset and length: a pod transaction carries
at most 256 bytes (Table 4.6), and no page is crossed (R332). -/
def cuts : Nat → Nat → Nat → Nat → List (Nat × Nat)
  | 0, _, _, _ => []
  | fuel + 1, a, off, n =>
    if n == 0 then []
    else
      let m := min n (256 - a % 256)
      (off, m) :: cuts fuel (a + m) (off + m) (n - m)
def cutRun (a n : Nat) : List (Nat × Nat) := cuts (n / 256 + 2) a 0 n

/-- The engine's read of a run of words of a row. -/
def engineRead (s : State) (c : Nat) (w : Work) (o : Owner) (sp : Bool) (row : Nat) (a : DWord) (n : Nat) :
    Moved (List Datum) :=
  if sp then
    if w.size < a.toNat + 4 * n then .fail (wfault fcProtect 0 row a) s
    else .ok (scratchWords (s.core c) (w.base + a.toNat) n) s
  else
    match addrOf a with
    | .local va =>
      match translate s (clusterPlace (c / 4)) w.part va .load .page none with
      | (.error x, s1) => .fail (engineFail x 0 row a) s1
      | (.ok l, s1) =>
        let p := leafAddr l va
        if l.host then .sent (hostReadVia s1 p n o l.via)
        else
          match readRange (s1.part w.part).l2Ways l.slot n s1 p n with
          | .ok ws s2 => .ok ws s2
          | .fail e s2 => .fail (wfault e 0 row a) s2
    | .multicast _ _ _ => .fail ⟨fcProtect, 0, row, a, true, false⟩ s
    | x =>
      match sourceCheck s w.part x .load .page with
      | .error (e, _) => .fail (engineFail e 0 row a) s
      | .ok d =>
        let req : FabReq :=
          { part := w.part, region := d.region, offset := d.offset, cls := d.cls, op := .read n false, lc := none, count := 0
            keygen := 0 }
        match d.dest with
        | .pod p => .sent (podSend s p req o none)
        | .remote hid _ => .sent (remoteSend s hid d.route req o)
        | _ =>
          match homeRequest s (clusterPlace (c / 4)) req with
          | (.data ws _, s1) => .ok ws s1
          | (_, s1) => .fail (wfault fcRemote 0 row a) s1

/-- Sectors of a transfer's write that have been acknowledged or accepted (R121). -/
def countTakeoff (s : State) (cl : Nat) (t : Transfer) (count : Nat) : State :=
  match t.toc with
  | some i => addTakeoff s (cl / 16) i count
  | none => s

/-- Copies of a multicast write: one transaction for each peer, and the local copy (R109). -/
def engineCopies (s : State) (cl : Nat) (t : Transfer) (o : Owner) (req : FabReq) (g row : Nat) (a : DWord) : Moved Unit :=
  let s1 := (mcPeers s g).foldl (fun st p => podSend st p req o (some g)) s
  if bit (mcEntry s g) 15 then
    match homeRequest s1 (clusterPlace cl) req with
    | (.ack, s2) => .sent (countTakeoff s2 cl t req.count)
    | (_, s2) => .fail (wfault fcRemote 1 row a) s2
  else .sent s1

/-- The engine's write of a run of words, which raises its counters by `count`. `sent` leaves it to be acknowledged. -/
def engineWrite (s : State) (c : Nat) (w : Work) (t : Transfer) (o : Owner) (row : Nat) (a : DWord) (ws : List Datum)
    (count : Nat) : Moved Unit :=
  let n := ws.length
  if t.dstSp then
    if w.size < a.toNat + 4 * n then .fail (wfault fcProtect 1 row a) s
    else .ok () (s.modCore c fun x => putScratch x (w.base + a.toNat) ws)
  else
    match addrOf a with
    | .local va =>
      match translate s (clusterPlace (c / 4)) w.part va .store .page none with
      | (.error x, s1) => .fail (engineFail x 1 row a) s1
      | (.ok l, s1) =>
        let p := leafAddr l va
        let lc := t.lc.filter fun _ => l.cls == .un && !l.host
        if l.host then .ok () (hostWrite s1 p (wordBytes ws) l.cls l.via)
        else if (lc.map fun i => !landingOk s1 w.part i).getD false then .fail ⟨fcProtect, 1, row, a, true, false⟩ s1
        else
          match placeWords s1 p l.slot ws (s1.part w.part).l2Ways with
          | .fail e s2 => .fail (wfault e 1 row a) s2
          | .ok _ s2 =>
            let s3 := match lc with
              | some i => addLanding s2 i count
              | none => s2
            .ok () (countTakeoff s3 (c / 4) t count)
    | x =>
      match sourceCheck s w.part x .store .page with
      | .error (e, _) => .fail (engineFail e 1 row a) s
      | .ok d =>
        let req : FabReq :=
          { part := w.part, region := d.region, offset := d.offset, cls := d.cls, op := .write ws
            lc := t.lc.filter fun _ => d.cls == .un, count := count, keygen := 0 }
        match d.dest with
        | .pod p => .sent (podSend s p req o none)
        | .remote hid _ => .sent (remoteSend s hid d.route req o)
        | .multicast g =>
          if t.kind == 2 then .fail ⟨fcProtect, 1, row, a, true, false⟩ s else engineCopies s (c / 4) t o req g row a
        | .self =>
          match homeRequest s (clusterPlace (c / 4)) req with
          | (.ack, s1) => .ok () (countTakeoff s1 (c / 4) t count)
          | (_, s1) => .fail (wfault fcRemote 1 row a) s1

/-- An engine's write of a run to host memory waits for a line that an atomic holds (R124, R330). -/
def engineHeld (s : State) (w : Place) (part : Nat) (a : DWord) (n : Nat) : Bool :=
  s.cxl && match addrOf a with
    | .local va =>
      match (translate s w part va .store .page none).1 with
      | .ok l => l.host && linesHeld s (leafAddr l va) (4 * n)
      | .error _ => false
    | _ => false

/-! ## Progress of a transfer (R145, R147, R151) -/

/-- The first failure of a transfer stands; the chunk never lands. -/
def failChunk (s : State) (cl ch chunk : Nat) (e : WorkFault) : State :=
  modWork s cl ch fun w => { w with fault := w.fault.orElse fun _ => some e, failed := chunk :: w.failed }

def Owner.ofWork (o : Owner) (id : Nat) : Bool := match o with | .copy _ _ w _ _ _ => w == id | _ => false
def Owner.ofChunk (o : Owner) (id chunk : Nat) : Bool :=
  match o with | .copy _ _ w i _ _ => w == id && 4 * i / 512 == chunk | _ => false

/-- A fabric transaction whose owner meets a condition is not answered yet. -/
def awaits (s : State) (f : Owner → Bool) : Bool :=
  (s.peers.any fun p => p.2.unacked.any fun x => f x.owner) || (s.remotes.any fun r => f r.owner) ||
  s.hostReqs.any fun r => f r.owner

/-- A run of a chunk within one row: row, first byte of the stream, number of bytes. -/
def rowRuns (t : Transfer) (chunk : Nat) : List (Nat × Nat × Nat) :=
  let lo := 512 * chunk
  let hi := min (lo + 512) t.total
  let j0 := lo / t.rowBytes
  (List.range ((hi + t.rowBytes - 1) / t.rowBytes - j0)).map fun i =>
    let b := max lo ((j0 + i) * t.rowBytes)
    (j0 + i, b, min hi ((j0 + i + 1) * t.rowBytes) - b)

/-- Chunks `chunk - 1` and `chunk` share a destination sector of one row in memory: it counts once (R120, R121). -/
def joined (s : State) (cl ch : Nat) (w : Work) (t : Transfer) (chunk : Nat) : Bool :=
  let b := 512 * chunk
  chunk != 0 && b < t.total && b % t.rowBytes != 0 && !t.dstSp &&
  match rowAddrs s (chanCore cl ch) w t (b / t.rowBytes) with
  | .ok (_, d) => (d.toNat + b % t.rowBytes) % 64 != 0
  | .error _ => false

/-- The chunk before or after a chunk, where it shares a sector with it, has been issued and neither landed nor
failed. -/
def besideOpen (s : State) (cl ch : Nat) (w : Work) (t : Transfer) (chunk : Nat) : Bool :=
  let open_ := fun i : Nat => w.issued.contains i && !w.landed.contains i && !w.failed.contains i
  (joined s cl ch w t chunk && open_ (chunk - 1)) || (joined s cl ch w t (chunk + 1) && open_ (chunk + 1))

/-- Sectors that a run of a chunk's write adds to its counters: a sector that it shares with a neighbouring chunk counts
with the later of the two to be written. A sector that two rows touch counts once for each (DESIGN CHOICE, log entry
45). -/
def runCount (s : State) (cl ch : Nat) (w : Work) (t : Transfer) (chunk b n : Nat) (d : DWord) : Nat :=
  let first := b == 512 * chunk && joined s cl ch w t chunk && !w.landed.contains (chunk - 1)
  let last := b + n == 512 * chunk + 512 && joined s cl ch w t (chunk + 1) && !w.landed.contains (chunk + 1)
  sectorsOf d.toNat n - b2n first - b2n last

/-- Words of a stream that have been read and not yet written; none where one is missing. -/
def bufWords (buf : Tab Datum) (word n : Nat) : Option (List Datum) :=
  (List.range n).foldr (fun i acc => match acc, tabFind buf (word + i) with
    | some ds, some d => some (d :: ds)
    | _, _ => none) (some [])

/-- Words join a buffer, and leave it. -/
def bufPut (buf : Tab Datum) (word : Nat) (ws : List Datum) : Tab Datum :=
  (ws.zipIdx).foldl (fun b e => tabPut b (word + e.2) e.1) buf
def bufDrop (buf : Tab Datum) (word n : Nat) : Tab Datum := buf.filter fun y => y.1 < word || word + n ≤ y.1

/-- Room for a transaction toward every pod peer (R107). -/
def podRoom (s : State) (n : Nat) : Bool :=
  s.peers.all fun p => match p.2.unacked with
    | [] => true
    | x :: _ => seqSpan x.seq p.2.nextSeq + n ≤ 4096

/-- One run of a chunk is written, once all its words have been read, there is room at its peers, and no host line of it
is held; a transfer that has failed writes no more. -/
def writeRun (cl ch chunk : Nat) (t : Transfer) (s : State) (j b : Nat) (e : Nat × Nat) : State :=
  match (chan s cl ch).work with
  | none => s
  | some w =>
    let c := chanCore cl ch
    let word := (b + e.1) / 4
    match bufWords w.buf word (e.2 / 4), rowAddrs s c w t j with
    | some ws, .ok (_, rd) =>
      let d := rd + w64 (b % t.rowBytes + e.1)
      if w.fault.isSome || !podRoom s 1 || (!t.dstSp && engineHeld s (clusterPlace cl) w.part d ws.length) then s
      else
        let s1 := modWork s cl ch fun x => { x with buf := bufDrop x.buf word ws.length }
        match engineWrite s1 c w t (.copy cl ch w.id word ws.length true) j d ws (runCount s cl ch w t chunk (b + e.1) e.2 d) with
        | .fail f s2 => failChunk s2 cl ch chunk f
        | .sent s2 => s2
        | .ok _ s2 => s2
    | _, _ => s

/-- Destination runs of a row's part of a chunk. An index word that no longer passes its check where words of the row are
still to be written fails the transfer (R148). -/
def writeRow (cl ch chunk : Nat) (w : Work) (t : Transfer) (s : State) (r : Nat × Nat × Nat) : State :=
  match rowAddrs s (chanCore cl ch) w t r.1 with
  | .error e =>
    if w.buf.any fun x => r.2.1 ≤ 4 * x.1 && 4 * x.1 < r.2.1 + r.2.2 then failChunk s cl ch chunk e else s
  | .ok (_, rd) =>
    (cutRun (rd.toNat + r.2.1 % t.rowBytes) r.2.2).foldl (fun st e => writeRun cl ch chunk t st r.1 r.2.1 e) s

/-- What has been read of a chunk is written, run by run. -/
def writeChunk (s : State) (cl ch chunk : Nat) : State :=
  match (chan s cl ch).work with
  | none => s
  | some w =>
    match w.tr with
    | none => s
    | some t => (rowRuns t chunk).foldl (writeRow cl ch chunk w t) s

/-- Words of a chunk are still in the buffer. -/
def chunkHeld (w : Work) (chunk : Nat) : Bool := w.buf.any fun e => 4 * e.1 / 512 == chunk

/-- A chunk whose bytes have all landed: its bit rises (R151); a stage whose last chunk lands is FULL. A chunk that a
failure leaves unwritten never lands. -/
def landChunk (s : State) (cl ch chunk : Nat) : State :=
  match (chan s cl ch).work with
  | none => s
  | some w =>
    match w.tr with
    | none => s
    | some t =>
      if !w.issued.contains chunk || w.landed.contains chunk || w.failed.contains chunk ||
          awaits s (fun o => o.ofChunk w.id chunk) then s
      else if chunkHeld w chunk then
        match w.fault with
        | some e => failChunk s cl ch chunk e
        | none => s
      else
        let c := chanCore cl ch
        let s1 := modWork s cl ch fun w => { w with landed := chunk :: w.landed }
        let s2 := modWorkMap s1 c w fun m => { m with bits := m.bits ||| 2 ^ chunk }
        if w.landed.length + 1 == t.chunks then
          match w.rink with
          | some (k, i) => modRink s2 c k fun r => r.setStage i .full
          | none => s2
        else s2

/-- One run of a row's part is read; the first failure stops the transfer. -/
def readRun (cl ch chunk : Nat) (t : Transfer) (s : State) (j b : Nat) (ra : DWord) (e : Nat × Nat) : State :=
  match (chan s cl ch).work with
  | none => s
  | some w =>
    if w.fault.isSome then s
    else
      let c := chanCore cl ch
      let word := (b + e.1) / 4
      let a := ra + w64 (b % t.rowBytes + e.1)
      match engineRead s c w (.copy cl ch w.id word (e.2 / 4) false) t.srcSp j a (e.2 / 4) with
      | .fail f s1 => failChunk s1 cl ch chunk f
      | .sent s1 => s1
      | .ok ws s1 => modWork s1 cl ch fun x => { x with buf := bufPut x.buf word ws }

/-- Source runs of a row's part of a chunk. -/
def readRow (cl ch chunk : Nat) (w : Work) (t : Transfer) (s : State) (r : Nat × Nat × Nat) : State :=
  match rowAddrs s (chanCore cl ch) w t r.1 with
  | .error e => failChunk s cl ch chunk e
  | .ok (ra, _) =>
    (cutRun (ra.toNat + r.2.1 % t.rowBytes) r.2.2).foldl (fun st e => readRun cl ch chunk t st r.1 r.2.1 ra e) s

/-- The engine issues a chunk of the destination stream, or goes on writing one; it lands at once, or when the last
answer arrives. -/
def issueChunk (s : State) (cl ch chunk : Nat) : State :=
  match (chan s cl ch).work with
  | none => s
  | some w =>
    match w.tr with
    | none => s
    | some t =>
      if t.chunks ≤ chunk || (chan s cl ch).state != 1 then s
      else if w.issued.contains chunk then landChunk (writeChunk s cl ch chunk) cl ch chunk
      else if w.fault.isSome || !podRoom s 256 || besideOpen s cl ch w t chunk then s
      else
        let s1 := modWork s cl ch fun w => { w with issued := chunk :: w.issued }
        landChunk (writeChunk ((rowRuns t chunk).foldl (readRow cl ch chunk w t) s1) cl ch chunk) cl ch chunk

/-- The answer of a home, or of the host, to an access of a transfer. -/
def copyAnswer (s : State) (cl ch id word n : Nat) (write : Bool) (r : Except (BitVec 8) FabReply) : State :=
  match (chan s cl ch).work.filter fun w => w.id == id with
  | none => s
  | some w =>
    match w.tr with
    | none => s
    | some t =>
      let c := chanCore cl ch
      let chunk := 4 * word / 512
      let j := 4 * word / t.rowBytes
      let access := b2n write
      let a := match rowAddrs s c w t j with
        | .ok (x, y) => (if write then y else x) + w64 (4 * word % t.rowBytes)
        | .error _ => 0
      let s1 := match r with
        | .error e => failChunk s cl ch chunk (wfault e access j a)
        | .ok (.data ws _) => writeChunk (modWork s cl ch fun x => { x with buf := bufPut x.buf word ws }) cl ch chunk
        | .ok .ack => countTakeoff s cl t (runCount s cl ch w t chunk (4 * word) (4 * n) a)
        | .ok _ => failChunk s cl ch chunk (wfault fcRemote access j a)
      landChunk s1 cl ch chunk

/-- Every access issued has been answered, and either all chunks have landed or the transfer has failed. -/
def transferOver (s : State) (cl ch : Nat) : Bool :=
  match (chan s cl ch).work with
  | none => false
  | some w =>
    match w.tr with
    | none => false
    | some t => !awaits s (fun o => o.ofWork w.id) && (w.fault.isSome || w.landed.length == t.chunks)

/-! ## Records and chains (R149, R150) -/

/-- A record's fields as a transfer. -/
def recTransfer (x : Nat) : Transfer :=
  { kind := field x 31 30, src := w64 (field x 191 128), dst := w64 (field x 255 192)
    srcSp := bit x 29, dstSp := bit x 28
    srcStride := sgn 32 (field x 287 256), dstStride := sgn 32 (field x 319 288)
    rows := field x 383 372 + 1, rowBytes := 4 * (field x 371 358 + 1), idx := field x 351 320
    map := if bit x 23 then some (field x 27 24) else none
    lc := if bit x 416 then some (field x 433 420) else none
    toc := if bit x 384 then some (field x 415 404) else none }

/-- A malformed record (R149). -/
def recMalformed (x : Nat) : Bool :=
  let t := recTransfer x
  field x 447 434 != 0 || field x 419 417 != 0 || field x 403 385 != 0 || field x 357 352 != 0 ||
  field x 62 56 != 0 || field x 47 32 != 0 || field x 22 0 != 0 || t.kind == 3 ||
  (t.srcSp && field x 191 160 != 0) || (t.dstSp && field x 255 224 != 0) || !t.limits

/-- Where a record lies: its device address and key slot. -/
def recPlace (s : State) (cl part : Nat) (head : DWord) : Except WorkFault (Nat × Nat) × State :=
  let misplaced : WorkFault := ⟨fcProtect, 0, 0, head, false, true⟩
  match addrOf head with
  | .local va =>
    match translate s (clusterPlace cl) part va .load .page none with
    | (.error x, s1) => (.error (engineFail x 0 0 head), s1)
    | (.ok l, s1) => if l.host || !l.wr then (.error misplaced, s1) else (.ok (leafAddr l va, l.slot), s1)
  | .bad => (.error ⟨fcXlate, 0, 0, head, false, true⟩, s)
  | _ => (.error misplaced, s)

/-- The atomic unit's rewrite of bits <63:0> of a record (R150). -/
def rewriteRec (s : State) (cl part : Nat) (head : DWord) (f : Nat → Nat) : Option WorkFault × State :=
  match recPlace s cl part head with
  | (.error e, s1) => (some e, s1)
  | (.ok (p, slot), s1) =>
    let mask := (s1.part part).l2Ways
    match homeReadChecked s1 p slot 2 mask with
    | .fail e s2 => (some (wfault e 0 0 head), s2)
    | .ok ws s2 =>
      match homeWrite s2 p slot ((valWords 2 (f (wordsVal ws))).map mk) mask with
      | .fail e s3 => (some (wfault e 1 0 head), s3)
      | .ok _ s3 => (none, s3)

def clearOwn (x : Nat) : Nat := x % 2 ^ 48 + field x 62 56 * 2 ^ 56
def setStatus (c : BitVec 8) (x : Nat) : Nat := x % 2 ^ 48 + c.toNat * 2 ^ 48 + field x 63 56 * 2 ^ 56

/-- The record that an engine writes for a channel (R147, Table 18.1), or that freezes it (Table 18.7). -/
def channelRec (cl ch : Nat) (w : Work) (kind : Nat) (head : DWord) (e : WorkFault) : FRec :=
  { kind := kind, die := cl / 16, cluster := cl % 16, core := ch / 4, unit := if kind == 5 then 1 else ch
    code := e.code, detail := if kind == 5 then BitVec.ofNat 8 ch else 0, access := e.access, req := false, lanes := 0
    seq := w.seq, pc := if kind == 5 then 0 else head, addr := e.addr, uids := [] }

/-- `stop` (R150): the channel keeps the failure, and is STOPPED or FROZEN. -/
def stopChan (s : State) (cl ch : Nat) (w : Work) (head : DWord) (e : WorkFault) : State :=
  let x := chan s cl ch
  let s1 := setChan s cl ch { x with state := if e.freezing then 3 else 2, resume := false, code := e.code, row := e.row
                                     head := head, faddr := e.addr, work := none }
  if e.freezing then pushBatch s1 w.part [channelRec cl ch w 5 head e]
  else if e.report then pushBatch s1 w.part [channelRec cl ch w 3 head e]
  else s1

def idleChan (s : State) (cl ch : Nat) (head : DWord) : State :=
  let x := chan s cl ch
  setChan s cl ch { x with state := 0, head := head, work := none }

/-- A transfer starts: its map is taken (R151). -/
def startTransfer (s : State) (cl ch : Nat) (w : Work) (t : Transfer) : State :=
  let w1 := { w with tr := some t, issued := [], landed := [], failed := [], buf := [], fault := none }
  let x := chan s cl ch
  let s1 := setChan s cl ch { x with state := 1, work := some w1 }
  modWorkMap s1 (chanCore cl ch) w1 fun _ =>
    ⟨(2 ^ 128 - 1) - (2 ^ (min t.chunks 128) - 1), true, 0, !t.dstSp⟩

/-- `stop` with the status written into the record, where that write succeeds. -/
def stopWriting (s : State) (cl ch : Nat) (w : Work) (head : DWord) (e : WorkFault) : State :=
  match rewriteRec s cl w.part head (setStatus e.code) with
  | (some x, s1) => if x.code == fcDatum then stopChan s1 cl ch w head x else stopChan s1 cl ch w head e
  | (none, s1) => stopChan s1 cl ch w head e

/-- `walk` at one record (R150): it ends the chain, stops it, or starts the record's transfer. -/
def walkChain (s : State) (cl ch : Nat) (w : Work) (head : DWord) : State :=
  if head == 0 then idleChan s cl ch 0
  else if head.toNat % 64 != 0 then stopChan s cl ch w head (wfault fcAlign 0 0 head)
  else
    match recPlace s cl w.part head with
    | (.error e, s1) => stopChan s1 cl ch w head e
    | (.ok (p, slot), s1) =>
      match homeReadChecked s1 p slot 16 (s1.part w.part).l2Ways with
      | .fail e s2 => stopChan s2 cl ch w head (wfault e 0 0 head)
      | .ok ws s2 =>
        let x := wordsVal ws
        let t := recTransfer x
        if !bit x 63 then idleChan s2 cl ch head
        else if recMalformed x then stopWriting s2 cl ch w head (wfault fcIllegal 0 0 head)
        else if (t.map.map fun m => ((s2.core (chanCore cl ch)).map m).held).getD false then
          stopWriting s2 cl ch w head (wfault fcMapBusy 0 0 head)
        else if (t.toc.map fun i => !takeoffOk s2 w.part (cl / 16) i).getD false then
          stopWriting s2 cl ch w head ⟨fcProtect, 0, 0, head, true, false⟩
        else startTransfer s2 cl ch { w with chain := some head, next := w64 (field x 127 64) } t

/-- The next record, or a pause where a context save is due (R150, R156). -/
def nextRecord (s : State) (cl ch : Nat) (w : Work) : State :=
  if (s.core (chanCore cl ch)).halting then
    let x := chan s cl ch
    setChan s cl ch { x with state := 0, head := w.next, resume := true, work := some { w with tr := none } }
  else walkChain s cl ch w w.next

/-- The transfer ends (R147, R150, R151): map, stage, record and channel. -/
def endTransfer (s : State) (cl ch : Nat) : State :=
  match (chan s cl ch).work.filter fun _ => transferOver s cl ch with
  | none => s
  | some w =>
    let c := chanCore cl ch
    let code := match w.fault with | some e => e.code | none => 0
    let s1 := modWorkMap s c w fun m => { m with held := false, code := code }
    let s2 := match w.rink, w.fault with
      | some (k, i), some e => modRink s1 c k fun r => r.setStage i (.faulted e.code)
      | _, _ => s1
    match w.fault, w.chain with
    | some e, some head => stopWriting s2 cl ch w head e
    | some e, none => stopChan s2 cl ch w 0 e
    | none, none => idleChan s2 cl ch 0
    | none, some head =>
      match rewriteRec s2 cl w.part head clearOwn with
      | (some e, s3) => stopChan s3 cl ch w head e
      | (none, s3) =>
        let x := chan s3 cl ch
        nextRecord (setChan s3 cl ch { x with records := x.records + 1 }) cl ch w

/-! ## Submitting work (R143, R155, R231) -/

/-- The address scope of an operand (R155); an address that fails its translation or its checks at issue takes .sy. -/
def addrScope (s : State) (c part : Nat) (sp : Bool) (kind : AKind) (a : DWord) : Scope × State :=
  if sp then (.co, s)
  else
    match addrOf a with
    | .local va =>
      match translate s (corePlace c) part va kind .page none with
      | (.ok l, s1) => (if l.host then .sy else .pd, s1)
      | (.error _, s1) => (.sy, s1)
    | x =>
      match sourceCheck s part x kind .page with
      | .error _ => (.sy, s)
      | .ok d => (match d.dest with | .remote _ _ => .sy | _ => .pd, s)

def widest (a b : Scope) : Scope := if scopeNum a < scopeNum b then b else a

/-- Place of a thread in a channel's line. -/
def chanPlace (t : Thread) (ch : Nat) : Option Nat :=
  match t.status with
  | .blocked (.channel c o _) => if c == ch then some o else none
  | _ => none

/-- A thread that blocked earlier waits for the channel (R143). -/
def chanAhead (s : State) (c k : Nat) (t : Thread) (ch : Nat) : Bool :=
  (s.core c).threads.any fun e => e.1 != k && match chanPlace e.2 ch, chanPlace t ch with
    | some o, some m => o < m
    | some _, none => true
    | none, _ => false

/-- A thread takes, or keeps, its place in a channel's line. -/
def inLine (s : State) (t : Thread) (ch : Nat) (drain : Option Scope) : LaneEff :=
  match chanPlace t ch with
  | some o => .block (.channel ch o drain) s
  | none => .block (.channel ch s.nextId drain) { s with nextId := s.nextId + 1 }

/-- Waits for a channel that is BUSY, or that others wait for; then what it does on the channel, for whose release it
waits at the head of the line. -/
def withChannel (s : State) (c k : Nat) (t : Thread) (ch : Nat) (f : LaneEff) : LaneEff :=
  let x := chan s (c / 4) (4 * (c % 4) + ch)
  if x.state == 1 || chanAhead s c k t ch then inLine s t ch none
  else if x.state == 3 then .fault (fi fcFrozen) s
  else
    match f with
    | .block (.drain sc) s1 => inLine s1 t ch (some sc)
    | r => r

/-- Work of a thread. -/
def newWork (s : State) (c k : Nat) (t : Thread) (rink : Option (Nat × Nat)) : Work :=
  let g := gangOf s c k
  { id := s.nextId, seq := t.seq, part := launchPart s t.seq, top := topOf s c k
    base := (g.map CoreGang.base).getD 0, size := (g.map CoreGang.size).getD 0
    tr := none, rink := rink, chain := none, next := 0, issued := [], landed := [], failed := [], buf := [], fault := none }

/-- The channel starts afresh (R143). -/
def freshChan (s : State) (cl ch : Nat) : State :=
  let x := chan s cl ch
  { setChan s cl ch { x with state := 1, resume := false, code := 0, row := 0, head := 0, faddr := 0, work := none }
    with nextId := s.nextId + 1 }

/-- A transfer is submitted on a local channel; the thread goes on once it is accepted. -/
def submit (s : State) (c k : Nat) (t : Thread) (ch : Nat) (tr : Transfer) (rink : Option (Nat × Nat)) (lit : Bool) :
    LaneEff :=
  let part := launchPart s t.seq
  let a := addrScope s c part tr.srcSp .load tr.src
  let b := addrScope a.2 c part tr.dstSp .store tr.dst
  withRelease b.2 c k t (widest a.1 b.1) true fun s1 =>
    let w := newWork s1 c k t rink
    let s2 := startTransfer (freshChan s1 (c / 4) (4 * (c % 4) + ch)) (c / 4) (4 * (c % 4) + ch) w tr
    .done (s2.modThread c k fun u => u.advance s.clock lit)

/-! ## COPY, COPYX, CHAIN, CHSTAT (R231 to R233) -/

/-- An address operand: a pair, or a scratchpad offset. -/
def addrOperand (sp : Bool) (xs : List (List Reg)) (i : Nat) : DWord :=
  if sp then (srcW xs i).setWidth 64 else srcPair xs i

def copyTransfer (f : FmtE) (xs : List (List Reg)) : Transfer :=
  let srcSp := f.var.getLsbD 0
  let dstSp := f.var.getLsbD 1
  { kind := 0, dst := addrOperand dstSp xs 0, src := addrOperand srcSp xs 1, srcSp := srcSp, dstSp := dstSp
    srcStride := 0, dstStride := 0, rows := 1, rowBytes := (srcW xs 2).toNat, idx := 0
    map := if f.fn.getLsbD 0 then some f.dst.toNat else none, lc := none, toc := none }

def copyxTransfer (f : FmtE) (xs : List (List Reg)) : Transfer :=
  let scatter := f.fn.getLsbD 1
  let w := fun i : Nat => (srcReg xs 2 i).word
  let rb := (w 2).toNat
  let st : Int := sgn 32 (w 3).toNat
  { copyTransfer f xs with
    kind := if scatter then 2 else 1, idx := (w 0).toNat, rows := (w 1).toNat, rowBytes := rb
    srcStride := if scatter then (rb : Int) else st, dstStride := if scatter then st else (rb : Int) }

def mapHeld (s : State) (c : Nat) (m : Option Nat) : Bool := (m.map fun i => ((s.core c).map i).held).getD false

def copyLane (r : ERule) (tr : List (List Reg) → Transfer) (f : FmtE) (c : Nat) (s : State) (k : Nat) (t : Thread) :
    LaneEff :=
  if !t.guard f.guard then skipLane c f.lit.isSome s k t
  else
    withSources (eSrcs r f) t s fun xs =>
      let x := tr xs
      withChannel s c k t f.unit.toNat
        (if !x.limits then .fault (fi fcIllegal) s
         else if mapHeld s c x.map then .fault (fi fcMapBusy) s
         else submit s c k t f.unit.toNat x none f.lit.isSome)

def chainLane (f : FmtE) (c : Nat) (s : State) (k : Nat) (t : Thread) : LaneEff :=
  if !t.guard f.guard then skipLane c f.lit.isSome s k t
  else
    withSources (eSrcs (ruleChain f) f) t s fun xs =>
      withChannel s c k t f.unit.toNat
        (withRelease s c k t .sy true fun s1 =>
          let ch := 4 * (c % 4) + f.unit.toNat
          let w := newWork s1 c k t none
          .done ((walkChain (freshChan s1 (c / 4) ch) (c / 4) ch w (srcPair xs 0)).modThread c k fun u =>
            u.advance s.clock f.lit.isSome))

/-- CH_STATUS (Table 6.7). -/
def Channel.status (x : Channel) : DWord :=
  w64 (x.state * 2 ^ 62 + b2n x.resume * 2 ^ 61 + x.code.toNat * 2 ^ 48 + x.row % 2 ^ 12 * 2 ^ 36 + x.records.toNat)

def chstatLane (f : FmtE) (c : Nat) (s : State) (k : Nat) (t : Thread) : LaneEff :=
  if !t.guard f.guard then skipLane c false s k t
  else
    withDst t f.dst.toNat 2 s
      (let x := chan s (c / 4) (4 * (c % 4) + f.unit.toNat)
       let u := if f.fn == 0 then t.writePair f.dst.toNat .u32 .u32 x.status
         else if f.fn == 1 then t.writePair f.dst.toNat .addrLo .addrHi x.head
         else t.writePair f.dst.toNat .raw .raw x.faddr
       .done (s.setThread c k (u.advance s.clock false)))

/-! ## Chunk maps (R234 to R236) -/

def cmMask (f : FmtE) (xs : List (List Reg)) : Nat :=
  if f.fn.getLsbD 0 then 2 ^ 128 - 1 else (srcW xs 0).toNat * 2 ^ (32 * f.var.toNat)

def covers (bits mask : Nat) : Bool := bits &&& mask == mask

def cmwaitLane (f : FmtE) (c : Nat) (s : State) (k : Nat) (t : Thread) : LaneEff :=
  if !t.guard f.guard then skipLane c f.lit.isSome s k t
  else
    withSources (eSrcs (ruleCmwait f) f) t s fun xs =>
      let m := (s.core c).map f.unit.toNat
      let mask := cmMask f xs
      if covers m.bits mask then
        .done ((acquireAt s c (if m.mem then .cl else .co)).setThread c k (t.advance s.clock f.lit.isSome))
      else if !m.held && m.code != 0 then .fault (fi m.code) s
      else .block (.mapBits f.unit.toNat mask) s

def cmtestLane (f : FmtE) (c : Nat) (s : State) (k : Nat) (t : Thread) : LaneEff :=
  if !t.guard f.guard then skipLane c false s k t
  else
    withDst t f.dst.toNat 1 s
      (let m := (s.core c).map f.unit.toNat
       let w := if f.fn == 0 then w32 (m.bits / 2 ^ (32 * f.var.toNat)) else w32 (b2n m.held * 2 ^ 31 + m.code.toNat)
       .done (s.setThread c k ((t.write f.dst.toNat .u32 w).advance s.clock false)))

def cmclrLane (f : FmtE) (c : Nat) (s : State) (k : Nat) (t : Thread) : LaneEff :=
  if !t.guard f.guard then skipLane c false s k t
  else if ((s.core c).map f.unit.toNat).held then .fault (fi fcMapBusy) s
  else .done ((s.modCore c fun x => x.setMap f.unit.toNat ChunkMap.clear).setThread c k (t.advance s.clock false))

/-! ## Rinks (R237 to R239) -/

def StageState.busy : StageState → Bool
  | .acquired => true
  | .inflight => true
  | .consuming => true
  | _ => false

def rkinitLane (f : FmtE) (c : Nat) (s : State) (k : Nat) (t : Thread) : LaneEff :=
  if !t.guard f.guard then skipLane c f.lit.isSome s k t
  else
    withSources (eSrcs (ruleRkinit f) f) t s fun xs =>
      let base := (srcW xs 0).toNat
      let size := (srcW xs 1).toNat
      let n := (srcW xs 2).toNat
      if base % 512 != 0 then .fault (fi fcAlign) s
      else if size < 512 || 65536 < size || size % 512 != 0 || n < 2 || 16 < n then .fault (fi fcIllegal) s
      else if (scratchAt s c k base (n * size)).isNone then .fault (fi fcProtect) s
      else if ((tabFind (s.core c).rk f.unit.toNat).map fun r => r.stages.any fun e => e.2.busy).getD false then
        .fault (fi fcRink) s
      else
        .done ((s.modCore c fun x => { x with rk := tabPut x.rk f.unit.toNat ⟨base, size, n, 0, 0, [], []⟩ }).setThread c k
          (t.advance s.clock f.lit.isSome))

/-- Index and offset of a stage, as RKACQ and RKWAIT write them. -/
def writeStage (f : FmtE) (r : Rink) (i : Nat) (t : Thread) : Thread :=
  t.writeAll f.dst.toNat [(.u32, w32 i), (.u32, w32 (r.base + i * r.size))]

/-- RKACQ and RKWAIT: the rink must be initialised, and the destination free. -/
def rinkLane (f : FmtE) (c : Nat) (s : State) (k : Nat) (t : Thread) (g : Rink → LaneEff) : LaneEff :=
  if !t.guard f.guard then skipLane c false s k t
  else
    match tabFind (s.core c).rk f.unit.toNat with
    | none => .fault (fi fcRink) s
    | some r => withDst t f.dst.toNat 2 s (g r)

def rkacqLane (f : FmtE) (c : Nat) (s : State) (k : Nat) (t : Thread) : LaneEff :=
  rinkLane f c s k t fun r =>
    if r.stage r.producer != .free then .block (.rinkFree f.unit.toNat) s
    else
      .done ((modRink s c f.unit.toNat fun x =>
        { x.setStage r.producer .acquired with producer := (r.producer + 1) % r.count }).setThread c k
        ((writeStage f r r.producer t).advance s.clock false))

/-- The acquire of RKWAIT is at .co: a stage lies in scratchpad (R155). -/
def rkwaitLane (f : FmtE) (c : Nat) (s : State) (k : Nat) (t : Thread) : LaneEff :=
  rinkLane f c s k t fun r =>
    match r.stage r.consumer with
    | .faulted e => .fault (fi e) s
    | .full =>
      .done ((modRink s c f.unit.toNat fun x =>
        { x.setStage r.consumer .consuming with consumer := (r.consumer + 1) % r.count }).setThread c k
        ((writeStage f r r.consumer t).advance s.clock false))
    | _ => .block (.rinkFull f.unit.toNat) s

def rkcommitTransfer (r : Rink) (i : Nat) (f : FmtE) (xs : List (List Reg)) : Transfer :=
  { kind := 0, src := addrOperand (f.var.getLsbD 0) xs 1, dst := w64 (r.base + i * r.size), srcSp := f.var.getLsbD 0
    dstSp := true, srcStride := 0, dstStride := 0, rows := 1, rowBytes := (srcW xs 2).toNat, idx := 0
    map := none, lc := none, toc := none }

def rkcommitLane (f : FmtE) (c : Nat) (s : State) (k : Nat) (t : Thread) : LaneEff :=
  if !t.guard f.guard then skipLane c f.lit.isSome s k t
  else
    withSources (eSrcs (ruleRkcommit f) f) t s fun xs =>
      let i := (srcW xs 0).toNat
      let n := (srcW xs 2).toNat
      let rk := f.unit.toNat % 8
      match tabFind (s.core c).rk rk with
      | none => .fault (fi fcRink) s
      | some r =>
        if r.count ≤ i || r.stage i != .acquired || r.size < n then .fault (fi fcRink) s
        else if n == 0 then
          withRelease s c k t .co true fun s1 =>
            .done ((modRink s1 c rk fun x => x.setStage i .full).setThread c k (t.advance s.clock f.lit.isSome))
        else
          withChannel s c k t (f.unit.toNat / 8)
            (let x := rkcommitTransfer r i f xs
             if !x.limits then .fault (fi fcIllegal) s
             else
               match submit s c k t (f.unit.toNat / 8) x (some (rk, i)) f.lit.isSome with
               | .done s1 => .done (modRink s1 c rk fun y => y.setStage i .inflight)
               | e => e)

def rkrelLane (f : FmtE) (c : Nat) (s : State) (k : Nat) (t : Thread) : LaneEff :=
  if !t.guard f.guard then skipLane c f.lit.isSome s k t
  else
    withSources (eSrcs (ruleRkrel f) f) t s fun xs =>
      let i := (srcW xs 0).toNat
      let go := fun g : Rink → Rink =>
        LaneEff.done ((modRink s c f.unit.toNat g).setThread c k (t.advance s.clock f.lit.isSome))
      match tabFind (s.core c).rk f.unit.toNat with
      | none => .fault (fi fcRink) s
      | some r =>
        if r.count ≤ i then .fault (fi fcRink) s
        else
          match r.stage i with
          | .consuming => go fun x => x.setStage i .free
          | .faulted _ =>
            if i == r.consumer then go fun x => { x.setStage i .free with consumer := (r.consumer + 1) % r.count }
            else .fault (fi fcRink) s
          | _ => .fault (fi fcRink) s

end Sys2Proof.Machine
end

