-- ==== Sys2Proof/Machine/Counters.lean ====
section
/-! DEFINITION. Counter instructions (R304 to R308) and the pace and control forms that only touch their thread or
core (R365, R375 to R378). -/

namespace Sys2Proof.Machine

/-! ## Counters -/

/-- A counter that fails R305: PROTECT, which freezes the core (Table 18.7). -/
def counterFault : FInfo := { fi fcProtect with freezing := true }

/-- The threshold of LCWAIT and TOWAIT (R304). -/
def thresholdOf (xs : List (List Reg)) : Nat := (srcReg xs 2 0).word.toNat + 2 ^ 32 * ((srcReg xs 2 1).word.toNat % 2 ^ 16)

def counterValue (s : State) (c : Nat) (takeoffCnt : Bool) (i : Nat) : Nat :=
  if takeoffCnt then (takeoff s (c / 64) i).toNat else (landing s i).count.toNat

def counterOwned (s : State) (c part : Nat) (takeoffCnt : Bool) (i : Nat) : Bool :=
  if takeoffCnt then takeoffOk s part (c / 64) i else landingOk s part i

/-- The wait's end with the counter reached, at the issue or after a wait: the predicate, and for LCWAIT the acquire
(R306). -/
def counterEnds (s : State) (c k : Nat) (t : Thread) (takeoffCnt : Bool) (p : Nat) (lit held : Bool) : State :=
  let u := t.setPred p true
  (if takeoffCnt then s else acquireAt s c .sy).setThread c k
    (if held then u.proceed s.clock lit else u.advance s.clock lit)

def cntWaitLane (takeoffCnt : Bool) (f : FmtE) (c : Nat) (s : State) (k : Nat) (t : Thread) : LaneEff :=
  if !t.guard f.guard then skipLane c f.lit.isSome s k t
  else
    withSources (eSrcs (ruleCntWait f) f) t s fun xs =>
      let i := (srcW xs 0).toNat
      let w := (srcW xs 1).toNat
      if !counterOwned s c (launchPart s t.seq) takeoffCnt i then .fault counterFault s
      else if reached (counterValue s c takeoffCnt i) (thresholdOf xs) then
        .done (counterEnds s c k t takeoffCnt f.dst.toNat f.lit.isSome false)
      else
        .block (.counter takeoffCnt i (thresholdOf xs) (if w == 0 then none else some (s.clock + w)) f.dst.toNat
          f.lit.isSome false) (s.setThread c k (t.spun s.clock))

/-- COUNTER_REACHED: a change has left the counter reached; the thread resumes also on a core that does not issue, whose
wait a save would otherwise lose. -/
def counterWake (s : State) (c k : Nat) : State :=
  match s.thread c k with
  | none => s
  | some t =>
    match t.status with
    | .blocked (.counter tk _ _ _ p lit true) => counterEnds s c k t tk p lit true
    | _ => s

/-- COUNTER_WAIT_TIMEOUT: the timeout passes first. -/
def counterExpire (s : State) (c k : Nat) : State :=
  match s.thread c k with
  | none => s
  | some t =>
    match t.status with
    | .blocked (.counter _ _ _ (some d) p lit false) =>
      if (s.core c).issues && d ≤ s.clock then s.setThread c k ((t.setPred p false).proceed s.clock lit) else s
    | _ => s

/-- A landing counter as LCREAD reads it (Table 4.14). -/
def Landing.word (x : Landing) : DWord := w64 (x.count.toNat * 2 ^ 16 + x.pending.toNat)

def lcreadLane (f : FmtE) (c : Nat) (s : State) (k : Nat) (t : Thread) : LaneEff :=
  if !t.guard f.guard then skipLane c f.lit.isSome s k t
  else
    withSources (eSrcs (ruleLcread f) f) t s fun xs =>
      withDst t f.dst.toNat 2 s
        (let i := (srcW xs 0).toNat
         if !landingOk s (launchPart s t.seq) i then .fault counterFault (emptyDsts s c k f.dst.toNat [.u32, .u32])
         else .done (s.setThread c k ((t.writePair f.dst.toNat .u32 .u32 (landing s i).word).advance s.clock f.lit.isSome)))

def lcaddLane (f : FmtE) (c : Nat) (s : State) (k : Nat) (t : Thread) : LaneEff :=
  if !t.guard f.guard then skipLane c f.lit.isSome s k t
  else
    withSources (eSrcs (ruleLcadd f) f) t s fun xs =>
      let i := (srcW xs 0).toNat
      if !landingOk s (launchPart s t.seq) i then .fault counterFault s
      else
        withRelease s c k t .de false fun s1 =>
          .done ((addLanding s1 i (sgn 32 (srcW xs 1).toNat)).setThread c k (t.advance s.clock f.lit.isSome))

/-! ## NOP, YIELD and PAUSE (R365, R169) -/

def yieldThread (clock : Nat) (t : Thread) : Thread := { t.advance clock false with status := .yielded (clock + 2) }
def pauseThread (clock : Nat) (t : Thread) : Thread := { t.advance clock false with demotedUntil := clock + 256 }

def paceLane (g : Guard) (f : Nat → Thread → Thread) (c : Nat) (s : State) (k : Nat) (t : Thread) : LaneEff :=
  if !t.guard g then skipLane c false s k t else .done (s.setThread c k (f s.clock t))

/-! ## TRAP and BRK (R375) -/

def trapLane (code : BitVec 8) (f : FmtS) (c : Nat) (s : State) (k : Nat) (t : Thread) : LaneEff :=
  if !t.guard f.guard then skipLane c false s k t else .fault { fi code with detail := f.imm8 } s

/-! ## CLOCK and PMARK (R378) -/

def clockLane (f : FmtS) (c : Nat) (s : State) (k : Nat) (t : Thread) : LaneEff :=
  if !t.guard f.guard then skipLane c false s k t
  else
    withDst t f.dst.toNat 2 s
      (.done (s.setThread c k ((t.writePair f.dst.toNat .u32 .u32 (w64 s.clock)).advance s.clock false)))

def pmarkLane (f : FmtS) (c : Nat) (s : State) (k : Nat) (t : Thread) : LaneEff :=
  if !t.guard f.guard then skipLane c false s k t
  else
    .done ((s.modCore c fun x => { x with pmark := f.imm8, pmarkCount := x.pmarkCount + 1 }).setThread c k
      (t.advance s.clock false))

end Sys2Proof.Machine
end

