-- ==== Sys2Proof/Machine/SysOps.lean ====
section
/-! DEFINITION. SREAD and SWRITE (R377, Tables 8.15 and 16.6), and starting work from the device: LAUNCH (R371), EPUSH
and EPOP (R372, R373), with the admission of tokens (R393, R394). -/

namespace Sys2Proof.Machine

/-! ## Special registers -/

/-- The rank of the module, as a partition's rank table gives it. -/
def selfRank (s : State) (p : Nat) : Nat := rtSelf s p

/-- %thread (Table 16.6). -/
def threadWord (s : State) (t : Thread) : Word :=
  w32 (b2n t.inHandler + 2 * min t.rstk.length 4 + 16 * b2n (decide (s.clock < t.demotedUntil)) + 32 * b2n t.epcWritten)

def u32s (d : DWord) : List (Tag × Word) := [(.u32, lo32 d), (.u32, hi32 d)]
def raws (d : DWord) : List (Tag × Word) := [(.raw, lo32 d), (.raw, hi32 d)]
def addrs (d : DWord) : List (Tag × Word) := [(.addrLo, lo32 d), (.addrHi, hi32 d)]

/-- A convergence register as SREAD returns it (Table 7.6). -/
def CvReg.words (v : CvReg) : List (Tag × Word) :=
  [(.raw, v.decl), (.raw, v.signed), (.raw, lo32 v.pc), (.raw, hi32 v.pc), (.raw, v.gmask)]

/-- The words that a selector reads, with their tags. -/
def selRead (s : State) (c k : Nat) (t : Thread) (sel : Nat) : List (Tag × Word) :=
  let one := fun n : Nat => [(Tag.u32, w32 n)]
  let x := s.core c
  if sel == 1 then one (k % 32)
  else if sel == 2 then one (k / 32)
  else if sel == 3 then one (c % 4)
  else if sel == 4 then one (c / 4 % 16)
  else if sel == 5 then one (c / 64)
  else if sel == 6 then one (selfRank s (launchPart s t.seq))
  else if 0x10 ≤ sel && sel ≤ 0x17 then one ((t.gid[sel - 0x10]?).getD 0)
  else if 0x18 ≤ sel && sel ≤ 0x1F then one ((t.ext[sel - 0x18]?).getD 1)
  else if sel == 0x20 then u32s (w64 s.clock)
  else if sel == 0x30 then raws t.trapinfo
  else if 0x40 ≤ sel && sel ≤ 0x43 then (cvReg s ⟨c, k / 32, sel - 0x40⟩).words
  else if sel == 0x100 then addrs t.epc
  else if sel == 0x101 then addrs t.eblk
  else if sel == 0x102 then [(.u32, threadWord s t)]
  else if 0x104 ≤ sel && sel ≤ 0x107 then raws (t.frec.extractLsb' (64 * (sel - 0x104)) 64)
  else if 0x108 ≤ sel && sel ≤ 0x10B then addrs ((t.rstk[sel - 0x108]?).getD 0)
  else if sel == 0x110 then one (t.preds.toNat + 128)
  else [(.u32, x.pmark.setWidth 32), (.u32, x.pmarkCount)]

def sreadLane (f : FmtS) (c : Nat) (s : State) (k : Nat) (t : Thread) : LaneEff :=
  if !t.guard f.guard then skipLane c false s k t
  else
    let ws := selRead s c k t f.sel.toNat
    withDst t f.dst.toNat ws.length s (.done (s.setThread c k ((t.writeAll f.dst.toNat ws).advance s.clock false)))

def swriteLane (f : FmtS) (c : Nat) (s : State) (k : Nat) (t : Thread) : LaneEff :=
  if !t.guard f.guard then skipLane c false s k t
  else
    withSources (swriteSrcs f) t s fun xs =>
      if f.sel == 0x100 && t.inHandler then
        .done (s.setThread c k ({ t with epc := srcPair xs 0 &&& ~~~ 7, epcWritten := true }.advance s.clock false))
      else if f.sel == 0x110 then
        .done (s.setThread c k ({ t with preds := (srcW xs 0).setWidth 7 }.advance s.clock false))
      else .fault (fi fcIllegal) s

/-! ## LAUNCH (R371) -/

/-- Whole sectors read with their codes checked. -/
def readSectors (mask : BitVec 24) (slot : Nat) : Nat → State → Nat → HomeRes (List Datum)
  | 0, s, _ => .ok [] s
  | n + 1, s, dpa =>
    match homeReadChecked s dpa slot 16 mask with
    | .fail c s1 => .fail c s1
    | .ok ws s1 =>
      match readSectors mask slot n s1 (dpa + 64) with
      | .fail c s2 => .fail c s2
      | .ok vs s2 => .ok (ws ++ vs) s2

/-- The 256 bytes of a record, read as a local load (R371, R427). -/
def readRecordAt (s : State) (w : Place) (part : Nat) (a : DWord) : Except FInfo (BitVec 2048) × State :=
  match addrOf a with
  | .local va =>
    match translate s w part va .load .page none with
    | (.error x, s1) => (.error (fiX x .load a), s1)
    | (.ok l, s1) =>
      if l.host then (.error (fiAt fcProtect .load a), s1)
      else
        match readSectors (s1.part part).l2Ways l.slot 4 s1 (leafAddr l va) with
        | .fail x s2 => (.error (fiAt x .load a), s2)
        | .ok ws s2 => (.ok (BitVec.ofNat 2048 (wordsVal ws)), s2)
  | .bad => (.error (fiX ⟨fcXlate, 1, false, 0⟩ .load a), s)
  | _ => (.error (fiAt fcProtect .load a), s)

def readRecord (s : State) (c part : Nat) (a : DWord) : Except FInfo (BitVec 2048) × State :=
  readRecordAt s (corePlace c) part a

def isGlobal (a : DWord) : Bool :=
  match addrOf a with
  | .unicast _ _ _ => true
  | .multicast _ _ _ => true
  | _ => false

def launchLane (f : FmtE) (c : Nat) (s : State) (k : Nat) (t : Thread) : LaneEff :=
  if !t.guard f.guard then skipLane c f.lit.isSome s k t
  else
    withSources (eSrcs ruleLaunch f) t s fun xs =>
      withDst t f.dst.toNat 1 s
        (let a := srcPair xs 0
         let part := launchPart s t.seq
         if a.toNat % 256 != 0 then .fault (fiAt fcAlign .load a) s
         else if isGlobal a then .fault (fiAt fcProtect .load a) s
         else
           withRelease s c k t .sy true fun s1 =>
             match readRecord s1 c part a with
             | (.error i, s2) => .fault i s2
             | (.ok r, s2) =>
               .block (.router f.dst.toNat f.lit.isSome)
                 (({ s2 with routerQ := s2.routerQ ++ [⟨part, r, launchQueue s t.seq, .thread c k t.uid, none⟩] } : State).setThread c k
                   (t.spun s.clock)))

/-! ## Edges (R372, R373, R392 to R395) -/

/-- Edge descriptor j of a launch: valid, out, id and capacity (Table 17.2). -/
structure EdgeDesc where
  valid : Bool
  out : Bool
  id : Nat
  cap : Nat

def edgeDesc (r : Nat) (j : Nat) : EdgeDesc :=
  let x := field r (384 + 16 * j + 15) (384 + 16 * j)
  ⟨bit x 15, bit x 14, field x 13 8, field x 5 0 + 1⟩

def launchRecord (s : State) (seq : Nat) : Nat := ((tabFind s.launches seq).map fun l => l.record.toNat).getD 0

def Part.edge (x : Part) (e : Nat) : Edge := tabGet Edge.free x.edges e
def setEdge (s : State) (p e : Nat) (v : Edge) : State :=
  let x := s.part p
  s.setPart p { x with edges := tabSet Edge.free x.edges e v }

/-- Extent of a launch's top level. -/
def topExt (s : State) (seq : Nat) : Nat := field (levelWord s seq (launchTop s seq)) 23 0

/-- A token spawns a top-level gang of its consumer. -/
def spawn (s : State) (seq e : Nat) (tk : Token) : State :=
  modLaunch s seq fun l =>
    { l with admitted := l.admitted + 1
             gangs := l.gangs ++ [⟨l.admitted, .waiting, s.clock, 0, 0, 0, some (e, tk.lo, tk.hi), false⟩] }

/-- Tokens of an OPEN edge are admitted in their order, up to the launch's extent (R393, R394). -/
def admitGo (seq e : Nat) : List Token → List Token → State → List Token × State
  | done, [], s => (done, s)
  | done, tk :: rest, s =>
    if tk.admitted then admitGo seq e (done ++ [tk]) rest s
    else if topExt s seq ≤ ((tabFind s.launches seq).map Launch.admitted).getD 0 then (done ++ tk :: rest, s)
    else admitGo seq e (done ++ [{ tk with admitted := true }]) rest (spawn s seq e tk)

/-- Admission, and the consumer's becoming owed at a full edge (R395). -/
def admitEdge (s : State) (p e : Nat) : State :=
  let x := (s.part p).edge e
  match x.consumer with
  | none => s
  | some q =>
    if x.state != 3 && x.state != 4 then s
    else
      let r := admitGo q e [] x.tokens s
      let s1 := setEdge r.2 p e { x with tokens := r.1 }
      if x.state == 3 && x.cap ≤ x.tokens.length then
        { modLaunch s1 q (fun l => { l with owed := l.owed.orElse fun _ => some s1.nextId }) with nextId := s1.nextId + 1 }
      else s1

/-- The token of a gang is freed: an edge that is CLOSED, empty and held by none is FREE again. -/
def freeToken (s : State) (p e : Nat) : State :=
  let x := (s.part p).edge e
  let drop := fun ts : List Token => match ts with
    | [] => []
    | tk :: rest => if tk.admitted then rest else tk :: rest
  let y := { x with tokens := drop x.tokens }
  admitEdge (setEdge s p e (if y.state == 4 && y.producer.isNone && y.consumer.isNone && y.tokens.isEmpty then Edge.free
    else y)) p e

def epushLane (f : FmtE) (c : Nat) (s : State) (k : Nat) (t : Thread) : LaneEff :=
  if !t.guard f.guard then skipLane c f.lit.isSome s k t
  else
    withSources (eSrcs ruleEpush f) t s fun xs =>
      let d := edgeDesc (launchRecord s t.seq) f.unit.toNat
      let p := launchPart s t.seq
      let x := (s.part p).edge d.id
      if !d.valid || !d.out || x.state == 4 then .fault (fi fcEdge) s
      else
        withRelease s c k t .sy true fun s1 =>
          if x.cap ≤ x.tokens.length then .block (.edge d.id) s1
          else
            let ds := srcData xs 0
            let tk : Token := ⟨(ds.head?).getD zeroDatum, (ds[1]?).getD zeroDatum, false⟩
            .done ((admitEdge (setEdge s1 p d.id { x with tokens := x.tokens ++ [tk] }) p d.id).setThread c k
              (t.advance s.clock f.lit.isSome))

/-- The top-level gang of a thread. -/
def topGangOf (s : State) (c k : Nat) (t : Thread) : Option TopGang :=
  (tabFind s.launches t.seq).bind fun l => l.gangs.find? fun g => g.idx == topOf s c k

def modGang (s : State) (seq idx : Nat) (f : TopGang → TopGang) : State :=
  modLaunch s seq fun l => { l with gangs := l.gangs.map fun g => if g.idx == idx then f g else g }

def epopLane (f : FmtE) (c : Nat) (s : State) (k : Nat) (t : Thread) : LaneEff :=
  if !t.guard f.guard then skipLane c false s k t
  else
    withDst t f.dst.toNat 2 s
      (let d := edgeDesc (launchRecord s t.seq) f.unit.toNat
       match topGangOf s c k t with
       | none => .fault (fi fcEdge) s
       | some g =>
         match g.token.filter fun x => d.valid && !d.out && x.1 == d.id with
         | none => .fault (fi fcEdge) s
         | some (e, lo, hi) =>
           if !Datum.okay lo || !Datum.okay hi then .fault (fi fcDatum) s
           else
             let s1 := if g.popped then s
               else freeToken (modGang s t.seq g.idx fun y => { y with popped := true }) (launchPart s t.seq) e
             .done (s1.setThread c k ((t.fillAll f.dst.toNat [(.raw, lo), (.raw, hi)]).advance s.clock false)))

end Sys2Proof.Machine
end

