-- ==== Sys2Proof/Machine/Collective.lean ====
section
/-! DEFINITION. Collective engines (R341 to R357): gates, their firing, reductions, groups and headcount rounds; and
one lane of each instruction of class 0xB (R309 to R315). -/

namespace Sys2Proof.Machine

/-! ## Gate entries (Table 15.2, R343) -/

def gateOf (x : Nat) : Gate :=
  { dst := w64 (field x 511 448), src := w64 (field x 447 384), ver := field x 383 352, group := field x 351 336
    coll := field x 335 320, thr := field x 319 272, expect := field x 271 256, words := field x 255 242 + 1
    lc := field x 241 228, dlc := field x 227 214, toc := field x 213 202, value := BitVec.ofNat 32 (field x 95 64)
    kind := field x 31 30, op := field x 29 27, fmt := field x 26 23, rel := bit x 22, newctx := bit x 21
    relative := bit x 18, dlcEn := bit x 17, toEn := bit x 16, armEn := bit x 15 }

/-- Address kinds by bits <63:62> alone (Table 3.1). -/
def isLocal (a : DWord) : Bool := !bit a.toNat 63
def isUnicast (a : DWord) : Bool := bit a.toNat 63 && !bit a.toNat 62
def isMulticast (a : DWord) : Bool := bit a.toNat 63 && bit a.toNat 62

/-- The address kinds of Table 15.2. -/
def gateAddrsOk (g : Gate) : Bool :=
  (g.kind == 2 || isLocal g.src) &&
  (match g.kind with
   | 1 => isUnicast g.dst
   | 3 => isLocal g.dst
   | _ => !isLocal g.dst)

def gateMalformed (x : Nat) : Bool :=
  let g := gateOf x
  field x 201 96 != 0 || field x 63 32 != 0 || field x 20 19 != 0 || field x 14 0 != 0 ||
  (g.kind == 1 && (2 < g.op || g.fmt < 1 || 5 < g.fmt)) || (g.kind != 1 && (g.op != 0 || g.fmt != 0)) ||
  (g.kind != 2 && g.value != 0) || (g.kind == 2 && (g.src != 0 || g.words != 1)) ||
  g.dst.toNat % 4 != 0 || g.src.toNat % 4 != 0 || ((g.relative || 0 < g.expect) && !g.armEn) || !gateAddrsOk g

/-! ## Groups (R354) -/

def Part.group (x : Part) (i : Nat) : GroupSlot := tabGet GroupSlot.zero x.groups i
def setGroup (s : State) (p i : Nat) (g : GroupSlot) : State :=
  let x := s.part p
  s.setPart p { x with groups := tabSet GroupSlot.zero x.groups i g }

/-- The slot of a group that is valid for a partition. -/
def groupSlot (s : State) (p g : Nat) : Option (Nat × GroupSlot) :=
  if groupOwned s p g then (s.part p).groups.find? fun e => e.2.valid && e.2.group == g else none

/-- The version after a version (R355). -/
def nextVersion (v : Nat) : Nat := if v == 0xFFFFFFFF then 1 else v + 1

/-! ## Gate slots -/

/-- The gate word (Table 13.7). -/
def GateSlot.word (g : GateSlot) : Word := w32 (g.state * 2 ^ 29 + (if g.state == 4 then g.code.toNat * 2 ^ 16 else 0))

/-- The expectation of a gate that leaves ARMED is taken back (R344). -/
def dropExpect (s : State) (g : GateSlot) : State :=
  match g.gate.filter fun _ => g.state == 1 with
  | none => s
  | some e =>
    if e.armEn then
      let x := landing s e.lc
      setLanding s e.lc { x with pending := x.pending - BitVec.ofNat 16 e.expect }
    else s

/-- A collective's context is released on every die (R351). -/
def releaseCtx (s : State) (part group coll : Nat) : State :=
  s.dies.foldl (fun st e =>
    let x := st.die e.1
    st.setDie e.1 { x with ctxs := x.ctxs.filter fun c => !(c.part == part && c.group == group && c.coll == coll) }) s

/-- A gate finishes: its slot keeps the final state (R311), and a context may be released (R351). -/
def finishGate (s : State) (d i state : Nat) (code : BitVec 8) : State :=
  let g := gate s d i
  let s1 := dropExpect s g
  let s2 := setGate s1 d i { g with state := state, code := code, finished := s1.nextId, ready := false, heldBack := false }
  let s3 := { s2 with nextId := s2.nextId + 1 }
  match g.gate.filter Gate.rel with
  | some e => releaseCtx s3 g.part e.group e.coll
  | none => s3

/-! ## Reductions (R348 to R351) -/

/-- One element word combined (Table 15.4). -/
def combineWord (op : AtomOp) (fmt : Tag) (d c : Word) : Word :=
  let f := fmtOfTag fmt
  joinElems fmt fun i =>
    let a := elem fmt d i
    let b := elem fmt c i
    if (ffmtOf fmt).isSome then
      match op with
      | .min => minNum f a b
      | .max => maxNum f a b
      | _ => rndT f .rne (sumF .rne [decodeF f a, decodeF f b])
    else
      let x := intElem fmt a
      let y := intElem fmt b
      match op with
      | .min => wrap (elemBits fmt) (min x y)
      | .max => wrap (elemBits fmt) (max x y)
      | _ => wrap (elemBits fmt) (x + y)

def findCtx (s : State) (part group coll : Nat) : Option (Nat × RedCtx) :=
  (s.dies.map fun e => (e.2.ctxs.filter fun c => c.part == part && c.group == group && c.coll == coll).map fun c =>
    (e.1, c)).flatten.head?

def putCtx (s : State) (d : Nat) (c : RedCtx) : State :=
  let x := s.die d
  s.setDie d { x with ctxs := x.ctxs.map fun y =>
    if y.part == c.part && y.group == c.group && y.coll == c.coll then c else y }

/-- Every gate of a collective that is not DONE becomes FAULTED, whatever it had come to, and its context is released
(R353). -/
def abortGates (s : State) (part group coll : Nat) : State :=
  let mine := fun g : GateSlot => g.state != 0 && g.state != 3 && g.part == part &&
    (g.gate.map fun e => e.group == group && e.coll == coll).getD false
  releaseCtx (((allGates s).filter fun e => mine e.2.2).foldl (fun st e => finishGate st e.1 e.2.1 4 fcGen) s)
    part group coll

/-- A notice to a rank: to its pod position, or on the remote fabric. -/
def notify (s : State) (p rank : Nat) (m : PodMsg) : State :=
  match resolveRank s p rank with
  | .pod hid _ => podPut s (routePort s (hid % 16)) 0 (.member (hid % 16) m)
  | .remote hid _ => { s with remoteOut := s.remoteOut ++ [.notice hid m] }
  | _ => s

/-- A stale generation aborts the collective: a notice goes to every member (R353). -/
def abortColl (s : State) (part group coll : Nat) : State :=
  let ms := ((groupSlot s part group).map fun e => e.2.members).getD []
  let s1 := ms.foldl (fun st r =>
    if r == selfRank st part then st else notify st part r (.abortNotice r group coll)) s
  match findCtx s1 part group coll with
  | some (d, c) => abortGates (putCtx s1 d { c with aborted := true }) part group coll
  | none => abortGates s1 part group coll

/-! ### Chunks and their pieces -/

/-- A reduction chunk's piece, as its request carries it. -/
structure Piece where
  group : Nat
  coll : Nat
  src : Nat
  seq : Nat
  index : Nat
  first : Nat
  total : Nat
  op : AtomOp
  fmt : Tag
  ws : List Datum

def pieceOf (r : FabReq) : Option Piece :=
  match r.op with
  | .reduce g c sr sq i a n op fmt ws => some ⟨g, c, sr, sq, i, a, n, op, fmt, ws⟩
  | _ => none

/-- Two pieces are of one chunk. -/
def sameChunk (x y : FabReq) : Bool :=
  x.part == y.part && match pieceOf x, pieceOf y with
    | some a, some b => a.group == b.group && a.coll == b.coll && a.src == b.src && a.seq == b.seq && a.index == b.index
    | _, _ => false

/-- Steps 7 to 11 for a piece at its home: its device address and key slot, or the home's refusal. The leaf must have the
region's class (R71), and both must be UN (R348). -/
def placePiece (s : State) (r : FabReq) : Except FabReply (Nat × Nat) × State :=
  let va := regionLocal s r.part r.region r.offset
  match translate s inPlace r.part va .atomic .page (some r.cls) with
  | (.error x, s1) => (.error (.refused x.code (x.step == 8)), s1)
  | (.ok l, s1) =>
    if l.host || r.cls != .un then (.error (.refused fcProtect false), s1) else (.ok (leafAddr l va, l.slot), s1)

def placePieces : List FabReq → State → Except FabReply (List (Nat × Nat)) × State
  | [], s => (.ok [], s)
  | r :: rs, s =>
    match placePiece s r with
    | (.error e, s1) => (.error e, s1)
    | (.ok x, s1) =>
      match placePieces rs s1 with
      | (.error e, s2) => (.error e, s2)
      | (.ok xs, s2) => (.ok (x :: xs), s2)

/-- The destination words of every piece, checked at the home and refetched where R26 allows. -/
def readPieces (mask : BitVec 24) : List (Nat × Nat × Nat) → State → HomeRes (List (List Datum))
  | [], s => .ok [] s
  | (dpa, slot, n) :: ps, s =>
    match readChecked mask slot n s dpa n with
    | .fail c s1 => .fail c s1
    | .ok ws s1 =>
      match readPieces mask ps s1 with
      | .fail c s2 => .fail c s2
      | .ok wss s2 => .ok (ws :: wss) s2

def writablePieces (mask : BitVec 24) : List (Nat × Nat × Nat) → State → HomeRes Unit
  | [], s => .ok () s
  | (dpa, slot, n) :: ps, s =>
    match writable mask slot n s dpa n with
    | .fail c s1 => .fail c s1
    | .ok _ s1 => writablePieces mask ps s1

/-- Every element of a chunk is combined and written, or none (R349). -/
def combinePieces (s : State) (mask : BitVec 24) (h : Piece) (ps : List Piece) (xs : List (Nat × Nat)) : HomeRes Unit :=
  let runs := List.zipWith (fun (p : Piece) x => (x.1, x.2, p.ws.length)) ps xs
  match readPieces mask runs s with
  | .fail c s1 => .fail c s1
  | .ok olds s1 =>
    match writablePieces mask runs s1 with
    | .fail c s2 => .fail c s2
    | .ok _ s2 =>
      .ok () ((List.zip ps (List.zip xs olds)).foldl (fun st e =>
        writeRange mask e.2.1.2 e.1.ws.length st e.2.1.1
          (List.zipWith (fun a b => mk (combineWord h.op h.fmt a.word b.word)) e.2.2 e.1.ws)) s2)

/-- The sectors of a chunk, counted at the home. -/
def countChunk (s : State) (r : FabReq) (ps : List Piece) (xs : List (Nat × Nat)) : State :=
  match r.lc with
  | some i => addLanding s i (((List.zipWith (fun (p : Piece) x => sectorsOf x.1 (4 * p.ws.length)) ps xs).foldl (· + ·) 0 : Nat))
  | none => s

/-- What the home does with a chunk, given its pieces in order (R349): none while it waits for an apply-map entry. -/
def reduceApply (s : State) (rs : List FabReq) : Option (FabReply × State) :=
  let ps := rs.filterMap pieceOf
  let refuse := fun (c : BitVec 8) (st : State) => some (FabReply.refused c false, st)
  match rs.head?, ps.head? with
  | some r, some h =>
    match placePieces rs s with
    | (.error e, s1) => some (e, s1)
    | (.ok xs, s1) =>
      match findCtx s1 r.part h.group h.coll with
      | none => refuse fcNoSlot s1
      | some (d, c) =>
        if c.aborted then refuse fcGen s1
        else if (List.zip rs xs).any fun x => x.1.keygen != (s1.key x.2.2).gen then refuse fcGen (abortColl s1 r.part h.group h.coll)
        else
          let m := c.maps.find? fun m => m.src == h.src && m.seq == h.seq
          if m.isNone && 256 ≤ c.maps.length then none
          else
            let e := m.getD ⟨h.src, h.seq, 0⟩
            if bit e.bits h.index then some (.ack, s1)
            else if !(ps.all fun p => p.ws.all Datum.okay) then refuse fcDatum s1
            else if (r.lc.map fun i => !landingOk s1 r.part i).getD false then refuse fcProtect s1
            else
              match combinePieces s1 (s1.part r.part).l2Ways h ps xs with
              | .fail x s2 => refuse x s2
              | .ok _ s2 =>
                let rest := c.maps.filter fun y => !(y.src == h.src && y.seq == h.seq)
                let s3 := putCtx s2 d { c with maps := rest ++ [{ e with bits := e.bits + 2 ^ h.index }] }
                some (.ack, countChunk s3 r ps xs)
  | _, _ => refuse fcProtect s

/-- A SIGNAL at its destination module (R346): it adds as LCADD does. A generation that the destination's leaf does
not hold is refused (R353). -/
def signalApply (s : State) (w : Place) (r : FabReq) (v : BitVec 32) : FabReply × State :=
  match r.lc with
  | none => (.refused fcProtect false, s)
  | some i =>
    let g := translate s w r.part (regionLocal s r.part r.region r.offset) .load .page none
    let stale := match g.1 with
      | .ok l => r.keygen != (g.2.key l.slot).gen
      | .error _ => false
    if stale then (.refused fcGen false, g.2)
    else if !landingOk g.2 r.part i then (.refused fcProtect false, g.2)
    else (.ack, addLanding g.2 i (sgn 32 v.toNat))

/-- A gate's WRITE whose generation the home's slot does not hold (R353). Threads and copies send generation 0. -/
def staleWrite (s : State) (w : Place) (r : FabReq) : Bool × State :=
  match r.op, r.keygen with
  | .write _, 0 => (false, s)
  | .write _, _ =>
    match translate s w r.part (regionLocal s r.part r.region r.offset) .store .page (some r.cls) with
    | (.ok l, s1) => (r.keygen != (s1.key l.slot).gen, s1)
    | (.error _, s1) => (false, s1)
  | _, _ => (false, s)

/-- Every request but a reduction's as its home performs it, translated where `w` stands. -/
def performRequest (s : State) (w : Place) (r : FabReq) : FabReply × State :=
  match r.op with
  | .signal v => signalApply s w r v
  | _ =>
    let x := staleWrite s w r
    if x.1 then (.refused fcGen false, x.2) else homeRequest x.2 w r

/-! ## Answers to sources (R107, R114) -/

def podWindow : Nat := 4096
def seqAfter (n : Nat) : Nat := (n + 1) % 2 ^ 24

/-- The lowest number not received yet moves past those that have been. -/
def gapAfter (seen : List (Nat × Option FabReply)) : Nat → Nat → Nat
  | 0, n => n
  | f + 1, n => if seen.any fun e => e.1 == n then gapAfter seen f (seqAfter n) else n

/-- A transaction takes its place in the window, which holds the last 4,096 numbers up to the highest received (R107). -/
def windowPut (rx : PodRx) (seq : Nat) (r : Option FabReply) : PodRx :=
  let top := if seqSpan rx.top (seqAfter seq) < 2 ^ 23 then seqAfter seq else rx.top
  let seen := ((seq, r) :: rx.seen.filter fun e => e.1 != seq).filter fun e => seqSpan e.1 top ≤ podWindow
  ⟨seen, top, gapAfter seen podWindow rx.soNext⟩

/-- The answer to a peer's transaction is kept and sent. -/
def answerPod (s : State) (src seq : Nat) (r : FabReply) : State :=
  let p := s.peer src
  let s1 := s.setPeer src { p with rx := windowPut p.rx seq (some r) }
  podPut s1 (routePort s1 src) 0 (.answer src seq r)

/-- No source sends a request again after this time (R116). -/
def answerTime : Nat := 2 * 10 ^ 12

/-- The answer to a remote request is sent, and kept where the request may come again (R114). -/
def answerRemote (s : State) (f : RemoteFrom) (keep : Bool) (r : FabReply) : State :=
  let live := s.remoteRx.filter fun e => s.time < e.at_ + answerTime
  { s with remoteOut := s.remoteOut ++ [.answer f.src f.port f.id r]
           remoteRx := if keep then ⟨f, r, s.time⟩ :: live else live }

/-! ## Firing (R345 to R347) -/

/-- The first access to fail ends further issue (R347). -/
def gateFail (s : State) (d i : Nat) (e : WorkFault) : State :=
  let g := gate s d i
  setGate s d i { g with buf := [], fail := g.fail.orElse fun _ => some e }

def gateToc (s : State) (d : Nat) (e : Gate) (a n : Nat) : State :=
  if e.toEn then addTakeoff s d e.toc (sectorsOf a (4 * n)) else s

/-- The verdict on a part of a gate's accesses: an acknowledgement, or its failure. -/
def gateVerdict (s : State) (d i seq word n : Nat) (write : Bool) (r : Except (BitVec 8) FabReply) : State :=
  let g := gate s d i
  match g.gate.filter fun _ => g.seq == seq && g.state == 2 with
  | none => s
  | some e =>
    let a := (if write then e.dst else e.src) + w64 (4 * word)
    match r with
    | .error c => gateFail s d i (wfault c (b2n write) 0 a)
    | .ok .ack => if e.kind == 2 then s else gateToc s d e a.toNat n
    | .ok _ => gateFail s d i (wfault fcRemote (b2n write) 0 a)

/-! ### The staging SRAM (R341) -/

def stagedBytes (xs : List Staged) : Nat :=
  (xs.map fun x => 4 * ((pieceOf x.req).map fun p => p.ws.length).getD 0).foldl (· + ·) 0

/-- Pieces of a chunk in the order of their words. -/
def insertPiece (x : Staged) : List Staged → List Staged
  | [] => [x]
  | y :: ys =>
    if ((pieceOf x.req).map Piece.first).getD 0 ≤ ((pieceOf y.req).map Piece.first).getD 0 then x :: y :: ys
    else y :: insertPiece x ys

/-- Who sent a piece receives its answer. -/
def answerStaged (r : FabReply) (s : State) (x : Staged) : State :=
  match x.from_ with
  | .pod src seq => answerPod s src seq r
  | .remote f => answerRemote s f true r
  | .gate d i seq word n => gateVerdict s d i seq word n true (.ok r)

/-- A chunk whose pieces have all come is applied or refused as a whole, and each piece is answered (R349). It stays
staged while it waits for an apply-map entry, or for a frame that is being bound (R57). -/
def tryChunk (s : State) (d n : Nat) : State :=
  match (s.die d).staged[n]? with
  | none => s
  | some x =>
    let mine := ((s.die d).staged.filter fun y => sameChunk x.req y.req).foldr insertPiece []
    let total := ((pieceOf x.req).map Piece.total).getD 0
    if (mine.map fun y => ((pieceOf y.req).map fun p => p.ws.length).getD 0).foldl (· + ·) 0 < total then s
    else
      match reduceApply s (mine.map Staged.req) with
      | none => s
      | some (r, s1) =>
        if s1.stalled then s
        else
          let y := s1.die d
          mine.foldl (answerStaged r) (s1.setDie d { y with staged := y.staged.filter fun z => !sameChunk x.req z.req })

/-- The engine that receives a chunk (DESIGN CHOICE, log entry 35). -/
def stageDie (r : FabReq) : Nat := ((pieceOf r).map fun p => p.index % 8).getD 0

/-- A piece arrives: it is refused at once in a region that is not UN (R348), waits outside while the SRAM is full, or
is staged. -/
def stagePiece (s : State) (f : ChunkFrom) (r : FabReq) : State :=
  let d := stageDie r
  let x : Staged := ⟨f, r⟩
  if r.cls != .un then
    match placePiece s r with
    | (.error e, s1) => answerStaged e s1 x
    | (.ok _, s1) => answerStaged (.refused fcProtect false) s1 x
  else if 2 ^ 21 < stagedBytes ((s.die d).staged ++ [x]) then { s with stalled := true }
  else
    let y := s.die d
    tryChunk (s.setDie d { y with staged := y.staged ++ [x] }) d y.staged.length

/-! ### Sending -/

/-- The sequence number that a gate's chunks carry: its die, slot and slot sequence (R350). -/
def gateSeqNo (d i : Nat) (g : GateSlot) : Nat := d * 2 ^ 24 + g.seq * 2 ^ 12 + i

def redOp (n : Nat) : AtomOp := if n == 1 then .min else if n == 2 then .max else .add

/-- The request that carries a part of a gate's words, or its signal, under the key generation that the slot of its
world holds (R353, R422). -/
def gateReq (s : State) (d i : Nat) (g : GateSlot) (e : Gate) (dest : GDest) (word : Nat) (ws : List Datum) : FabReq :=
  let lc := if e.kind == 2 || (e.dlcEn && dest.cls == .un) then some e.dlc else none
  { part := g.part, region := dest.region, offset := dest.offset, cls := dest.cls, lc := lc
    count := sectorsOf dest.offset (4 * ws.length), keygen := (s.key g.keySlot).gen
    op := match e.kind with
      | 1 => .reduce e.group e.coll (selfRank s g.part) (gateSeqNo d i g) (word / 128) (word % 128)
               (min 128 (e.words - word / 128 * 128)) (redOp e.op) ((tagOf e.fmt).getD .raw) ws
      | 2 => .signal e.value
      | _ => .write ws }

/-- Where a part goes: steps 1 to 6 for a write; a SIGNAL has no access to check against a region. The chunks of a REDUCE
read and write their destination, and are checked as atomics (DESIGN CHOICE, log entry 99). -/
def gateDest (s : State) (part : Nat) (e : Gate) (a : DWord) : Except XFail GDest :=
  if e.kind != 2 then
    match sourceCheck s part (addrOf a) (if e.kind == 1 then .atomic else .store) .page with
    | .error x => .error x.1
    | .ok d => .ok d
  else if isLocal a || (match addrOf a with | .bad => true | _ => false) then .error ⟨fcXlate, 1, false, 0⟩
  else if !(s.part part).xlGlobal then .error ⟨fcProtect, 3, false, 0⟩
  else
    match addrOf a with
    | .unicast rank region offset =>
      (match resolveRank s part rank with
       | .loc _ _ => .ok ⟨.self, region, offset, .un, .none⟩
       | .pod hid _ => .ok ⟨.pod (hid % 16), region, offset, .un, .none⟩
       | .remote hid prof => .ok ⟨.remote hid prof, region, offset, .un, routeOf s part (.remote hid prof)⟩
       | .dead _ => .error ⟨fcPeerDead, 4, false, 0⟩
       | .invalid => .error ⟨fcRank, 4, false, 0⟩)
    | .multicast g region offset =>
      if groupOwned s part g then .ok ⟨.multicast g, region, offset, .un, .none⟩
      else .error ⟨fcProtect, 6, false, 0⟩
    | _ => .error ⟨fcXlate, 1, false, 0⟩

/-- The module's own answer to a part of a gate. -/
def gateSelf (s : State) (d i word n : Nat) (r : FabReq) : State :=
  let g := gate s d i
  if (pieceOf r).isSome then stagePiece s (.gate d i g.seq word n) r
  else
    let x := performRequest s (diePlace d) r
    gateVerdict x.2 d i g.seq word n true (.ok x.1)

/-- A COPY gate's part: a write of the issuing module (R346). In plain PCIe mode only the completion of a zero-length read
shows that a host write is performed (Table 14.2). -/
def gateLocal (s : State) (d i : Nat) (g : GateSlot) (e : Gate) (a : DWord) (va : Nat) (ws : List Datum) : State :=
  match translate s (diePlace d) g.part va .store .page none with
  | (.error x, s1) => gateFail s1 d i (engineFail x 1 0 a)
  | (.ok l, s1) =>
    let p := leafAddr l va
    let lc := if e.dlcEn && l.cls == .un && !l.host then some e.dlc else none
    if l.host then
      let s2 := hostWrite s1 p (wordBytes ws) l.cls l.via
      if s.cxl then s2 else hostReadVia s2 0 0 (.gate d i g.seq ((a - e.dst).toNat / 4) ws.length true) l.via
    else if (lc.map fun j => !landingOk s1 g.part j).getD false then gateFail s1 d i ⟨fcProtect, 1, 0, a, true, false⟩
    else
      match placeWords s1 p l.slot ws (s1.part g.part).l2Ways with
      | .fail c s2 => gateFail s2 d i (wfault c 1 0 a)
      | .ok _ s2 =>
        gateToc (match lc with
          | some j => addLanding s2 j (sectorsOf p (4 * ws.length))
          | none => s2) d e p ws.length

/-- A part of a gate's words leaves for its destination. -/
def gateSend (s : State) (d i word : Nat) (ws : List Datum) : State :=
  let g := gate s d i
  match g.gate with
  | none => s
  | some e =>
    let a := e.dst + w64 (4 * word)
    let o : Owner := .gate d i g.seq word ws.length true
    match addrOf a with
    | .local va => gateLocal s d i g e a va ws
    | _ =>
      match gateDest s g.part e a with
      | .error x => gateFail s d i (engineFail x 1 0 a)
      | .ok dest =>
        let r := gateReq s d i g e dest word ws
        match dest.dest with
        | .pod t => podSend s t r o none
        | .remote hid _ => remoteSend s hid dest.route r o
        | .self => gateSelf s d i word ws.length r
        | .multicast m =>
          let s1 := (mcPeers s m).foldl (fun st t => podSend st t r o (some m)) s
          if bit (mcEntry s m) 15 then gateSelf s1 d i word ws.length r else s1

/-- The part of a gate's words that leaves with a word, as its first word and length: a sector of the destination (R120),
or of a reduction up to 256 bytes of one chunk (Table 4.6, Table 15.3). No part crosses a page (R332). -/
def gateUnit (e : Gate) (word : Nat) : Nat × Nat :=
  let dst := e.dst.toNat
  let size := if e.kind == 1 then 256 else 64
  let a := dst + 4 * word
  let lo := (max dst (a - a % size) - dst) / 4
  let hi := (min (dst + 4 * e.words) (a - a % size + size) - dst) / 4
  if e.kind == 1 then
    let l := max lo (word / 128 * 128)
    (l, min hi (word / 128 * 128 + 128) - l)
  else (lo, hi - lo)

/-- A part leaves once all its words have been read, there is room at its peers, and no host line of it is held. -/
def sendUnit (d i : Nat) (e : Gate) (s : State) (u : Nat × Nat) : State :=
  let g := gate s d i
  match bufWords g.buf u.1 u.2 with
  | none => s
  | some ws =>
    let a := e.dst + w64 (4 * u.1)
    if g.fail.isSome || (if isLocal a then engineHeld s (diePlace d) g.part a u.2 else !podRoom s 1) then s
    else
      let t := gateSend (setGate s d i { g with buf := bufDrop g.buf u.1 u.2 }) d i u.1 ws
      if t.stalled then s else t

/-- What has been read is sent, part by part. -/
def gateFlush (s : State) (d i : Nat) : State :=
  let g := gate s d i
  match g.gate with
  | none => s
  | some e => ((g.buf.map fun x => gateUnit e x.1).eraseDups).foldl (sendUnit d i e) s

/-- Words of the source have been read. -/
def gateGot (s : State) (d i word : Nat) (ws : List Datum) : State :=
  let g := gate s d i
  gateFlush (setGate s d i { g with buf := bufPut g.buf word ws }) d i

/-- The words of a run of the source. A REDUCE consumes its payload (R21), so that a mismatch in a clean copy is refetched
once (R26, R349); the other kinds move words as they are (R22). -/
def gateWords (s : State) (part slot : Nat) (reduce : Bool) (p n : Nat) : HomeRes (List Datum) :=
  let mask := (s.part part).l2Ways
  match readRange mask slot n s p n with
  | .fail c s1 => .fail c s1
  | .ok ws s1 =>
    if !reduce || ws.all Datum.okay then .ok ws s1 else readRange mask slot n (dropClean s1 slot p n) p n

/-- A run of the source is read, unless an access has failed. -/
def gateRead (d i : Nat) (e : Gate) (s : State) (r : Nat × Nat) : State :=
  let g := gate s d i
  let a := e.src + w64 r.1
  let word := r.1 / 4
  let n := r.2 / 4
  if g.fail.isSome then s
  else
    match addrOf a with
    | .local va =>
      match translate s (diePlace d) g.part va .load .page none with
      | (.error x, s1) => gateFail s1 d i (engineFail x 0 0 a)
      | (.ok l, s1) =>
        let p := leafAddr l va
        if l.host then hostReadVia s1 p n (.gate d i g.seq word n false) l.via
        else
          match gateWords s1 g.part l.slot (e.kind == 1) p n with
          | .fail c s2 => gateFail s2 d i (wfault c 0 0 a)
          | .ok ws s2 => gateGot s2 d i word ws
    | _ => gateFail s d i (engineFail ⟨fcXlate, 1, false, 0⟩ 0 0 a)

/-- A gate fires once a test has found what R345 asks to hold, and its engine serves the partition (R416). A SIGNAL leaves
at once, so that it waits for room at its peers. -/
def gateReady (s : State) (d i : Nat) : Bool :=
  let g := gate s d i
  match g.gate with
  | none => false
  | some e =>
    g.state == 1 && !g.heldBack && (g.ready || gateMeets s g) && !(s.die d).frozenParts.contains g.part &&
    (e.kind != 2 || podRoom s 1)

/-- GATE_FIRE: the gate leaves ARMED and issues its accesses; a FIRING gate goes on issuing those that had to wait. -/
def fireGate (s : State) (d i : Nat) : State :=
  let g := gate s d i
  if g.state == 2 then gateFlush s d i
  else
    match g.gate.filter fun _ => gateReady s d i with
    | none => s
    | some e =>
      let s1 := setGate (dropExpect s g) d i { g with state := 2, ready := false }
      if e.kind == 2 then gateSend s1 d i 0 []
      else (cutRun e.src.toNat (4 * e.words)).foldl (gateRead d i e) s1

def Owner.ofGate (o : Owner) (d i seq : Nat) : Bool :=
  match o with | .gate x y z _ _ _ => x == d && y == i && z == seq | _ => false
def ChunkFrom.ofGate (f : ChunkFrom) (d i seq : Nat) : Bool :=
  match f with | .gate x y z _ _ => x == d && y == i && z == seq | _ => false

/-- Accesses of a gate that have no answer yet. -/
def gateAwaits (s : State) (d i : Nat) (g : GateSlot) : Bool :=
  !g.buf.isEmpty || awaits s (fun o => o.ofGate d i g.seq) ||
  s.dies.any fun x => x.2.staged.any fun y => y.from_.ofGate d i g.seq

/-- The answer of a home, or of the host, to a gate's access. -/
def gateAnswer (s : State) (d i seq word n : Nat) (write : Bool) (r : Except (BitVec 8) FabReply) : State :=
  let g := gate s d i
  match r with
  | .ok (.data ws _) => if g.seq == seq && g.state == 2 && g.fail.isNone then gateGot s d i word ws else s
  | _ => gateVerdict s d i seq word n write r

/-- The source closes its apply-map entry once every chunk is acknowledged (R350). -/
def closeNotice (s : State) (part group coll src seq : Nat) : State :=
  match findCtx s part group coll with
  | none => s
  | some (d, c) => putCtx s d { c with maps := c.maps.filter fun m => !(m.src == src && m.seq == seq) }

/-- GATE_DONE. -/
def gateDone (s : State) (d i : Nat) : State :=
  let g := gate s d i
  match g.gate.filter fun _ => g.state == 2 && g.fail.isNone && !gateAwaits s d i g with
  | none => s
  | some e =>
    let seq := gateSeqNo d i g
    let s1 := if e.kind != 1 then s
      else
        match addrOf e.dst with
        | .unicast rank _ _ =>
          if rank == selfRank s g.part then closeNotice s g.part e.group e.coll rank seq
          else notify s g.part rank (.closeNotice (selfRank s g.part) e.group e.coll seq)
        | _ => s
    finishGate s1 d i 3 0

/-- GATE_FAULT, with the freeze of R416, whose record is written once. -/
def gateFault (s : State) (d i : Nat) : State :=
  let g := gate s d i
  match g.fail.filter fun _ => g.state == 2 && !gateAwaits s d i g with
  | none => s
  | some e =>
    let s1 := finishGate s d i 4 e.code
    let x := s1.die d
    if e.freezing && !x.frozenParts.contains g.part then
      pushBatch (s1.setDie d { x with frozenParts := g.part :: x.frozenParts }) g.part
        [{ kind := 5, die := d, cluster := 0, core := 0, unit := 2, code := fcProtect, detail := 0, access := e.access
           req := false, lanes := 0, seq := g.launch, pc := 0, addr := e.addr, uids := [] }]
    else s1

/-! ## GPOST, GCANCEL, GSTAT (R310, R311) -/

/-- The slot that a new gate takes: the lowest that is FREE, else the least recently finished. -/
def freeGate (s : State) (d : Nat) : Option Nat :=
  let gs := (s.die d).gates
  match (List.range 4096).find? fun i => (tabGet GateSlot.zero gs i).state == 0 with
  | some i => some i
  | none =>
    (gs.foldl (fun best e =>
      if liveGate e.2 then best
      else
        match best with
        | none => some e
        | some b => if e.2.finished < b.2.finished then some e else best) none).map Prod.fst

/-- The place of a GPOST in the engine's line. -/
def gatePlace (t : Thread) : Option (Nat × Nat × Nat) :=
  match t.status with
  | .blocked (.gateSlot c q o) => some (c, q, o)
  | _ => none

/-- By arrival; within a clock, by launch sequence number (R310). -/
def placeBefore (x y : Nat × Nat × Nat) : Bool :=
  x.1 < y.1 || (x.1 == y.1 && (x.2.1 < y.2.1 || (x.2.1 == y.2.1 && x.2.2 < y.2.2)))

/-- A GPOST that the die's engine serves first is in its line. -/
def gateAhead (s : State) (d : Nat) (t : Thread) : Bool :=
  s.cores.any fun c => c.1 / 64 == d && c.2.threads.any fun e => e.2.uid != t.uid && match gatePlace e.2, gatePlace t with
    | some o, some m => placeBefore o m
    | some _, none => true
    | none, _ => false

/-- The engine's checks of R310, in their order. -/
def gateRefusal (s : State) (d part : Nat) (g : Gate) : Option (BitVec 8) :=
  match groupSlot s part g.group with
  | none => some fcProtect
  | some (_, x) =>
    let cur := g.ver == x.version && (x.version == 0 || x.members.contains (selfRank s part))
    if !cur && !(x.round != 0 && g.ver == x.targetVer) && x.asked != some g.ver then some fcGroup
    else if (g.armEn && !landingOk s part g.lc) || (g.toEn && !takeoffOk s part d g.toc) then some fcProtect
    else if g.armEn && 65535 < (landing s g.lc).pending.toNat + g.expect then some fcCountSat
    else if g.newctx && ((findCtx s part g.group g.coll).isSome || 32 ≤ (s.die d).ctxs.length) then some fcNoSlot
    else none

/-- A gate of the old version that comes in DRAIN after the member has reported: the member has to take its report back
before it accepts the gate, since the coordinator may have published meanwhile (R345, R355). -/
def mustRetract (s : State) (part : Nat) (g : Gate) : Bool :=
  match groupSlot s part g.group with
  | none => false
  | some (_, x) => x.round == 2 && olderVer g.ver x.targetVer && x.reported.contains (selfRank s part)

/-- The member asks its coordinator to take the report back, once; DRAIN comes again where it has, PUBLISH where it is too
late (DESIGN CHOICE, log entry 39). A coordinator takes its own back at once. -/
def retract (s : State) (part : Nat) (g : Gate) : State :=
  match groupSlot s part g.group with
  | none => s
  | some (i, x) =>
    let me := selfRank s part
    if x.coord == me then setGroup s part i { x with reported := x.reported.filter fun r => r != me }
    else if x.retracting then s
    else notify (setGroup s part i { x with retracting := true }) part x.coord (.drainReport me g.group false)

/-- A post has been answered: what it had asked for is over. -/
def retracted (s : State) (part group : Nat) : State :=
  match groupSlot s part group with
  | some (i, x) => if x.retracting then setGroup s part i { x with retracting := false } else s
  | none => s

/-- A post of the partition waits for its coordinator's answer. -/
def retracts (s : State) (part : Nat) : Bool :=
  (s.part part).groups.any fun e => e.2.retracting && e.2.reported.contains (selfRank s part)

/-- The gate is accepted in a slot; the handle is the status word (Table 13.6). -/
def acceptGate (s : State) (d i part seq : Nat) (g : Gate) : Word × State :=
  let old := gate s d i
  let x := landing s g.lc
  let h := if g.relative then (x.count.toNat + g.expect) % 2 ^ 48 else g.thr
  let later := match groupSlot s part g.group with
    | some (_, y) => g.ver != y.version || (y.version != 0 && !y.members.contains (selfRank s part))
    | none => false
  let n := (old.seq + 1) % 4096
  let s1 := setGate s d i
    { seq := n, state := 1, code := 0, finished := 0, part := part, launch := seq, keySlot := launchSlot s seq
      gate := some g, h := h, ready := false, heldBack := later, buf := [], fail := none }
  let s2 := if g.armEn then setLanding s1 g.lc { x with pending := x.pending + BitVec.ofNat 16 g.expect } else s1
  let s3 := if g.newctx then
      let y := s2.die d
      s2.setDie d { y with ctxs := y.ctxs ++ [⟨part, g.group, g.coll, false, []⟩] }
    else s2
  (w32 (n * 2 ^ 12 + i), testGates (retracted s3 part g.group) (· == g))

def refusedWord (c : BitVec 8) : Word := w32 (2 ^ 31 + c.toNat)

/-- One lane of GPOST. A post that has passed the lane's checks enters the engine's line; the line is served in the clocks
that follow, so that posts of one clock are served in the order of R310. -/
def gpostLane (f : FmtE) (c : Nat) (s : State) (k : Nat) (t : Thread) : LaneEff :=
  if !t.guard f.guard then skipLane c f.lit.isSome s k t
  else
    withSources (eSrcs (ruleGpost f) f) t s fun xs =>
      withDst t f.dst.toNat 1 s
        (let off := (srcW xs 0).toNat
         let d := c / 64
         let part := launchPart s t.seq
         if off % 64 != 0 then .fault (fi fcAlign) s
         else
           match scratchAt s c k off 64 with
           | none => .fault (fi fcProtect) s
           | some a =>
             let rel := fun f : State → LaneEff => if (gatePlace t).isSome then f s else withRelease s c k t .sy true f
             rel fun s1 =>
               let ws := scratchWords (s1.core c) a 16
               let x := wordsVal ws
               let say := fun r : Word × State =>
                 LaneEff.done (r.2.setThread c k ((t.write f.dst.toNat .u32 r.1).proceed s.clock f.lit.isSome))
               if !ws.all Datum.okay then .fault (fi fcDatum) s1
               else if gateMalformed x then .fault (fi fcIllegal) s1
               else
                 match gatePlace t with
                 | none => .block (.gateSlot s.clock t.seq s1.nextId)
                     (({ s1 with nextId := s1.nextId + 1 } : State).setThread c k (t.spun s.clock))
                 | some o =>
                   match (freeGate s1 d).filter fun _ => o.1 < s.clock && !gateAhead s1 d t with
                   | none => .block (.gateSlot o.1 o.2.1 o.2.2) s1
                   | some i =>
                     match gateRefusal s1 d part (gateOf x) with
                     | some e => say (refusedWord e, retracted s1 part (gateOf x).group)
                     | none =>
                       let held := .block (.gateSlot o.1 o.2.1 o.2.2) (retract s1 part (gateOf x))
                       let own := (groupSlot s1 part (gateOf x).group).any fun y => y.2.coord == selfRank s1 part
                       if mustRetract s1 part (gateOf x) && !own then held
                       else say (acceptGate (if mustRetract s1 part (gateOf x) then retract s1 part (gateOf x) else s1) d i part
                              t.seq (gateOf x)))

/-- The gate that a handle names for a partition; none reads FREE. -/
def handleGate (s : State) (d part : Nat) (h : Word) : Option (Nat × GateSlot) :=
  let i := h.toNat % 4096
  let g := gate s d i
  if g.seq == field h.toNat 23 12 && g.part == part && g.state != 0 then some (i, g) else none

def handleWord (s : State) (d part : Nat) (h : Word) : Word := ((handleGate s d part h).map fun e => e.2.word).getD 0

def gstatLane (f : FmtE) (c : Nat) (s : State) (k : Nat) (t : Thread) : LaneEff :=
  if !t.guard f.guard then skipLane c false s k t
  else
    withSources (eSrcs (ruleHandle f) f) t s fun xs =>
      withDst t f.dst.toNat 1 s
        (.done (s.setThread c k
          ((t.write f.dst.toNat .u32 (handleWord s (c / 64) (launchPart s t.seq) (srcW xs 0))).advance s.clock false)))

/-- A gate's writes or signal raise a landing counter of this module. -/
def raisesHere (s : State) (part : Nat) (e : Gate) : Bool :=
  (e.kind == 2 || e.dlcEn) &&
  (match addrOf e.dst with
   | .local _ => true
   | .unicast rank _ _ => rank == selfRank s part
   | .multicast g _ _ => bit (mcEntry s g) 15
   | .bad => false)

/-- ARMED gates that wait on a counter that gate `e` raises: those that follow it in its course. -/
def followers (s : State) (part : Nat) (e : Gate) : List (Nat × Nat) :=
  if !raisesHere s part e then []
  else
    ((allGates s).filter fun x => x.2.2.state == 1 && x.2.2.part == part &&
      (x.2.2.gate.map fun y => y.armEn && y.lc == e.dlc).getD false).map fun x => (x.1, x.2.1)

/-- Cancels ARMED gates and, in turn, those that follow them (R311). -/
def cancelAll : Nat → List (Nat × Nat) → State → State
  | 0, _, s => s
  | _, [], s => s
  | n + 1, (d, i) :: rest, s =>
    let g := gate s d i
    match g.gate.filter fun _ => g.state == 1 with
    | none => cancelAll n rest s
    | some e => cancelAll n (rest ++ followers s g.part e) (finishGate s d i 5 0)

def gcancelLane (f : FmtE) (c : Nat) (s : State) (k : Nat) (t : Thread) : LaneEff :=
  if !t.guard f.guard then skipLane c false s k t
  else
    withSources (eSrcs (ruleHandle f) f) t s fun xs =>
      withDst t f.dst.toNat 1 s
        (let d := c / 64
         let part := launchPart s t.seq
         let s1 := match handleGate s d part (srcW xs 0) with
           | some (i, _) => cancelAll ((allGates s).length * (allGates s).length + 1) [(d, i)] s
           | none => s
         .done (s1.setThread c k
           ((t.write f.dst.toNat .u32 (handleWord s1 d part (srcW xs 0))).advance s.clock false)))

/-! ## GJOIN, GLEAVE, GVER, RANKQ (R312 to R314) -/

def applyRequests (ms : List Nat) (rs : List (Nat × Bool)) : List Nat :=
  rs.foldl (fun m r => if r.2 then (if m.contains r.1 then m else m ++ [r.1]) else m.filter (· != r.1)) ms

/-- Membership and version that the round which takes a request now will produce (R312). -/
def nextMembers (g : GroupSlot) : List Nat := applyRequests (if g.round == 0 then g.members else g.target) g.requests
def roundVersion (g : GroupSlot) : Nat := nextVersion (if g.round == 0 then g.version else g.targetVer)

/-- Ranks of a roster that are alive, as the coordinator counts them. -/
def alive (g : GroupSlot) (ms : List Nat) : List Nat := ms.filter fun r => !g.dead.contains r

/-- The coordinator leaves IDLE for COLLECT: every pending request and death fixes the target (Table 15.6). What comes
later waits for the next round. -/
def startRound (s : State) (p i : Nat) : State :=
  let g := (s.part p).group i
  if g.round == 0 && (!g.requests.isEmpty || g.members.any g.dead.contains) then
    setGroup s p i { g with round := 1, target := alive g (applyRequests g.members g.requests)
                            targetVer := nextVersion g.version, requests := [], reported := [], acked := []
                            restarted := false }
  else s

/-- The version that GJOIN or GLEAVE returns: the coordinator's, or a member's own slot's. A module outside the roster
has it from the coordinator, whose answer is a free value (DESIGN CHOICE, log entry 36). -/
def askedVersion (s : State) (g : GroupSlot) (me : Nat) : Nat × State :=
  if g.coord == me || g.members.contains me then (roundVersion g, s)
  else
    let x := s.draw
    ((x.1.extractLsb' 0 32).toNat, x.2)

def joinLane (join : Bool) (f : FmtE) (c : Nat) (s : State) (k : Nat) (t : Thread) : LaneEff :=
  if !t.guard f.guard then skipLane c f.lit.isSome s k t
  else
    withSources (eSrcs (ruleGroup f) f) t s fun xs =>
      withDst t f.dst.toNat 2 s
        (let p := launchPart s t.seq
         let me := selfRank s p
         let say := fun (st : State) (a b : Nat) => LaneEff.done (st.setThread c k
           ((t.writeAll f.dst.toNat [(.u32, w32 a), (.u32, w32 b)]).advance s.clock f.lit.isSome))
         if 65536 ≤ (srcW xs 0).toNat then .fault (fi fcIllegal) s
         else
           match groupSlot s p (srcW xs 0).toNat with
           | none => say s fcProtect.toNat 0
           | some (i, g) =>
             if (nextMembers g).contains me == join then say s fcGroup.toNat 0
             else
               let v := askedVersion s g me
               let s1 := setGroup v.2 p i { g with requests := g.requests ++ [(me, join)], asked := some v.1 }
               let s2 := if g.coord == me then startRound s1 p i
                 else notify s1 p g.coord (.request g.coord g.group me join)
               say s2 0 v.1)

def gverLane (f : FmtE) (c : Nat) (s : State) (k : Nat) (t : Thread) : LaneEff :=
  if !t.guard f.guard then skipLane c f.lit.isSome s k t
  else
    withSources (eSrcs (ruleGroup f) f) t s fun xs =>
      withDst t f.dst.toNat 2 s
        (if 65536 ≤ (srcW xs 0).toNat then .fault (fi fcIllegal) s
         else
           let r := match groupSlot s (launchPart s t.seq) (srcW xs 0).toNat with
             | none => (0, 0)
             | some (_, g) => (g.version, 2 ^ 31 + g.count)
           .done (s.setThread c k
             ((t.writeAll f.dst.toNat [(.u32, w32 r.1), (.u32, w32 r.2)]).advance s.clock f.lit.isSome)))

/-- Table 13.8, with the host id. -/
def rankWords (r : Resolved) : Word × Word :=
  let put := fun (hid prof cls : Nat) => (w32 (hid % 16 * 2 ^ 8 + prof * 2 ^ 2 + cls), w32 hid)
  match r with
  | .invalid => (w32 (fcRank.toNat * 2 ^ 24), 0)
  | .loc hid prof => put hid prof 0
  | .pod hid prof => put hid prof 1
  | .remote hid prof => put hid prof 2
  | .dead (some (hid, prof)) => put hid prof 3
  | .dead none => (3, 0)

def rankqLane (f : FmtE) (c : Nat) (s : State) (k : Nat) (t : Thread) : LaneEff :=
  if !t.guard f.guard then skipLane c f.lit.isSome s k t
  else
    withSources (eSrcs (ruleGroup f) f) t s fun xs =>
      withDst t f.dst.toNat 2 s
        (let r := rankWords (resolveRank s (launchPart s t.seq) (srcW xs 0).toNat)
         .done (s.setThread c k ((t.writeAll f.dst.toNat [(.u32, r.1), (.u32, r.2)]).advance s.clock f.lit.isSome)))

/-! ## Headcount rounds (R355, R356) -/

/-- Gates of a group become FAULTED with PEER_DEAD (R356). -/
def killGroupGates (s : State) (p group : Nat) : State :=
  ((allGates s).filter fun e => liveGate e.2.2 && e.2.2.part == p &&
    (e.2.2.gate.map fun y => y.group == group).getD false).foldl
    (fun st e => finishGate st e.1 e.2.1 4 fcPeerDead) s

/-- A gate of the group, older than the round's version, that is still ARMED or FIRING on the module. -/
def oldGates (s : State) (p : Nat) (g : GroupSlot) : Bool :=
  (allGates s).any fun e => liveGate e.2.2 && e.2.2.part == p && !e.2.2.heldBack &&
    (e.2.2.gate.map fun y => y.group == g.group && olderVer y.ver g.targetVer).getD false

/-- The bitmap of a roster, as 4,096 words. -/
def rosterWords (ms : List Nat) : List Datum :=
  (List.range 4096).map fun i => mk (w32 ((ms.filter fun r => r / 32 == i).foldl (fun a r => a ||| 2 ^ (r % 32)) 0))

/-- One granule of the roster, written by the engine of die 0; a granule that fails is not written. A host line that an
atomic holds is waited for (R124, R330). -/
def writeGranule (s : State) (p va : Nat) (ws : List Datum) : State :=
  match translate s (diePlace 0) p va .store .page none with
  | (.error _, s1) => s1
  | (.ok l, s1) =>
    if l.host then
      if linesHeld s1 (leafAddr l va) (4 * ws.length) then { s1 with stalled := true }
      else hostWrite s1 (leafAddr l va) (wordBytes ws) l.cls l.via
    else
      match placeWords s1 (leafAddr l va) l.slot ws (s1.part p).l2Ways with
      | .ok _ s2 => s2
      | .fail _ s2 => s2

def writeRoster (s : State) (p va : Nat) (ms : List Nat) : State :=
  let ws := rosterWords ms
  (List.range 4).foldl (fun st i => writeGranule st p (va + 4096 * i) ((ws.drop (1024 * i)).take 1024)) s

/-- A member publishes a version (PUBLISH of Table 15.6): roster, version, count, and its held gates are armed, which tests
them (R345). What the module had asked for is over once its join is in the roster, or its version has come. -/
def publish (s : State) (p i ver : Nat) (roster : List Nat) : State :=
  let g := (s.part p).group i
  let me := selfRank s p
  let s1 := writeRoster s p g.roster roster
  let s2 := setGroup s1 p i { g with
    version := ver, members := roster, count := roster.length, round := 3, target := roster, targetVer := ver
    dead := g.dead.filter roster.contains, retracting := false
    asked := g.asked.filter fun v => if g.members.contains me then olderVer ver v else !roster.contains me }
  let mine := fun y : Gate => y.group == g.group && !olderVer ver y.ver
  testGates
    (((allGates s2).filter fun e => roster.contains me && e.2.2.heldBack && e.2.2.part == p &&
      (e.2.2.gate.map mine).getD false).foldl
      (fun st e => setGate st e.1 e.2.1 { e.2.2 with heldBack := false }) s2)
    mine

/-- Every live old member has reported: the coordinator publishes (DRAIN to PUBLISH). -/
def tryPublish (s : State) (p i : Nat) : State :=
  let g := (s.part p).group i
  let me := selfRank s p
  if g.round == 2 && g.coord == me && (alive g g.members).all g.reported.contains then
    let all := (g.members ++ g.target).eraseDups
    let s1 := (all.filter (· != me)).foldl (fun st r =>
      notify st p r (.publish r g.group g.targetVer g.target)) s
    let s2 := publish s1 p i g.targetVer g.target
    let g2 := (s2.part p).group i
    setGroup s2 p i { g2 with acked := [me], reported := g.members }
  else s

/-- The round is over for a module (PUBLISH to IDLE). -/
def GroupSlot.idle (g : GroupSlot) : GroupSlot :=
  { g with round := 0, reported := [], acked := [], target := [], targetVer := 0 }

/-- Every live member of both rosters has acknowledged: the round is over, and the coordinator tells them so (DESIGN
CHOICE, log entry 100). `reported` keeps the old roster meanwhile. -/
def tryIdle (s : State) (p i : Nat) : State :=
  let g := (s.part p).group i
  let me := selfRank s p
  if g.round == 3 && g.coord == me && (alive g (g.reported ++ g.members)).all g.acked.contains then
    setGroup (((g.reported ++ g.members).eraseDups.filter (· != me)).foldl (fun st r =>
      notify st p r (.publishAck me g.group)) s) p i g.idle
  else s

/-- COLLECT to DRAIN: DRAIN goes to every old member and joiner. A group without live old members publishes at once. -/
def sendDrains (s : State) (p i : Nat) : State :=
  let g := (s.part p).group i
  let me := selfRank s p
  let joiners := g.target.filter fun r => !g.members.contains r
  let s1 := ((alive g g.members ++ joiners).filter (· != me)).foldl (fun st r =>
    notify st p r (.drain r g.group g.targetVer g.target)) s
  tryPublish (setGroup s1 p i { g with round := 2, restarted := false }) p i

/-- HEADCOUNT_COLLECT: requests arrive at the coordinator; an IDLE group starts a round with all that are pending, and
one in COLLECT sends DRAIN. A round that a new coordinator has restarted first takes the requests that its members had
made of the dead one (R356; DESIGN CHOICE, log entry 40). -/
def collect (s : State) (p i : Nat) (arrived : List (Nat × Bool)) : State :=
  let g := (s.part p).group i
  if !g.valid || !groupOwned s p g.group || g.coord != selfRank s p then s
  else if g.round == 1 && g.restarted && !arrived.isEmpty then
    setGroup s p i { g with target := alive g (applyRequests g.target arrived) }
  else
    let s1 := setGroup s p i { g with requests := g.requests ++ arrived }
    if g.round == 0 then startRound s1 p i
    else if g.round == 1 then sendDrains s1 p i
    else s1

/-- A version that this module cannot be given: it joins, and its GJOIN returned another (R312, R357). -/
def notAsked (s : State) (p : Nat) (g : GroupSlot) (ver : Nat) (roster : List Nat) : Bool :=
  let me := selfRank s p
  roster.contains me && !g.members.contains me && match g.asked with
    | some v => v != ver
    | none => false

/-- DRAIN_RECEIVE. The version may be the current one, where a new coordinator restarts a round that the module had seen
published (R356). It also answers a member that has taken its report back. Requests of the module that the round takes
are pending no more. -/
def drainArrives (s : State) (p i ver : Nat) (roster : List Nat) : State :=
  let g := (s.part p).group i
  if !g.valid || !groupOwned s p g.group || olderVer ver g.version || notAsked s p g ver roster then s
  else setGroup s p i { g with round := 2, target := roster, targetVer := ver, reported := []
                               requests := g.requests.filter fun r => roster.contains r.1 != r.2 }

/-- A post of the partition waits in a collective engine's line. -/
def postWaits (s : State) (p : Nat) : Bool :=
  s.cores.any fun c => c.2.threads.any fun e => launchPart s e.2.seq == p && (gatePlace e.2).isSome

/-- DRAIN_REPORT: the module's own report once its old gates are done, and the post for which it took a report back is
answered; or a member's at the coordinator. A member takes its report back where an old gate has come since: DRAIN goes
to it again, unless PUBLISH is out. -/
def drainReports (s : State) (p i rank : Nat) (done : Bool) : State :=
  let g := (s.part p).group i
  let me := selfRank s p
  if !g.valid || g.round != 2 then s
  else if rank == me then
    if !done || !g.members.contains me || g.reported.contains me || oldGates s p g || (g.retracting && postWaits s p) then s
    else
      let s1 := setGroup s p i { g with reported := me :: g.reported, retracting := false }
      if g.coord == me then tryPublish s1 p i else notify s1 p g.coord (.drainReport me g.group true)
  else if g.coord != me then s
  else if done then
    tryPublish (setGroup s p i { g with reported := rank :: g.reported.filter fun r => r != rank }) p i
  else
    notify (setGroup s p i { g with reported := g.reported.filter fun r => r != rank }) p rank
      (.drain rank g.group g.targetVer g.target)

/-- PUBLISH_RECEIVE at a member: it is in PUBLISH until the coordinator tells it that all have acknowledged. -/
def publishArrives (s : State) (p i ver : Nat) (roster : List Nat) : State :=
  let g := (s.part p).group i
  let me := selfRank s p
  if !g.valid || g.coord == me || olderVer ver g.version || notAsked s p g ver roster then s
  else
    let s1 := publish s p i ver roster
    let g1 := (s1.part p).group i
    notify (setGroup s1 p i { g1 with reported := [], acked := [] }) p g.coord (.publishAck me g.group)

/-- PUBLISH_ACK at the coordinator; from the coordinator, it ends the round at a member. -/
def publishAcks (s : State) (p i rank : Nat) : State :=
  let g := (s.part p).group i
  if !g.valid || g.round != 3 then s
  else if g.coord == selfRank s p then tryIdle (setGroup s p i { g with acked := rank :: g.acked }) p i
  else if rank == g.coord then setGroup s p i g.idle
  else s

/-- Members of a group that resolve to a dead module and are not yet counted as dead. -/
def newDeaths (s : State) (p : Nat) (g : GroupSlot) : List Nat :=
  ((g.members ++ g.target).eraseDups).filter fun r => !g.dead.contains r && match resolveRank s p r with
    | .dead _ => true
    | _ => false

def leastOf : List Nat → Option Nat
  | [] => none
  | x :: xs => some (xs.foldl min x)

/-- The live member of lowest rank that follows a dead coordinator (R356); a joiner, which has no roster yet, takes that
of the target. -/
def nextCoord (g : GroupSlot) : Nat :=
  (leastOf (alive g (if g.members.isEmpty then g.target else g.members))).getD g.coord

/-- A member asks a new coordinator for what it had asked of the dead one. -/
def askAgain (s : State) (p : Nat) (g : GroupSlot) : State :=
  let me := selfRank s p
  (g.requests.filter fun r => r.1 == me).foldl (fun st r => notify st p g.coord (.request g.coord g.group me r.2)) s

/-- A death removes members (R356): the group's gates fault, a dead coordinator is replaced, with a round in progress
restarted at COLLECT, and the coordinator's round goes on without the dead, or starts. -/
def groupDeath (p : Nat) (s : State) (e : Nat × GroupSlot) : State :=
  let g := (s.part p).group e.1
  match newDeaths s p g with
  | [] => s
  | ds =>
    let s1 := killGroupGates s p g.group
    let g1 := { g with dead := g.dead ++ ds }
    if ds.contains g.coord then
      let g2 := { g1 with coord := nextCoord g1, retracting := false }
      if g2.coord != selfRank s p then askAgain (setGroup s1 p e.1 g2) p g2
      else if g2.round == 0 then
        let s2 := startRound (setGroup s1 p e.1 g2) p e.1
        setGroup s2 p e.1 { (s2.part p).group e.1 with restarted := true }
      else
        let ver := if g2.targetVer == g2.version then g2.version else nextVersion g2.version
        setGroup s1 p e.1 { g2 with round := 1, target := alive g2 g2.target, targetVer := ver, reported := [], acked := [] }
    else
      let s2 := tryIdle (tryPublish (setGroup s1 p e.1 g1) p e.1) p e.1
      if g1.coord == selfRank s p then startRound s2 p e.1 else s2

def groupDeaths (s : State) : State :=
  s.parts.foldl (fun st e => ((st.part e.1).groups).foldl (groupDeath e.1) st) s

/-- A write of a group slot (R354): only while its round is IDLE and no gate of the group is live. -/
def writeGroupSlot (s : State) (p i off : Nat) (v : DWord) : State :=
  let g := (s.part p).group i
  let busy := (allGates s).any fun e => liveGate e.2.2 && e.2.2.part == p &&
    (e.2.2.gate.map fun y => y.group == g.group).getD false
  if g.round != 0 || (g.valid && busy) then s
  else if off == 0 then
    let n := v.toNat
    setGroup s p i { g with valid := bit n 63, group := field n 32 17, coord := field n 16 0 }
  else if off == 0x10 then setGroup s p i { g with roster := field v.toNat 56 12 * 4096 }
  else s

end Sys2Proof.Machine
end

