-- ==== Sys2Proof/Machine/Router.lean ====
section
/-! DEFINITION. The launch router: launch records (R381, R382), sealed key handles (R423), acceptance (R371, R392), the
order of waiting gangs (R388, R389), placement (R383, R390), dispatch (R384, R385), and the completion of gangs and
launches (R386, R394). -/

namespace Sys2Proof.Machine

/-! ## Launch records (Tables 17.1 to 17.4) -/

def recLevel (r k : Nat) : Nat := field r (512 + 64 * k + 63) (512 + 64 * k)
def recExt (r k : Nat) : Nat := field (recLevel r k) 23 0
def recRem (r k : Nat) : Nat := field (recLevel r k) 47 24
def recScope (r k : Nat) : Nat := field (recLevel r k) 54 52
def recDomain (r k : Nat) : Nat := field (recLevel r k) 57 55
def recTop (r : Nat) : Nat := field r 345 343
/-- The split: 0 means 6. -/
def recSplit (r : Nat) : Nat := if field r 367 365 == 0 then 6 else field r 367 365
def recSp (r : Nat) : Nat := field r 364 346
/-- Bytes of a core gang's allocation, rounded up (R136). -/
def recSpBytes (r : Nat) : Nat := (recSp r + 255) / 256 * 256
def recRegs (r : Nat) : Nat := field r 375 368
def recQueue (r : Nat) : Nat := field r 338 336
def recFill (r : Nat) : Bool := bit r 339
def recEdges (r : Nat) : List EdgeDesc := ((List.range 8).map (edgeDesc r)).filter EdgeDesc.valid
def recInEdges (r : Nat) : List EdgeDesc := (recEdges r).filter fun e => !e.out

/-- Units of a domain within one unit of the next wider domain (Table 17.4). -/
def unitCount : Nat → Nat
  | 0 => 32 | 1 => 16 | 2 => 4 | 3 => 16 | _ => 8
/-- Units of domain `d` within one unit of domain `e`. -/
def unitsWithin (d e : Nat) : Nat := ((List.range e).filter fun i => d ≤ i).foldl (fun n i => n * unitCount i) 1

def isLocalAddr (a : Nat) : Bool :=
  match addrOf (w64 a) with
  | .local _ => true
  | _ => false

/-- A level at or below the top that breaks a rule of R382. -/
def levelBad (r k : Nat) : Bool :=
  let d := recDomain r k
  field (recLevel r k) 63 58 != 0 || field (recLevel r k) 51 48 != 0 || 5 < d || (k == 0 && d != 0) ||
  (k != 0 && d < recDomain r (k - 1)) || recExt r k == 0 || recExt r k < recRem r k ||
  (k == recTop r && recRem r k != 0) ||
  (k < recTop r && unitsWithin d (recDomain r (k + 1)) < recExt r k) ||
  5 < recScope r k || recScope r k < scopeNum (domainScope d)

def edgeBad (r : Nat) : Bool :=
  let es := recEdges r
  (List.range 8).any (fun j => field r (384 + 16 * j + 7) (384 + 16 * j + 6) != 0) ||
  es.any (fun e => !e.out && e.cap != 1) || ((es.map EdgeDesc.id).eraseDups).length != es.length

/-- The malformed conditions of R382 but for the partition-grant fit. -/
def recBad (r : Nat) : Bool :=
  let entry := field r 63 0
  let handler := field r 127 64
  field r 2047 1088 != 0 || field r 383 376 != 0 || field r 333 320 != 0 || recRegs r == 0 ||
  entry % 8 != 0 || !isLocalAddr entry || (handler != 0 && (handler % 8 != 0 || !isLocalAddr handler)) ||
  field r 255 192 % 8 != 0 || recTop r == 0 ||
  (List.range 8).any (fun k => if k ≤ recTop r then levelBad r k else recLevel r k != 0) ||
  recSplit r * 65536 < recSp r || edgeBad r

/-! ## Sealed key handles (Table 19.1, R423) -/

def handleMac (s : State) (lo : Nat) : Nat :=
  (sha3 (bytesBE 64 (Config.freeBits s.handleDraw).toNat ++ bytesLE 4 lo)).toNat / 2 ^ 480
def makeHandle (s : State) (slot part gen : Nat) : DWord :=
  let lo := gen % 2 ^ 16 * 2 ^ 16 + part % 16 * 2 ^ 12 + slot % 256
  w64 (handleMac s lo * 2 ^ 32 + lo)
def handleOk (s : State) (part : Nat) (h : DWord) : Bool :=
  let n := h.toNat
  field n 63 32 == handleMac s (field n 31 0) && field n 15 12 == part &&
    field n 31 16 == (s.key (field n 7 0)).gen

/-! ## Placement (R383, R390) -/

/-- A core and its free slot rows. -/
abbrev Room := Nat × Nat

/-- One slot row of a placement: its core, its index within its level-1 node, the index of its first thread and the
number of its threads, the extent of the threads' level, and index and extent of its nodes from the base level up. -/
structure Placed where
  core : Nat
  index : Nat
  first : Nat
  n : Nat
  ext : Nat
  ups : List (Nat × Nat)

/-- The lowest level that is not bound to lanes: its nodes hold the threads. -/
def baseLevel (r : Nat) : Nat := (((List.range (recTop r + 1)).takeWhile fun k => recDomain r k == 0)).length

/-- The extent of level k under a parent (R382). -/
def extUnder (r k : Nat) (last : Bool) : Nat := if last && recRem r k != 0 then recRem r k else recExt r k

/-- The unit of a domain in which a core lies. -/
def unitOf (d c : Nat) : Nat := if d ≤ 2 then c else if d == 3 then c / 4 else if d == 4 then c / 64 else 0

/-- One free row of the first core that has one. -/
def takeRow : List Room → Option (Nat × List Room)
  | [] => none
  | (_, 0) :: t => takeRow t
  | (c, n + 1) :: t => some (c, (c, n) :: t)

/-- The rows of one node that holds threads. -/
def takeRows (total : Nat) (ups : List (Nat × Nat)) : Nat → Nat → List Room → Option (List Placed × List Room)
  | 0, _, av => some ([], av)
  | m + 1, j, av =>
    match takeRow av with
    | none => none
    | some (c, av1) =>
      (takeRows total ups m (j + 1) av1).map fun x =>
        (⟨c, j, 32 * j, min 32 (total - 32 * j), total, ups⟩ :: x.1, x.2)

/-- A child in the first unit of its domain in which it can be placed. -/
def inUnits (d : Nat) (child : List Room → Option (List Placed × List Room)) :
    List Nat → List Room → Option (List Placed × List Room)
  | [], _ => none
  | u :: us, av =>
    match child (av.filter fun x => unitOf d x.1 == u) with
    | some r => some (r.1, av.filter fun x => unitOf d x.1 != u)
    | none => inUnits d child us av

/-- The children of a node, in index order. Below a core, children take rows; above, distinct units. -/
def placeKids (d n : Nat) (child : Nat → List Room → Option (List Placed × List Room)) :
    Nat → List Room → Option (List Placed × List Room)
  | 0, av => some ([], av)
  | m + 1, av =>
    let j := n - (m + 1)
    let one := if d ≤ 1 then child j av else inUnits d (child j) ((av.map fun x => unitOf d x.1).eraseDups) av
    match one with
    | none => none
    | some r => (placeKids d n child m r.2).map fun x => (r.1 ++ x.1, x.2)

/-- A node of level `k` within its own unit. -/
def placeNode (r : Nat) : Nat → Bool → List (Nat × Nat) → List Room → Option (List Placed × List Room)
  | 0, _, ups, av => takeRows 1 ups 1 0 av
  | k + 1, last, ups, av =>
    let n := extUnder r k last
    if recDomain r (k + 1) == 0 then takeRows 1 ups 1 0 av
    else if k + 1 == baseLevel r then takeRows n ups (if recDomain r (k + 1) == 1 then 1 else (n + 31) / 32) 0 av
    else if recDomain r k == recDomain r (k + 1) then placeNode r k true ((0, n) :: ups) av
    else
      placeKids (recDomain r k) n (fun j a => placeNode r k (j + 1 == n) ((j, n) :: ups) a) n av

/-- A top-level gang, whole, in one unit of its domain. -/
def placeGang (r g : Nat) (av : List Room) : Option (List Placed) :=
  let t := recTop r
  let d := recDomain r t
  let e := recExt r t
  let child := fun a => placeNode r t (g + 1 == e) [(g, e)] a
  (if d ≤ 1 then child av else inUnits d child ((av.map fun x => unitOf d x.1).eraseDups) av).map Prod.fst

/-- Cores of a partition's grant. -/
def grantCores (s : State) (p : Nat) : List Nat :=
  (((List.range 128).filter fun c => (s.part p).clusters.getLsbD c).map fun c => [4 * c, 4 * c + 1, 4 * c + 2, 4 * c + 3]).flatten

/-- A gang fits the partition's grant when that is empty (R382). -/
def fitsGrant (s : State) (p r : Nat) : Bool := (placeGang r 0 ((grantCores s p).map fun c => (c, 16))).isSome

/-- A set of a row, in use or ended, holds a bib (R286). -/
def rowHeld (s : State) (c r : Nat) : Bool :=
  (s.cluster (c / 4)).tiles.any fun e => e.2.held && e.2.core == c % 4 && e.2.row == r

/-- Rows of a core that a gang can take: none of theirs is in use, and no bib of an ended row is left (R286). -/
def freeRows (s : State) (c : Nat) : List Nat :=
  (List.range 16).filter fun r => (tabFind (s.core c).rows r).isNone && !rowHeld s c r

/-- The lowest base at which an allocation fits beside those of a list (R136; DESIGN CHOICE, log entry 101). -/
def firstFit (areas : List (Nat × Nat)) (limit size : Nat) : Option Nat :=
  let clear := fun b : Nat => b + size ≤ limit && areas.all fun a => a.2 == 0 || a.1 + a.2 ≤ b || b + size ≤ a.1
  (0 :: areas.map fun a => a.1 + a.2).foldl (fun best b =>
    if clear b then (match best with | some x => some (min x b) | none => some b) else best) none

def allocSp (x : Core) (split size : Nat) : Option Nat :=
  firstFit (x.gangs.map fun g => (g.base, g.size)) (split * 65536) size

/-- No core of the cluster holds a gang. -/
def clusterIdle (s : State) (cl : Nat) : Bool := (List.range 4).all fun i => (s.core (4 * cl + i)).gangs.isEmpty

/-- A unit of the launch's top domain holds no top-level gang of it (R383). -/
def unitFree (s : State) (seq d c : Nat) : Bool :=
  d ≤ 1 || !s.cores.any fun e => unitOf d e.1 == unitOf d c && e.2.gangs.any fun g => g.seq == seq

/-- What R390 and R396 ask of a core for a core gang of a launch: free slot rows, or none at all. -/
def roomFor (s : State) (seq r c : Nat) : Option Room :=
  let x := s.core c
  let ok := (x.launch.isNone || (x.launch == some seq && !x.scrubDue)) && !x.halting && x.frozen.isNone &&
    (x.gangs.isEmpty || x.split == recSplit r) && (allocSp x (recSplit r) (recSpBytes r)).isSome &&
    unitFree s seq (recDomain r (recTop r)) c && (!recFill r || clusterIdle s (c / 4))
  if ok && !(freeRows s c).isEmpty then some (c, (freeRows s c).length) else none

/-- Cores in the order in which the router tries them: those it prefers, then the others of the grant. -/
def tryOrder (s : State) (p : Nat) (prefer : List Nat) : List Nat :=
  let g := grantCores s p
  prefer.filter g.contains ++ g.filter fun c => !prefer.contains c

/-! ## The order of waiting gangs (R388, R389) -/

/-- The priority that a gang takes at dispatch or restore. -/
def carriedNow (s : State) (l : Launch) : Nat :=
  min (field l.record.toNat 342 340) (tabGet 7 (s.part l.part).lqCeiling l.queue)

structure Waiter where
  seq : Nat
  launch : Launch
  gang : TopGang
  carried : Nat
  drank : Nat

def GangState.isSaved : GangState → Bool
  | .saved _ _ _ => true
  | _ => false

/-- Tiles whose bibs a saved core's gangs hold, by number. -/
def SavedCore.tileNos (x : SavedCore) : List Nat := x.tiles.map Prod.fst

/-- Rows that a saved core needs: those in use, and those of ended rows whose bibs are not yet free (R286). -/
def SavedCore.rowNos (x : SavedCore) : List Nat := (x.rows.map Prod.fst ++ x.tiles.map fun e => e.2.row).eraseDups

/-- The state that a core's gangs share is as at reset: nothing of it can be lost (R160). -/
def Core.sharedBlank (x : Core) : Bool := x.q.isEmpty && x.cm.isEmpty && x.rk.isEmpty
def SavedCore.sharedBlank (x : SavedCore) : Bool := x.q.isEmpty && x.cm.isEmpty && x.rk.isEmpty && x.chans.isEmpty
def coreChans (s : State) (c : Nat) : Tab Channel :=
  ((s.cluster (c / 4)).chans.filter fun e => e.1 / 4 == c % 4).map fun e => (e.1 % 4, e.2)

/-- Every allocation of a list fits beside those of a core. -/
def allocAll (limit : Nat) : List (Nat × Nat) → List CoreGang → Option (List Nat)
  | _, [] => some []
  | areas, g :: gs =>
    match firstFit areas limit g.size with
    | none => none
    | some b => (allocAll limit (areas ++ [(b, g.size)]) gs).map fun bs => b :: bs

/-- A core that can receive a saved core's gangs (R399): where it holds gangs of the launch, neither they nor those that
were saved have anything of a state that a core's gangs share, which could not be put back beside the other's. -/
def receives (s : State) (seq r : Nat) (x : SavedCore) (c : Nat) : Bool :=
  let y := s.core c
  (y.launch.isNone || (y.launch == some seq && !y.scrubDue)) && !y.halting && y.frozen.isNone &&
  (y.gangs.isEmpty || (y.split == recSplit r && x.sharedBlank && y.sharedBlank && (coreChans s c).isEmpty)) &&
  (allocAll (recSplit r * 65536) (y.gangs.map fun g => (g.base, g.size)) x.gangs).isSome &&
  x.rowNos.length ≤ (freeRows s c).length && unitFree s seq (recDomain r (recTop r)) c &&
  (!recFill r || clusterIdle s (c / 4)) &&
  x.tileNos.all fun n => !(tileOf s (c / 4) n).held

/-- The context of a saved gang: its own, or that of the gang saved with it that holds it (R399). -/
def contextOf (l : Launch) (g : TopGang) : List SavedCore :=
  match g.state with
  | .saved (x :: xs) _ _ => x :: xs
  | .saved [] b _ => (l.gangs.map fun y => match y.state with
      | .saved ctx b' _ => if b' == b then ctx else []
      | _ => []).flatten
  | _ => []

/-- A gang in the router's order: waiting, unless its queue is stopped, or saved (R388, R399). -/
def inOrder (s : State) (l : Launch) (g : TopGang) : Bool :=
  match g.state with
  | .waiting => !(s.part l.part).lqStop.getLsbD l.queue
  | .saved _ _ _ => true
  | _ => false

def waiters (s : State) (p : Nat) : List Waiter :=
  (s.launches.map fun e =>
    if e.2.part == p && !e.2.torn then
      (e.2.gangs.filter (inOrder s e.2)).map fun g =>
        (⟨e.1, e.2, g, carriedNow s e.2, carriedNow s e.2 + (s.clock - g.since) / 65536⟩ : Waiter)
    else []).flatten

/-- Highest rank, then lower sequence number, then lower index. -/
def Waiter.outranks (a b : Waiter) : Bool :=
  if a.drank != b.drank then b.drank < a.drank
  else if a.seq != b.seq then a.seq < b.seq
  else a.gang.idx < b.gang.idx

def Waiter.before (a b : Waiter) : Bool :=
  match a.launch.owed, b.launch.owed with
  | some x, some y => if x != y then x < y else a.outranks b
  | some _, none => true
  | none, some _ => false
  | none, none => a.outranks b

def insertWaiter (w : Waiter) : List Waiter → List Waiter
  | [] => [w]
  | x :: xs => if w.before x then w :: x :: xs else x :: insertWaiter w xs

def routerOrder (s : State) (p : Nat) : List Waiter := (waiters s p).foldl (fun t w => insertWaiter w t) []

/-- A waiting gang could use a core as it stands: for a core gang of its own, or for one of its saved cores. -/
def Waiter.uses (s : State) (w : Waiter) (c : Nat) : Bool :=
  if w.gang.state.isSaved then (contextOf w.launch w.gang).any fun x => receives s w.seq w.launch.record.toNat x c
  else (roomFor s w.seq w.launch.record.toNat c).isSome

/-- A cluster has a part in some whole placement of a waiting gang on its partition's grant. -/
def Waiter.fitsWith (s : State) (p : Nat) (w : Waiter) (cl : Nat) : Bool :=
  let g := grantCores s p
  let av := (g.filter fun c => c / 4 == cl) ++ g.filter fun c => c / 4 != cl
  ((placeGang w.launch.record.toNat w.gang.idx (av.map fun c => (c, 16))).map fun ps =>
    ps.any fun x => x.core / 4 == cl).getD false

/-- While a normal gang waits, no fill gang is placed on a cluster that it could use (R396). -/
def fillMay (s : State) (p r c : Nat) : Bool :=
  !recFill r || !(waiters s p).any fun w =>
    !recFill w.launch.record.toNat && (List.range 4).any (fun i => w.uses s (4 * (c / 4) + i)) && w.fitsWith s p (c / 4)

/-- Rooms for a gang of a launch, in the order in which they are tried. -/
def roomsFor (s : State) (p seq r : Nat) (prefer : List Nat) : List Room :=
  ((tryOrder s p prefer).filter (fillMay s p r)).filterMap (roomFor s seq r)

/-! ## Dispatch (R161, R384, R385) -/

/-- Indices at levels 0 to 7 of a thread, from its own level's and its nodes'. -/
def gidList (b own : Nat) (ups : List (Nat × Nat)) : List Nat :=
  (List.range 8).map fun k => if k + 1 == b then own else if k < b then 0 else ((ups[k - b]?).map Prod.fst).getD 0
def extList (b own : Nat) (ups : List (Nat × Nat)) : List Nat :=
  (List.range 8).map fun k => if k + 1 == b then own else if k < b then 1 else ((ups[k - b]?).map Prod.snd).getD 1

/-- A thread at launch. -/
def newThread (uid seq clock : Nat) (entry : DWord) (regs : Tab Reg) (gid ext : List Nat) : Thread :=
  { uid := uid, seq := seq, pc := entry, blk := entry, hdr := 0, entered := false, regs := regs, preds := 0, rstk := []
    status := .ready, since := clock, demotedUntil := 0, acquired := false, waited := false, bundle := none
    epc := 0, eblk := 0, ehdr := 0, inHandler := false, epcWritten := false, trapinfo := 0, frec := 0, posted := []
    gid := gid, ext := ext }

/-- v0 and v1 as the launch loads them (R385). -/
def launchWords (r : Nat) : Tab Reg :=
  let a := w64 (field r 191 128)
  if 2 ≤ recRegs r then
    tabSet Reg.zero (tabSet Reg.zero [] 0 ⟨lo32 a, lcc (lo32 a), .addrLo, true, false, 0⟩) 1
      ⟨hi32 a, lcc (hi32 a), .addrHi, true, false, 0⟩
  else []

/-- Index and extent at its own level of a thread of a row, and those of its nodes above (R384). Where every level is bound to
lanes, a top-level gang is one thread, which has the gang's index. -/
def Placed.own (p : Placed) (r b i : Nat) : Nat × Nat :=
  if recTop r < b then (p.ups.head?).getD (0, 1) else (p.first + i, p.ext)
def Placed.above (p : Placed) (r b : Nat) : List (Nat × Nat) := if recTop r < b then [] else p.ups

/-- The threads of one row. -/
def addThreads (seq r b row : Nat) (p : Placed) : Nat → State → State
  | 0, s => s
  | m + 1, s =>
    let i := p.n - (m + 1)
    let t := newThread s.nextId seq s.clock (w64 (field r 63 0)) (launchWords r)
      (gidList b (p.own r b i).1 (p.above r b)) (extList b (p.own r b i).2 (p.above r b))
    addThreads seq r b row p m
      ({ s with nextId := s.nextId + 1 }.setThread p.core (32 * row + i) t)

/-- The core takes the launch, and its split where that changes (R137). -/
def Core.takeIn (x : Core) (seq split : Nat) : Core :=
  let y := { x with launch := some seq }
  if y.split == split then y else { y with split := split, l1 := [], scratch := [] }

/-- One row of a placement, with the core gang's allocation where it is the first. -/
def addRow (seq r b top : Nat) (s : State) (p : Placed) : State :=
  let x := (s.core p.core).takeIn seq (recSplit r)
  let row := ((freeRows s p.core).head?).getD 0
  let path := (gidList b 0 p.ups).drop 1
  let y := { x with
    rows := tabPut x.rows row ⟨seq, top, p.index, path, [], []⟩
    gangs := match x.gangs.find? fun g => g.seq == seq && g.top == top with
      | some _ => x.gangs.map fun g => if g.seq == seq && g.top == top then { g with rows := g.rows ++ [row] } else g
      | none => x.gangs ++ [⟨seq, top, path, [row], (allocSp x (recSplit r) (recSpBytes r)).getD 0, recSpBytes r, s.clock⟩] }
  addThreads seq r b row p p.n (s.setCore p.core y)

/-- The gang is placed: its rows, its threads, and the priority it carries. -/
def dispatchGang (s : State) (w : Waiter) (rows : List Placed) : State :=
  let r := w.launch.record.toNat
  let ps := if recDomain r (recTop r) == 0 then rows.map fun p => { p with first := w.gang.idx, ext := recExt r (recTop r) }
    else rows
  let s1 := ps.foldl (addRow w.seq r (baseLevel r) w.gang.idx) s
  let s2 := modGang { s1 with nextId := s1.nextId + 1 } w.seq w.gang.idx fun g =>
    { g with state := .placed ((rows.map Placed.core).eraseDups), since := s.clock, dispatched := s1.nextId
             carried := w.carried }
  modLaunch s2 w.seq fun l => { l with owed := none }

/-- The first gang of the order that can be placed now, with its placement where it is a new one. An owed consumer
that cannot be placed holds back the others (R395). `fits` says whether a saved gang can be restored. -/
def firstPlaceable (s : State) (p : Nat) (prefer : List Nat) (fits : Waiter → Bool) :
    List Waiter → Option (Waiter × List Placed)
  | [] => none
  | w :: ws =>
    let place := if w.gang.state.isSaved then (if fits w then some [] else none)
      else placeGang w.launch.record.toNat w.gang.idx (roomsFor s p w.seq w.launch.record.toNat prefer)
    match place with
    | some x => some (w, x)
    | none => if w.launch.owed.isSome then none else firstPlaceable s p prefer fits ws

/-! ## Acceptance (R371, R382, R392) -/

def edgeRefused (s : State) (p : Nat) (e : EdgeDesc) : Bool :=
  let x := (s.part p).edge e.id
  x.state == 4 || (if e.out then x.producer.isSome else x.consumer.isSome)

/-- The first refusal of a record, in the order of R382. -/
def refusal (s : State) (p r : Nat) : Option (BitVec 8) :=
  if recBad r then some fcIllegal
  else if (s.part p).spMax < recSplit r then some fcProtect
  else if !handleOk s p (w64 (field r 319 256)) then some fcProtect
  else if (recEdges r).any (edgeRefused s p) then some fcEdge
  else if !fitsGrant s p r then some fcIllegal
  else none

/-- A launch takes its side of an edge (Table 17.7). -/
def takeEdge (seq : Nat) (e : EdgeDesc) (x : Edge) : Edge :=
  if e.out then { x with producer := some seq, cap := e.cap, state := if x.state == 2 then 3 else 1 }
  else { x with consumer := some seq, state := if x.state == 1 then 3 else 2 }

def takeEdges (p seq : Nat) : List EdgeDesc → State → State
  | [], s => s
  | e :: es, s => takeEdges p seq es (admitEdge (setEdge s p e.id (takeEdge seq e ((s.part p).edge e.id))) p e.id)

/-- An accepted record becomes a launch, in the queue it enters. -/
def acceptLaunch (s : State) (p : Nat) (r : BitVec 2048) (queue : Option Nat) : State :=
  let seq := s.nextSeq
  let n := r.toNat
  let gangs := if (recInEdges n).isEmpty then
      (List.range (recExt n (recTop n))).map fun i => (⟨i, .waiting, s.clock, 0, 0, 0, none, false⟩ : TopGang)
    else []
  let l : Launch := ⟨p, r, queue.getD (recQueue n), field n 263 256, gangs, [], 0, 0, false, false, false, none⟩
  takeEdges p seq (recEdges n) { s with nextSeq := seq + 1, launches := tabPut s.launches seq l }

/-- Bits hi..lo of a write. -/
def keepBits (v : DWord) (hi lo : Nat) : Nat := field v.toNat hi lo * 2 ^ lo

/-- Entries of a queue's ring: 2^k, with k in the low bits of its base (R426). -/
def HostQueue.ring (x : HostQueue) : Nat := 2 ^ field x.base.toNat 3 0
/-- Host address of the entry that is next in ring order. -/
def HostQueue.entry (x : HostQueue) : DWord :=
  w64 (keepBits x.base 63 12 + 64 * (x.cons.toNat % x.ring))

/-- An entry has been delivered: seen by the snoop in CXL mode, posted by Q_TAIL in plain PCIe mode (R426; log entry
102). -/
def HostQueue.delivered (x : HostQueue) (cxl : Bool) : Bool :=
  let n := (if cxl then x.seen - x.cons else x.tail - x.cons).toNat
  1 ≤ n && n ≤ x.ring

/-- The proctor completes the next entry of a queue: its status and operands are written back at its place in the ring,
and its function is notified (R426). -/
def finishCmd (s : State) (fn q : Nat) (c : Cmd) (status : BitVec 8) (dw : List DWord) : State :=
  let f := s.fn fn
  let x := tabGet HostQueue.zero f.queues q
  let s1 := s.setFn fn { f with queues := tabSet HostQueue.zero f.queues q { x with cons := x.cons + 1 } }
  { s1 with hostOut := s1.hostOut ++ [.complete fn q x.entry c.tag status dw, .msix fn 0] }

/-- The status word goes back to the thread, or into the queue's entry (Table 16.4, R426). -/
def answerSubmit (s : State) (from_ : Submit) (code : BitVec 8) (w : Word) : State :=
  match from_ with
  | .thread c k uid =>
    match (s.thread c k).filter fun t => t.uid == uid with
    | some t =>
      match t.status with
      | .blocked (.router d lit) => s.setThread c k ((t.write d .u32 w).proceed s.clock lit)
      | _ => s
    | none => s
  | .host fn q cmd => finishCmd s fn q cmd code (cmd.dw.set 1 (w.setWidth 64))

/-- LAUNCH_RECORD_ACCEPT: the router accepts or refuses the oldest record. -/
def acceptRecord (s : State) : State :=
  match s.routerQ with
  | [] => s
  | x :: xs =>
    let s1 := { s with routerQ := xs }
    match x.fail with
    | some c => answerFail s1 x.from_ c
    | none =>
      match refusal s1 x.part x.record.toNat with
      | some c => answerSubmit s1 x.from_ c (refusedWord c)
      | none => answerSubmit (acceptLaunch s1 x.part x.record x.queue) x.from_ 0 (w32 (s1.nextSeq % 2 ^ 31))
where
  /-- A record that could not be read completes its entry with that code and nothing else (R427). -/
  answerFail (s : State) (from_ : Submit) (c : BitVec 8) : State :=
    match from_ with
    | .thread _ _ _ => s
    | .host fn q cmd => finishCmd s fn q cmd c cmd.dw

/-! ## Completion (R386, R394) -/

/-- Work of a gang still running on a copy channel of a core. -/
def chanBusy (s : State) (c seq top : Nat) : Bool :=
  (s.cluster (c / 4)).chans.any fun e => e.1 / 4 == c % 4 && e.2.state == 1 &&
    match e.2.work with | some w => w.seq == seq && w.top == top | none => false

/-- The cores of a gang in residence. -/
def GangState.cores : GangState → List Nat
  | .placed cs => cs
  | .halting cs => cs
  | _ => []

def findGang (s : State) (seq idx : Nat) : Option TopGang :=
  (tabFind s.launches seq).bind fun l => l.gangs.find? fun g => g.idx == idx

/-- A resident gang's threads have all ended, and no channel runs work of it. -/
def gangEnded (s : State) (seq top : Nat) (cs : List Nat) : Bool :=
  cs.all fun c => !((s.core c).rows.any fun r => r.2.seq == seq && r.2.top == top) && !chanBusy s c seq top

def ofGang (seq top : Nat) (a : Access) : Bool := a.seq == seq && a.top == top

/-- Every access of its threads has been performed, counted writes apart, which the launch waits for (R386, R321). -/
def gangOver (s : State) (seq top : Nat) (cs : List Nat) : Bool :=
  gangEnded s seq top cs && !s.accesses.any fun a => ofGang seq top a && (holdsRelease a || hostPost a)

/-- Nothing but its posted host writes holds the gang up, which a zero-length read flushes (R333). -/
def gangFlushes (s : State) (seq top : Nat) (cs : List Nat) : Bool :=
  gangEnded s seq top cs && !s.accesses.any fun a => ofGang seq top a && holdsRelease a

/-- GANG_COMPLETE: once its host writes are flushed, its allocations are freed, and its token's slot if it never popped
(R372, R386). -/
def completeGang (s : State) (seq top : Nat) : State :=
  match findGang s seq top with
  | none => s
  | some g =>
    match g.state with
    | .placed cs =>
      if gangOver s seq top cs then
        let s1 := cs.foldl (fun st c => st.modCore c fun x =>
          { x with gangs := x.gangs.filter fun y => !(y.seq == seq && y.top == top) }) s
        let s2 := modLaunch (modGang s1 seq top fun y => { y with state := .done }) seq fun l =>
          { l with completed := l.completed + 1 }
        match g.token, g.popped with
        | some (e, _, _), false => freeToken s2 (launchPart s seq) e
        | _, _ => s2
      else if gangFlushes s seq top cs then flushPosts (ofGang seq top) s
      else s
    | _ => s

def GangState.isDone : GangState → Bool
  | .done => true
  | _ => false

/-- All in-edges are CLOSED and empty (R394). -/
def inEdgesOver (s : State) (seq : Nat) (l : Launch) : Bool :=
  (recInEdges l.record.toNat).all fun e =>
    let x := (s.part l.part).edge e.id
    x.consumer != some seq || (x.state == 4 && x.tokens.isEmpty)

/-- The launch has nothing left to run. -/
def launchOver (s : State) (seq : Nat) (l : Launch) : Bool :=
  l.torn || (l.gangs.all (fun g => g.state.isDone) &&
    ((recInEdges l.record.toNat).isEmpty || l.completed == recExt l.record.toNat (recTop l.record.toNat) ||
      inEdgesOver s seq l))

def launchShort (l : Launch) : Bool :=
  !l.torn && !(recInEdges l.record.toNat).isEmpty && l.completed < recExt l.record.toNat (recTop l.record.toNat)

/-- The completion word (Table 17.6). -/
def completionWord (seq : Nat) (l : Launch) : DWord :=
  w64 (2 ^ 63 + b2n l.killed * 2 ^ 62 + b2n l.torn * 2 ^ 61 + b2n (launchShort l) * 2 ^ 60 +
    l.completed % 2 ^ 24 * 2 ^ 32 + seq % 2 ^ 31)

/-- The proctor writes a doubleword at a local address of a partition: the code of a failure. -/
def storeDword (s : State) (p : Nat) (a v : DWord) : Option (BitVec 8) × State :=
  match addrOf a with
  | .local va =>
    match translate s (diePlace 0) p va .store .page none with
    | (.error x, s1) => (some x.code, s1)
    | (.ok l, s1) =>
      if l.host then (none, hostWrite s1 (leafAddr l va) (bytesLE 8 v.toNat) .so l.via)
      else
        match homeWrite s1 (leafAddr l va) l.slot [mk (lo32 v), mk (hi32 v)] (s1.part p).l2Ways with
        | .ok _ s2 => (none, s2)
        | .fail c s2 => (some c, s2)
  | .bad => (some fcXlate, s)
  | _ => (some fcProtect, s)

/-- A core still holds the launch's world (R424). -/
def worldHeld (s : State) (seq : Nat) : Bool := s.cores.any fun e => e.2.launch == some seq

/-- LAUNCH_COMPLETE: every host write flushed (R333), every scrub done and every counted write acknowledged, the
completion word is written. -/
def completeLaunch (s : State) (seq : Nat) : State :=
  match tabFind s.launches seq with
  | none => s
  | some l =>
    if !launchOver s seq l then s
    else if s.accesses.any (fun a => a.seq == seq && hostPost a) then flushPosts (fun a => a.seq == seq) s
    else if worldHeld s seq || s.accesses.any (fun a => a.seq == seq) ||
        engineHeld s (diePlace 0) l.part (w64 (field l.record.toNat 255 192)) 2 then s
    else
      let s1 := endEdges s l.part seq
      let done := w64 (field l.record.toNat 255 192)
      let r := if done == 0 then (none, s1) else storeDword s1 l.part done (completionWord seq l)
      let s2 := match r.1 with
        | some c => pushBatch r.2 l.part [{ launchRec 0 seq c 0 1 done with die := 0 }]
        | none => r.2
      { s2 with launches := tabDel s2.launches seq, hostOut := s2.hostOut ++ [.msix (1 + l.part) 2] }

end Sys2Proof.Machine
end

