-- ==== Sys2Proof/Machine/FaultQueue.lean ====
section
/-! DEFINITION. The partition fault queue: writing batches (R409, R410), its registers (Table 18.4), and resuming
parked threads (R411). -/

namespace Sys2Proof.Machine

/-! ## Threads parked on records -/

/-- Record sequences on which a thread of the partition is parked (R410). -/
def parkedSeqs (s : State) (p : Nat) : List Nat :=
  (s.cores.map fun e => (e.2.threads.filter fun t => launchPart s t.2.seq == p).filterMap fun t => t.2.parkedOn).flatten ++
  ((savedCores s p).map fun x => x.threads.filterMap fun t => t.2.parkedOn).flatten

/-- The next value of the counter that is neither 0 nor in use. -/
def freeSeq (used : List Nat) : Nat → Nat → Option Nat
  | 0, _ => none
  | n + 1, r =>
    let x := r % 2 ^ 20
    if x == 0 || used.contains x then freeSeq used n (x + 1) else some x

/-- Sequences for the records of a batch; none if one finds no free value. -/
def takeSeqs : Nat → List Nat → Nat → Option (List Nat)
  | 0, _, _ => some []
  | n + 1, used, r =>
    match freeSeq used (used.length + 2) r with
    | none => none
    | some x => (takeSeqs n (x :: used) (x + 1)).map fun xs => x :: xs

/-! ## Writing a batch (R409) -/

def Part.queued (x : Part) : Nat := (x.fqProd.toNat + 8192 - x.fqCons.toNat) % 8192
def Part.hasRoom (x : Part) (n : Nat) : Bool := x.fqEnable && x.queued + n ≤ 4096

def recWords (b : BitVec 256) : List Datum := (List.range 8).map fun i => mk (b.extractLsb' (32 * i) 32)

/-- DPA of a ring entry. -/
def ringEntry (x : Part) (j : Nat) : Nat :=
  field x.fqBase.toNat 39 17 * 2 ^ 17 + 32 * ((x.fqProd.toNat + j) % 4096)
def ringSlot (x : Part) : Nat := field x.fqBase.toNat 7 0
/-- The phase of record j: 1 − FQ_PROD<12> at the record's place in the ring. -/
def ringPhase (x : Part) (j : Nat) : Bool := !bit (x.fqProd.toNat + j) 12

/-- Sixteen free words. -/
def freeWords (s : State) : List Datum × State :=
  let r := s.draw
  ((List.range 16).map fun i => mk (r.1.extractLsb' (32 * i) 32), r.2)

/-- Records `j` onward are written; a failure answers the number that it had reached. -/
def writeRecs (p : Nat) (x : Part) : Nat → List (FRec × Nat) → State → Except Nat Unit × State
  | _, [], s => (.ok (), s)
  | j, (r, q) :: rs, s =>
    match homeWrite s (ringEntry x j) (ringSlot x) (recWords (recBits r (ringPhase x j) q)) (s.part p).l2Ways with
    | .fail _ s1 => (.error j, s1)
    | .ok _ s1 => writeRecs p x (j + 1) rs s1

/-- Ring entries that a failed write had reached hold unspecified words. -/
def spoilRing (p : Nat) (x : Part) : Nat → State → State
  | 0, s => s
  | n + 1, s =>
    let f := freeWords s
    match homeWrite f.2 (ringEntry x n) (ringSlot x) (f.1.take 8) (s.part p).l2Ways with
    | .ok _ s1 => spoilRing p x n s1
    | .fail _ s1 => spoilRing p x n s1

/-- A thread parked on a record that has been written: its %frec takes the record's sequence and phase (R407). -/
def Thread.recorded (phase : Bool) (q : Nat) (t : Thread) : Thread :=
  { t with status := if t.status == .parked none then .parked (some q) else t.status
           frec := BitVec.ofNat 256 (b2n phase * 2 ^ 255 + q * 2 ^ 235 + t.frec.toNat % 2 ^ 235) }

def recordedOn (r : FRec) (phase : Bool) (q : Nat) (s : State) : State :=
  let s1 := r.uids.foldl (fun st u => modUid st u (Thread.recorded phase q)) s
  if r.kind == 5 && r.unit == 0 then
    s1.modCore (64 * r.die + 4 * r.cluster + r.core) fun x => { x with frozen := x.frozen.map fun f => { f with rseq := some q } }
  else s1

def recordAll (x : Part) : Nat → List (FRec × Nat) → State → State
  | _, [], s => s
  | j, (r, q) :: rs, s => recordAll x (j + 1) rs (recordedOn r (ringPhase x j) q s)

/-- FAULT_BATCH_WRITE: the oldest batch, where it has room. -/
def writeBatch (s : State) (p : Nat) : State :=
  let x := s.part p
  match x.batches with
  | [] => s
  | b :: bs =>
    let n := b.recs.length
    if !x.hasRoom n then s
    else
      match takeSeqs n (parkedSeqs s p) x.nextRseq with
      | none => s
      | some qs =>
        match writeRecs p x 0 (b.recs.zip qs) s with
        | (.ok _, s1) =>
          let y := s1.part p
          let s2 := s1.setPart p { y with
            batches := bs, fqProd := y.fqProd + BitVec.ofNat 13 n, fqCount := y.fqCount + BitVec.ofNat 64 n
            nextRseq := ((qs.getLast?).getD 0 + 1) % 2 ^ 20 }
          let s3 := recordAll x 0 (b.recs.zip qs) s2
          { s3 with hostOut := s3.hostOut ++ [.msix (1 + p) 1] }
        | (.error j, s1) =>
          let s2 := spoilRing p x j s1
          let y := s2.part p
          { s2.setPart p { y with fqEnable := false, writeFail := true } with
            hostOut := s2.hostOut ++ [.msix (1 + p) 1] }

/-! ## Registers -/

/-- FQ_CONS: a write that would make the count exceed 4,096 is ignored. -/
def writeFqCons (s : State) (p : Nat) (v : DWord) : State :=
  let x := s.part p
  let y := { x with fqCons := v.extractLsb' 0 13 }
  if 4096 < y.queued then s else s.setPart p y
def writeFqCtl (s : State) (p : Nat) (v : DWord) : State :=
  let x := s.part p
  s.setPart p { x with fqEnable := v.getLsbD 0 }

/-! ## Resuming (R411) -/

/-- The record that a thread keeps in %frec (Table 18.1). -/
def recOf (c : Nat) (t : Thread) : FRec :=
  let f := fun hi lo : Nat => field t.frec.toNat hi lo
  { kind := 1, die := c / 64, cluster := c / 4 % 16, core := c % 4, unit := 0, code := t.frec.extractLsb' 211 8
    detail := t.frec.extractLsb' 203 8, access := f 202 201, req := false, lanes := t.frec.extractLsb' 160 32
    seq := t.seq, pc := t.frec.extractLsb' 64 64, addr := t.frec.extractLsb' 0 64, uids := [t.uid] }

/-- A thread that has parked anew keeps its new record in %frec (R407). -/
def Thread.parkedAnew (r : FRec) (t : Thread) : Thread :=
  if t.status == .parked none then { t with frec := recBits r false 0 } else t

/-- One parked thread takes an action: REPLAY, DELIVER or KILL. A replayed instruction waits anew (R290). -/
def resumeThread (inst action c k : Nat) (s : State) : State :=
  match s.thread c k with
  | none => s
  | some t =>
    let u := { t with status := .ready, since := s.clock, waited := false, bundle := none }
    if action == 0 then s.setThread c k u
    else if action == 1 then (policyFault (s.setThread c k u) c k inst (recOf c t)).modThread c k (Thread.parkedAnew (recOf c t))
    else endThread s c k true

/-- Keys of a core's threads that are parked on a record of a partition. -/
def parkedKeys (s : State) (p q : Nat) (x : Core) : List Nat :=
  (x.threads.filter fun t => t.2.parkedOn == some q && launchPart s t.2.seq == p).map Prod.fst

def resumeCore (p q action : Nat) (s : State) (c : Nat) : State :=
  match parkedKeys s p q (s.core c) with
  | [] => s
  | ks =>
    let r := s.fresh
    settleCore (settleInst (ks.foldl (fun st k => resumeThread r.1 action c k st) r.2) r.1) c

/-- A write of FQ_RESUME: resident threads act now, saved ones at their restore. -/
def resumeAll (s : State) (p q action : Nat) : State :=
  let s1 := (s.cores.map Prod.fst).foldl (resumeCore p q action) s
  let x := s1.part p
  if (savedCores s1 p).any (fun y => y.threads.any fun t => t.2.parkedOn == some q) && (tabFind x.resumes q).isNone then
    s1.setPart p { x with resumes := tabPut x.resumes q action }
  else s1

def resumeBad (s : State) (p : Nat) : State :=
  let x := s.part p
  s.setPart p { x with badResume := true }

end Sys2Proof.Machine
end

