-- ==== Sys2Proof/Machine/Switch.lean ====
section
/-! DEFINITION. Pre-emption (R395 to R399), context save and restore (R191, R413 to R415), thermal migration (R400) and
the scrub of a world (R424). -/

namespace Sys2Proof.Machine

/-! ## Restoring: where a saved gang goes (R399, R186) -/

abbrev Moves := List (SavedCore × Nat)

/-- Two saved cores that hold tiles of one number do not go to one cluster. -/
def tilesClash (done : Moves) (x : SavedCore) (c : Nat) : Bool :=
  done.any fun m => m.2 / 4 == c / 4 && m.1.tileNos.any x.tileNos.contains

/-- Saved cores take distinct cores in turn. -/
def assignCores (ok : SavedCore → Nat → Bool) : List SavedCore → List Nat → Moves → Option (Moves × List Nat)
  | [], av, done => some (done, av)
  | x :: xs, av, done =>
    match av.find? fun c => ok x c && !tilesClash done x c with
    | none => none
    | some c => assignCores ok xs (av.filter fun d => d != c) (done ++ [(x, c)])

def SavedCore.path (x : SavedCore) : List Nat := ((x.gangs.head?).map CoreGang.path).getD []
/-- Index of a saved core's node at a level. -/
def SavedCore.nodeAt (k : Nat) (x : SavedCore) : Nat := (x.path[k - 1]?).getD 0

/-- A group of saved cores in the first unit that takes it whole. -/
def groupIn (d : Nat) (go : List Nat → Moves → Option (Moves × List Nat)) :
    List Nat → List Nat → Moves → Option (Moves × List Nat)
  | [], _, _ => none
  | u :: us, av, done =>
    match go (av.filter fun c => unitOf d c == u) done with
    | some r => some (r.1, av.filter fun c => unitOf d c != u)
    | none => groupIn d go us av done

def groupsIn (d : Nat) (go : List SavedCore → List Nat → Moves → Option (Moves × List Nat)) :
    List (List SavedCore) → List Nat → Moves → Option (Moves × List Nat)
  | [], av, done => some (done, av)
  | g :: gs, av, done =>
    match groupIn d (go g) ((av.map (unitOf d)).eraseDups) av done with
    | none => none
    | some r => groupsIn d go gs r.2 r.1

/-- Cores that formed one node of a cluster, die or module domain again lie in one such unit (R399). -/
def restoreNode (r : Nat) (ok : SavedCore → Nat → Bool) :
    Nat → List SavedCore → List Nat → Moves → Option (Moves × List Nat)
  | 0, xs, av, done => assignCores ok xs av done
  | k + 1, xs, av, done =>
    if recDomain r k ≤ 2 then assignCores ok xs av done
    else if recDomain r k == recDomain r (k + 1) then restoreNode r ok k xs av done
    else
      let ids := (xs.map (SavedCore.nodeAt k)).eraseDups
      groupsIn (recDomain r k) (restoreNode r ok k) (ids.map fun i => xs.filter fun x => x.nodeAt k == i) av done

/-- Where the cores of a context go; none while they have no room. -/
def restorePlan (s : State) (p seq r : Nat) (ctx : List SavedCore) (cores : List Nat) : Option Moves :=
  let av := (cores.filter (fillMay s p r)).filter fun c => ctx.any fun x => receives s seq r x c
  let go := restoreNode r (receives s seq r) (recTop r) ctx
  (groupIn (recDomain r (recTop r)) go ((av.map (unitOf (recDomain r (recTop r)))).eraseDups) av []).bind fun x =>
    if (s.part p).exists_ then some x.1 else none

def canRestore (s : State) (p : Nat) (prefer : List Nat) (w : Waiter) : Bool :=
  (restorePlan s p w.seq w.launch.record.toNat (contextOf w.launch w.gang) (tryOrder s p prefer)).isSome

/-! ## Pre-emption (R397 to R399, R414) -/

/-- Top-level gangs that stand or fall together, and the cores they hold. -/
structure Group where
  gangs : List (Nat × Nat)
  cores : List Nat
  deriving DecidableEq, Repr

def gangCores (s : State) (g : Nat × Nat) : List Nat := ((findGang s g.1 g.2).map fun x => x.state.cores).getD []

/-- Every gang on the cores of a gang, and every gang that those belong to (R397). -/
def closeGroup (s : State) : Nat → List (Nat × Nat) → Group
  | 0, gs => ⟨gs, ((gs.map (gangCores s)).flatten).eraseDups⟩
  | n + 1, gs =>
    let cs := ((gs.map (gangCores s)).flatten).eraseDups
    let more := (gs ++ (cs.map fun c => (s.core c).gangs.map fun g => (g.seq, g.top)).flatten).eraseDups
    if more.length == gs.length then ⟨gs, cs⟩ else closeGroup s n more

/-- A resident gang as the router weighs it. -/
structure Victim where
  seq : Nat
  gang : TopGang
  fill : Bool
  owed : Bool
  pushes : Bool

def waitsPush (s : State) (seq top : Nat) (cs : List Nat) : Bool :=
  cs.any fun c => (s.core c).threads.any fun t => t.2.seq == seq && topOf s c t.1 == top &&
    match t.2.status with | .blocked (.edge _) => true | _ => false

/-- Resident gangs of a partition that hold no frozen core (R417). -/
def residents (s : State) (p : Nat) : List Victim :=
  (s.launches.map fun e =>
    if e.2.part == p && !e.2.torn then
      e.2.gangs.filterMap fun g => match g.state with
        | .placed cs =>
          if cs.any fun c => (s.core c).frozen.isSome then none
          else some ⟨e.1, g, recFill e.2.record.toNat, e.2.owed.isSome, waitsPush s e.1 g.idx cs⟩
        | _ => none
    else []).flatten

/-- The order of R398. -/
def Victim.before (owed : Bool) (a b : Victim) : Bool :=
  if a.fill != b.fill then a.fill
  else if owed && a.pushes != b.pushes then a.pushes
  else if a.gang.carried != b.gang.carried then a.gang.carried < b.gang.carried
  else if a.gang.dispatched != b.gang.dispatched then b.gang.dispatched < a.gang.dispatched
  else b.seq < a.seq

def insertVictim (owed : Bool) (v : Victim) : List Victim → List Victim
  | [] => [v]
  | x :: xs => if v.before owed x then v :: x :: xs else x :: insertVictim owed v xs

/-- The state as it would be with cores vacated and scrubbed. -/
def vacated (s : State) (cs : List Nat) : State :=
  cs.foldl (fun st c =>
    (dropCore st c).modCore c fun x =>
      { x.torn with launch := none, scrubDue := false, q := [], cm := [], rk := [], scratch := [], l1 := [] }) s

/-- A waiting or saved gang has room. -/
def placeable (s : State) (p : Nat) (w : Waiter) : Bool :=
  if w.gang.state.isSaved then canRestore s p [] w
  else (placeGang w.launch.record.toNat w.gang.idx (roomsFor s p w.seq w.launch.record.toNat [])).isSome

/-- The live count under which a thread is saved (R191): of the header at its PC, if it stands at one. DESIGN CHOICE
(log entry 103): all registers of the launch are saved where the word there is no header, or its fetch faults. -/
def liveCount (s : State) (c : Nat) (t : Thread) : Nat × State :=
  let n := launchRegs s t.seq
  if t.entered && t.pc != t.blockEnd then (min (hdrLive t.hdr) n, s)
  else
    match fetchAt s c (launchPart s t.seq) t.pc with
    | .ok w s1 => (if wordClass w == 15 then min (hdrLive w) n else n, s1)
    | .fail _ s1 => (n, s1)

/-- What the accesses of a thread kept of it that have no verdict yet, oldest first. -/
def openStates (s : State) (t : Thread) : List Thread :=
  s.accesses.filterMap fun a => if a.uid == t.uid then a.before else none

/-- The thread as the save finds it: at its oldest load in flight, which is issued again at the restore with whatever
the thread has done since (R221; log entry 12). -/
def haltedAt (s : State) (t : Thread) : Thread :=
  match openStates s t with
  | [] => t
  | old :: _ => { t.backTo old with status := .ready }

/-- The most that a thread's live count can be at a save, once more of its loads have come. -/
def liveMost (s : State) (c : Nat) (t : Thread) : Nat :=
  ((t :: openStates s t).map fun u => (liveCount s c u).1).foldl max 0

/-- Live counts of the threads of a core by uid, and the headers fetched for them: while one of the fetches waits for
its page walk, the save waits (R80). -/
def coreLives (s : State) (c : Nat) : Tab Nat × State :=
  (s.core c).threads.foldl (fun r e =>
    let l := liveCount r.2 c (haltedAt r.2 e.2)
    (r.1 ++ [(e.2.uid, l.1)], l.2)) ([], s)
def allLives (s : State) (cs : List Nat) : Tab Nat × State :=
  cs.foldl (fun r c => let l := coreLives r.2 c; (r.1 ++ l.1, l.2)) ([], s)
def liveOf (ls : Tab Nat) (t : Thread) : Nat := (tabFind ls t.uid).getD 0

/-- Tiles whose bibs a core holds. -/
def coreTiles (s : State) (c : Nat) : Tab Tile := (s.cluster (c / 4)).tiles.filter fun t => t.2.held && t.2.core == c % 4

/-- Bytes of a save, by the number of registers that each thread saves (Table 18.6, R191). -/
def saveBytes (s : State) (g : Group) (live : Nat → Thread → Nat) : Nat :=
  (g.cores.map fun c =>
    let x := s.core c
    4096 + 128 * x.rows.length + (x.threads.map fun t => 256 + 8 * live c t.2).foldl (· + ·) 0 +
    (x.gangs.map fun y => (9 * y.size / 8 + 255) / 256 * 256).foldl (· + ·) 0 +
    1280 * (coreTiles s c).length).foldl (· + ·) 0

/-- Areas of the save pool in use (R414). -/
def poolAreas (s : State) (p : Nat) : List (Nat × Nat) :=
  ((s.launches.filter fun e => e.2.part == p).map fun e => e.2.gangs.filterMap fun g => match g.state with
    | .saved (_ :: _) b n => some (b, n)
    | _ => none).flatten

def poolFit (s : State) (p : Nat) (n : Nat) : Option Nat := firstFit (poolAreas s p) (s.part p).svSize.toNat n

/-- The fewest victims, in their order, that free enough room: the shortest start of the order. -/
def chooseVictims (s : State) (p : Nat) (w : Waiter) (vs : List Victim) (limit : Option Nat) : Nat → Nat → Option Group
  | 0, _ => none
  | n + 1, k =>
    let g := closeGroup s 513 ((vs.take k).map fun v => (v.seq, v.gang.idx))
    let low := match limit with
      | none => true
      | some c => g.gangs.all fun x => ((findGang s x.1 x.2).map fun y => decide (y.carried < c)).getD false
    if g.cores.any (fun c => (s.core c).frozen.isSome) then none
    else if low && placeable (vacated s g.cores) p w then
      (if (poolFit s p (saveBytes s g (liveMost s))).isSome then some g else none)
    else if k < vs.length then chooseVictims s p w vs limit n (k + 1)
    else none

/-- The victims for one waiting gang, by the causes of R397. -/
def victimsFor (s : State) (p : Nat) (w : Waiter) : Option Group :=
  let all := residents s p
  let pick := fun (owed : Bool) (limit : Option Nat) (vs : List Victim) =>
    let o := vs.foldl (fun t v => insertVictim owed v t) []
    if o.isEmpty then none else chooseVictims s p w o limit o.length 1
  if w.launch.owed.isSome then pick true none (all.filter fun v => !v.owed)
  else
    let fill := recFill w.launch.record.toNat
    let forced := if fill then none else pick false none (all.filter Victim.fill)
    match forced with
    | some g => some g
    | none => pick false (some w.carried) (all.filter fun v => v.gang.carried < w.carried && (v.fill || !fill))

/-- The first waiting gang that has no room and for which gangs can be pre-empted. -/
def firstPreempting (s : State) (p : Nat) : List Waiter → Option Group
  | [] => none
  | w :: ws =>
    if placeable s p w then (if w.launch.owed.isSome then none else firstPreempting s p ws)
    else
      match victimsFor s p w with
      | some g => some g
      | none => if w.launch.owed.isSome then none else firstPreempting s p ws

/-- The group's cores stop issuing, and their queued matrix requests are withdrawn (R399, R186). -/
def haltGroup (s : State) (g : Group) : State :=
  let s0 := g.cores.foldl (fun st c => st.modCore c fun x => { x with halting := true }) s
  let s1 := g.cores.foldl withdrawCore s0
  g.gangs.foldl (fun st x => modGang st x.1 x.2 fun y =>
    { y with state := match y.state with | .placed cs => .halting cs | z => z }) s1

def partHalting (s : State) (p : Nat) : Bool :=
  s.launches.any fun e => e.2.part == p && e.2.gangs.any fun g => match g.state with | .halting _ => true | _ => false

/-- PREEMPT -/
def preemptFor (s : State) (p : Nat) : State :=
  if partHalting s p then s
  else
    match firstPreempting s p (routerOrder s p) with
    | some g => haltGroup s g
    | none => s

/-! ## Context save (R399, R413) -/

/-- An access of a thread that is halted at an earlier load in flight, and issues it again after that load. -/
def undone (s : State) (a : Access) : Bool :=
  s.accesses.any fun b => b.uid == a.uid && b.id < a.id && b.kind.isLoad && b.before.isSome

/-- An access that a save waits for: stores, atomics and probes must have their answers (R301, R338). -/
def saveWaits (s : State) (a : Access) : Bool := !a.kind.isLoad && a.kind != .pref && !undone s a

def TileOpKind.isMove : TileOpKind → Bool
  | .read _ _ => true
  | .cvt _ _ _ _ _ => true
  | _ => false

/-- No lane operation stands ahead of a tile's first pass (R293). -/
def Tile.applied (t : Tile) : Bool :=
  match t.queue with
  | [] => true
  | o :: _ => o.kind.isPass

/-- A wait for a counter that has been reached, which the thread is about to see (R306). -/
def Status.counterHit : Status → Bool
  | .blocked (.counter _ _ _ _ _ _ hit) => hit
  | _ => false

/-- Nothing on the cores holds the save up: accesses are done, channels rest, granted passes and the lane operations
ahead of the others are done, and no LAUNCH is at the router (R156, R293, R301, R338, R399). -/
def saveReady (s : State) (cs : List Nat) : Bool :=
  !s.accesses.any (fun a => cs.contains a.core && saveWaits s a) &&
  cs.all (fun c =>
    (s.core c).frozen.isNone && (coreChans s c).all (fun e => e.2.state == 0 || e.2.state == 2) &&
    !((s.cluster (c / 4)).running.any fun r =>
      (tileOf s (c / 4) r.tile).queue.any fun o => o.id == r.op && o.core == c) &&
    (coreTiles s c).all (fun t => t.2.applied) && !(s.core c).threads.any (fun t => t.2.status.counterHit) &&
    !s.routerQ.any fun x => match x.from_ with | .thread d _ _ => d == c | _ => false)

/-- Posted host writes of the cores' threads that only a zero-length read can flush (R333, R338). -/
def unflushed (s : State) (cs : List Nat) : List Access :=
  s.accesses.filter fun a => cs.contains a.core && hostPost a

/-- The save's own zero-length reads. -/
def flushHost (s : State) (cs : List Nat) : State := flushPosts (fun a => cs.contains a.core) s

/-- A register as it is saved: below m, whole; from m on, it comes back as zero (R191). What withdrawn passes held is
returned (R186). -/
def saveReg (m : Nat) (e : Nat × Reg) : Option (Nat × Reg) :=
  if e.1 < m then some (e.1, { e.2 with pending := false, lent := 0 }) else none

/-- A thread as it is saved: its oldest load in flight, or the instruction that it was held at, is to be issued again. -/
def saveThread (s : State) (ls : Tab Nat) (t : Thread) : Thread :=
  let u := haltedAt s t
  { u with
    regs := u.regs.filterMap (saveReg (liveOf ls t))
    bundle := none
    waited := match u.status with | .blocked _ => false | _ => u.waited
    status := match u.status with | .blocked _ => .ready | x => x }

/-- Batches of threads of the cores: those with uids of a list. -/
def Batch.touches (us : List Nat) (b : Batch) : Bool := b.recs.any fun r => r.uids.any us.contains

def coreUids (x : Core) : List Nat := x.threads.map fun t => t.2.uid
/-- Batches of PGREQ instructions that are issued again at the restore. -/
def requestBatches (x : Core) : List Nat :=
  x.threads.filterMap fun t => match t.2.status with | .blocked (.queueRoom b) => some b | _ => none

def saveCore (s : State) (ls : Tab Nat) (p c : Nat) : SavedCore :=
  let x := s.core c
  let us := coreUids x
  { core := c, gangs := x.gangs, threads := x.threads.map fun e => (e.1, saveThread s ls e.2), rows := x.rows
    q := x.q, cm := x.cm, rk := x.rk, chans := coreChans s c, scratch := x.scratch
    tiles := (coreTiles s c).map fun t => (t.1, { t.2 with queue := t.2.queue.filter fun o => !o.kind.isMove })
    batches := (s.part p).batches.filter fun b => b.touches us
    demands := s.demands.filter fun d => d.core == c }

/-- What is left of a core when its gangs are gone: its world is to be scrubbed. -/
def leaveCore (p : Nat) (s : State) (c : Nat) : State :=
  let x := s.core c
  let us := coreUids x
  let req := requestBatches x
  let y := s.part p
  let s1 := s.setPart p { y with batches := y.batches.filter fun b => !b.touches us && !req.contains b.id }
  let s2 := { s1 with accesses := s1.accesses.filter fun a => a.core != c
                      demands := s1.demands.filter fun d => d.core != c }
  dropCore (s2.setCore c x.torn) c

/-- Sectors of the save pool written, under the key slot of the gang's world, with words that only the device
understands (R413), or the code of a failure. -/
def writePool (p slot : Nat) : Nat → Nat → State → Option (BitVec 8 × DWord) × State
  | 0, _, s => (none, s)
  | n + 1, va, s =>
    match translate s (diePlace 0) p va .store .page none with
    | (.error x, s1) => (some (x.code, w64 va), s1)
    | (.ok l, s1) =>
      if l.host then (some (fcProtect, w64 va), s1)
      else
        let f := freeWords s1
        match homeWrite f.2 (leafAddr l va) slot f.1 (f.2.part p).l2Ways with
        | .fail e s2 => (some (e, w64 va), s2)
        | .ok _ s2 => writePool p slot n (va + 64) s2

/-- A restore moves words with their codes, and checks none of them (R22). -/
def readPool (p slot : Nat) : Nat → Nat → State → Option (BitVec 8 × DWord) × State
  | 0, _, s => (none, s)
  | n + 1, va, s =>
    match translate s (diePlace 0) p va .load .page none with
    | (.error x, s1) => (some (x.code, w64 va), s1)
    | (.ok l, s1) =>
      if l.host then (some (fcProtect, w64 va), s1)
      else
        match homeRead s1 (leafAddr l va) slot 16 (s1.part p).l2Ways with
        | .fail e s2 => (some (e, w64 va), s2)
        | .ok _ s2 => readPool p slot n (va + 64) s2

/-- A save or a restore that faults tears the launch down, with a LAUNCH record (R414). -/
def poolFails (s : State) (p seq c access : Nat) (e : BitVec 8 × DWord) : State :=
  pushBatch (teardown s seq) p [launchRec c seq e.1 0 access e.2]

/-- The gangs become saved; the first of them holds the context. -/
def markSaved (ctx : List SavedCore) (base size clock : Nat) : Bool → List (Nat × Nat) → State → State
  | _, [], s => s
  | first, g :: gs, s =>
    markSaved ctx base size clock false gs
      (modGang s g.1 g.2 fun y => { y with state := .saved (if first then ctx else []) base size, since := clock })

/-- The outcome of a save: it waits, in the state that its page walks have left; it has failed, and the launch is torn
down; or it is done. -/
inductive Saving where
  | waits (s : State)
  | fails (s : State)
  | done (s : State)

/-- The group is saved and its cores are left; nothing yet while something holds the save up, or for want of room. -/
def saveGroup (s : State) (p seq : Nat) (g : Group) : Saving :=
  if !saveReady s g.cores then .waits s
  else
    let r := allLives (g.cores.foldl withdrawCore s) g.cores
    let s0 := r.2
    let n := saveBytes s0 g fun _ => liveOf r.1
    if s0.stalled then .waits s0
    else
      match poolFit s0 p n with
      | none => .waits s
      | some b =>
        match writePool p (launchSlot s0 seq) ((n + 63) / 64) (field (s0.part p).svBase.toNat 56 0 + b) s0 with
        | (some e, s1) => .fails (poolFails s1 p seq ((g.cores.head?).getD 0) 1 e)
        | (none, s1) =>
          let ctx := g.cores.map (saveCore s1 r.1 p)
          let s2 := g.cores.foldl (leaveCore p) s1
          let s3 := markSaved ctx b n s2.clock true g.gangs s2
          let y := s3.part p
          .done (s3.setPart p { y with preemptCount := y.preemptCount + BitVec.ofNat 64 g.gangs.length })

/-- CONTEXT_SAVE -/
def contextSaveOf (s : State) (seq top : Nat) : State :=
  match (findGang s seq top).map TopGang.state with
  | some (.halting _) =>
    let p := launchPart s seq
    let g := closeGroup s 513 [(seq, top)]
    if !(unflushed s g.cores).isEmpty then flushHost s g.cores
    else
      match saveGroup s p seq g with
      | .waits s1 | .fails s1 | .done s1 => s1
  | _ => s

/-! ## Restore (R415) -/

/-- Rows of the saved core and the rows that they take. -/
abbrev RowMap := List (Nat × Nat)
def rowTo (m : RowMap) (r : Nat) : Nat := ((m.find? fun e => e.1 == r).map Prod.snd).getD r
def keyTo (m : RowMap) (k : Nat) : Nat := 32 * rowTo m (k / 32) + k % 32

def opTo (c : Nat) (m : RowMap) (prio clock : Nat) (o : TileOp) : TileOp :=
  { o with
    core := c, row := rowTo m o.row
    kind := match o.kind with
      | .pass p => .pass { p with lanes := p.lanes.map fun l => { l with key := keyTo m l.key }, prio := prio, entered := clock }
      | k => k }

def tileTo (c : Nat) (m : RowMap) (prio clock : Nat) (t : Tile) : Tile :=
  { t with core := c % 4, row := rowTo m t.row, queue := t.queue.map (opTo c m prio clock) }

def FRec.onCore (c : Nat) (r : FRec) : FRec :=
  if r.unit == 0 then { r with die := c / 64, cluster := c / 4 % 16, core := c % 4 } else r

/-- Words of an allocation, moved to its new base. -/
def moveScratch (old : Tab Datum) (g : CoreGang) (base : Nat) (t : Tab Datum) : Tab Datum :=
  let kept := t.filter fun e => e.1 < base / 4 || base / 4 + g.size / 4 ≤ e.1
  (old.filter fun e => g.base / 4 ≤ e.1 && e.1 < g.base / 4 + g.size / 4).foldl
    (fun acc e => tabSet zeroDatum acc (base / 4 + (e.1 - g.base / 4)) e.2) kept

def moveAll (old : Tab Datum) : List (CoreGang × Nat) → Tab Datum → Tab Datum
  | [], t => t
  | (g, b) :: gs, t => moveAll old gs (moveScratch old g b t)

/-- Work that was paused takes its gang's new allocation. -/
def workTo (gs : List (CoreGang × Nat)) (w : Work) : Work :=
  match gs.find? fun g => g.1.seq == w.seq && g.1.top == w.top with
  | some g => { w with base := g.2, size := g.1.size }
  | none => w

/-- The passes queued on restored tiles lend their registers again (R186). -/
def relendTiles (c : Nat) (is : List Nat) (s : State) : State :=
  is.foldl (fun st i => (tileOf st (c / 4) i).queue.foldl (fun st o => match o.kind with
    | .pass p => relend st c p
    | _ => st) st) s

/-- One saved core on the core that receives it: what its gangs share is that of the save (R156, R415); its withdrawn
requests lend their registers and enter the table as it has free entries (R186); and lanes that had faulted beside lanes
that were halted get their records (R409). An acquire at .sy (R338). -/
def putCore (p seq r prio : Nat) (s : State) (x : SavedCore) (c : Nat) : State :=
  let y := (s.core c).takeIn seq (recSplit r)
  let m : RowMap := x.rowNos.zip (freeRows s c)
  let bases := ((allocAll (recSplit r * 65536) (y.gangs.map fun g => (g.base, g.size)) x.gangs).getD [])
  let placed := x.gangs.zip bases
  let y1 := { y with
    threads := x.threads.foldl (fun t e => tabPut t (keyTo m e.1) { e.2 with since := s.clock }) y.threads
    rows := x.rows.foldl (fun t e => tabPut t (rowTo m e.1) e.2) y.rows
    gangs := y.gangs ++ placed.map fun g => { g.1 with base := g.2, rows := g.1.rows.map (rowTo m), since := s.clock }
    q := x.q
    cm := x.cm
    rk := x.rk
    scratch := moveAll x.scratch placed y.scratch }
  let s1 := l1Acquire (s.setCore c y1) c
  let cl := s1.cluster (c / 4)
  let s2 := s1.setCluster (c / 4) { cl with
    chans := x.chans.foldl (fun t e => tabSet Channel.zero t (4 * (c % 4) + e.1) { e.2 with work := e.2.work.map (workTo placed) })
      (cl.chans.filter fun e => e.1 / 4 != c % 4)
    tiles := x.tiles.foldl (fun t e => tabSet Tile.zero t e.1 (tileTo c m prio s.clock e.2)) cl.tiles }
  let s3 := { s2 with demands := s2.demands ++ x.demands.map fun d =>
                { d with core := c, key := keyTo m d.key, record := d.record.onCore c } }
  let s4 := x.batches.foldl (fun st b => pushBatch st p (b.recs.map (FRec.onCore c))) s3
  fillTable 16 (x.demands.foldl (fun st d => settleInst st d.inst) (relendTiles c (x.tiles.map Prod.fst) s4))
    (c / 4)

/-- A chain that was paused goes on at CH_HEAD, which then reads 0 (R156, Table 6.6). -/
def resumeChain (c : Nat) (s : State) (n : Nat) : State :=
  let ch := 4 * (c % 4) + n
  let x := chan s (c / 4) ch
  match x.resume, x.work with
  | true, some w => walkChain (setChan s (c / 4) ch { x with state := 1, resume := false, head := 0 }) (c / 4) ch w x.head
  | _, _ => s

/-- Resumes that were written while the threads of a core were saved (R411). -/
def applyResumes (p : Nat) (s : State) (c : Nat) : State :=
  (s.part p).resumes.foldl (fun st e => resumeCore p e.1 e.2 st c) s

/-- The gangs of a context leave the pool for their new cores. -/
def restoreMoves (s : State) (p seq r prio : Nat) (gs : List (Nat × Nat)) (ms : Moves) : State :=
  let s1 := ms.foldl (fun st m => putCore p seq r prio st m.1 m.2) s
  let coresOf := fun g : Nat × Nat => (ms.filter fun m => m.1.gangs.any fun y => y.seq == g.1 && y.top == g.2).map Prod.snd
  let s2 := gs.foldl (fun st g => modGang st g.1 g.2 fun y =>
    { y with state := .placed (coresOf g), carried := prio, dispatched := s1.nextId, since := s.clock }) { s1 with nextId := s1.nextId + 1 }
  let s3 := modLaunch s2 seq fun l => { l with owed := none }
  let cs := ms.map Prod.snd
  let s4 := cs.foldl (fun st c => (List.range 4).foldl (resumeChain c) st) s3
  let s5 := trimResumes (cs.foldl (applyResumes p) s4) p
  cs.foldl settleCore s5

/-- Gangs that a context holds. -/
def contextGangs (ctx : List SavedCore) : List (Nat × Nat) :=
  ((ctx.map fun x => x.gangs.map fun g => (g.seq, g.top)).flatten).eraseDups

/-- Reads a context back from the pool and places it. -/
def restoreContext (s : State) (p seq : Nat) (w : Waiter) (ctx : List SavedCore) (b n : Nat) (ms : Moves) : State :=
  match readPool p (launchSlot s seq) ((n + 63) / 64) (field (s.part p).svBase.toNat 56 0 + b) s with
  | (some e, s1) => poolFails s1 p seq ((ms.head?).map Prod.snd |>.getD 0) 0 e
  | (none, s1) => restoreMoves s1 p seq w.launch.record.toNat (carriedNow s w.launch) (contextGangs ctx) ms

/-- RESTORE: the saved gang that is the first of the order to have room. -/
def restoreGang (s : State) (seq top : Nat) (prefer : List Nat) : State :=
  let p := launchPart s seq
  match firstPlaceable s p [] (canRestore s p []) (routerOrder s p) with
  | none => s
  | some (w, _) =>
    match w.gang.state with
    | .saved _ b n =>
      if w.seq != seq || w.gang.idx != top then s
      else
        let ctx := contextOf w.launch w.gang
        match restorePlan s p seq w.launch.record.toNat ctx (tryOrder s p prefer) with
        | some ms => restoreContext s p seq w ctx b n ms
        | none => s
    | _ => s

/-- GANG_DISPATCH: a new gang that is the first of the order to have room. -/
def dispatchNext (s : State) (p : Nat) (prefer : List Nat) : State :=
  match firstPlaceable s p prefer (canRestore s p []) (routerOrder s p) with
  | none => s
  | some (w, rows) => if w.gang.state.isSaved then s else dispatchGang s w rows

/-! ## Thermal migration (R400) -/

def migrateClocks : Nat := 525000

/-- A gang of a hot core may move: long enough resident, not moved lately, and within one die. -/
def mayMigrate (s : State) (core : Nat) (g : Nat × Nat) : Bool :=
  match tabFind s.launches g.1, findGang s g.1 g.2 with
  | some l, some x =>
    recDomain l.record.toNat (recTop l.record.toNat) ≤ 4 && (x.migrated == 0 || x.migrated + migrateClocks ≤ s.clock) &&
    (s.core core).gangs.all fun y => y.seq != g.1 || y.top != g.2 || y.since + migrateClocks ≤ s.clock
  | _, _ => false

/-- THERMAL_MIGRATE: saved, and restored at once on cores of the die that are not hot. Nothing happens where the
save has to wait or no such placement exists. -/
def thermalMove (s : State) (core : Nat) (prefer : List Nat) : State :=
  let x := s.core core
  match x.hot, (x.gangs.head?).map fun g => (g.seq, g.top) with
  | true, some g0 =>
    let p := launchPart s g0.1
    let g := closeGroup s 513 (x.gangs.map fun y => (y.seq, y.top))
    let ok := g.gangs.all (mayMigrate s core) && g.gangs.all (fun y => match (findGang s y.1 y.2).map TopGang.state with
      | some (.placed _) => true | _ => false) && (unflushed s g.cores).isEmpty && !partHalting s p
    if !ok then s
    else
      match saveGroup s p g0.1 g with
      | .waits s1 | .fails s1 => s1
      | .done s1 =>
        match tabFind s1.launches g0.1, findGang s1 g0.1 g0.2 with
        | some l, some x0 =>
          let r := l.record.toNat
          let cool := (tryOrder s p prefer).filter fun c => c / 64 == core / 64 && !(s.core c).hot && c != core
          match restorePlan (vacated s1 g.cores) p g0.1 r (contextOf l x0) cool with
          | none => s
          | some ms =>
            let s2 := restoreMoves (vacated s1 (g.cores.filter fun c => ms.any fun m => m.2 == c)) p g0.1 r
              (carriedNow s l) g.gangs ms
            let s3 := g.gangs.foldl (fun st y => modGang st y.1 y.2 fun z => { z with migrated := s.clock }) s2
            let y := s3.part p
            s3.setPart p { y with migrateCount := y.migrateCount + 1 }
        | _, _ => s
  | _, _ => s

/-! ## The scrub of a world (R424) -/

/-- A core that holds no gang is scrubbed: everything of the world goes, and its L1 lines under the world's key
slot. -/
def scrubCore (s : State) (c : Nat) : State :=
  let x := s.core c
  match x.launch with
  | none => s
  | some seq =>
    if !x.gangs.isEmpty || s.accesses.any (fun a => a.core == c) || !(coreTiles s c).isEmpty then s
    else
      let k := launchSlot s seq
      let cl := s.cluster (c / 4)
      (s.setCluster (c / 4) { cl with chans := cl.chans.filter fun e => e.1 / 4 != c % 4 }).setCore c
        { x with threads := [], rows := [], q := [], cm := [], rk := [], scratch := []
                 l1 := x.l1.filter fun y => y.slot != k, launch := none, frozen := none, halting := false
                 scrubDue := false }

end Sys2Proof.Machine
end

