-- ==== Sys2Proof/Machine/Links.lean ====
section
/-! DEFINITION. The pod links and peers (R98 to R109), what arrives from pod, remote fabric and host (R107, R114 to
R117, R125), and the answers to what this module sent. -/

namespace Sys2Proof.Machine

/-! ## Answers to their owners -/

/-- The answer of a home reaches whoever waits for it. -/
def answerOwner (s : State) (o : Owner) (r : FabReply) : State :=
  match o with
  | .access id => match findAcc s id with
    | some a => fabAnswer s a r
    | none => s
  | .gate d i seq word n write => gateAnswer s d i seq word n write (.ok r)
  | .copy cl ch work word n write => copyAnswer s cl ch work word n write (.ok r)
  | .bar2 _ _ _ | .opnd _ _ | .none => s

/-- No answer will come: the peer is dead (R103, R116). -/
def deadOwner (s : State) (o : Owner) : State :=
  match o with
  | .access id => match findAcc s id with
    | some a => fabDead s a
    | none => s
  | .gate d i seq word n write => gateAnswer s d i seq word n write (.error fcPeerDead)
  | .copy cl ch work word n write => copyAnswer s cl ch work word n write (.error fcPeerDead)
  | .bar2 _ _ _ | .opnd _ _ | .none => s

/-- HX_ERR logs (R434). -/
def hxLog (s : State) (fn : Nat) (code : BitVec 8) (a : DWord) : State :=
  let f := s.fn fn
  let f1 := { f with errCount := f.errCount + 1 }
  s.setFn fn (if f.errValid then f1 else { f1 with errValid := true, errFunc := fn, errCode := code, errAddr := a })

/-- A host read through BAR2 whose page lies in host memory: answered when the module's own read is (R432). -/
def bar2Answer (s : State) (fn off len : Nat) : Except (BitVec 8) FabReply → State
  | .ok (.data ws _) =>
    { s with hostOut := s.hostOut ++ [.bar2 (some (((wordBytes ws).drop (off % 4)).take len)) false] }
  | .ok _ => s
  | .error e => hxLog { s with hostOut := s.hostOut ++ [.bar2 none false] } fn e (w64 off)

/-- Words of an operand come from the host, or the read fails (R427). -/
def opndAnswer (s : State) (word : Nat) : Except (BitVec 8) FabReply → State
  | .ok (.data ws _) => { s with opnd := s.opnd.map fun o => { o with words := bufPut o.words word ws } }
  | .ok _ => s
  | .error e => { s with opnd := s.opnd.map fun o => { o with fail := o.fail.orElse fun _ => some e } }

def hostOwner (s : State) (o : Owner) (st : HostStatus) (data : List Word) : State :=
  let r : Except (BitVec 8) FabReply := match st with
    | .success => .ok (.data (data.map mk) true)
    | .unsupported => .error fcHostUr
    | .abort => .error fcHostCa
  match o with
  | .access id => match findAcc s id with
    | some a => hostAnswer s a st data
    | none => s
  | .gate d i seq word n write => gateAnswer s d i seq word n write r
  | .copy cl ch work word n write => copyAnswer s cl ch work word n write r
  | .bar2 fn off len => bar2Answer s fn off len r
  | .opnd word _ => opndAnswer s word r
  | .none => s

/-! ## Times of R100, R101, R115, R116 and R431, in femtoseconds -/

def microsecond : Nat := 10 ^ 9
def silenceTime : Nat := 10 * microsecond
def trainTime : Nat := 1000 * microsecond
def beatTime : Nat := microsecond
def forceTime : Nat := 500 * microsecond
def ackTime : Nat := 1500 * microsecond
/-- The least completion timeout under a Device Control 2 value; none where it is disabled. The spec gives the default
range; the others are those of PCI Express (PRESUMED, log entry 85). -/
def completionTime (v : BitVec 5) : Option Nat :=
  if v.getLsbD 4 then none
  else some (match v.toNat with
    | 1 => 50 * microsecond
    | 2 => 1000 * microsecond
    | 5 => 16000 * microsecond
    | 6 => 65000 * microsecond
    | 9 => 260000 * microsecond
    | 10 => 1000000 * microsecond
    | 13 => 4000000 * microsecond
    | 14 => 17000000 * microsecond
    | _ => 50000 * microsecond)

/-! ## The link map (R102) -/

def linkPair (a b : Nat) : Nat × Nat := if a < b then (a, b) else (b, a)
def mapSet (s : State) (a b : Nat) (up : Bool) : State :=
  let rest := s.linkMap.filter fun p => p != linkPair a b
  { s with linkMap := if up then linkPair a b :: rest else rest }
/-- A link of the pod is up; every link of a DEAD position is taken as down. -/
def mapUp (s : State) (a b : Nat) : Bool :=
  s.linkMap.contains (linkPair a b) && peerState s a != 3 && peerState s b != 3

/-- A flit on VCM of every link but one. -/
def flood (s : State) (but : Option Nat) (m : PodMsg) : State :=
  (List.range 15).foldl (fun st k => if (st.link k).carries && but != some k then podPut st k 2 m else st) s

/-- A change of one of the module's own links: its bit, and a notice (R102). -/
def ownLink (s : State) (k : Nat) (up : Bool) : State :=
  let s1 := mapSet s s.pos (farPos s k) up
  let p := linkPair s.pos (farPos s k)
  flood { s1 with noticeSeq := (s1.noticeSeq + 1) % 2 ^ 16 } none (.notice s.pos s1.noticeSeq p.1 p.2 up)

/-! ## Peers (R103 to R105) -/

/-- A relay for a peer. -/
def isRelay (s : State) (t m : Nat) : Bool :=
  m != s.pos && m != t && peerState s m == 1 && mapUp s s.pos m && mapUp s m t

/-- The first relay in the order t + 1, t + 2, …. -/
def relayFor (s : State) (t : Nat) : Option Nat :=
  ((List.range 15).map fun i => (t + i + 1) % 16).find? (isRelay s t)

/-- Pieces of a position's chunks leave the staging SRAM: what was in flight from a dead peer is discarded (R110). -/
def dropStaged (s : State) (t : Nat) : State :=
  (List.range 8).foldl (fun st d =>
    let x := st.die d
    st.setDie d { x with staged := x.staged.filter fun y => match y.from_ with | .pod src _ => src != t | _ => true }) s

/-- A peer is dead: what it has not answered fails. -/
def killPeer (s : State) (t : Nat) : State :=
  let p := s.peer t
  dropStaged (p.unacked.foldl (fun st x => deadOwner st x.owner)
    (s.setPeer t { p with state := 3, relay := none, unacked := [] })) t

/-- A peer found dead by this module: a death notice is flooded (R104). -/
def findDead (s : State) (t : Nat) : State := flood (killPeer s t) none (.death t)

/-- The direct link to a peer is down: a relay, or none (Table 4.9). -/
def detour (s : State) (t : Nat) : State :=
  match relayFor s t with
  | some m => podResend (s.setPeer t { s.peer t with state := 2, relay := some m }) t
  | none => findDead s t

/-- Peers in DETOUR keep their relay while it serves; else they choose again (R105). -/
def recheck (s : State) : State :=
  (List.range 16).foldl (fun st t =>
    let p := st.peer t
    match p.state == 2, p.relay with
    | true, some m => if isRelay st t m then st else detour st t
    | true, none => detour st t
    | false, _ => st) s

/-- A death may take the relay of another peer. -/
def recheckAll : Nat → State → State
  | 0, s => s
  | n + 1, s =>
    let s1 := recheck s
    if (List.range 16).all fun t => (s1.peer t).state == (s.peer t).state then s1 else recheckAll n s1

/-- After any change of links or peers. -/
def podSettle (s : State) : State := groupDeaths (recheckAll 16 s)

/-- A peer that leaves OFF: numbering starts anew. -/
def Peer.anew (p : Peer) : Peer := { p with relay := none, nextSeq := 0, unacked := [], rx := ⟨[], 0, 0⟩ }

/-- The direct link to a peer is UP: from OFF or DETOUR the peer is ALIVE. -/
def peerUp (s : State) (t : Nat) : State :=
  let p := s.peer t
  if p.state == 0 then s.setPeer t { p.anew with state := 1 }
  else if p.state == 2 then podResend (s.setPeer t { p with state := 1, relay := none }) t
  else s

/-! ## Links (Table 4.8) -/

def setLinkState (s : State) (k st : Nat) : State := s.setLink k { s.link k with state := st }

/-- A link without traffic: nothing held, nothing to be replayed, every credit free, and both ends' numbering anew. -/
def Link.fresh (l : Link) : Link := { l with inRow := 0, outRow := 0, rxSeq := 0, queue := [], buffer := [], used := [] }

/-- The link goes UP: freshly trained, it starts with no traffic (log entry 29); out of SPARE or RETRAIN it replays what
the far end has not acknowledged, and what was held follows, in order (R98 to R100). -/
def linkUp (s : State) (k : Nat) : State :=
  let l := s.link k
  if l.carries then
    podSettle (peerUp (drainPort (replayPort (s.setLink k { l with state := 2, inRow := 0, outRow := 0 }) k) k) (farPos s k))
  else
    podSettle (peerUp (ownLink (s.setLink k { l.fresh with state := 2, lost := false }) k true) (farPos s k))

/-- An armed link that is OFF or DOWN trains, and arm is cleared (R100). -/
def armLink (s : State) (k : Nat) : State :=
  let l := s.link k
  if l.arm && (l.state == 0 || l.state == 5) && k < 15 then
    s.setLink k { l with state := 1, arm := false, trainSince := s.time, lastRx := s.time }
  else s

/-- The link goes DOWN, and trains again where it is armed. A peer that is ALIVE, or still OFF, is in DETOUR or DEAD
(Table 4.9). -/
def linkDown (s : State) (k : Nat) : State :=
  let l := s.link k
  let t := farPos s k
  let s1 := s.setLink k { l.fresh with state := 5 }
  let s2 := if l.carries then ownLink s1 k false else s1
  let p := s2.peer t
  let s3 := if p.state == 0 then detour (s2.setPeer t p.anew) t else if p.state == 1 then detour s2 t else s2
  armLink (podSettle s3) k

/-- LINK_ARM: LK_CTL_k.arm is written with 1. -/
def writeArm (s : State) (k : Nat) : State :=
  if k < 15 then armLink (s.setLink k { s.link k with arm := true }) k else s

/-- LINK_TRAINED: the link goes UP, or DOWN on a miswire. DESIGN CHOICE (log entry 104): the spec names no moment at which
LK_STATUS.miswire is cleared; a training that finds the right position clears it. -/
def linkTrainedOf (s : State) (k far : Nat) : State :=
  let l := s.link k
  if l.state != 1 then s
  else if far == farPos s k then linkUp (s.setLink k { l with lastRx := s.time, miswire := false }) k
  else linkDown (s.setLink k { l with miswire := true }) k

def trainExpires (s : State) (k : Nat) : State :=
  let l := s.link k
  if l.state == 1 && l.trainSince + trainTime ≤ s.time then linkDown s k else s

def silenceExpires (s : State) (k : Nat) : State :=
  let l := s.link k
  if l.carries && l.lastRx + silenceTime ≤ s.time then linkDown s k else s

/-- A link that is UP retrains after eight replays in a row (R98). -/
def Link.retrain (l : Link) (row : Nat) : Nat := if l.state == 2 && 8 ≤ row then 4 else l.state

/-- Credits of channels come back (R97). -/
def Link.credit (l : Link) (chs : List Nat) : Link :=
  { l with used := chs.foldl (fun u ch => tabSet 0 u ch (tabGet 0 u ch - 1)) l.used }

/-- What a flit does for its link before it is delivered: any flit ends silence. One that fails its CRC is counted, and
the far end replays it: eight replays in a row of the next flit to be delivered retrain the link. One that holds
acknowledges flits of this module, returns credits, and may ask for the rest again (R97, R98). -/
def flitLink (s : State) (k : Nat) (f : Flit) : State :=
  let l := { s.link k with lastRx := s.time }
  let next := f.seq == l.rxSeq
  if l.state == 0 || l.state == 5 then s
  else if !l.carries then s.setLink k l
  else if !f.crcOk then
    let row := if next then l.inRow + 1 else l.inRow
    s.setLink k { l with replays := l.replays + 1, inRow := row, state := l.retrain row }
  else
    let l1 := { l.credit f.credits with
      inRow := if next then 0 else l.inRow, rxSeq := if next then l.rxSeq + 1 else l.rxSeq
      buffer := l.buffer.drop f.acked, outRow := if f.acked != 0 then 0 else l.outRow }
    if f.again then
      let l2 := { l1 with outRow := l1.outRow + 1, state := l1.retrain (l1.outRow + 1) }
      let s1 := s.setLink k l2
      if l2.state == 2 then drainPort (replayPort s1 k) k else s1
    else drainPort (s.setLink k l1) k

/-- RETRAIN_COMPLETE: nothing recovers a link that has lost a second lane (R99). -/
def retrained (s : State) (k : Nat) : State :=
  if (s.link k).state == 4 && !(s.link k).lost then linkUp s k else s
/-- LANE_SPARE: the first lane is spared, a second one retrains the link (R99). -/
def spareLane (s : State) (k lane : Nat) : State :=
  let l := s.link k
  if l.state != 2 || 8 ≤ lane then s
  else if l.spared == 15 then s.setLink k { l with state := 3, spared := lane }
  else s.setLink k { l with state := 4, lost := true }
def spareDone (s : State) (k : Nat) : State := if (s.link k).state == 3 then linkUp s k else s

/-- HEARTBEAT: a flit on VCM of every link in TRAIN, UP, SPARE or RETRAIN, also where traffic is held (R101). -/
def beat (s : State) (k : Nat) : State :=
  let l := s.link k
  if l.carries || l.state == 1 then podEmit (s.setLink k { l with lastBeat := s.time }) k 2 .heartbeat else s

/-- LINK_STATE_NOTICE: applied and forwarded once; the module's own links are its own to set. -/
def noticeArrives (s : State) (k origin seq a b : Nat) (up : Bool) : State :=
  let p := s.peer origin
  if origin == s.pos || p.noticeSeen.contains seq then s
  else
    let s1 := s.setPeer origin { p with noticeSeen := (seq :: p.noticeSeen).take 32768 }
    let s2 := if a == s.pos || b == s.pos then s1 else mapSet s1 a b up
    podSettle (flood s2 (some k) (.notice origin seq a b up))

/-- DEATH_NOTICE -/
def deathArrives (s : State) (k t : Nat) : State :=
  if t == s.pos || (s.peer t).state == 3 then s
  else podSettle (flood (killPeer s t) (some k) (.death t))

/-- PEER_REVIVE: a DEAD position moves to OFF. -/
def revive (s : State) (bits : BitVec 16) : State :=
  (List.range 16).foldl (fun st t =>
    if bits.getLsbD t && (st.peer t).state == 3 then st.setPeer t { st.peer t with state := 0 } else st) s

/-- The position that a message of VC0 is addressed to. -/
def podTarget : PodMsg → Option Nat
  | .txn t _ _ => some t
  | .multicast t _ _ _ => some t
  | .answer t _ _ => some t
  | .member t _ => some t
  | _ => none

/-- TRAVERSE_FORWARD: the second hop of what position `src` sent goes out on VC1 of the link to the position that it is
addressed to, unchanged, or is discarded (R106). How many flits it takes is not stated: the count rises by a free value. -/
def forwardHop (s : State) (k src : Nat) (m : PodMsg) : State :=
  if podTarget m == some (farPos s k) && k < 15 && (s.link k).carries then
    let r := s.draw
    podPut { r.2 with relayCount := r.2.relayCount + r.1.extractLsb' 0 64 } k 1 (.relayed src m)
  else s

/-! ## Arrivals from the pod (R107, R109) -/

/-- Something that a position has sent waits at this module (R57, R80). -/
def sentBy (src : Nat) : Instr → Bool
  | .podTransactionReceive q _ _ => q == src
  | .multicastCopyReceive q _ _ _ => q == src
  | _ => false

/-- A number older than the window: no transaction that can be resent has it (R107). -/
def PodRx.stale (rx : PodRx) (seq : Nat) : Bool :=
  podWindow < seqSpan seq rx.top && seqSpan seq rx.top < 2 ^ 23

/-- A position of the pod other than this module's, from which traffic is taken (R110). -/
def podSource (s : State) (src : Nat) : Bool :=
  src < 16 && src != s.pos && (s.peer src).state != 0 && (s.peer src).state != 3

/-- A transaction from a peer: applied at most once, SO in sequence order. One ahead of a gap is dropped, or waits here
where something of its source does. -/
def podArrives (s : State) (src seq : Nat) (cls : OrdClass) (perform : State → State) : State :=
  let rx := (s.peer src).rx
  if !podSource s src || rx.stale seq then s
  else
    match rx.seen.find? fun e => e.1 == seq with
    | some (_, some r) => podPut s (routePort s src) 0 (.answer src seq r)
    | some (_, none) => s
    | none =>
      if cls == .so && seq != rx.soNext then
        if s.waiting.any (sentBy src) then { s with stalled := true } else s
      else perform s

/-- A transaction performed and answered, and its place in the window taken. -/
def podPerform (src seq : Nat) (f : State → FabReply × State) (s : State) : State :=
  let r := f s
  answerPod r.2 src seq r.1

/-- POD_TRANSACTION_RECEIVE: a piece of a reduction is staged, and takes its place in the window at once. -/
def podTxn (s : State) (src seq : Nat) (req : FabReq) : State :=
  podArrives s src seq req.cls fun st =>
    if (pieceOf req).isSome then
      let p := st.peer src
      stagePiece (st.setPeer src { p with rx := windowPut p.rx seq none }) (.pod src seq) req
    else podPerform src seq (fun x => performRequest x inPlace req) st

/-- A copy is delivered only under this module's own entry of the group (R109). -/
def copyPerform (group : Nat) (req : FabReq) (s : State) : FabReply × State :=
  if groupOwned s req.part group && bit (mcEntry s group) 15 then performRequest s inPlace req
  else (.refused fcProtect false, { s with mcdropCount := s.mcdropCount + 1 })

def podCopy (s : State) (src seq group : Nat) (req : FabReq) : State :=
  podArrives s src seq req.cls (podPerform src seq (copyPerform group req))

/-- POD_ACK_RECEIVE -/
def podAck (s : State) (src seq : Nat) (r : FabReply) : State :=
  let p := s.peer src
  match p.unacked.find? fun x => x.seq == seq with
  | none => s
  | some x => answerOwner (s.setPeer src { p with unacked := p.unacked.filter fun y => y.seq != seq }) x.owner r

/-- SIGNAL_RECEIVE: a signal is a sequenced transaction of its position, applied once and acknowledged; a multicast one
is delivered under its group (R107, R109). -/
def signalArrives (s : State) (src seq : Nat) (x : Signal) : State :=
  match x.req.op, x.group with
  | .signal _, none => podTxn s src seq x.req
  | .signal _, some g => podCopy s src seq g x.req
  | _, _ => s

/-! ## Flits delivered (R98, R106) -/

/-- A message of a member's collective engine: for the partition that has the group, at its slot of the group. -/
def memberArrives (s : State) (m : PodMsg) : State :=
  let at_ := fun (g : Nat) (f : Nat → Nat → State) =>
    let p := field (mcEntry s g) 30 27
    match groupSlot s p g with
    | some e => f p e.1
    | none => s
  match m with
  | .closeNotice src g coll seq => at_ g fun p _ => closeNotice s p g coll src seq
  | .abortNotice _ g coll => at_ g fun p _ => abortGates s p g coll
  | .drain _ g ver roster => at_ g fun p i => drainArrives s p i ver roster
  | .drainReport rank g done => at_ g fun p i => drainReports s p i rank done
  | .publish _ g ver roster => at_ g fun p i => publishArrives s p i ver roster
  | .publishAck rank g => at_ g fun p i => publishAcks s p i rank
  | .request _ g member join => at_ g fun p i => collect s p i [(member, join)]
  | _ => s

/-- What a position has sent to this module. -/
def deliverHere (s : State) (src : Nat) : PodMsg → State
  | .txn _ seq req => podTxn s src seq req
  | .multicast _ seq g req => podCopy s src seq g req
  | .answer _ seq r => podAck s src seq r
  | .member _ m => if podSource s src then memberArrives s m else s
  | _ => s

/-- A message that a link has delivered: VCM's are the link's and the map's; VC0's are for this module, or go on to their
position; a VC1 arrival is only ever delivered here (R97, R106). -/
def deliverMsg (s : State) (k vc : Nat) (m : PodMsg) : State :=
  match vc, m with
  | 2, .notice origin seq a b up => noticeArrives s k origin seq a b up
  | 2, .death t => deathArrives s k t
  | 0, m =>
    match podTarget m with
    | some t => if t == s.pos then deliverHere s (farPos s k) m else forwardHop s (portTo s t) (farPos s k) m
    | none => s
  | 1, .relayed src m => if podTarget m == some s.pos then deliverHere s src m else s
  | _, _ => s

/-- FLIT_RECEIVE: the message that a flit ends is delivered where the flit holds, and in its place only (R98; log
entry 29). -/
def flitArrives (s : State) (k : Nat) (f : Flit) : State :=
  let s1 := flitLink s k f
  match f.ends with
  | some e => if (s.link k).carries && f.crcOk && f.seq == (s.link k).rxSeq then deliverMsg s1 k e.1 e.2 else s1
  | none => s1

/-! ## The remote fabric (R112 to R117) -/

/-- What the home keeps its reply of: every request but those that may be performed again (R114). -/
def performedOnce (r : FabReq) : Bool := serviceOf r != .rudi

/-- What this home has answered within the time in which a request may come again: an identifier is its port's, and a
request that takes it anew has a place of its own (R114). -/
def answered (s : State) (f : RemoteFrom) : Option RemoteRx :=
  s.remoteRx.find? fun e => e.from_ == f && s.time < e.at_ + answerTime

def isStaged (s : State) (f : ChunkFrom) : Bool := s.dies.any fun d => d.2.staged.any fun x => x.from_ == f

/-- A request that comes in its order is performed and answered, or staged. -/
def remotePerform (s : State) (f : RemoteFrom) (req : FabReq) : State :=
  if (pieceOf req).isSome then stagePiece s (.remote f) req
  else
    let r := performRequest s inPlace req
    answerRemote r.2 f (performedOnce req) r.1

/-- REMOTE_PACKET_RECEIVE: performed once, whatever the retransmissions. An ROD packet is taken in its place only: the
next one that its source still waits for (R112). -/
def remoteArrives (s : State) (src port : Nat) (x : RemotePacket) : State :=
  let f : RemoteFrom := ⟨src, port, x.place, x.id⟩
  match answered s f with
  | some e => { s with remoteOut := s.remoteOut ++ [.answer src port x.id e.reply] }
  | none =>
    if isStaged s (.remote f) then s
    else
      match x.rod with
      | none => remotePerform s f x.req
      | some (n, first) =>
        if n != max (tabGet 0 s.rodRx src) first then s
        else remotePerform { s with rodRx := tabSet 0 s.rodRx src (n + 1) } f x.req

def findRemote (s : State) (id : Nat) : Option RemoteReq := s.remotes.find? fun r => r.id == id

/-- An earlier ROD request to the same home has no reply yet. -/
def rodBehind (s : State) (x : RemoteReq) : Bool :=
  match x.rod with
  | some n => s.remotes.any fun y => y.hid == x.hid && y.id != x.id && match y.rod with | some m => m < n | none => false
  | none => false

/-- Replies of ROD requests to a home that came early, and whose turn has come (R112). -/
def rodDeliver (hid : Nat) : Nat → State → State
  | 0, s => s
  | n + 1, s =>
    match s.remotes.find? fun y => y.hid == hid && y.early.isSome && !rodBehind s y with
    | some y =>
      match y.early with
      | some r => rodDeliver hid n (answerOwner (remoteDone s y) y.owner r)
      | none => s
    | none => s

/-- A request ends, and the ROD replies that stood behind it are delivered. -/
def remoteEnds (s : State) (x : RemoteReq) (f : State → State) : State :=
  rodDeliver x.hid s.remotes.length (f (remoteDone s x))

/-- REMOTE_REPLY_RECEIVE: the first reply counts, later ones are discarded (R114); ROD replies are delivered in the order
of their requests (R112). -/
def remoteReply (s : State) (id : Nat) (r : FabReply) : State :=
  match findRemote s id with
  | none => s
  | some x =>
    if x.early.isSome then s
    else if rodBehind s x then
      { s with remotes := s.remotes.map fun y => if y.id == id then { y with early := some r } else y }
    else remoteEnds s x fun st => answerOwner st x.owner r

/-- REMOTE_FORCED_SEND: a request held back for 0.5 ms is sent outside its window, one on a path at a time (R115). -/
def forceRemote (s : State) (id : Nat) : State :=
  match findRemote s id with
  | none => s
  | some x =>
    if x.sent.isNone && x.accepted + forceTime ≤ s.time &&
        !s.remotes.any fun y => y.forced && y.entry == x.entry && y.path == x.path then
      transmit { s with remotes := s.remotes.map fun y => if y.id == id then { y with forced := true } else y } { x with forced := true }
    else s

/-- REMOTE_ACK_TIMEOUT: no acknowledgement 1.5 ms after the first transmission (R116). -/
def remoteExpires (s : State) (id : Nat) : State :=
  match findRemote s id with
  | none => s
  | some x =>
    match x.sent with
    | some t =>
      if t + ackTime ≤ s.time && x.early.isNone then remoteEnds s x fun st => deadOwner st x.owner else s
    | none => s

/-- PACKET_RETRANSMISSION: the packet is sent again under its identifier (R114), and its path's window narrows
(R115; log entry 11). -/
def retransmit (s : State) (id : Nat) : State :=
  match findRemote s id with
  | none => s
  | some x =>
    if x.sent.isNone || x.early.isSome then s
    else modPath { s with remoteOut := s.remoteOut ++ [remotePacket s x] } x.entry x.path fun y =>
      { y with resent := y.resent + 1, window := max 1 (y.window / 2) }

/-! ## The host link (R125) -/

def hostCompletes (s : State) (id : Nat) (st : HostStatus) (data : List Word) : State :=
  match s.hostReqs.find? fun r => r.id == id with
  | none => s
  | some r =>
    if st == .success && data.length != r.words then s
    else hostOwner (postsDone { s with hostReqs := s.hostReqs.filter fun x => x.id != id } id) r.owner st data

def hostExpires (s : State) (id : Nat) : State :=
  match s.hostReqs.find? fun r => r.id == id with
  | none => s
  | some r => match completionTime s.ctl2 with
    | some t => if r.sent + t ≤ s.time then hostCompletes s id .abort [] else s
    | none => s

end Sys2Proof.Machine
end

