-- ==== Sys2Proof/Machine/MlDsa.lean ====
section
/-! DEFINITION. The deterministic key generation of ML-DSA-87 (FIPS 204), by which the proctor derives the identity key
pair of its seed (R428). The spec names the standard and does not repeat it (PRESUMED, log entry 105). Polynomials are
lists of 256 coefficients modulo q. -/

namespace Sys2Proof.Machine

def dsaQ : Nat := 8380417

/-- A power modulo q, by `n` bits of the exponent. -/
def dsaPow (b : Nat) : Nat → Nat → Nat
  | 0, _ => 1
  | n + 1, e =>
    let h := dsaPow b n (e / 2)
    if e % 2 == 1 then h * h % dsaQ * b % dsaQ else h * h % dsaQ

/-- 1753, a root of order 512, to a power. -/
def dsaRoot (e : Nat) : Nat := dsaPow 1753 9 (e % 512)

/-- The eight bits of a number, reversed. -/
def revBits (i : Nat) : Nat := (List.range 8).foldl (fun n k => 2 * n + i / 2 ^ k % 2) 0

/-- The number-theoretic transform: coefficient i is the polynomial at the root's power 2 · rev(i) + 1. -/
def dsaNtt (w : List Nat) : List Nat :=
  (List.range 256).map fun i =>
    (w.zipIdx.map fun e => e.1 * dsaRoot ((2 * revBits i + 1) * e.2)).foldl (· + ·) 0 % dsaQ

/-- Its inverse; 8347681 is the inverse of 256. -/
def dsaInv (v : List Nat) : List Nat :=
  (List.range 256).map fun j =>
    8347681 * (v.zipIdx.map fun e => e.1 * dsaRoot (512 - (2 * revBits e.2 + 1) * j % 512)).foldl (· + ·) 0 % dsaQ

def dsaAdd (a b : List Nat) : List Nat := List.zipWith (fun x y => (x + y) % dsaQ) a b
def dsaMul (a b : List Nat) : List Nat := List.zipWith (fun x y => x * y % dsaQ) a b

/-- Three bytes give a coefficient where they lie below q. -/
def coeffsOf3 : List Byte → List Nat
  | a :: b :: c :: m =>
    let z := a.toNat + 2 ^ 8 * b.toNat + 2 ^ 16 * (c.toNat % 128)
    if z < dsaQ then z :: coeffsOf3 m else coeffsOf3 m
  | _ => []

/-- A half byte below 15 gives 2 − (b mod 5). -/
def coeffOfHalf (b : Nat) : List Nat := if b < 15 then [(dsaQ + 2 - b % 5) % dsaQ] else []

/-- Entry (r, s) of the matrix, already transformed. -/
def dsaEntry (rho : List Byte) (r s : Nat) : List Nat :=
  (coeffsOf3 (shake128 18 (rho ++ bytesLE 1 s ++ bytesLE 1 r))).take 256

/-- Secret polynomial `n`, with coefficients from −2 to 2. -/
def dsaSecret (rho : List Byte) (n : Nat) : List Nat :=
  ((shake256 4 (rho ++ bytesLE 2 n)).flatMap fun b => coeffOfHalf (b.toNat % 16) ++ coeffOfHalf (b.toNat / 16)).take 256

/-- The high part of a coefficient: the low one lies above −4096 and not above 4096. -/
def dsaHigh (x : Nat) : Nat := (x + 4095) / 8192

/-- Row `r` of t = A s1 + s2. -/
def dsaRow (rho rho' : List Byte) (s1 : List (List Nat)) (r : Nat) : List Nat :=
  let sum := (s1.zipIdx.map fun e => dsaMul (dsaEntry rho r e.2) e.1).foldl dsaAdd (List.replicate 256 0)
  dsaAdd (dsaInv sum) (dsaSecret rho' (7 + r))

/-- The ML-DSA-87 public key of a seed: 2,592 bytes. -/
def mlDsaPublicKey (seed : List Byte) : List Byte :=
  let h := shake256 1 (seed ++ [8, 7])
  let rho := h.take 32
  let rho' := (h.drop 32).take 64
  let s1 := (List.range 7).map fun n => dsaNtt (dsaSecret rho' n)
  rho ++ (List.range 8).flatMap fun r =>
    bytesLE 320 (ofBits 10 ((dsaRow rho rho' s1 r).map dsaHigh))
where
  /-- Fields of w bits, the first in the lowest. -/
  ofBits (w : Nat) : List Nat → Nat
    | [] => 0
    | x :: xs => x + 2 ^ w * ofBits w xs

end Sys2Proof.Machine
end

