-- ==== Sys2Proof/Machine/Proctor.lean ====
section
/-! DEFINITION. The proctor's commands (R426, R427, Table 19.3): frames (R57, R58), keys (R39, R60, R422, R425),
partitions, rank tables (R92), groups (R108), attestation (R429), life-cycle (R437), FREEZE_RELEASE (Table 18.7), launch
queue entries, and the reset that they and the pins cause (R63, R438). -/

namespace Sys2Proof.Machine

/-! ## Command entries (R426, R427) -/

/-- The partition of a function; none for PF0. -/
def vfOf (fn : Nat) : Option Nat := if fn == 0 then none else some (fn - 1)

def opnd (c : Cmd) (i : Nat) : Nat := ((c.dw[i]?).getD 0).toNat

/-- A record of a launch queue is with the router, which answers it. -/
def RouterItem.ofHost (x : RouterItem) : Bool :=
  match x.from_ with
  | .host _ _ _ => true
  | .thread _ _ _ => false

/-- The proctor is at an entry: it takes one item at a time (R426). -/
def proctorAt (s : State) : Bool :=
  !s.binds.isEmpty || !s.unbinds.isEmpty || s.opnd.isSome || s.routerQ.any RouterItem.ofHost

/-- It is at an entry other than this one. -/
def proctorBusy (s : State) (c : Cmd) : Bool :=
  !s.binds.isEmpty || (s.unbinds.any fun e => e.2 != c) || s.routerQ.any RouterItem.ofHost || match s.opnd with
    | some o => o.cmd != c
    | none => false

/-- The host has posted the next entry of a queue of the function (R426). -/
def posted (s : State) (fn q : Nat) : Bool := (tabGet HostQueue.zero (s.fn fn).queues q).delivered s.cxl

/-- An entry of a queue: it waits until the host has posted it, and while the proctor is at another. -/
def takeEntry (s : State) (c : Cmd) (q : Nat) (f : State → State) : State :=
  if !s.up || 16 < c.fn then s
  else if !posted s c.fn q || proctorBusy s c then { s with stalled := true }
  else f s

/-- A command: an opcode or a function that Table 19.3 does not list, or a reserved bit that is not zero, completes it
with ILLEGAL_OP (R427). -/
def runCmd (s : State) (c : Cmd) (pf vf : Bool) (f : State → State) : State :=
  takeEntry s c 0 fun s =>
    if c.rsv != 0 || c.unlisted.isSome || (if c.fn == 0 then !pf else !vf) then finishCmd s c.fn 0 c fcIllegal c.dw
    else f s

def doneCmd (s : State) (c : Cmd) : State := finishCmd s c.fn 0 c 0 c.dw
def refuseCmd (s : State) (c : Cmd) (code : BitVec 8) : State := finishCmd s c.fn 0 c code c.dw

/-! ## Frames (R57, R58) -/

def frameDpa (frame : Nat) : Nat := frame * 2 ^ 16

/-- A slot that the function may name. -/
def slotOf (s : State) (fn slot : Nat) : Bool :=
  slot < 256 && match vfOf fn with
    | none => true
    | some p => (s.key slot).owner == some p

/-- A fill of the frame is in flight. -/
def frameBusy (s : State) (frame : Nat) : Bool := s.fills.any fun f => f.tile / 64 == frame

/-- Every unit above a group is intact. -/
def isLost (s : State) (dpa : Nat) : Bool :=
  (ancestors (groupOf dpa)).any fun u => (s.die (dieOf dpa)).lost.contains u

/-- BIND_FRAME: the checks; an accepted command is in progress until step 4 of R57. A version block that fails its
verification refuses the command with PROTECT, and is recorded and reported as of the named slot (DESIGN CHOICE, log
entry 23). -/
def bindCmd (s : State) (c : Cmd) : State :=
  runCmd s c true true fun s =>
    let frame := opnd c 0
    let slot := opnd c 1
    let dpa := frameDpa frame
    if !backed dpa || !slotOf s c.fn slot || !(s.key slot).loaded || isLost s dpa then refuseCmd s c fcProtect
    else
      match versionBlock s dpa with
      | .error u => refuseCmd (failFill s dpa slot 0x19 3 (some u)) c fcProtect
      | .ok (vb, s1) =>
        if vb.bound then refuseCmd s1 c fcProtect
        else if (s1.key slot).floor == 2 ^ 48 - 1 then refuseCmd s1 c fcVersion
        else { s1 with binds := s1.binds ++ [(frame, c)] }

/-- BIND_FRAME_PROCEED: steps 1 to 4, once no fill of the frame is in flight. -/
def bindProceed (s : State) (frame : Nat) : State :=
  match s.binds.find? fun e => e.1 == frame with
  | none => s
  | some (_, c) =>
    if frameBusy s frame then s
    else
      let slot := opnd c 1
      let dpa := frameDpa frame
      let major := (s.key slot).floor + 1
      let s1 := exemptGroup (holdBlock s (dieOf dpa) (groupOf dpa) ⟨false, true, slot, major, []⟩) (dieOf dpa) (groupOf dpa)
      let s2 := dropFrameL1 (dropFrameL2 (raiseFloor s1 slot major) frame) frame
      doneCmd { s2 with binds := s2.binds.filter fun e => e.1 != frame } c

/-- A frame ceases to be bound: its lines go without being written back. -/
def unbind (s : State) (frame : Nat) (vb : MUnit) : State :=
  let dpa := frameDpa frame
  dropFrameL1 (dropFrameL2 (holdBlock s (dieOf dpa) (groupOf dpa) { vb with bound := false }) frame) frame

/-- UNBIND_FRAME; an accepted command waits for the fills of the frame, and then unbinds it. A version block that fails
its verification refuses the command with PROTECT, and is reported as of slot 0 (DESIGN CHOICE, log entry 24). -/
def unbindCmd (s : State) (c : Cmd) : State :=
  runCmd s c true true fun s =>
    let frame := opnd c 0
    let dpa := frameDpa frame
    if !backed dpa then refuseCmd s c fcProtect
    else
      match versionBlock s dpa with
      | .error u => refuseCmd (failFill { s with unbinds := [] } dpa 0 0x19 3 (some u)) c fcProtect
      | .ok (vb, s1) =>
        if !vb.bound || !slotOf s1 c.fn vb.slot then refuseCmd { s1 with unbinds := [] } c fcProtect
        else if frameBusy s1 frame then { s1 with unbinds := [(frame, c)] }
        else doneCmd (unbind { s1 with unbinds := [] } frame vb) c

/-! ## Keys (R39, R60, R422, R425) -/

/-- Groups of a die that are bound to a slot, in DPA order. -/
def boundGroups (s : State) (d slot : Nat) : List Nat :=
  ((knownGroups s d).filter fun g => let b := peekUnit s d 1 g; b.bound && b.slot == slot).foldl (fun t g => insertNat g t) []

def setSlotKey (slot : Nat) (k : BitVec 256) (s : State) : State := s.setKey slot { s.key slot with key := k }

/-- Rotation: every bound group is sealed again under the new key and is writable again (R60). The groups are found by
their blocks as they stand, unverified; a block that then fails its verification is recorded with the slot, and its group
is left as it is (DESIGN CHOICE, log entry 98). -/
def rotateGroups (slot : Nat) (old new : BitVec 256) (d : Nat) : List Nat → State → State
  | [], s => s
  | g :: gs, s =>
    let s1 := match versionBlock s (dieBase d + g * 2 ^ 16) with
      | .error u => failFill s (dieBase d + g * 2 ^ 16) slot 0x19 3 (some u)
      | .ok (vb, s1) =>
        exemptGroup (resealGroup (setSlotKey slot old s1) d g { vb with ronly := false } 1 none (setSlotKey slot new)) d g
    rotateGroups slot old new d gs s1

def rotate (slot : Nat) (old new : BitVec 256) (s : State) : State :=
  setSlotKey slot new ((List.range 8).foldl (fun st d => rotateGroups slot old new d (boundGroups st d slot) st) s)

/-- The generation that a load gives, where the request is one that the slot takes. -/
def nextGen (cur req : Nat) : Option Nat :=
  if req == 0 then some (if (cur + 1) % 2 ^ 16 == 0 then 1 else (cur + 1) % 2 ^ 16)
  else
    let d := (req + 2 ^ 16 - cur % 2 ^ 16) % 2 ^ 16
    if 1 ≤ d && d ≤ 32767 then some req else none

/-- A doubleword's bytes as AES-KW reads them. -/
def swap64 (d : DWord) : DWord := w64 (ofBytesBE (bytesLE 8 d.toNat))

/-- The key to load: drawn on die, or unwrapped under the session key. -/
def commandKey (s : State) (c : Cmd) : Option (BitVec 256) × State :=
  if (opnd c 1) == 0 then
    let r := s.draw
    (some (r.1.extractLsb' 0 256), r.2)
  else
    match (s.fn c.fn).spdmKey with
    | some k => (keyUnwrap k (((c.dw.drop 2).take 5).map swap64), s)
    | none => (none, s)

/-- The data key (R39): the loaded key and the salt enter SHA3-512 most significant byte first (DESIGN CHOICE, log
entry 15). -/
def dataKey (k salt : BitVec 256) (slot gen : Nat) : BitVec 256 :=
  (sha3 (bytesBE 32 k.toNat ++ bytesBE 32 salt.toNat ++ bytesLE 1 slot ++ bytesLE 2 gen)).extractLsb' 256 256

def loadKey (s : State) (slot gen : Nat) (k : BitVec 256) : State :=
  let salt := s.draw
  let old := s.key slot
  let new := dataKey k (salt.1.extractLsb' 0 256) slot gen
  let s1 := salt.2.setKey slot { old with loaded := true, floor := 0, gen := gen }
  rotate slot old.key new s1

/-- KEY_LOAD -/
def keyLoadCmd (s : State) (c : Cmd) : State :=
  runCmd s c false true fun s =>
    let slot := (opnd c 0) % 256
    let req := field (opnd c 0) 31 16
    let p := (vfOf c.fn).getD 0
    let rest := (c.dw.drop 2).any fun d => d != 0
    if (s.fn c.fn).spdmKey.isNone || (opnd c 0) != slot + req * 2 ^ 16 || 1 < (opnd c 1) || ((opnd c 1) == 0 && rest) then
      refuseCmd s c fcIllegal
    else if s.lifeCycle != .deployed || !slotOf s c.fn slot then refuseCmd s c fcProtect
    else
      match nextGen (s.key slot).gen req with
      | none => refuseCmd s c fcProtect
      | some g =>
        match commandKey s c with
        | (none, s1) => refuseCmd s1 c fcProtect
        | (some k, s1) =>
          let s2 := loadKey s1 slot g k
          finishCmd s2 c.fn 0 c 0 (c.dw.set 0 (makeHandle s2 slot p g))

/-- Dirty tiles of a slot are sealed, and every L2 line of it is dropped (R425). -/
def flushSlot (s : State) (slot : Nat) : State :=
  let lines := fun st : State => (st.l2Tags.filter fun e => e.2.slot == slot).map Prod.fst
  let tiles := (((lines s).filter (lineDirty s)).map fun l => l / 8).eraseDups
  let s1 := tiles.foldl (fun st t => sealTile st (1024 * t) slot) s
  let s2 := (lines s1).foldl delLine s1
  let g := fun a : Access => { a with sector := a.sector.filter fun x => x.2.2 != slot }
  { s2 with cores := s2.cores.map fun e => (e.1, { e.2 with l1 := e.2.l1.filter fun y => y.slot != slot })
            accesses := s2.accesses.map g }

def emptySlot (s : State) (slot : Nat) : State :=
  s.setKey slot { s.key slot with loaded := false, key := 0 }

/-- The world of a launch exists: a gang of it has been dispatched, and it has not been torn down (R424). -/
def Launch.live (l : Launch) : Bool := !l.torn && l.gangs.any fun g => g.state != .waiting

/-- KEY_FREE -/
def keyFreeCmd (s : State) (c : Cmd) : State :=
  runCmd s c false true fun s =>
    let slot := opnd c 0
    if !slotOf s c.fn slot || !(s.key slot).loaded || (List.range 8).any (fun d => !(boundGroups s d slot).isEmpty) ||
        s.launches.any (fun e => e.2.keySlot == slot && e.2.live) then refuseCmd s c fcProtect
    else doneCmd (emptySlot (flushSlot s slot) slot) c

/-! ## Operands in host memory (R427) -/

def Owner.isOpnd : Owner → Bool
  | .opnd _ _ => true
  | _ => false

/-- Reads of a run of words, each within a sector: place in the run, address, words. -/
def hostRuns : Nat → Nat → Nat → Nat → List (Nat × Nat × Nat)
  | 0, _, _, _ => []
  | fuel + 1, a, n, i =>
    if n == 0 then []
    else
      let m := min n (16 - wordIn a)
      (i, a, m) :: hostRuns fuel (a + 4 * m) (n - m) (i + m)

/-- A command of PF0 with an operand of `n` bytes in host memory: it is read first, and the command waits. A read that
fails completes the command with its code (DESIGN CHOICE, log entry 106: R427 says it of a VF's reads). -/
def withHost (s : State) (ev : Instr) (c : Cmd) (a n : Nat) (f : State → List Byte → State) : State :=
  let words := (a % 4 + n + 3) / 4
  match s.opnd with
  | none =>
    (hostRuns words (a / 4 * 4) words 0).foldl (fun st x => hostRead st x.2.1 x.2.2 (.opnd x.1 x.2.2))
      { s with opnd := some ⟨c, [], none⟩, waiting := s.waiting ++ [ev] }
  | some o =>
    if awaits s Owner.isOpnd then { s with stalled := true }
    else
      let s1 := { s with opnd := none }
      match o.fail with
      | some e => refuseCmd s1 c e
      | none => f s1 (((wordBytes ((List.range words).map (tabGet zeroDatum o.words))).drop (a % 4)).take n)

/-! ## Partitions -/

def descBits (desc : List Byte) (lo n : Nat) : Nat := ofBytesLE ((desc.drop lo).take n)

/-- A resource of the descriptor belongs to another partition. -/
def descClash (s : State) (p : Nat) (keys clusters blocks : Nat) : Bool :=
  (List.range 16).any (fun q => q != p &&
    ((s.part q).keymask.toNat &&& keys != 0 || (s.part q).clusters.toNat &&& clusters != 0)) ||
  (List.range 256).any fun j => bit blocks j && (tabGet 0 s.lcOwner j).getLsbD 4 &&
    ((tabGet 0 s.lcOwner j).extractLsb' 0 4).toNat != p

/-- PART_CREATE, with its descriptor. -/
def createPart (c : Cmd) (s : State) (desc : List Byte) : State :=
  let p := opnd c 0
  let keys := descBits desc 0 32
  let clusters := descBits desc 32 16
  let blocks := descBits desc 48 32
  if (desc.drop 80).any (fun b => b != 0) then refuseCmd s c fcIllegal
  else if 16 ≤ p || (s.part p).exists_ || s.lifeCycle != .deployed || descClash s p keys clusters blocks then
    refuseCmd s c fcProtect
  else
    let x := s.part p
    let s1 := s.setPart p { x with
      exists_ := true, keymask := BitVec.ofNat 256 keys, clusters := BitVec.ofNat 128 clusters
      descriptor := BitVec.ofNat 1024 (ofBytesLE desc) }
    let s2 := (List.range 256).foldl (fun st k =>
      if bit keys k then st.setKey k { st.key k with owner := some p } else st) s1
    let s3 := { s2 with lcOwner := (List.range 256).foldl (fun t j =>
      if bit blocks j then tabSet 0 t j (BitVec.ofNat 5 (16 + p)) else t) s2.lcOwner }
    doneCmd s3 c

/-- PART_CREATE: the descriptor is read from the host. -/
def partCreateCmd (s : State) (c : Cmd) : State :=
  runCmd s c true false fun s => withHost s (.partCreate c .reads) c (opnd c 1) 128 (createPart c)

/-- Every frame bound to a slot is unbound. -/
def unbindSlot (s : State) (slot : Nat) : State :=
  (List.range 8).foldl (fun st d => (boundGroups st d slot).foldl (fun t g =>
    match versionBlock t (dieBase d + g * 2 ^ 16) with
    | .ok (vb, t1) => unbind t1 (d * 2 ^ 21 + g) vb
    | .error _ => t) st) s

/-- PART_DESTROY -/
def partDestroyCmd (s : State) (c : Cmd) : State :=
  runCmd s c true false fun s =>
    let p := opnd c 0
    if 16 ≤ p || !(s.part p).exists_ then refuseCmd s c fcProtect
    else
      let s1 := teardownPart s p
      let slots := (List.range 256).filter fun k => (s1.key k).owner == some p
      let s2 := slots.foldl (fun st k =>
        let t := emptySlot (flushSlot (unbindSlot st k) k) k
        t.setKey k { t.key k with owner := none }) s1
      let s3 := { s2 with
        lcOwner := s2.lcOwner.filter fun e => (e.2.extractLsb' 0 4).toNat != p
        mcGroup := s2.mcGroup.filter fun e => field e.2.toNat 30 27 != p }
      let x := s3.part p
      doneCmd (s3.setPart p { x with exists_ := false, keymask := 0, clusters := 0, descriptor := 0 }) c

/-- RESET_PARTITION -/
def resetPartCmd (s : State) (c : Cmd) : State :=
  runCmd s c true true fun s =>
    let p := opnd c 0
    if 16 ≤ p || !(s.part p).exists_ || (match vfOf c.fn with | some q => q != p | none => false) then
      refuseCmd s c fcProtect
    else doneCmd (teardownPart s p) c

/-! ## Reading and writing a partition's memory for a command (R427) -/

/-- The parts of an operand that lie in host pages: their places in it, their host addresses and their words. -/
def hostParts (p : Nat) : Nat → State → Nat → Nat → Nat → List (Nat × Nat × Nat × Option (Nat × Nat × Nat)) × State
  | 0, s, _, _, _ => ([], s)
  | fuel + 1, s, va, n, i =>
    if n == 0 then ([], s)
    else
      match translate s (diePlace 0) p va .load .page none with
      | (.error _, s1) => ([], s1)
      | (.ok l, s1) =>
        let m := min n (16 - wordIn va)
        let r := hostParts p fuel s1 (va + 4 * m) (n - m) (i + m)
        (if l.host then (i, leafAddr l va, m, l.via) :: r.1 else r.1, r.2)

/-- A command with a local operand of `n` words: where some of them lie in host pages, they are read first, and the
command waits (R427). -/
def withOpnd (s : State) (ev : Instr) (c : Cmd) (p : Nat) (a : DWord) (n : Nat) (f : State → Tab Datum → Option (BitVec 8) → State) :
    State :=
  match s.opnd, addrOf a with
  | some o, _ => if awaits s Owner.isOpnd then { s with stalled := true } else f { s with opnd := none } o.words o.fail
  | none, .local va =>
    let r := hostParts p n s va n 0
    if va % 4 != 0 || r.1.isEmpty then f r.2 [] none
    else
      r.1.foldl (fun st x => hostReadVia st x.2.1 x.2.2.1 (.opnd x.1 x.2.2.1) x.2.2.2)
        { r.2 with opnd := some ⟨c, [], none⟩, waiting := r.2.waiting ++ [ev] }
  | none, _ => f s [] none

/-- Sector by sector; words of host pages have been read before. -/
def readLocal (p : Nat) (host : Tab Datum) : Nat → State → Nat → Nat → Nat → Except (BitVec 8) (List Datum) × State
  | 0, s, _, _, _ => (.ok [], s)
  | fuel + 1, s, va, n, i =>
    if n == 0 then (.ok [], s)
    else
      match translate s (diePlace 0) p va .load .page none with
      | (.error x, s1) => (.error x.code, s1)
      | (.ok l, s1) =>
        let m := min n (16 - wordIn va)
        let part := if l.host then HomeRes.ok ((List.range m).map fun j => tabGet zeroDatum host (i + j)) s1
          else homeReadChecked s1 (leafAddr l va) l.slot m (s1.part p).l2Ways
        match part with
        | .fail e s2 => (.error e, s2)
        | .ok ws s2 =>
          match readLocal p host fuel s2 (va + 4 * m) (n - m) (i + m) with
          | (.ok vs, s3) => (.ok (ws ++ vs), s3)
          | (.error e, s3) => (.error e, s3)

/-- Words at an address operand of a VF, those of host pages as they have come. -/
def readOpnd (s : State) (p : Nat) (a : DWord) (n : Nat) (host : Tab Datum) (fail : Option (BitVec 8)) :
    Except (BitVec 8) (List Datum) × State :=
  match fail, addrOf a with
  | some e, _ => (.error e, s)
  | none, .local va => if va % 4 != 0 then (.error fcAlign, s) else readLocal p host n s va n 0
  | none, .bad => (.error fcXlate, s)
  | none, _ => (.error fcProtect, s)

/-- Every sector of a range may be written; one of a host line that an atomic holds waits (R124). -/
def checkLocal (p : Nat) : Nat → State → Nat → Nat → Option (BitVec 8) × State
  | 0, s, _, _ => (none, s)
  | fuel + 1, s, va, n =>
    if n == 0 then (none, s)
    else
      match translate s (diePlace 0) p va .store .page none with
      | (.error x, s1) => (some x.code, s1)
      | (.ok l, s1) =>
        let m := min n (16 - wordIn va)
        if l.host then
          if linesHeld s1 (leafAddr l va) (4 * m) then (some 0x00, { s1 with stalled := true })
          else checkLocal p fuel s1 (va + 4 * m) (n - m)
        else
          match writable (s1.part p).l2Ways l.slot 1 s1 (leafAddr l va) m with
          | .fail e s2 => (some e, s2)
          | .ok _ s2 => checkLocal p fuel s2 (va + 4 * m) (n - m)

def storeLocal (p : Nat) : Nat → State → Nat → List Datum → State
  | 0, s, _, _ => s
  | fuel + 1, s, va, ws =>
    if ws.isEmpty then s
    else
      let m := 16 - wordIn va
      match translate s (diePlace 0) p va .store .page none with
      | (.error _, s1) => s1
      | (.ok l, s1) =>
        if l.host then
          storeLocal p fuel (hostWrite s1 (leafAddr l va) (wordBytes (ws.take m)) l.cls l.via) (va + 4 * m) (ws.drop m)
        else
        match homeWrite s1 (leafAddr l va) l.slot (ws.take m) (s1.part p).l2Ways with
        | .ok _ s2 => storeLocal p fuel s2 (va + 4 * m) (ws.drop m)
        | .fail _ s2 => s2

/-- Words written at an address operand of a VF, or nothing. -/
def writeOpnd (s : State) (p : Nat) (a : DWord) (ws : List Datum) : Option (BitVec 8) × State :=
  match addrOf a with
  | .local va =>
    if va % 4 != 0 then (some fcAlign, s)
    else
      match checkLocal p ws.length s va ws.length with
      | (some e, s1) => (some e, s1)
      | (none, s1) => (none, storeLocal p ws.length s1 va ws)
  | .bad => (some fcXlate, s)
  | _ => (some fcProtect, s)

/-! ## Rank tables (R91, R92) -/

/-- Doubleword at a byte offset of an image. -/
def imgWord (img : Tab DWord) (off : Nat) : Nat := (tabGet 0 img (off / 8)).toNat
def imgRule (img : Tab DWord) (i j : Nat) : Nat :=
  imgWord img (0x100 + 128 * i + 16 * j) + 2 ^ 64 * imgWord img (0x108 + 128 * i + 16 * j)
def imgRadix (img : Tab DWord) (i : Nat) : Nat := field (imgWord img (0x20 + 8 * i)) 17 0
def imgRules (img : Tab DWord) (i : Nat) : Nat := field (imgWord img (0x20 + 8 * i)) 21 18
/-- Exceptions of an image that are listed: index of the doubleword and its value. -/
def imgExcs (img : Tab DWord) : List Nat := (img.filter fun e => 0x400 ≤ e.1 && e.1 < 0x800).map fun e => e.2.toNat

def rsvBad (img : Tab DWord) : Bool :=
  field (imgWord img 0) 63 18 != 0 || field (imgWord img 8) 63 49 != 0 ||
  (List.range 4).any (fun i => field (imgWord img (0x20 + 8 * i)) 63 22 != 0 ||
    (List.range 8).any fun j => field (imgRule img i j) 88 64 != 0) ||
  (List.range 8).any (fun k => field (imgWord img (0x40 + 8 * k)) 63 32 != 0 || field (imgWord img (0x40 + 8 * k)) 15 7 != 0) ||
  (imgExcs img).any fun x => bit x 60 || field x 39 32 != 0

/-- A radix or a rules field out of range, a rule beyond the radix, or two rules that overlap (R92). A rule whose count is
0 covers nothing, and R92 names no refusal for it: it overlaps another where its lo lies strictly inside that one (DESIGN
CHOICE, log entry 107). -/
def levelsBad (img : Tab DWord) : Bool :=
  (List.range 4).any fun i =>
    let n := imgRadix img i
    let rs := (List.range (imgRules img i)).map fun j => (field (imgRule img i j) 127 110, field (imgRule img i j) 109 92)
    n == 0 || 131072 < n || (i == 0 && 16 < n) || imgRules img i == 0 || 8 < imgRules img i ||
    rs.any (fun r => r.2 != 0 && n < r.1 + r.2) ||
    rs.zipIdx.any fun a => rs.zipIdx.any fun b =>
      a.2 < b.2 && a.1.1 < b.1.1 + b.1.2 && b.1.1 < a.1.1 + a.1.2

/-- Profiles that a level-1 rule or a replaced rank names. -/
def namedProfiles (img : Tab DWord) : List Nat :=
  ((List.range (imgRules img 1)).map fun j => field (imgRule img 1 j) 91 89) ++
  ((imgExcs img).filter fun x => bit x 63 && field x 62 61 == 0).map fun x => field x 59 57

/-- The refusals of R92. -/
def tableBad (img : Tab DWord) (pos : Nat) : Bool :=
  let excs := (imgExcs img).filter fun x => bit x 63
  let size := field (imgWord img 0) 17 0
  let prod := (List.range 4).foldl (fun n i => n * imgRadix img i) 1
  let paths := fun k => field (imgWord img (0x40 + 8 * k)) 6 0
  rsvBad img || levelsBad img || excs.any (fun x => 1 < field x 62 61) ||
  (List.range 8).any (fun k => 64 < paths k || (paths k == 0 && (namedProfiles img).contains k)) ||
  size == 0 || prod < size || 131072 < prod ||
  ((excs.map fun x => field x 56 40).eraseDups).length != excs.length ||
  size ≤ field (imgWord img 8) 48 32 || field (imgWord img 8) 3 0 != pos

/-- Doublewords of the image at defined offsets (Table 4.7). -/
def imgDefined (i : Nat) : Bool := i < 3 || (4 ≤ i && i < 16) || (32 ≤ i && i < 96) || 0x400 ≤ i

def imageOf : Nat → List Datum → Tab DWord → Tab DWord
  | i, a :: b :: ws, t => imageOf (i + 1) ws (if imgDefined i then tabSet 0 t i (pair64 a.word b.word) else t)
  | _, _, t => t

/-- RANK_TABLE_LOAD -/
def rankTableCmd (s : State) (c : Cmd) : State :=
  runCmd s c false true fun s =>
    let p := (vfOf c.fn).getD 0
    withOpnd s (.rankTableLoad c) c p (w64 (opnd c 0)) 4096 fun s host fail =>
      match readOpnd s p (w64 (opnd c 0)) 4096 host fail with
      | (.error e, s1) => refuseCmd s1 c e
      | (.ok ws, s1) =>
        let img := imageOf 0 ws []
        if tableBad img s1.pos then refuseCmd s1 c fcIllegal
        else
          let x := s1.part p
          doneCmd (groupDeaths (s1.setPart p { x with rt := img })) c

/-- GROUP_TABLE_SET -/
def groupTableCmd (s : State) (c : Cmd) : State :=
  runCmd s c false true fun s =>
    let p := (vfOf c.fn).getD 0
    let g := opnd c 0
    let v := opnd c 1
    if 65536 ≤ g || 2 ^ 32 ≤ v || field v 26 16 != 0 then refuseCmd s c fcIllegal
    else if (bit (mcEntry s g) 31 && field (mcEntry s g) 30 27 != p) || (bit v 31 && field v 30 27 != p) then
      refuseCmd s c fcProtect
    else doneCmd { s with mcGroup := tabSet 0 s.mcGroup g (w32 v) } c

/-! ## Attestation (R429) -/

def lifeNum : LifeCycle → Nat
  | .manufacture => 0 | .provisioned => 1 | .deployed => 2 | .rma => 3
def lifeOf : Nat → Option LifeCycle
  | 0 => some .manufacture | 1 => some .provisioned | 2 => some .deployed | 3 => some .rma | _ => none

/-- The one-time fuses (R438). -/
def fuses (s : State) : List Nat := [lifeNum s.lifeCycle, s.ownerHash.toNat, s.identitySeed.toNat]

/-- What measurement i covers. -/
def measureOf (s : State) (fn i : Nat) : List Nat :=
  match vfOf fn with
  | none => if i == 1 then fuses s else if i == 2 then [lifeNum s.lifeCycle] else []
  | some p =>
    let x := s.part p
    if i == 1 then fuses s
    else if i == 2 then [lifeNum s.lifeCycle]
    else if i == 3 then [x.descriptor.toNat]
    else if i == 4 then (x.rt.map fun e => [e.1, e.2.toNat]).flatten
    else if i == 5 then ((s.mcGroup.filter fun e => bit e.2.toNat 31 && field e.2.toNat 30 27 == p).map fun e =>
      [e.1, e.2.toNat]).flatten
    else if i == 6 then (x.regions.map fun e => [e.1, e.2.toNat]).flatten
    else ((List.range 256).filter fun k => x.keymask.getLsbD k).map fun k => (s.key k).gen

/-- The sixteen measurements. -/
def measurement (s : State) (fn i : Nat) : BitVec 512 :=
  if i == 0 then Config.romMeasurement
  else if 8 ≤ i then 0
  else sha3 (Config.measured i (measureOf s fn i))

def padTo (n : Nat) (bs : List Byte) : List Byte := (bs ++ List.replicate n 0).take n

/-- The attestation report. -/
def attestReport (s : State) (fn : Nat) (nonce : List Byte) : List Byte :=
  let head := padTo 64 (bytesLE 1 (lifeNum s.lifeCycle) ++ [1] ++ bytesLE 1 fn) ++ padTo 64 nonce
  let body := head ++ ((List.range 16).map fun i => bytesBE 64 (measurement s fn i).toNat).flatten
  padTo 8192 (body ++ padTo 4627 (Config.mlDsaSign s.identitySeed body))

def bytesWords : List Byte → List Datum
  | a :: b :: c :: d :: bs => mk (wordOfBytes a b c d) :: bytesWords bs
  | _ => []

def keepNonce (nonce : List Byte) (s : State) : State := { s with attestNonce := some (BitVec.ofNat 512 (ofBytesLE nonce)) }

/-- ATTEST: the nonce is read, and the report written, in host memory or in the partition's. The write waits for host
lines that an atomic holds (R124). -/
def attestCmd (s : State) (c : Cmd) : State :=
  runCmd s c true true fun s =>
    match vfOf c.fn with
    | none =>
      if linesHeld s (opnd c 1) 8192 then { s with stalled := true }
      else
        withHost s (.attest c .reads) c (opnd c 0) 64 fun s nonce =>
          doneCmd (hostWrite (keepNonce nonce s) (opnd c 1) (attestReport s c.fn nonce) .so none) c
    | some p =>
      withOpnd s (.attest c .reads) c p (w64 (opnd c 0)) 16 fun s host fail =>
        match readOpnd s p (w64 (opnd c 0)) 16 host fail with
        | (.error e, s1) => refuseCmd s1 c e
        | (.ok ws, s1) =>
          match writeOpnd s1 p (w64 (opnd c 1)) (bytesWords (attestReport s1 c.fn (wordBytes ws))) with
          | (some e, s2) => refuseCmd s2 c e
          | (none, s2) => doneCmd (keepNonce (wordBytes ws) s2) c

/-! ## Reset and life-cycle (R63, R437, R438) -/

/-- Every SRAM and register cleared, every slot empty, HBM zero, new handle and metadata keys (R63). The dies wipe, and
no host request is answered until WIPE_COMPLETE. -/
def wipeModule (s : State) (pos : Nat) (cxl : Bool) : State :=
  let n := s.freeCount
  { State.reset with
    agenda := s.agenda, freeCount := n + 9, handleDraw := n, pos := pos, cxl := cxl, up := false
    lifeCycle := s.lifeCycle, ownerHash := s.ownerHash, identitySeed := s.identitySeed
    dies := (List.range 8).map fun d => (d, { Die.reset d with metaDraw := n + 1 + d, wiping := true }) }

/-- MODULE_RESET. A self-test failure ends bring-up at step 2. -/
def resetModule (s : State) (pos : Nat) (cxl selfTest : Bool) : State :=
  let w := wipeModule s (pos % 16) cxl
  if selfTest then w
  else hxLog { w with selfTestFailed := true, dies := w.dies.map fun e => (e.1, { e.2 with wiping := false }) } 0 fcDatum 0

/-- WIPE_COMPLETE: the module answers host requests, the one that caused the wipe first (R63). -/
def wipeDone (s : State) : State :=
  if s.dies.any fun e => e.2.wiping then
    { s with up := true, dies := s.dies.map fun e => (e.1, { e.2 with wiping := false })
             hostOut := s.hostOut ++ s.afterWipe, afterWipe := [] }
  else s

/-- POWER_REMOVAL: only the fuses keep their state, and nothing happens until a power-on. -/
def powerOff (s : State) : State :=
  let w := wipeModule s s.pos false
  { w with powered := false, dies := w.dies.map fun e => (e.1, { e.2 with wiping := false }) }

/-- The signer of a transition: false Saldan, true the owner; none where the transition is not permitted. -/
def transition : LifeCycle → LifeCycle → Option Bool
  | .manufacture, .provisioned => some false
  | .provisioned, .deployed => some true
  | .deployed, .provisioned => some true
  | .rma, .manufacture => some false
  | .rma, .rma => some false
  | _, .rma => some false
  | _, _ => none

/-- The identity public key, derived anew at every bring-up (R428); the seed's bytes are taken most significant first. -/
def identityKey (s : State) : List Byte := mlDsaPublicKey (bytesBE 32 s.identitySeed.toNat)

/-- What a token signs. -/
def tokenMessage (s : State) (target : Nat) (nonce : BitVec 512) : List Byte :=
  sha3bytes (identityKey s ++ bytesLE 1 (lifeNum s.lifeCycle) ++ bytesLE 1 target ++
    bytesLE 64 nonce.toNat)

/-- An accepted transition: fuses, and the wipe. A seed is drawn on entering PROVISIONED (R428), and the owner key's hash
fused from MANUFACTURE (R437). -/
def enterLife (s : State) (t : LifeCycle) (token : List Byte) : State :=
  let s1 := if t == .provisioned then
      let r := s.draw
      { r.2 with identitySeed := r.1.extractLsb' 0 256 }
    else s
  let s2 := if s.lifeCycle == .manufacture && t == .provisioned then
      { s1 with ownerHash := Config.tokenOwnerHash token }
    else s1
  wipeModule { s2 with lifeCycle := t } s2.pos s2.cxl

/-- A token is checked. An accepted command completes when its wipe has ended (R63). -/
def checkToken (c : Cmd) (t : LifeCycle) (owner : Bool) (nonce : BitVec 512) (s : State) (token : List Byte) : State :=
  if Config.tokenVerifies owner s.ownerHash (tokenMessage s (opnd c 0) nonce) token then
    { enterLife s t token with
      afterWipe := [.complete c.fn 0 (tabGet HostQueue.zero (s.fn c.fn).queues 0).entry c.tag 0 c.dw, .msix c.fn 0] }
  else refuseCmd s c fcProtect

/-- LIFECYCLE: the token of a permitted transition is read from the host. -/
def lifecycleCmd (s : State) (c : Cmd) : State :=
  runCmd s c true false fun s =>
    match lifeOf (opnd c 0), s.attestNonce with
    | some t, some n =>
      match transition s.lifeCycle t with
      | some owner => withHost s (.lifecycle c .reads) c (opnd c 1) Config.tokenBytes (checkToken c t owner n)
      | none => refuseCmd s c fcProtect
    | _, _ => refuseCmd s c fcProtect

/-! ## Power caps (R435) -/

/-- The effective cap and window: those of the lower cap, and of the host's on equal caps (R436). -/
def effectiveCap (s : State) : Cap := if s.capBmc.cap < s.capHost.cap then s.capBmc else s.capHost

/-- PW_STATUS (Table 19.6): bad_write, trip, hot (some core is hot) and capped. -/
def powerStatus (s : State) : Nat :=
  8 * b2n s.badCap + 4 * b2n s.trip + 2 * b2n (s.cores.any fun e => e.2.hot) + b2n s.capped

/-- A bit of PW_STATUS that rises signals PF0's MSI-X vector 3, that of power (Table 19.4; DESIGN CHOICE, log entry 108:
the spec does not say when). -/
def powerSignal (s t : State) : State :=
  if (List.range 4).any fun i => bit (powerStatus t) i && !bit (powerStatus s) i then
    { t with hostOut := t.hostOut ++ [.msix 0 3] }
  else t

/-- A cap write: outside 2,000 to 6,400 W, or with window 0, it is ignored. -/
def writeCap (s : State) (bmc : Bool) (window cap : Nat) : State :=
  if cap < 2000 || 6400 < cap || window == 0 || 4095 < window then powerSignal s { s with badCap := true }
  else
    let t := if bmc then { s with capBmc := ⟨window, cap⟩ } else { s with capHost := ⟨window, cap⟩ }
    if effectiveCap t == effectiveCap s then t else { t with capSince := s.time }

/-- POWER_CAP -/
def powerCapCmd (s : State) (c : Cmd) : State :=
  runCmd s c true false fun s => doneCmd (writeCap s false (opnd c 1) (opnd c 0)) c

/-! ## FREEZE_RELEASE (Table 18.7) -/

/-- The faulting lanes of a frozen core that are still parked on its FREEZE record are delivered, and it issues again. A
record that is still to be written parks them no more. -/
def releaseCore (s : State) (c : Nat) : Option State :=
  match (s.core c).frozen with
  | none => none
  | some f =>
    let p := ((s.core c).launch.map (launchPart s)).getD 0
    let x := s.part p
    let strip := fun r : FRec => if r.kind == 5 && r.unit == 0 then { r with uids := [] } else r
    let bs := x.batches.map fun b => if b.touches f.uids then { b with recs := b.recs.map strip } else b
    let s1 := s.setPart p { x with batches := bs }
    let s2 := { s1.modCore c (fun y => { y with frozen := none }) with
      demands := s1.demands.filter fun d => !(d.record.kind == 5 && f.uids.contains d.uid) }
    let lost := s1.demands.filter fun d => d.record.kind == 5 && f.uids.contains d.uid
    let ks := ((s2.core c).threads.filter fun t => f.uids.contains t.2.uid &&
      t.2.status == .parked f.rseq).map Prod.fst
    let n := s2.fresh
    let s3 := pushBatch n.2 p (lost.map fun d => { d.record with uids := [] })
    some (settleCore (settleInst (ks.foldl (fun st k => resumeThread n.1 1 c k st) s3) n.1) c)

def releaseMaster (s : State) (v : Nat) : Option State :=
  let die := field v 2 0
  let cluster := field v 6 3
  let core := field v 8 7
  let unit := field v 12 9
  let p := field v 16 13
  let ch := field v 20 17
  if unit == 0 then (if ch == 0 then releaseCore s (64 * die + 4 * cluster + core) else none)
  else if unit == 1 then
    let cl := 16 * die + cluster
    let x := chan s cl ch
    if x.state == 3 then some (setChan s cl ch { x with state := 2 }) else none
  else if unit == 2 then
    let x := s.die die
    if x.frozenParts.contains p then some (s.setDie die { x with frozenParts := x.frozenParts.filter fun q => q != p })
    else none
  else if unit == 3 && die == 0 && cluster == 0 && core == 0 && ch == 0 then
    let x := s.part p
    if x.vfFrozen then some (s.setPart p { x with vfFrozen := false }) else none
  else none

/-- FREEZE_RELEASE -/
def freezeReleaseCmd (s : State) (c : Cmd) : State :=
  runCmd s c true false fun s =>
    if 2 ^ 21 ≤ (opnd c 0) then refuseCmd s c fcIllegal
    else
      match releaseMaster s (opnd c 0) with
      | some s1 => doneCmd s1 c
      | none => refuseCmd s c fcProtect

/-! ## Launch queues (R426) -/

/-- LAUNCH_QUEUE_ENTRY: the record is read and handed to the router. -/
def launchEntry (s : State) (c : Cmd) (q : Nat) : State :=
  match vfOf c.fn with
  | none => s
  | some p =>
    if 8 ≤ q then s
    else
      takeEntry s c (q + 1) fun s =>
        if c.rsv != 0 || c.unlisted.isSome then finishCmd s c.fn (q + 1) c fcIllegal c.dw
        else
          let a := w64 (opnd c 0)
          let put := fun (st : State) (r : BitVec 2048) (e : Option (BitVec 8)) =>
            { st with routerQ := st.routerQ ++ [⟨p, r, none, .host c.fn (q + 1) c, e⟩] }
          if a.toNat % 256 != 0 then put s 0 (some fcAlign)
          else
            match readRecordAt s (diePlace 0) p a with
            | (.error i, s1) => put s1 0 (some i.code)
            | (.ok r, s1) => put s1 r none

end Sys2Proof.Machine
end

