-- ==== Sys2Proof/Machine/HostLink.lean ====
section
/-! DEFINITION. The host link: BAR2 (R432), HX_ERR (R434), register writes and reads (R433, Table 19.5), SPDM and TDISP
(R428, R430), shootdowns (R83), the power block (R435, R436), function resets (R438), and soft errors (R20). -/

namespace Sys2Proof.Machine

/-! ## TDIs (R430) -/

/-- A TDI enters ERROR: every launch of its partition is torn down. -/
def tdiError (s : State) (p : Nat) : State :=
  let x := s.part p
  teardownPart (s.setPart p { x with tdi := .error }) p

def tdiLocked (s : State) (p : Nat) : Bool := (s.part p).tdi == .locked || (s.part p).tdi == .run

def setTdi (s : State) (p : Nat) (t : Tdi) : State :=
  let x := s.part p
  s.setPart p { x with tdi := t }

def tdispAnswer (s : State) (p : Nat) (ok : Bool) : State := { s with hostOut := s.hostOut ++ [.tdisp p ok] }

/-- The proctor takes up a message at a mailbox, one item at a time: it waits while the proctor is at a command
(R426). -/
def served (s : State) (f : State → State) : State :=
  if !s.up then s else if proctorAt s then { s with stalled := true } else f s

/-- LOCK_INTERFACE_REQUEST: the first succeeds, any other is refused. -/
def lockTdi (s : State) (p : Nat) : State :=
  if 16 ≤ p then s
  else served s fun s => if (s.part p).tdi == .unlocked then
    let x := s.part p
    tdispAnswer (s.setPart p { x with tdi := .locked, ideSecure := true }) p true
  else tdispAnswer s p false

/-- START_INTERFACE_REQUEST -/
def startTdi (s : State) (p : Nat) : State :=
  if 16 ≤ p then s
  else served s fun s => if (s.part p).tdi == .locked then tdispAnswer (setTdi s p .run) p true
  else tdispAnswer s p false

/-- STOP_INTERFACE_REQUEST -/
def stopTdi (s : State) (p : Nat) : State :=
  if 16 ≤ p then s
  else served s fun s => if (s.part p).tdi == .unlocked then tdispAnswer s p false
  else tdispAnswer (setTdi s p .unlocked) p true

/-- IDE_MAC_FAIL: the stream becomes insecure, and every TDI bound to it enters ERROR (R432). -/
def macFail (s : State) (vfs : List Nat) : State :=
  (vfs.filter fun p => p < 16).foldl (fun st p =>
    let x := st.part p
    tdiError (st.setPart p { x with ideSecure := false }) p) s

/-! ## SPDM (R428) -/

/-- After a failed self-test PF0's mailbox alone is served (R438). -/
def spdmServed (s : State) (fn : Nat) (f : State → State) : State :=
  if 17 ≤ fn || !(s.up || (s.selfTestFailed && fn == 0)) then s
  else if proctorAt s then { s with stalled := true }
  else f s

/-- A request joins the connection's messages and is answered; `extra` follows the answer. -/
def spdmAnswer (s : State) (fn : Nat) (log extra : List Byte) : State :=
  let f := s.fn fn
  let s1 := s.setFn fn { f with spdmLog := log }
  { s1 with freeCount := s1.freeCount + 1
            hostOut := s1.hostOut ++ [.spdm fn (Config.spdmResponse Config.spdmAlgorithms fn log s1.freeCount ++ extra)] }

/-- A request without a lasting effect of its own. -/
def spdmPlain (s : State) (fn : Nat) (msg : List Byte) : State :=
  spdmServed s fn fun s => spdmAnswer s fn ((s.fn fn).spdmLog ++ msg) []

/-- GET_VERSION begins a connection. -/
def spdmVersion (s : State) (fn : Nat) (msg : List Byte) : State :=
  spdmServed s fn fun s => spdmAnswer s fn msg []

/-- GET_MEASUREMENTS: the sixteen values of R429. -/
def spdmMeasure (s : State) (fn : Nat) (msg : List Byte) : State :=
  spdmServed s fn fun s =>
    spdmAnswer s fn ((s.fn fn).spdmLog ++ msg)
      ((List.range 16).map fun i => bytesBE 64 (measurement s fn i).toNat).flatten

/-- KEY_EXCHANGE: a mailbox carries at most one session at a time. -/
def spdmExchange (s : State) (fn : Nat) (msg : List Byte) : State :=
  spdmServed s fn fun s =>
    let log := (s.fn fn).spdmLog ++ msg
    if (s.fn fn).spdmKey.isSome then spdmAnswer s fn log []
    else
      let n := s.freeCount
      let s1 := spdmAnswer s fn log []
      let f := s1.fn fn
      s1.setFn fn { f with spdmPending := some (Config.spdmSessionKey Config.spdmAlgorithms n log) }

/-- FINISH: a session is established where it verifies. -/
def spdmFinish (s : State) (fn : Nat) (msg : List Byte) : State :=
  spdmServed s fn fun s =>
    let log := (s.fn fn).spdmLog ++ msg
    let s1 := spdmAnswer s fn log []
    let f := s1.fn fn
    if f.spdmKey.isNone && f.spdmPending.isSome && Config.spdmFinishOk fn log then
      s1.setFn fn { f with spdmKey := f.spdmPending, spdmPending := none }
    else s1.setFn fn { f with spdmPending := none }

/-- END_SESSION -/
def spdmEnd (s : State) (fn : Nat) (msg : List Byte) : State :=
  spdmServed s fn fun s =>
    let s1 := spdmAnswer s fn ((s.fn fn).spdmLog ++ msg) []
    let f := s1.fn fn
    s1.setFn fn { f with spdmKey := none, spdmPending := none }

/-! ## Frozen functions (R432, Table 18.7) -/

/-- A VF is frozen: one FREEZE record, and its TDI enters ERROR. -/
def freezeVf (s : State) (p access : Nat) (a : DWord) : State :=
  let x := s.part p
  let s1 := s.setPart p { x with vfFrozen := true }
  let s2 := pushBatch s1 p
    [{ kind := 5, die := 0, cluster := 0, core := 0, unit := 3, code := fcProtect, detail := 0, access := access
       req := false, lanes := 0, seq := 0, pc := 0, addr := a, uids := [] }]
  tdiError s2 p

/-- A request of a VF, as R432 admits it: outside its stream a locked TDI freezes, and a frozen function is not
served. True where the request is refused. -/
def vfArrives (s : State) (p access : Nat) (a : DWord) (inStream : Bool) : Bool × State :=
  let x := s.part p
  if x.vfFrozen then (true, s)
  else if tdiLocked s p && !(inStream && x.ideSecure) then (true, freezeVf s p access a)
  else (false, s)

/-! ## BAR2 (R432) -/

def bar2None (s : State) (p off : Nat) (code : BitVec 8) (ur : Bool) : State :=
  hxLog { s with hostOut := s.hostOut ++ [.bar2 none ur] } (1 + p) code (w64 off)

/-- A request that a host link can carry to the aperture: within 2^46, and within one 4 KiB page. One of no bytes reads
or writes nothing, and is translated like any other. -/
def bar2Ok (s : State) (p off len : Nat) : Bool :=
  s.up && p < 16 && off < 2 ^ 46 && off + len ≤ 2 ^ 46 && off % 4096 + len ≤ 4096

def hostAccess : Instr → Bool
  | .bar2Read _ _ _ _ => true
  | .bar2Write _ _ _ _ => true
  | _ => false

/-- The host's accesses to device memory are performed in the order in which they came (R333): one waits behind another
that waits. -/
def hostTurn (s : State) (f : State → State) : State :=
  if s.waiting.any hostAccess then { s with stalled := true } else f s

/-- Words that a run of bytes touches. -/
def wordsOver (off len : Nat) : Nat := (off % 4 + len + 3) / 4 - if len == 0 then (off % 4 + 3) / 4 else 0

/-- BAR2_READ -/
def bar2Read (s : State) (p off len : Nat) (inStream : Bool) : State :=
  if !bar2Ok s p off len then s
  else hostTurn s fun s =>
    match vfArrives s p 0 (w64 off) inStream with
    | (true, s1) => bar2None s1 p off fcFrozen false
    | (false, s1) =>
      match translate s1 (diePlace 0) p off .load .page none with
      | (.error x, s2) => bar2None s2 p off x.code true
      | (.ok l, s2) =>
        let a := leafAddr l off / 4 * 4
        let n := wordsOver off len
        if l.host then hostReadVia s2 a n (.bar2 (1 + p) off len) l.via
        else
          match readChecked (s2.part p).l2Ways l.slot n s2 a n with
          | .fail c s3 => bar2None s3 p off c false
          | .ok ws s3 =>
            { s3 with hostOut := s3.hostOut ++ [.bar2 (some (((wordBytes ws).drop (off % 4)).take len)) false] }

/-- A word whose four byte enables are set. -/
def coveredWord : List (Option Byte) → Option Datum
  | some a :: some b :: some c :: some d :: _ => some (mk (wordOfBytes a b c d))
  | _ => none

/-- The enabled bytes of a write: whole words where a word is covered, sub-word stores elsewhere (R24). -/
def bar2Store (mask : BitVec 24) (slot : Nat) : Nat → State → Nat → List (Option Byte) → State
  | 0, s, _, _ => s
  | fuel + 1, s, a, bs =>
    match bs with
    | [] => s
    | b :: rest =>
      match (if a % 4 == 0 then coveredWord bs else none), b with
      | some w, _ =>
        match homeWrite s a slot [w] mask with
        | .ok _ s1 => bar2Store mask slot fuel s1 (a + 4) (bs.drop 4)
        | .fail _ s1 => bar2Store mask slot fuel s1 (a + 4) (bs.drop 4)
      | none, some x =>
        let d := mk (x.setWidth 32)
        match homeMerge s a slot 1 d.word (partialCode d 1) mask with
        | .ok _ s1 => bar2Store mask slot fuel s1 (a + 1) rest
        | .fail _ s1 => bar2Store mask slot fuel s1 (a + 1) rest
      | none, none => bar2Store mask slot fuel s (a + 1) rest

/-- Runs of enabled bytes, with their addresses; `run` holds those of the run that ends before `a`. -/
def enabledRuns : Nat → List Byte → List (Option Byte) → List (Nat × List Byte)
  | a, run, [] => if run.isEmpty then [] else [(a - run.length, run)]
  | a, run, some b :: bs => enabledRuns (a + 1) (run ++ [b]) bs
  | a, run, none :: bs => (if run.isEmpty then [] else [(a - run.length, run)]) ++ enabledRuns (a + 1) [] bs

/-- BAR2_WRITE: bytes that are not enabled are none. -/
def bar2Write (s : State) (p off : Nat) (bs : List (Option Byte)) (inStream : Bool) : State :=
  let len := bs.length
  if !bar2Ok s p off len then s
  else hostTurn s fun s =>
    match vfArrives s p 1 (w64 off) inStream with
    | (true, s1) => hxLog s1 (1 + p) fcFrozen (w64 off)
    | (false, s1) =>
      match translate s1 (diePlace 0) p off .store .page none with
      | (.error x, s2) =>
        let s3 := hxLog s2 (1 + p) x.code (w64 off)
        if x.step == 11 then freezeVf s3 p 1 (w64 off) else s3
      | (.ok l, s2) =>
        let a := leafAddr l off
        if l.host then
          if linesHeld s2 a len then { s2 with stalled := true }
          else (enabledRuns a [] bs).foldl (fun st r => hostWrite st r.1 r.2 l.cls l.via) s2
        else
          let n := wordsOver off len
          match writable (s2.part p).l2Ways l.slot n s2 (a / 4 * 4) n with
          | .fail c s3 => hxLog s3 (1 + p) c (w64 off)
          | .ok _ s3 => bar2Store (s3.part p).l2Ways l.slot len s3 a bs

/-! ## Shootdowns (R83) -/

def overlaps (lo hi a n : Nat) : Bool := lo < a + n && a < hi

/-- An access that has been translated and is still to be performed, or performed again (R26). Posted host writes are
waited for through a zero-length read. -/
def Access.translated (a : Access) : Bool :=
  match a.stage with
  | .slice | .fill | .hold _ => true
  | .host _ => !hostPost a
  | .reply _ _ => mustRefetch a
  | _ => false

/-- The leaf that translated an access, or a host read of a partition, overlaps a range. -/
def leafIn (lo hi : Nat) (l : Option (Nat × Nat)) : Bool :=
  match l with
  | some (b, n) => overlaps lo hi b (2 ^ (n + 12))
  | none => false
def viaIn (p lo hi : Nat) (v : Nat × Nat × Nat) : Bool := v.1 == p && overlaps lo hi v.2.1 (2 ^ (v.2.2 + 12))

/-- What a shootdown waits for: the accesses through an overlapping leaf that are still to be performed, the host reads of
engines through one, and the reads that flush what engines have posted through one. -/
def shootWaits (s : State) (p lo hi : Nat) : List Nat :=
  ((s.accesses.filter fun a => a.part == p && a.translated && leafIn lo hi a.leaf).map Access.id) ++
  ((s.hostReqs.filter fun r => r.via.any (viaIn p lo hi)).map HostReq.id) ++
  ((s.hostPosts.filter fun e => viaIn p lo hi e.1).filterMap Prod.snd)

/-- A posted host write through an overlapping leaf is not known to be placed, and nothing flushes it yet: in plain PCIe
mode a zero-length read shows that what was posted is performed (Table 14.2, R333). -/
def shootFlushes (s : State) (p lo hi : Nat) : Bool :=
  (s.hostPosts.any fun e => viaIn p lo hi e.1 && e.2.isNone) ||
  !s.cxl && s.accesses.any fun a => a.part == p && hostPost a && leafIn lo hi a.leaf

def startShoot (s : State) (p lo hi : Nat) : State :=
  let keepLeaf := fun l : Leaf => !(l.part == p && overlaps lo hi l.vbase (2 ^ (l.size + 12)))
  let keepWalk := fun w : WalkEntry =>
    !(w.part == p && overlaps lo hi (w.vbase * 2 ^ levelShift w.level) (2 ^ levelShift w.level))
  let f := fun c : Core => { c with tlb := c.tlb.filter keepLeaf }
  let g := fun c : Cluster => { c with tlb := c.tlb.filter keepLeaf }
  let h := fun e : Nat × Die => (e.1, { e.2 with walkCache := e.2.walkCache.filter keepWalk })
  let again := fun w : WalkReq => if w.part == p && overlaps lo hi (4096 * w.page) 4096 then { w with result := none } else w
  let s1 := { s with cores := tabMap Core.empty f s.cores, clusters := tabMap Cluster.empty g s.clusters
                     dies := s.dies.map h, walks := s.walks.map again }
  let flush := shootFlushes s p lo hi
  let s2 := if flush then hostRead s1 0 0 .none else s1
  let x := s2.part p
  s2.setPart p { x with shoot := some ⟨lo, hi, shootWaits s p lo hi ++ if flush then [s.nextId] else []⟩ }

/-- A write of XL_INVAL. -/
def writeInval (s : State) (p : Nat) (v : DWord) : State :=
  let n := v.toNat
  let x := s.part p
  if field n 63 57 != 0 || field n 11 6 != 0 || 45 < field n 5 0 then s.setPart p { x with badWrite := true }
  else if x.shoot.isSome then s.setPart p { x with invalErr := true }
  else
    let m := 2 ^ (field n 5 0 + 12)
    let lo := field n 56 12 * 4096 / m * m
    startShoot s p lo (lo + m)

/-- SHOOTDOWN_COMPLETE -/
def shootDone (s : State) (p : Nat) : State :=
  let x := s.part p
  match x.shoot with
  | none => s
  | some d =>
    if d.waits.any fun i => (s.accesses.any fun a => a.id == i && a.translated) || s.hostReqs.any fun r => r.id == i
    then s
    else s.setPart p { x with shoot := none }

/-! ## Register writes (R4, R433) -/

/-- A region entry (R70). -/
def writeRegion (s : State) (p i : Nat) (v : DWord) : State :=
  let n := v.toNat
  let x := s.part p
  let limit := field n 10 5
  if 27 < limit || field n 2 1 == 3 || field n 63 57 != 0 || bit n 11 ||
      2 ^ 57 < field n 56 12 * 4096 + 2 ^ (limit + 12) then s.setPart p { x with badWrite := true }
  else s.setPart p { x with regions := tabSet 0 x.regions i v }

/-- Translation block (Tables 3.8 to 3.10). -/
def writeXl (s : State) (p off : Nat) (v : DWord) : State :=
  let x := s.part p
  if off == 0 then s.setPart p { x with xlRoot := w64 (keepBits v 39 12 + keepBits v 7 0) }
  else if off == 8 then s.setPart p { x with xlEnable := v.getLsbD 0, xlGlobal := v.getLsbD 1 }
  else if off == 0x10 then writeInval s p v
  else if off == 0x18 then
    s.setPart p { x with badWrite := x.badWrite && !v.getLsbD 2, invalErr := x.invalErr && !v.getLsbD 1 }
  else if 0x100 ≤ off && off < 0x300 then writeRegion s p ((off - 0x100) / 8) v
  else s

/-- Scheduling block (Table 17.5). -/
def writeSched (s : State) (p off : Nat) (v : DWord) : State :=
  let x := s.part p
  if off < 0x40 then
    let q := off / 8
    let m : BitVec 8 := BitVec.ofNat 8 (2 ^ q)
    s.setPart p { x with lqStop := if v.getLsbD 3 then x.lqStop ||| m else x.lqStop &&& ~~~m
                         lqCeiling := tabSet 7 x.lqCeiling q (field v.toNat 2 0) }
  else s

/-- FQ_RESUME (R411). -/
def writeResume (s : State) (p : Nat) (v : DWord) : State :=
  let action := field v.toNat 21 20
  if action == 3 then resumeBad s p else resumeAll s p (field v.toNat 19 0) action

/-- Fault block (Table 18.4). -/
def writeFault (s : State) (p off : Nat) (v : DWord) : State :=
  let x := s.part p
  if off == 0 then s.setPart p { x with fqBase := w64 (keepBits v 39 17 + keepBits v 7 0) }
  else if off == 0x10 then writeFqCons s p v
  else if off == 0x18 then writeFqCtl s p v
  else if off == 0x20 then writeResume s p v
  else if off == 0x28 then
    s.setPart p { x with writeFail := x.writeFail && !v.getLsbD 2, badResume := x.badResume && !v.getLsbD 1 }
  else if off == 0x40 then s.setPart p { x with svBase := v }
  else if off == 0x48 then s.setPart p { x with svSize := v }
  else s

/-- A write to a partition's blocks, at an offset from 0x40_0000. -/
def writeBlocks (s : State) (p off : Nat) (v : DWord) : State :=
  if off < 0x1_0000 then writeXl s p off v
  else if off < 0x2_0000 then writeSched s p (off - 0x1_0000) v
  else if off < 0x3_0000 then writeFault s p (off - 0x2_0000) v
  else if 0x8_0000 ≤ off && off < 0x8_0000 + 0x18 * 256 then
    writeGroupSlot s p ((off - 0x8_0000) / 0x18) ((off - 0x8_0000) % 0x18) v
  else s

/-- PL_LIMIT_p (R139). -/
def writeLimit (s : State) (p : Nat) (v : DWord) : State :=
  let n := v.toNat
  let x := s.part p
  if field n 6 4 == 0 || field n 47 24 == 0 || field n 63 48 != 0 || field n 23 7 != 0 || field n 3 0 != 0 then s
  else s.setPart p { x with l2Ways := BitVec.ofNat 24 (field n 47 24), spMax := field n 6 4 }

/-- Power block (Table 19.6). -/
def writePower (s : State) (off : Nat) (v : DWord) : State :=
  if off == 0 then writeCap s false (field v.toNat 27 16) (field v.toNat 12 0)
  else if off == 0x18 then { s with badCap := s.badCap && !v.getLsbD 3 }
  else if off == 0x28 then { s with hotTemp := field v.toNat 7 0 }
  else s

/-- HX_ERR (R434). -/
def writeHx (s : State) (fn : Nat) (v : DWord) : State :=
  let f := s.fn fn
  if v.getLsbD 31 then s.setFn fn { f with errValid := false, errFunc := 0, errCode := 0, errAddr := 0 } else s

/-- Queue registers: Q_BASE, Q_TAIL and Q_CONS in this order. -/
def writeQueue (s : State) (fn off : Nat) (v : DWord) : State :=
  let q := off / 0x20
  let f := s.fn fn
  let x := tabGet HostQueue.zero f.queues q
  if 9 ≤ q || (fn == 0 && q != 0) then s
  else if off % 0x20 == 0 then
    s.setFn fn { f with queues := tabSet HostQueue.zero f.queues q { x with base := w64 (keepBits v 63 12 + keepBits v 3 0) } }
  else if off % 0x20 == 8 then
    s.setFn fn { f with queues := tabSet HostQueue.zero f.queues q { x with tail := v } }
  else s

/-- Tile engine of a die: W1C fields only (Table 2.5). -/
def writeTile8 (s : State) (off : Nat) (v : DWord) : State :=
  let d := off / 0x100
  let x := s.die d
  if d < 8 && off % 0x100 == 0 && v.getLsbD 0 then s.setDie d { x with failPending := false } else s

/-- Pod fabric block (Table 4.15). -/
def writePod (s : State) (off : Nat) (v : DWord) : State :=
  if off == 0x10 then revive s (v.extractLsb' 0 16)
  else if 0x100 ≤ off && off < 0x1F0 && off % 16 == 8 then
    let k := (off - 0x100) / 16
    if v.getLsbD 0 then writeArm s k else s.setLink k { s.link k with arm := false }
  else s

/-- Blocks of PF0 alone; the window on partition blocks lies above 0x100_0000, and is closed to PF0 while the
partition's TDI is locked (R430). -/
def writePf0 (s : State) (off : Nat) (v : DWord) : State :=
  if off < 0x80 then writeLimit s (off / 8) v
  else if 0x1000 ≤ off && off < 0x2000 then writePower s (off - 0x1000) v
  else if 0x1_0000 ≤ off && off < 0x1_0800 then writeTile8 s (off - 0x1_0000) v
  else if 0x20_0000 ≤ off && off < 0x20_1000 then writePod s (off - 0x20_0000) v
  else if 0x100_0000 ≤ off && off < 0x200_0000 then
    let p := (off - 0x100_0000) / 0x10_0000
    if tdiLocked s p then s else writeBlocks s p ((off - 0x100_0000) % 0x10_0000) v
  else s

/-- A write to BAR0 of a function: 32 MiB for PF0, 8 MiB for a VF (R433). -/
def regPut (s : State) (fn off : Nat) (v : DWord) : State :=
  if off % 8 != 0 then s
  else if off == 0x2000 then writeHx s fn v
  else if 0x3000 ≤ off && off < 0x3120 then writeQueue s fn (off - 0x3000) v
  else
    match vfOf fn with
    | none => writePf0 s off v
    | some p => if 0x40_0000 ≤ off && off < 0x80_0000 then writeBlocks s p (off - 0x40_0000) v else s

/-- A write of a register: nothing is answered before bring-up ends, and a write of a frozen function is dropped and
logged (Table 18.7). -/
def regWrite (s : State) (fn off : Nat) (v : DWord) (inStream : Bool) : State :=
  if !s.up || 17 ≤ fn then s
  else
    match vfOf fn with
    | none => regPut s fn off v
    | some p =>
      match vfArrives s p 1 0 inStream with
      | (true, s1) => hxLog s1 fn fcFrozen 0
      | (false, s1) => regPut s1 fn off v

/-- Offset of a partition's block register as a function sees it. -/
def blockOff (p off : Nat) (pf0 : Bool) : Nat := if pf0 then 0x100_0000 + 0x10_0000 * p + off else 0x40_0000 + off
def blockFn (p : Nat) (pf0 : Bool) : Nat := if pf0 then 0 else 1 + p

/-- A write to a register of a partition's blocks, by the VF or through PF0's window. -/
def blockWrite (s : State) (p off : Nat) (v : DWord) (pf0 : Bool) : State :=
  if p < 16 then regWrite s (blockFn p pf0) (blockOff p off pf0) v true else s

/-! ## Register reads -/

def readPower (s : State) (off : Nat) : Nat :=
  if off == 0 then s.capHost.window * 2 ^ 16 + s.capHost.cap
  else if off == 8 then s.capBmc.window * 2 ^ 16 + s.capBmc.cap
  else if off == 0x10 then s.mhz * 2 ^ 16 + s.watts
  else if off == 0x18 then powerStatus s
  else if off == 0x20 then s.energy.toNat
  else if off == 0x28 then s.tripTemp * 2 ^ 8 + s.hotTemp
  else 0

def readHx (s : State) (fn off : Nat) : Nat :=
  let f := s.fn fn
  if off == 0 then b2n f.errValid * 2 ^ 31 + f.errFunc * 2 ^ 8 + f.errCode.toNat
  else if off == 8 then f.errAddr.toNat
  else if off == 0x10 then f.errCount.toNat
  else 0

def readQueue (s : State) (fn off : Nat) : Nat :=
  let q := off / 0x20
  let x := tabGet HostQueue.zero (s.fn fn).queues q
  if 9 ≤ q || (fn == 0 && q != 0) then 0
  else if off % 0x20 == 0 then x.base.toNat
  else if off % 0x20 == 0x10 then x.cons.toNat
  else 0

def readTile8 (s : State) (off : Nat) : Nat :=
  let x := s.die (off / 0x100)
  let o := off % 0x100
  if o == 0 then x.lastCode.toNat * 2 ^ 24 + x.lastStage * 2 ^ 22 + 2 * b2n x.wiping + b2n x.failPending
  else if o == 8 then x.failTile * 2 ^ 10 + x.failSlot
  else if o == 0x10 then x.resealCount.toNat
  else if o == 0x18 then x.failCount.toNat
  else if o == 0x20 then x.exhaustCount.toNat
  else if o == 0x28 then x.zeroCount.toNat
  else 0

def readChan (s : State) (off : Nat) : Nat :=
  let cl := off / 0x200
  let x := chan s cl (off % 0x200 / 0x20)
  let o := off % 0x20
  if o == 0 then x.head.toNat
  else if o == 8 then x.status.toNat
  else if o == 0x10 then x.faddr.toNat
  else 0

def readPod (s : State) (off : Nat) : Nat :=
  if off == 0 then s.pos
  else if off == 8 then ((List.range 16).map fun t => peerState s t * 2 ^ (2 * t)).foldl (· + ·) 0
  else if off == 0x18 then s.relayCount.toNat
  else if off == 0x20 then s.mcdropCount.toNat
  else if 0x100 ≤ off && off < 0x1F0 then
    let l := s.link ((off - 0x100) / 16)
    if off % 16 == 0 then l.replays.toNat * 2 ^ 32 + b2n l.miswire * 2 ^ 16 + l.spared * 2 ^ 8 + l.state
    else if off % 16 == 8 then b2n l.arm
    else 0
  else if 0x800 ≤ off && off < 0x1000 then (tabGet 0 s.lcOwner ((off - 0x800) / 8)).toNat
  else if 0x1_0000 ≤ off && off < 0x5_0000 then
    let g := (off - 0x1_0000) / 4
    mcEntry s g + mcEntry s (g + 1) * 2 ^ 32
  else 0

def readXl (s : State) (p off : Nat) : Nat :=
  let x := s.part p
  if off == 0 then x.xlRoot.toNat
  else if off == 8 then b2n x.xlEnable + 2 * b2n x.xlGlobal
  else if off == 0x18 then 4 * b2n x.badWrite + 2 * b2n x.invalErr + b2n x.shoot.isSome
  else if 0x20 ≤ off && off < 0x40 then field x.keymask.toNat (8 * (off - 0x20) + 63) (8 * (off - 0x20))
  else if 0x100 ≤ off && off < 0x300 then regionWord s p ((off - 0x100) / 8)
  else 0

def readSched (s : State) (p off : Nat) : Nat :=
  let x := s.part p
  if off < 0x40 then b2n (x.lqStop.getLsbD (off / 8)) * 8 + tabGet 7 x.lqCeiling (off / 8)
  else if off == 0x40 then x.preemptCount.toNat
  else if off == 0x48 then x.migrateCount.toNat
  else 0

def readFault (s : State) (p off : Nat) : Nat :=
  let x := s.part p
  if off == 0 then x.fqBase.toNat
  else if off == 8 then x.fqProd.toNat
  else if off == 0x10 then x.fqCons.toNat
  else if off == 0x18 then b2n x.fqEnable
  else if off == 0x28 then 4 * b2n x.writeFail + 2 * b2n x.badResume + b2n !x.batches.isEmpty
  else if off == 0x30 then x.fqCount.toNat
  else if off == 0x40 then x.svBase.toNat
  else if off == 0x48 then x.svSize.toNat
  else 0

def readGroup (s : State) (p off : Nat) : Nat :=
  let g := (s.part p).group (off / 0x18)
  let o := off % 0x18
  if o == 0 then b2n g.valid * 2 ^ 63 + g.group * 2 ^ 17 + g.coord
  else if o == 8 then g.version * 2 ^ 32 + g.round * 2 ^ 29 + g.count
  else g.roster

def readBlocks (s : State) (p off : Nat) : Nat :=
  if off < 0x1_0000 then readXl s p off
  else if off < 0x2_0000 then readSched s p (off - 0x1_0000)
  else if off < 0x3_0000 then readFault s p (off - 0x2_0000)
  else if 0x4_0000 ≤ off && off < 0x4_4000 then rtWord s p (off - 0x4_0000)
  else if 0x8_0000 ≤ off && off < 0x8_0000 + 0x18 * 256 then readGroup s p (off - 0x8_0000)
  else 0

/-- What a function reads at an 8-byte aligned offset of its BAR0 (R433, Table 19.5). -/
def regRead (s : State) (fn off : Nat) : DWord :=
  w64 (if 0x2000 ≤ off && off < 0x3000 then readHx s fn (off - 0x2000)
    else if 0x3000 ≤ off && off < 0x3120 then readQueue s fn (off - 0x3000)
    else
      match vfOf fn with
      | some p => if 0x40_0000 ≤ off && off < 0x80_0000 then readBlocks s p (off - 0x40_0000) else 0
      | none =>
        if off < 0x80 then (s.part (off / 8)).l2Ways.toNat * 2 ^ 24 + (s.part (off / 8)).spMax * 2 ^ 4
        else if 0x1000 ≤ off && off < 0x2000 then readPower s (off - 0x1000)
        else if 0x1_0000 ≤ off && off < 0x1_0800 then readTile8 s (off - 0x1_0000)
        else if 0x10_0000 ≤ off && off < 0x11_0000 then readChan s (off - 0x10_0000)
        else if 0x20_0000 ≤ off && off < 0x26_0000 then readPod s (off - 0x20_0000)
        else if 0x100_0000 ≤ off && off < 0x200_0000 then
          readBlocks s ((off - 0x100_0000) / 0x10_0000) ((off - 0x100_0000) % 0x10_0000)
        else 0)

/-- A read of a register: one of a frozen function, or of a locked TDI outside its stream, completes with Completer Abort
and is logged (R430, R432, Table 18.7). -/
def regAnswer (s : State) (fn off : Nat) (inStream : Bool) : State :=
  if !s.up || 17 ≤ fn then s
  else
    let give := fun (st : State) (v : Option DWord) => { st with hostOut := st.hostOut ++ [.reg fn off v] }
    match vfOf fn with
    | none => give s (some (regRead s fn off))
    | some p =>
      match vfArrives s p 0 0 inStream with
      | (true, s1) => hxLog (give s1 none) fn fcFrozen 0
      | (false, s1) => give s1 (some (regRead s1 fn off))

/-- REGISTER_WRITE, and without a value a read. -/
def regAccess (s : State) (fn off : Nat) (v : Option DWord) (inStream : Bool) : State :=
  match v with
  | some x => regWrite s fn off x inStream
  | none => regAnswer s fn off inStream

/-! ## Power (R435, R436) -/

/-- What happens to a module that has power (R438). -/
def whilePowered (s : State) (f : State → State) : State := if s.powered then f s else s

/-- PW_CAP_WRITE: by the host through PF0, or by the board management controller over its sideband. -/
def capWrite (s : State) (bmc : Bool) (v : DWord) : State :=
  if bmc then (if s.up then writeCap s true (field v.toNat 27 16) (field v.toNat 12 0) else s)
  else regWrite s 0 0x1000 v true

/-- THERMAL_TRIP: the clock is held at 700 MHz. -/
def thermalTrip (s : State) : State :=
  whilePowered s fun s => powerSignal s { s with trip := true, tripHeld := true, mhz := Config.clockMin }

/-- THERMAL_TRIP_CLEAR: every sensor is 5 °C below the trip temperature, and the clock is released. -/
def thermalClear (s : State) : State :=
  whilePowered s fun s => { s with trip := false, tripHeld := false }

/-- The clock after a step, which a trip holds and the ends of its range bound. -/
def steppedClock (s : State) (up : Bool) : Nat :=
  if s.tripHeld then s.mhz
  else if up then min Config.clockMax (s.mhz + Config.clockStepMhz)
  else max Config.clockMin (s.mhz - Config.clockStepMhz)

/-- The average power over the effective window: from 1 ms after the cap takes effect, at most the effective cap (R436). -/
def averagePower (s : State) (watts : Nat) : Nat :=
  if s.capSince + 1000 * microsecond ≤ s.time then min watts (effectiveCap s).cap else watts % 2 ^ 13

/-- CORE_CLOCK_STEP: the device's own figures are the event's. A step down is made for the cap, and holds the clock below
its maximum until it is back there; what a trip has left does not. PW_STATUS.trip stays while a sensor is at or above the
trip temperature, the hold of the clock until THERMAL_TRIP_CLEAR (log entry 83). -/
def clockStep (s : State) (up : Bool) (watts : Nat) (r : Meter) : State :=
  whilePowered s fun s =>
    let m := steppedClock s up
    powerSignal s { s with
      mhz := m, watts := averagePower s watts, energy := s.energy + w64 r.energy
      trip := s.trip && decide (s.tripTemp ≤ r.hottest)
      capped := decide (m < Config.clockMax) && (s.capped || (!up && !s.tripHeld)) }

/-- CORE_FLAGGED_HOT: a temperature crosses the threshold (R400). -/
def flagHot (s : State) (core temp : Nat) : State :=
  if core < 512 then
    whilePowered s fun s => powerSignal s (s.modCore core fun c => { c with hot := decide (s.hotTemp ≤ temp) })
  else s

/-! ## Function resets and configuration requests (R438) -/

/-- VF_FLR -/
def vfReset (s : State) (p : Nat) : State :=
  if 16 ≤ p then s else served s fun s => setTdi (teardownPart s p) p .unlocked

/-- CONFIGURATION_REQUEST: answered with Request Retry until bring-up step 5 ends; then one may write Device Control 2,
whose PF0 value gives the completion timeout (Table 19.4). -/
def configRequest (s : State) (r : ConfigRequest) : State :=
  let served := s.up || s.selfTestFailed
  if 17 ≤ r.fn then s
  else
    whilePowered s fun s => { s with
      hostOut := s.hostOut ++ [.config r.fn !served]
      ctl2 := match r.ctl2 with
        | some v => if served && r.fn == 0 then v.extractLsb' 0 5 else s.ctl2
        | none => s.ctl2 }

/-! ## Soft errors (R20) -/

/-- Bit `n` of a datum flips: 0 to 31 of the word, 32 to 35 of the code. -/
def flipDatum (n : Nat) (d : Datum) : Datum :=
  if n < 32 then { d with word := d.word ^^^ w32 (2 ^ n) }
  else { d with code := d.code ^^^ BitVec.ofNat 4 (2 ^ (n - 32)) }

def flipAt (i n : Nat) (ws : List Datum) : List Datum := ws.modify i (flipDatum n)

def flipReg (n : Nat) (r : Reg) : Reg :=
  let d := flipDatum n ⟨r.word, r.code⟩
  { r with word := d.word, code := d.code }

/-- SOFT_ERROR. A register of a thread is the same one in what its open loads may bring back (R30). -/
def softError (s : State) (loc : ErrLoc) (n : Nat) : State :=
  if 36 ≤ n then s
  else
    match loc with
    | .reg c k v =>
      if 255 ≤ v then s
      else
        match s.thread c k with
        | none => s
        | some t => modEver s c k t.uid fun u =>
            { u with regs := tabSet Reg.zero u.regs v (flipReg n (tabGet Reg.zero u.regs v)) }
    | .scratch c w =>
      s.modCore c fun x =>
        { x with scratch := tabSet zeroDatum x.scratch w (flipDatum n (tabGet zeroDatum x.scratch w)) }
    | .l1 c i w => s.modCore c fun x => { x with l1 := x.l1.modify (i / 2) fun y =>
        { y with secs := y.secs.map fun e => if e.1 == i % 2 then (e.1, flipAt w n e.2) else e } }
    | .l2 w =>
      match tabFind s.l2 (w / 16) with
      | some x => { s with l2 := tabPut s.l2 (w / 16) { x with words := flipAt (w % 16) n x.words } }
      | none => s
    | .tile cl t e =>
      let x := s.cluster cl
      let y := tabGet Tile.zero x.tiles t
      let z := { y with elems := tabSet zeroDatum y.elems e (flipDatum n (tabGet zeroDatum y.elems e)) }
      s.setCluster cl { x with tiles := tabSet Tile.zero x.tiles t z }
    | .hbm b =>
      if n < 8 && b < 2 ^ 40 then { s with hbm := tabSet 0 s.hbm b (tabGet 0 s.hbm b ^^^ BitVec.ofNat 8 (2 ^ n)) } else s
    | .hbmSide b =>
      if n < 8 && b < 2 ^ 37 then
        { s with hbmSide := tabSet 0 s.hbmSide b (tabGet 0 s.hbmSide b ^^^ BitVec.ofNat 8 (2 ^ n)) }
      else s

end Sys2Proof.Machine
end

