-- ==== Sys2Proof/Machine/Issue.lean ====
section
/-! DEFINITION. Issue: what a word and its thread's block must satisfy (R161, R190, R199, R201, R363), waking (Table
7.2), forming bundles (R167 to R170), and fetching a bundle's instruction (R205, R206). -/

namespace Sys2Proof.Machine

/-! ## Registers that an instruction names (R199) -/

/-- Register sources, as first register and number. -/
def usesOf (xs : List Src) : List (Nat × Nat) :=
  xs.filterMap fun x => match x with
    | .regs r es _ _ => some (r.toNat, es.length)
    | .imm _ => none

def usesDst (k : DstKind) (d : BitVec 8) : List (Nat × Nat) :=
  match k with
  | .regs n => [(d.toNat, n)]
  | _ => []

def usesA (r : ARule) (f : FmtA) : List (Nat × Nat) := usesDst r.dst f.dst ++ usesOf (aSrcs r f)
def usesM (r : MRule) (f : FmtM) : List (Nat × Nat) := (f.dst.toNat, r.data) :: usesOf (mAddrSrcs r.pair f)
def usesE (r : ERule) (f : FmtE) : List (Nat × Nat) := usesDst r.dst f.dst ++ usesOf (eSrcs r f)
def usesB (reg link : Bool) (f : FmtB) : List (Nat × Nat) :=
  (if link then [(f.dst.toNat, 2)] else []) ++ (if reg then [(f.target.toNat, 2)] else [])

/-- Ranges of general registers that an instruction names. -/
def regUses (i : Instr) : List (Nat × Nat) :=
  match i with
  | .bra f => usesB false false f
  | .brc f => usesB false false f
  | .brx f => usesB true false f
  | .call f => usesB false true f
  | .callx f => usesB true true f
  | .ret f => usesB true false f
  | .exit f => usesE (ruleBareE) f
  | .nop f => usesE (ruleBareE) f
  | .yield f => usesE (ruleBareE) f
  | .pause f => usesE (ruleBareE) f
  | .sign f => usesE (ruleSign) f
  | .cvdecl f => usesE (ruleCvdecl) f
  | .cvwait f => usesE (ruleCvOnly) f
  | .cvclr f => usesE (ruleCvOnly) f
  | .bara f => usesE (ruleBar) f
  | .barw f => usesE (ruleBar) f
  | .bar f => usesE (ruleBar) f
  | .launch f => usesE (ruleLaunch) f
  | .epush f => usesE (ruleEpush) f
  | .epop f => usesE (ruleEpop) f
  | .iadd f => usesA (ruleIntAdd f) f
  | .iaddc f => usesA (ruleCarry f) f
  | .isub f => usesA (ruleIntAdd f) f
  | .isubb f => usesA (ruleCarry f) f
  | .imul f => usesA (ruleMul f) f
  | .imulh f => usesA (ruleMul f) f
  | .imad f => usesA (ruleMad f) f
  | .imadw f => usesA (ruleMadw f) f
  | .imin f => usesA (ruleMinMax f) f
  | .imax f => usesA (ruleMinMax f) f
  | .iabs f => usesA (ruleAbs f) f
  | .icmp f => usesA (ruleIcmp f) f
  | .sel f => usesA (ruleSel f) f
  | .lea64 f => usesA (ruleLea64 f) f
  | .add64 f => usesA (ruleAdd64 f) f
  | .mov f => usesA (ruleMov f) f
  | .movl f => usesA (ruleMovl f) f
  | .shl f => usesA (ruleShift f) f
  | .shr f => usesA (ruleShift f) f
  | .sar f => usesA (ruleSar f) f
  | .dsh f => usesA (ruleDsh f) f
  | .and f => usesA (ruleLogic f) f
  | .or f => usesA (ruleLogic f) f
  | .xor f => usesA (ruleLogic f) f
  | .bool3 f => usesA (ruleBool3 f) f
  | .pbool f => usesA (rulePbool f) f
  | .clz f => usesA (ruleCount f) f
  | .ctz f => usesA (ruleCount f) f
  | .popc f => usesA (ruleCount f) f
  | .brev f => usesA (ruleBrev f) f
  | .bfx f => usesA (ruleShift f) f
  | .bfi f => usesA (ruleBfi f) f
  | .bil2 f => usesA (ruleBil2 f) f
  | .bil3 f => usesA (ruleBil3 f) f
  | .bdl2 f => usesA (ruleBdl 2 f) f
  | .bdl3 f => usesA (ruleBdl 3 f) f
  | .bysel f => usesA (ruleBysel f) f
  | .permx f => usesA (rulePermx false f) f
  | .permxCv f => usesA (rulePermx true f) f
  | .ballot f => usesA (ruleBallot false f) f
  | .ballotCv f => usesA (ruleBallot true f) f
  | .vote f => usesA (ruleVote false f) f
  | .voteCv f => usesA (ruleVote true f) f
  | .laneMatch f => usesA (ruleMatch false f) f
  | .laneMatchCv f => usesA (ruleMatch true f) f
  | .lscan f => usesA (ruleLscan false f) f
  | .lscanCv f => usesA (ruleLscan true f) f
  | .lred f => usesA (ruleLred false f) f
  | .lredCv f => usesA (ruleLred true f) f
  | .elect f => usesA (ruleElect false f) f
  | .electCv f => usesA (ruleElect true f) f
  | .fadd f => usesA (ruleF2 f) f
  | .fsub f => usesA (ruleF2 f) f
  | .fmul f => usesA (ruleF2 f) f
  | .ffma f => usesA (ruleF3 f) f
  | .fmin f => usesA (ruleFminmax f) f
  | .fmax f => usesA (ruleFminmax f) f
  | .fcmp f => usesA (ruleFcmp f) f
  | .fclass f => usesA (ruleFclass f) f
  | .frcp f => usesA (ruleF1 f) f
  | .frsq f => usesA (ruleF1 f) f
  | .fsqrt f => usesA (ruleF1 f) f
  | .fexp2 f => usesA (ruleF1 f) f
  | .flog2 f => usesA (ruleF1 f) f
  | .fsin f => usesA (ruleF1 f) f
  | .fcos f => usesA (ruleF1 f) f
  | .ftanh f => usesA (ruleF1 f) f
  | .fscale f => usesA (ruleFscale f) f
  | .pkadd f => usesA (rulePk2 f) f
  | .pkmul f => usesA (rulePk2 f) f
  | .pkfma f => usesA (rulePk3 f) f
  | .pkmin f => usesA (rulePkMinMax f) f
  | .pkmax f => usesA (rulePkMinMax f) f
  | .cvt f => usesA (ruleCvt f) f
  | .pack f => usesA (rulePack f) f
  | .unpk f => usesA (ruleUnpk f) f
  | .dot2 f => usesA (ruleDot [.bf16x2, .f16x2] f) f
  | .dot4 f => usesA (ruleDot [.e4m3x4, .e5m2x4, .i8x4, .u8x4] f) f
  | .dot8 f => usesA (ruleDot [.e2m1x8, .i4x8] f) f
  | .tagset f => usesA (ruleTagset f) f
  | .tagget f => usesA (ruleTagget f) f
  | .qclr f => usesA (ruleQclr f) f
  | .qadd f => usesA (ruleQadd f) f
  | .qaddSeg f => usesA (ruleQaddSeg f) f
  | .qmac f => usesA (ruleQmac f) f
  | .qscan f => usesA (ruleQscan f) f
  | .qrnd f => usesA (ruleQrnd f) f
  | .qmov f => usesA (ruleQmov f) f
  | .qmovSeg f => usesA (ruleQmovSeg f) f
  | .qflag f => usesA (ruleQflag f) f
  | .ld f => usesM (ruleLd f) f
  | .lda f => usesM (ruleLda f) f
  | .ldx f => usesM (ruleLd f) f
  | .lds f => usesM (ruleLds f) f
  | .st f => usesM (ruleSt f) f
  | .stl f => usesM (ruleStl f) f
  | .stx f => usesM (ruleSt f) f
  | .sts f => usesM (ruleSts f) f
  | .pref f => usesM (ruleMaint f) f
  | .cinv f => usesM (ruleMaint f) f
  | .cwb f => usesM (ruleMaint f) f
  | .probe f => usesM (ruleProbe f) f
  | .pgreq f => usesM (ruleMaint f) f
  | .copy f => usesE (ruleCopy f) f
  | .copyx f => usesE (ruleCopyx f) f
  | .chain f => usesE (ruleChain f) f
  | .chstat f => usesE (ruleChstat f) f
  | .cmwait f => usesE (ruleCmwait f) f
  | .cmtest f => usesE (ruleCmtest f) f
  | .cmclr f => usesE (ruleCmclr f) f
  | .rkinit f => usesE (ruleRkinit f) f
  | .rkacq f => usesE (ruleRkget f) f
  | .rkcommit f => usesE (ruleRkcommit f) f
  | .rkwait f => usesE (ruleRkget f) f
  | .rkrel f => usesE (ruleRkrel f) f
  | .atom f => usesM (ruleAtom f) f
  | .cas f => usesM (ruleCas f) f
  | .red f => usesM (ruleRed f) f
  | .lcwait f => usesE (ruleCntWait f) f
  | .lcread f => usesE (ruleLcread f) f
  | .lcadd f => usesE (ruleLcadd f) f
  | .towait f => usesE (ruleCntWait f) f
  | .fence _ => []
  | .tacq f => usesE (ruleTileOp .raw f) f
  | .trel f => usesE (ruleTileOp .raw f) f
  | .tzero f => usesE (ruleTileOp .f32 f) f
  | .mma f => usesE (ruleMma f) f
  | .mmax f => usesE (ruleMmax f) f
  | .tread f => usesE (ruleTread f) f
  | .twrite f => usesE (ruleTwrite f) f
  | .tcvt f => usesE (ruleTcvt f) f
  | .mwait f => usesE (ruleMwait f) f
  | .mstat f => usesE (ruleMstat f) f
  | .gpost f => usesE (ruleGpost f) f
  | .gcancel f => usesE (ruleHandle f) f
  | .gstat f => usesE (ruleHandle f) f
  | .gjoin f => usesE (ruleGroup f) f
  | .gleave f => usesE (ruleGroup f) f
  | .gver f => usesE (ruleGroup f) f
  | .rankq f => usesE (ruleGroup f) f
  | .trap _ => []
  | .brk _ => []
  | .eret _ => []
  | .kill _ => []
  | .sread f => [(f.dst.toNat, (selWords f.sel.toNat).getD 0)]
  | .swrite f => usesOf (swriteSrcs f)
  | .clock f => [(f.dst.toNat, 2)]
  | .pmark _ => []
  | _ => []

/-- A range lies below the launch's register count; v255 stands alone. -/
def useOk (n : Nat) (u : Nat × Nat) : Bool := u.2 == 0 || (u.1 == 255 && u.2 == 1) || u.1 + u.2 ≤ n

/-! ## Checks of a word in its block (step 5 of Table 8.10) -/

/-- The instructions that a block without the bar flag may not hold (R190). -/
def isBar : Instr → Bool
  | .bara _ | .barw _ | .bar _ => true
  | _ => false

/-- CALL and CALLX stand last in their block (R363). -/
def isCall : Instr → Bool
  | .call _ | .callx _ => true
  | _ => false

/-- What the decode of a word requires of its thread: registers within the launch's count, the bar flag, a call's
place, and a literal inside the block. -/
def contextOk (n : Nat) (t : Thread) (i : Instr) (lit : Bool) : Bool :=
  (regUses i).all (useOk n) && (!isBar i || hdrBar t.hdr) && (!isCall i || t.pc + 8 == t.blockEnd) &&
  (!lit || t.pc + 8 != t.blockEnd)

/-! ## What an instruction waits for before it issues (R320, R404) -/

/-- An instruction may issue while earlier accesses of its thread have no verdict: what it does reaches no further than
the thread, which a fault returns to where it was, or is an access that itself stands behind them (log entry 12). -/
def runsAhead (i : Instr) : Bool :=
  match i with
  | .bra _ | .brc _ | .brx _ | .call _ | .callx _ | .ret _ | .nop _ | .yield _ | .pause _ | .atom _ | .cas _ | .red _
  | .sread _ | .clock _ | .chstat _ | .cmtest _ => true
  | .sts _ | .pgreq _ => false
  | _ =>
    match opcodeOf i with
    | some (1, _) | some (2, _) | some (4, _) | some (5, _) | some (7, _) => true
    | _ => false

/-- A release or an acquire of its thread, or an instruction that performs one (Table 14.3). -/
def isSync (i : Instr) : Bool :=
  match i with
  | .stl _ | .lda _ | .copy _ | .copyx _ | .chain _ | .rkcommit _ | .cmwait _ | .rkwait _ | .lcwait _ | .towait _
  | .lcadd _ | .gpost _ | .bara _ | .barw _ | .bar _ | .launch _ | .epush _ => true
  | .atom f | .cas f | .red f | .fence f => f.scope != .th
  | _ => false

/-- A thread has an SO access, or one that may turn out to be SO, that has not been performed (R320). -/
def soOpen (s : State) (uid : Nat) : Bool :=
  s.accesses.any fun a => a.uid == uid && a.kind != .pref && a.maybeSo && !a.performed

/-- A thread has a .nr load that has not yet written its predicate (R86; DEDUCED, log entry 12). -/
def residencyOpen (s : State) (uid : Nat) : Bool :=
  s.accesses.any fun a => a.uid == uid && a.before.isSome && a.kind.nrp != 7

/-- What holds a lane back before its instruction issues: verdicts (R404), or its SO accesses (R320). -/
def laneGate (s : State) (i : Instr) (t : Thread) : Option Block :=
  if residencyOpen s t.uid || (!runsAhead i && openVerdict s t.uid) then some .verdict
  else if isSync i && soOpen s t.uid then some .soOrder
  else none

/-- The lanes of a bundle that is split keep a name of it, by which their accesses stay in order (R317). -/
def nameBundle (s : State) (c : Nat) (ks : List Nat) : State :=
  if ks.length ≤ 1 then s
  else
    ks.foldl (fun st k => st.modThread c k fun t => { t with bundle := some (t.bundle.getD s.nextId) })
      { s with nextId := s.nextId + 1 }

/-- The lanes of a bundle that issue: those below the first that is held back, which blocks with the later ones behind
it. -/
def gateLanes (s : State) (c : Nat) (i : Instr) (ks : List Nat) : List Nat × State :=
  let held := fun k => (s.thread c k).bind (laneGate s i)
  let go := ks.takeWhile fun k => (held k).isNone
  match ks.drop go.length with
  | [] => (go, s)
  | k :: rest =>
    let s0 := nameBundle s c ks
    let s1 := match held k with
      | some b => blockThread s0 c k b
      | none => s0
    (go, rest.foldl (fun st j => blockThread st c j (.lane k (((s.thread c k).map Thread.uid).getD 0))) s1)

/-! ## Waking (Table 7.2) -/

/-- Every other thread of the gang on the core that has the point as its top entry has arrived (R172). -/
def arrivedAll (s : State) (c k : Nat) (t : Thread) (p : DWord) : Bool :=
  !(s.core c).threads.any fun e =>
    e.1 != k && e.2.seq == t.seq && topOf s c e.1 == topOf s c k && e.2.rstk.head? == some p

/-- A thread that has left the instruction by a fault. -/
def Status.stopped : Status → Bool
  | .parked _ | .trapping => true
  | _ => false

/-- The reason no longer holds. Waits that end in an event of their own, and those whose head issues in its turn, end
otherwise. -/
def Block.over (s : State) (c : Nat) (t : Thread) : Block → Bool
  | .reg r => !(t.reg r).pending && (t.reg r).lent == 0
  | .access id => !s.accesses.any fun a => a.id == id
  | .drain _ => released s t.uid
  | .channel _ _ _ => false
  | .mapBits m mask => let x := (s.core c).map m; covers x.bits mask || (!x.held && x.code != 0)
  | .rinkFree r => ((tabFind (s.core c).rk r).map fun x => x.stage x.producer == .free).getD true
  | .rinkFull r => ((tabFind (s.core c).rk r).map fun x => match x.stage x.consumer with
      | .full | .faulted _ => true
      | _ => false).getD true
  | .counter _ _ _ _ _ _ _ => false
  | .verdict => !openVerdict s t.uid
  | .soOrder => !soOpen s t.uid
  | .podFull p => !Sys2Proof.Machine.podFull s p
  | .router _ _ => false
  | .edge e => let x := (s.part (launchPart s t.seq)).edge e; x.tokens.length < x.cap || x.state == 4
  | .gateSlot _ _ _ => false
  | .queueRoom b => !(s.part (launchPart s t.seq)).batches.any fun x => x.id == b
  | .tileOps ids => !(s.cluster (c / 4)).tiles.any fun x => x.2.queue.any fun o => ids.contains o.id
  | .tileQueue i => !queueFull (tileOf s (c / 4) i)
  | .lane k uid => match s.thread c k with
    | none => true
    | some u => u.uid != uid || u.pc != t.pc || u.status.stopped

/-- A thread at the head of a line that has come to be served: it issues in its turn. -/
def headServed (s : State) (c k : Nat) (t : Thread) : Bool :=
  match t.status with
  | .blocked (.channel ch _ drain) =>
    (chan s (c / 4) (4 * (c % 4) + ch)).state != 1 && !chanAhead s c k t ch && (drain.isNone || released s t.uid)
  | .blocked (.gateSlot at_ _ _) =>
    at_ < s.clock && (freeGate s (c / 64)).isSome && !gateAhead s (c / 64) t && !retracts s (launchPart s t.seq)
  | _ => false

/-- A thread whose turn in a line has come counts as READY from then on (R168, R170). -/
def Thread.served (served : Bool) (clock : Nat) (t : Thread) : Thread :=
  if served == t.waited then t else { t with waited := served, since := if served then clock else t.since }

/-- A wait in a line, which ends in the turn of its head. -/
def Block.inLine : Block → Bool
  | .channel _ _ _ | .gateSlot _ _ _ => true
  | _ => false

/-- The wait was for an effect of the instruction itself, which has now come about. -/
def Block.ends : Block → Bool
  | .queueRoom _ | .tileOps _ => true
  | _ => false

/-- A thread returns to READY when what it waits for has come about. -/
def wakeThread (s : State) (c k : Nat) (t : Thread) : Thread :=
  let up := { t with status := .ready, since := s.clock }
  match t.status with
  | .blocked b =>
    if b.inLine then t.served (headServed s c k t) s.clock
    else if b.over s c t then { up with waited := t.waited || b.ends } else t
  | .reconv p _ => if arrivedAll s c k t p then up else t
  | .yielded n => if n ≤ s.clock then up else t
  | _ => t

def wake (s : State) (c : Nat) : State :=
  if (s.core c).issues then
    s.modCore c fun x => { x with threads := x.threads.map fun e => (e.1, wakeThread s c e.1 e.2) }
  else s

/-- A core before it issues: complete rendezvous fire, threads wake, and those at a header enter their block. -/
def prepare (s : State) (c : Nat) : State := enterBlocks (wake (settleCore s c) c) c

/-! ## Bundles (R167 to R170) -/

/-- Class of the word at a thread's PC; a word that cannot be fetched counts as class 0x0. -/
def classAt (s : State) (c : Nat) (t : Thread) : Nat :=
  match fetchAt s c (launchPart s t.seq) t.pc with
  | .ok w _ => wordClass w
  | .fail _ _ => 0

/-- The pipe of a class (Table 7.4): 0 arithmetic, 1 memory and engine. -/
def pipeOf (cls : Nat) : Nat := if 7 ≤ cls && cls ≤ 12 then 1 else 0

/-- Threads that may issue in a pipe: READY since an earlier clock, at an instruction of the pipe. -/
def candidates (s : State) (c pipe : Nat) : List (Nat × Thread) :=
  if (s.core c).issues then
    (s.core c).threads.filter fun e =>
      let t := e.2
      (t.status == .ready || (t.waited && headServed s c e.1 t)) && t.entered && t.pc != t.blk && t.since < s.clock &&
      pipeOf (classAt s c t) == pipe
  else []

/-- The longest-waiting of a list; the lowest key among equals. -/
def oldest : List (Nat × Thread) → Option (Nat × Thread)
  | [] => none
  | e :: es =>
    match oldest es with
    | some b => if b.2.since < e.2.since then some b else some e
    | none => some e

/-- A thread has been READY for the bound of R170. -/
def overdue (clock : Nat) (t : Thread) : Bool := t.since + 4096 ≤ clock

/-- Those among which the choice is made: demoted threads only where no other is READY; a thread at the bound in
any case. -/
def eligible (clock : Nat) (es : List (Nat × Thread)) : List (Nat × Thread) :=
  let free := es.filter fun e => e.2.demotedUntil ≤ clock || overdue clock e.2
  if free.isEmpty then es else free

/-- Keys in ascending lane order. -/
def insertKey (k : Nat) : List Nat → List Nat
  | [] => [k]
  | j :: js => if k % 32 ≤ j % 32 then k :: j :: js else j :: insertKey k js

/-- The bundle of a pipe: the PC of the longest-waiting thread, and for each lane the longest-waiting thread of the
same launch at that PC. -/
def bundle (s : State) (c pipe : Nat) : List Nat :=
  let es := eligible s.clock (candidates s c pipe)
  match oldest es with
  | none => []
  | some (_, t) =>
    let at_ := es.filter fun e => e.2.pc == t.pc && e.2.seq == t.seq
    ((List.range 32).filterMap fun l => (oldest (at_.filter fun e => e.1 % 32 == l)).map Prod.fst).foldr insertKey []

/-! ## The instruction of a bundle (Table 8.10, steps 1 to 6) -/

/-- What a step comes to: an instruction or event that runs, with the events that wait behind it (none where it is no
waiting event), or a state. -/
inductive Plan where
  | run (i : Instr) (behind : List Instr) (s : State)
  | rest (s : State)

/-- A fault of every lane of a bundle, once the verdicts of its thread's earlier accesses are known (R404). -/
def faultBundle (s : State) (c : Nat) (ks : List Nat) (i : FInfo) : State :=
  let late := ks.filter fun k => ((s.thread c k).map fun t => openVerdict s t.uid).getD false
  let s1 := late.foldl (fun st k => blockThread st c k .verdict) s
  takeLanes s1 c s1.nextId ((ks.filter fun k => !late.contains k).map fun k => (k, i))

/-- The instruction of a bundle runs in the lanes that nothing holds back. -/
def runGated (s : State) (c : Nat) (ks : List Nat) (i : Instr) : Plan :=
  match gateLanes s c i ks with
  | ([], s1) => .rest s1
  | (go, s1) => .run i [] { s1 with issue := ⟨c, go⟩ }

/-- A fetch that fails, or waits as a whole (R57, R80). -/
def fetchFails (s s1 : State) (c : Nat) (ks : List Nat) (i : FInfo) : Plan :=
  if s1.stalled then .rest (s.keepWalks s1) else .rest (faultBundle s1 c ks i)

/-- The acquire of each thread's first instruction (R385). -/
def firstAcquire (s : State) (c : Nat) (ks : List Nat) : State :=
  if ks.any fun k => ((s.thread c k).map fun t => !t.acquired).getD false then
    ks.foldl (fun st k => st.modThread c k fun t => { t with acquired := true }) (acquireAt s c .sy)
  else s

/-- Lanes whose block and launch permit the word. -/
def lanesOk (s : State) (c : Nat) (i : Instr) (lit : Bool) (ks : List Nat) : List Nat :=
  ks.filter fun k => match s.thread c k with
    | some t => contextOk (launchRegs s t.seq) t i lit
    | none => false

/-- The bundle's word is fetched and decoded, and its literal word after it; faults of decode are every lane's. -/
def planBundle (s : State) (c : Nat) (ks : List Nat) : Plan :=
  match ks.head?.bind fun k => s.thread c k with
  | none => .rest s
  | some t =>
    let p := launchPart s t.seq
    match fetchAt (firstAcquire s c ks) c p t.pc with
    | .fail i s1 => fetchFails s s1 c ks i
    | .ok w s1 =>
      match decodeWord w (some 0) with
      | .error _ => .rest (faultBundle s1 c ks (fi fcIllegal))
      | .ok i0 =>
        let lit := hasLitBit w
        let good := lanesOk s1 c i0 lit ks
        let bad := ks.filter fun k => !good.contains k
        let s2 := faultBundle s1 c bad (fi fcIllegal)
        if good.isEmpty then .rest s2
        else if !lit then runGated s2 c good i0
        else
          match fetchAt s2 c p (t.pc + 8) with
          | .fail i s3 => fetchFails s2 s3 c good i
          | .ok l s3 =>
            match decodeWord w (some l) with
            | .error _ => .rest (faultBundle s3 c good (fi fcIllegal))
            | .ok i => runGated s3 c good i

/-- What a core issues in a pipe: at most one bundle in a clock (R167). -/
def planIssue (s : State) (c pipe : Nat) : Plan :=
  if s.issued.contains (c, pipe) then .rest s
  else
    match bundle s c pipe with
    | [] => .rest s
    | ks => planBundle { s with issued := (c, pipe) :: s.issued } c ks

/-! ## Order within a clock (log entry 1) -/

/-- Cores that hold threads. -/
def liveCores (s : State) : List Nat := (s.cores.filter fun e => !e.2.threads.isEmpty).map Prod.fst

/-- Core and pipe pairs from a turn on: pair 2c + p is turn 2c + p + 1. -/
def pairsFrom (s : State) (turn : Nat) : List (Nat × Nat) :=
  ((liveCores s).map fun c => [(c, 0), (c, 1)]).flatten.filter fun e => turn ≤ 2 * e.1 + e.2 + 1

/-- The first pair that has a bundle. -/
def nextPair (s : State) : Option (Nat × Nat) :=
  (pairsFrom s s.turn).find? fun e => !(bundle s e.1 e.2).isEmpty

/-- Clocks pass (R436): every pipe may issue again, and a walk whose result nothing has taken is over. -/
def tick (n : Nat) (s : State) : State :=
  if n == 0 then s
  else
    { s with clock := s.clock + n, time := s.time + n * (10 ^ 9 / s.mhz), turn := 0, issued := []
             walks := s.walks.filter fun x => x.result.isNone }

/-- A core and pipe in which a thread has been READY for the bound, and that has not issued in this clock (R170). -/
def dueOn (s : State) (e : Nat × Nat) : Bool :=
  !s.issued.contains e && (s.core e.1).threads.any (fun t => t.2.since + 4096 ≤ s.clock) &&
  (candidates (prepare s e.1) e.1 e.2).any fun t => overdue s.clock t.2

def duePair (s : State) : Option (Nat × Nat) := (pairsFrom s 0).find? (dueOn s)

/-- Clocks that may pass before another thread comes to the bound. -/
def clocksFree (s : State) : Nat :=
  (s.cores.map fun c => c.2.threads.map fun t =>
    if c.2.issues && (t.2.status == .ready || t.2.waited) then max 1 (t.2.since + 4096 - s.clock) else 4096).flatten.foldl min 4096

/-- The worlds of the slots that a tile engine reported are torn down (R50). -/
def serveReports (s : State) : State :=
  match s.reports with
  | [] => s
  | rs =>
    let t := s.launches.foldl (fun st e => if rs.contains e.2.keySlot then
      teardown st e.1 else st) s
    { t with reports := [] }

end Sys2Proof.Machine
end

