-- ==== Sys2Proof/Machine/Events.lean ====
section
/-! DEFINITION. What the part's own events do where no other file gives it: accesses in flight at their stages (R26,
R48, R130), eviction of tiles and metadata units (R45, R51), and waits of threads that end (R169, R172, R175, R412). -/

namespace Sys2Proof.Machine

/-! ## Threads -/

/-- 1,024 clocks have passed since a thread arrived (R172). -/
def reconvExpires (s : State) (c k : Nat) : State :=
  match s.thread c k with
  | none => s
  | some t =>
    match t.status with
    | .reconv _ since =>
      if since + 1024 ≤ s.clock then s.setThread c k { t with status := .ready, since := s.clock } else s
    | _ => s

/-- A demotion is over (R169). -/
def demotionEnds (s : State) (c k : Nat) : State :=
  match s.thread c k with
  | none => s
  | some t => if t.demotedUntil ≤ s.clock then s.setThread c k { t with demotedUntil := 0 } else s

/-- A fired rendezvous that waited tries again (R175). -/
def firedProceeds (s : State) (c row cv : Nat) : State :=
  let m : MSet := ⟨c, row, cv⟩
  if !(s.core c).halting && (cvReg s m).fired.isSome then settleCore (tryFire s m) c else s

/-- A trapping thread enters its handler (R412). -/
def handlerEnters (s : State) (c k : Nat) : State :=
  match s.thread c k with
  | none => s
  | some t => if (s.core c).issues && t.status == .trapping then enterHandler s c k else s

def nopThread (clock : Nat) (t : Thread) : Thread := t.advance clock false

/-! ## Accesses in flight -/

/-- LOAD_FILL: a reply that may not be refetched reaches its register, the L1 taking its sector; a fault that waited for
the verdicts of earlier accesses is taken (R404). -/
def loadFills (s : State) (id : Nat) (evict : List Nat) : State :=
  match findAcc s id with
  | none => s
  | some a =>
    match a.stage with
    | .reply ws _ =>
      if (a.kind.isLoad || a.kind == .pref) && !mustRefetch a then loadReply s a ws evict else s
    | .probed w => probeReply s a w
    | .failed i => if olderOpen s a then s else settleInst (failNow s a i) a.inst
    | _ => s

/-- A load goes to its home off the module once more (Table 1.8), once the peer takes it. -/
def refetchAway (s : State) (a : Access) (d : GDest) : State :=
  match d.dest with
  | .pod p =>
    if (s.peer p).state != 1 && (s.peer p).state != 2 then fabDead s a
    else if podFull s p then s
    else sendAcc s a d
  | _ => sendAcc s a d

/-- REFETCH: the L2's copy is discarded where it is clean, and the access goes to its home once more (R26, Table 1.8). -/
def refetches (s : State) (id : Nat) : State :=
  match findAcc s id with
  | none => s
  | some a =>
    if !mustRefetch a then s
    else
      let b := { a with refetched := true }
      match a.place, a.dest with
      | some (dpa, slot), _ => putAcc (delClean s dpa slot) { b with stage := .slice }
      | none, some d => refetchAway s b d
      | none, none => putAcc s b

/-- ATOMIC_REPLY -/
def atomReplies (s : State) (id : Nat) : State :=
  match findAcc s id with
  | none => s
  | some a =>
    match a.stage with
    | .reply ws _ => atomReply s a ws
    | _ => s

/-- SLICE_REQUEST: the access is performed at its home slice, in its order (R130, R320); one held at the host interface
leaves for the host in its turn. -/
def sliceActs (s : State) (id : Nat) : State :=
  match findAcc s id with
  | none => s
  | some a =>
    match a.stage, a.place with
    | .slice, some (dpa, slot) => if sliceReady s a dpa then atSlice s a dpa slot else s
    | .hold addr, _ =>
      if hostHolds s a addr then s
      else settleInst (if a.kind.isLoad then loadHost s a addr else startHost s a addr) a.inst
    | _, _ => s

/-- A walk that an engine, a fetch or a home has asked for, in its turn (R80). -/
def queuedWalk (s : State) (id : Nat) : State :=
  match s.walks.find? fun x => x.id == id && x.result.isNone with
  | none => s
  | some x =>
    if (walksAhead s x.place.die id).length < 64 then
      granuleEnds s x.place.die x.part (4096 * x.page) fun _ _ => false
    else s

/-- TRANSLATION_WALK: by the name of an access, or of a request that has been queued. -/
def walkActs (s : State) (id : Nat) : State :=
  match findAcc s id with
  | none => queuedWalk s id
  | some a => if a.stage == .walk && walkReady s a then walkEnds s a else s

/-- FILL: the oldest fill of the tile ends, into a way that its mask permits, or one that the slice chooses (R48,
R131). -/
def fillActs (s : State) (tile way : Nat) : State :=
  match s.fills.find? fun f => f.tile == tile with
  | none => s
  | some f => if f.mask.getLsbD way || anyWay ≤ way then fillEnds s f way else s

/-! ## Evictions -/

/-- Key slot of the first dirty line of a tile. -/
def dirtySlot (s : State) (tile : Nat) : Option Nat :=
  (((List.range 8).map (8 * tile + ·)).find? (lineDirty s)).bind fun l => (tabFind s.l2Tags l).map L2Tag.slot

/-- SEAL: a dirty tile is written back (R51), and the lines that `evict` names leave the L2: clean ones silently, the
first dirty one with a seal (R129). A tile of a frame that is being bound holds no line. -/
def sealActs (s : State) (tile : Nat) (evict : BitVec 8) : State :=
  if binding s (1024 * tile) then s
  else
    let s1 := match (dirtySlot s tile).filter fun _ => evict == 0 with
      | some slot => sealTile s (1024 * tile) slot
      | none => s
    ((List.range 8).filter evict.getLsbD).foldl (fun st i => evictLine st (8 * tile + i)) s1

/-! ## Instructions over whole bundles -/

/-- The operation of ATOM and RED (Table 13.2). -/
def atomOf (f : FmtM) : AtomOp := (atomOpOf f.type f.fn f.size).getD .and

/-- PGREQ: the lanes' requests form one batch (R227). -/
def runRequests (f : FmtM) (s : State) : Host.Outcome State Fault Refusal :=
  match s.issue.keys with
  | [] => .fault .noBundle
  | ks =>
    let r := pgreqLanes f s.issue.core ks s
    happens s (takeLanes r.1 s.issue.core r.1.nextId r.2)

/-! ## Queues and resumes of the host -/

/-- RING_SNOOP: in CXL mode the proctor sees that the host has posted an entry of the ring, without a register being
written (R426). -/
def ringSeen (s : State) (fn q : Nat) : State :=
  if !s.up || !s.cxl || 17 ≤ fn || 9 ≤ q then s
  else
    let f := s.fn fn
    let x := tabGet HostQueue.zero f.queues q
    s.setFn fn { f with queues := tabSet HostQueue.zero f.queues q { x with seen := x.seen + 1 } }

/-- A word of FQ_RESUME (Table 18.4). -/
def resumeWord (action rseq : Nat) : DWord := w64 (rseq % 2 ^ 20 + action * 2 ^ 20)

end Sys2Proof.Machine
end

