-- ==== Sys2Proof/Machine/AbacusForms.lean ====
section
/-! DEFINITION. Class 0x6: abacus registers (R272 to R275). -/

namespace Sys2Proof.Machine

/-- QCLR (R273): Zeroes an abacus register and its flags. -/
def execQclr (f : FmtA) (s : State) : Host.Outcome State Fault Refusal := runAbacus (ruleQclr f) f (effQclr f) s

/-- QADD (R273): Adds an FP32 or I32 term exactly to an abacus register. -/
def execQadd (f : FmtA) (s : State) : Host.Outcome State Fault Refusal := runAbacus (ruleQadd f) f (effQadd f) s

/-- QADD_SEG (R273): Adds a raw 32-bit segment at position k to an abacus value. -/
def execQaddSeg (f : FmtA) (s : State) : Host.Outcome State Fault Refusal :=
  runAbacus (ruleQaddSeg f) f (effQaddSeg f) s

/-- QMAC (R273): Adds an exact product to an abacus register. -/
def execQmac (f : FmtA) (s : State) : Host.Outcome State Fault Refusal := runAbacus (ruleQmac f) f (effQmac f) s

/-- QSCAN (R274): Reads and rounds the abacus value, then adds its own term. -/
def execQscan (f : FmtA) (s : State) : Host.Outcome State Fault Refusal := runAbacus (ruleQscan f) f (effQscan f) s

/-- QRND (R274): Rounds the abacus value once into a register. -/
def execQrnd (f : FmtA) (s : State) : Host.Outcome State Fault Refusal := runAbacus (ruleQrnd f) f (effQrnd f) s

/-- QMOV (R273): Copies one abacus register into another. -/
def execQmov (f : FmtA) (s : State) : Host.Outcome State Fault Refusal := runAbacus (ruleQmov f) f (effQmov f) s

/-- QMOV_SEG (R273): Writes one 32-bit segment of an abacus value to a register. -/
def execQmovSeg (f : FmtA) (s : State) : Host.Outcome State Fault Refusal :=
  runAbacus (ruleQmovSeg f) f (effQmovSeg f) s

/-- QFLAG (R273): Writes an abacus register's four sticky flags. -/
def execQflag (f : FmtA) (s : State) : Host.Outcome State Fault Refusal := runAbacus (ruleQflag f) f (effQflag f) s

end Sys2Proof.Machine
end

