-- ==== Sys2Proof/Machine/AtomicForms.lean ====
section
/-! DEFINITION. Class 0x9: atomics, counters and fences (R294 to R308). -/

namespace Sys2Proof.Machine

/-- ATOM (R297): Atomic read-modify-write at the performing unit that returns the old value. -/
def execAtom (f : FmtM) (s : State) : Host.Outcome State Fault Refusal :=
  runMem true (atomLane (atomOf f) true f s.issue.core) s

/-- CAS (R297): Atomic compare-and-swap on words that returns the old value. -/
def execCas (f : FmtM) (s : State) : Host.Outcome State Fault Refusal :=
  runMem true (atomLane .cas true f s.issue.core) s

/-- RED (R300): Posted atomic reduction with no returned value. -/
def execRed (f : FmtM) (s : State) : Host.Outcome State Fault Refusal :=
  runMem true (atomLane (atomOf f) false f s.issue.core) s

/-- LCWAIT (R306): Waits until a landing counter reaches a threshold or the timeout expires. -/
def execLcwait (f : FmtE) (s : State) : Host.Outcome State Fault Refusal :=
  runBundle false (cntWaitLane false f s.issue.core) s

/-- LCREAD (R307): Reads a landing counter into two registers. -/
def execLcread (f : FmtE) (s : State) : Host.Outcome State Fault Refusal :=
  runBundle false (lcreadLane f s.issue.core) s

/-- LCADD (R308): Adds a signed value to a landing counter's count, as a release at .de. -/
def execLcadd (f : FmtE) (s : State) : Host.Outcome State Fault Refusal := runBundle true (lcaddLane f s.issue.core) s

/-- TOWAIT (R306): Waits until a takeoff counter reaches a threshold or the timeout expires. -/
def execTowait (f : FmtE) (s : State) : Host.Outcome State Fault Refusal :=
  runBundle false (cntWaitLane true f s.issue.core) s

/-- FENCE (R302): Release, acquire or both at a scope, also waiting for the thread's CINV, CWB, stores and REDs. -/
def execFence (f : FmtM) (s : State) : Host.Outcome State Fault Refusal :=
  runBundle false (fenceLane f s.issue.core) s

end Sys2Proof.Machine
end

