-- ==== Sys2Proof/Machine/BitForms.lean ====
section
/-! DEFINITION. Class 0x2: shifts, logic and bit fields (R248 to R250). -/

namespace Sys2Proof.Machine

/-- SHL (R250): Logical shift left. -/
def execShl (f : FmtA) (s : State) : Host.Outcome State Fault Refusal := runLocal f.lit.isSome (laneShl f) s

/-- SHR (R250): Logical shift right. -/
def execShr (f : FmtA) (s : State) : Host.Outcome State Fault Refusal := runLocal f.lit.isSome (laneShr f) s

/-- SAR (R250): Arithmetic shift right. -/
def execSar (f : FmtA) (s : State) : Host.Outcome State Fault Refusal := runLocal f.lit.isSome (laneSar f) s

/-- DSH (R250): Double-word funnel shift, left or right. -/
def execDsh (f : FmtA) (s : State) : Host.Outcome State Fault Refusal := runLocal f.lit.isSome (laneDsh f) s

/-- AND (R250): Bitwise AND. -/
def execAnd (f : FmtA) (s : State) : Host.Outcome State Fault Refusal := runLocal f.lit.isSome (laneAnd f) s

/-- OR (R250): Bitwise OR. -/
def execOr (f : FmtA) (s : State) : Host.Outcome State Fault Refusal := runLocal f.lit.isSome (laneOr f) s

/-- XOR (R250): Bitwise XOR. -/
def execXor (f : FmtA) (s : State) : Host.Outcome State Fault Refusal := runLocal f.lit.isSome (laneXor f) s

/-- BOOL3 (R250): Three-input bitwise function given by a truth word. -/
def execBool3 (f : FmtA) (s : State) : Host.Outcome State Fault Refusal := runLocal f.lit.isSome (laneBool3 f) s

/-- PBOOL (R250): Three-input predicate function given by a truth word. -/
def execPbool (f : FmtA) (s : State) : Host.Outcome State Fault Refusal := runLocal f.lit.isSome (lanePbool f) s

/-- CLZ (R250): Counts leading zero bits. -/
def execClz (f : FmtA) (s : State) : Host.Outcome State Fault Refusal := runLocal f.lit.isSome (laneClz f) s

/-- CTZ (R250): Counts trailing zero bits. -/
def execCtz (f : FmtA) (s : State) : Host.Outcome State Fault Refusal := runLocal f.lit.isSome (laneCtz f) s

/-- POPC (R250): Counts one bits. -/
def execPopc (f : FmtA) (s : State) : Host.Outcome State Fault Refusal := runLocal f.lit.isSome (lanePopc f) s

/-- BREV (R250): Reverses the bits of a word. -/
def execBrev (f : FmtA) (s : State) : Host.Outcome State Fault Refusal := runLocal f.lit.isSome (laneBrev f) s

/-- BFX (R250): Extracts a bit field, sign- or zero-extended. -/
def execBfx (f : FmtA) (s : State) : Host.Outcome State Fault Refusal := runLocal f.lit.isSome (laneBfx f) s

/-- BFI (R250): Inserts a bit field. -/
def execBfi (f : FmtA) (s : State) : Host.Outcome State Fault Refusal := runLocal f.lit.isSome (laneBfi f) s

/-- BIL_2 (R250): Interleaves the bits of two sources. -/
def execBil2 (f : FmtA) (s : State) : Host.Outcome State Fault Refusal := runLocal f.lit.isSome (laneBil2 f) s

/-- BIL_3 (R250): Interleaves the bits of three sources. -/
def execBil3 (f : FmtA) (s : State) : Host.Outcome State Fault Refusal := runLocal f.lit.isSome (laneBil3 f) s

/-- BDL_2 (R250): De-interleaves a word into two registers. -/
def execBdl2 (f : FmtA) (s : State) : Host.Outcome State Fault Refusal := runLocal f.lit.isSome (laneBdl2 f) s

/-- BDL_3 (R250): De-interleaves a word into three registers. -/
def execBdl3 (f : FmtA) (s : State) : Host.Outcome State Fault Refusal := runLocal f.lit.isSome (laneBdl3 f) s

/-- BYSEL (R250): Selects and transforms bytes of a double word under control bytes. -/
def execBysel (f : FmtA) (s : State) : Host.Outcome State Fault Refusal := runLocal f.lit.isSome (laneBysel f) s

end Sys2Proof.Machine
end

