-- ==== Sys2Proof/Machine/Control.lean ====
section
/-! DEFINITION. Class 0x0: branches (R361 to R363), ending threads and pacing issue (R364, R365), convergence registers
and barriers (R366 to R370), launches and edges (R371 to R373). -/

namespace Sys2Proof.Machine

/-- BRA (R362): Unconditional-form branch by displacement; the guard decides per lane whether the branch is taken, and
the target is checked under steps 1 to 4 of Table 8.10. -/
def execBra (f : FmtB) (s : State) : Host.Outcome State Fault Refusal :=
  runBundle false (branchLane false false false f s.issue.core) s

/-- BRC (R362): Conditional branch by displacement that pushes the block's reconvergence point at every lane, taken or
not. -/
def execBrc (f : FmtB) (s : State) : Host.Outcome State Fault Refusal :=
  runBundle false (branchLane false true false f s.issue.core) s

/-- BRX (R362): Indexed branch to the address in a register pair that pushes the reconvergence point. -/
def execBrx (f : FmtB) (s : State) : Host.Outcome State Fault Refusal :=
  runBundle false (branchLane true true false f s.issue.core) s

/-- CALL (R362): Branch by displacement that writes the end of the current block to a link pair. -/
def execCall (f : FmtB) (s : State) : Host.Outcome State Fault Refusal :=
  runBundle false (branchLane false false true f s.issue.core) s

/-- CALLX (R362): Branch to a register-pair target that writes the end of the current block to a link pair. -/
def execCallx (f : FmtB) (s : State) : Host.Outcome State Fault Refusal :=
  runBundle false (branchLane true false true f s.issue.core) s

/-- RET (R362): Branch to the header address held in a register pair. -/
def execRet (f : FmtB) (s : State) : Host.Outcome State Fault Refusal :=
  runBundle false (branchLane true false false f s.issue.core) s

/-- EXIT (R364): Ends the thread, clears its decl bits and frees its slot, and reports any unreported failed posted
write as a LAUNCH record. -/
def execExit (f : FmtE) (s : State) : Host.Outcome State Fault Refusal := runEnd false f.guard s

/-- NOP (R365): Has no effect. -/
def execNop (f : FmtE) (s : State) : Host.Outcome State Fault Refusal :=
  runBundle false (paceLane f.guard nopThread s.issue.core) s

/-- YIELD (R365): Takes the thread out of READY for one clock and restarts its waiting time. -/
def execYield (f : FmtE) (s : State) : Host.Outcome State Fault Refusal :=
  runBundle false (paceLane f.guard yieldThread s.issue.core) s

/-- PAUSE (R365): Demotes the thread for 256 clocks. -/
def execPause (f : FmtE) (s : State) : Host.Outcome State Fault Refusal :=
  runBundle false (paceLane f.guard pauseThread s.issue.core) s

/-- SIGN (R367): Writes the declared lanes of a convergence register that have not yet signed. -/
def execSign (f : FmtE) (s : State) : Host.Outcome State Fault Refusal :=
  runBundle false (signReadLane f s.issue.core) s

/-- CVDECL (R173): Declares a convergence register's lanes as mask AND live, one lane at a time, or raises RENDEZVOUS
if signatures are pending. -/
def execCvdecl (f : FmtE) (s : State) : Host.Outcome State Fault Refusal :=
  runBundle false (cvdeclLane f s.issue.core) s

/-- CVWAIT (R367): Rendezvous that executes nothing beyond its firing. -/
def execCvwait (f : FmtE) (s : State) : Host.Outcome State Fault Refusal :=
  runSign (.cvwait f) f.guard f.cv.toNat [] s

/-- CVCLR (R173): Clears a convergence register unless signatures are pending. -/
def execCvclr (f : FmtE) (s : State) : Host.Outcome State Fault Refusal :=
  runBundle false (cvclrLane f s.issue.core) s

/-- BARA (R369): Rendezvous that makes the row arrive at the level-k barrier, as a release. -/
def execBara (f : FmtE) (s : State) : Host.Outcome State Fault Refusal := runSign (.bara f) f.guard f.cv.toNat [] s

/-- BARW (R369): Rendezvous that makes the row wait for its arrival's phase to complete, then acquire. -/
def execBarw (f : FmtE) (s : State) : Host.Outcome State Fault Refusal := runSign (.barw f) f.guard f.cv.toNat [] s

/-- BAR (R369): Barrier arrival followed by the wait, as one firing. -/
def execBar (f : FmtE) (s : State) : Host.Outcome State Fault Refusal := runSign (.bar f) f.guard f.cv.toNat [] s

/-- LAUNCH (R371): Reads a 256-byte launch record and submits it to the module launch router, writing the status word.
-/
def execLaunch (f : FmtE) (s : State) : Host.Outcome State Fault Refusal :=
  runBundle true (launchLane f s.issue.core) s

/-- EPUSH (R372): Pushes a 64-bit token into an out-edge, waiting while the edge is full. -/
def execEpush (f : FmtE) (s : State) : Host.Outcome State Fault Refusal :=
  runBundle true (epushLane f s.issue.core) s

/-- EPOP (R372): Reads the token that spawned the gang from an in-edge and frees its slot at the first pop. -/
def execEpop (f : FmtE) (s : State) : Host.Outcome State Fault Refusal := runBundle true (epopLane f s.issue.core) s

end Sys2Proof.Machine
end

