-- ==== Sys2Proof/Machine/CrossLane.lean ====
section
/-! DEFINITION. Class 0x3: cross-lane instructions, plain and in their .cv forms (R251 to R255). -/

namespace Sys2Proof.Machine

/-- PERMX (R254): Plain cross-lane permute over the issuing bundle, with fill and a found predicate. -/
def execPermx (f : FmtA) (s : State) : Host.Outcome State Fault Refusal :=
  runCross (crossPermx false f) f.guard f.lit.isSome s

/-- PERMX_CV (R254): Cross-lane permute as a rendezvous on a convergence register. -/
def execPermxCv (f : FmtA) (s : State) : Host.Outcome State Fault Refusal :=
  runSign (.permxCv f) f.guard f.var.toNat (aSrcs (rulePermx true f) f) s

/-- BALLOT (R254): Plain ballot of a predicate over the bundle. -/
def execBallot (f : FmtA) (s : State) : Host.Outcome State Fault Refusal :=
  runCross (crossBallot f) f.guard f.lit.isSome s

/-- BALLOT_CV (R254): Ballot of a predicate as a rendezvous. -/
def execBallotCv (f : FmtA) (s : State) : Host.Outcome State Fault Refusal :=
  runSign (.ballotCv f) f.guard f.var.toNat (aSrcs (ruleBallot true f) f) s

/-- VOTE (R254): Plain all, any or same vote over the bundle. -/
def execVote (f : FmtA) (s : State) : Host.Outcome State Fault Refusal :=
  runCross (crossVote f) f.guard f.lit.isSome s

/-- VOTE_CV (R254): Vote as a rendezvous. -/
def execVoteCv (f : FmtA) (s : State) : Host.Outcome State Fault Refusal :=
  runSign (.voteCv f) f.guard f.var.toNat (aSrcs (ruleVote true f) f) s

/-- MATCH (R254): Plain mask of the bundle's lanes holding an equal word. -/
def execLaneMatch (f : FmtA) (s : State) : Host.Outcome State Fault Refusal :=
  runCross (crossMatch false f) f.guard f.lit.isSome s

/-- MATCH_CV (R254): Match as a rendezvous. -/
def execLaneMatchCv (f : FmtA) (s : State) : Host.Outcome State Fault Refusal :=
  runSign (.laneMatchCv f) f.guard f.var.toNat (aSrcs (ruleMatch true f) f) s

/-- LSCAN (R255): Plain inclusive or exclusive scan over the bundle in ascending lane order. -/
def execLscan (f : FmtA) (s : State) : Host.Outcome State Fault Refusal :=
  runCross (crossLscan false f) f.guard f.lit.isSome s

/-- LSCAN_CV (R255): Scan as a rendezvous. -/
def execLscanCv (f : FmtA) (s : State) : Host.Outcome State Fault Refusal :=
  runSign (.lscanCv f) f.guard f.var.toNat (aSrcs (ruleLscan true f) f) s

/-- LRED (R255): Plain reduction over the bundle. -/
def execLred (f : FmtA) (s : State) : Host.Outcome State Fault Refusal :=
  runCross (crossLred false f) f.guard f.lit.isSome s

/-- LRED_CV (R255): Reduction as a rendezvous. -/
def execLredCv (f : FmtA) (s : State) : Host.Outcome State Fault Refusal :=
  runSign (.lredCv f) f.guard f.var.toNat (aSrcs (ruleLred true f) f) s

/-- ELECT (R254): Plain election of the lowest lane of the bundle. -/
def execElect (f : FmtA) (s : State) : Host.Outcome State Fault Refusal :=
  runCross (crossElect f) f.guard f.lit.isSome s

/-- ELECT_CV (R254): Election of the lowest lane as a rendezvous. -/
def execElectCv (f : FmtA) (s : State) : Host.Outcome State Fault Refusal :=
  runSign (.electCv f) f.guard f.var.toNat (aSrcs (ruleElect true f) f) s

end Sys2Proof.Machine
end

