-- ==== Sys2Proof/Machine/Engine.lean ====
section
/-! DEFINITION. Class 0x8: copies, chunk maps and rinks (R229 to R240). -/

namespace Sys2Proof.Machine

/-- COPY (R231): Submits a one-row transfer to a copy channel, waiting while it is BUSY. -/
def execCopy (f : FmtE) (s : State) : Host.Outcome State Fault Refusal :=
  runBundle true (copyLane (ruleCopy f) (copyTransfer f) f s.issue.core) s

/-- COPYX (R231): Submits a gather or scatter transfer to a copy channel. -/
def execCopyx (f : FmtE) (s : State) : Host.Outcome State Fault Refusal :=
  runBundle true (copyLane (ruleCopyx f) (copyxTransfer f) f s.issue.core) s

/-- CHAIN (R232): Starts a channel walking a chain of transfer records, as a release at .sy. -/
def execChain (f : FmtE) (s : State) : Host.Outcome State Fault Refusal := runBundle true (chainLane f s.issue.core) s

/-- CHSTAT (R233): Reads a channel register into two registers. -/
def execChstat (f : FmtE) (s : State) : Host.Outcome State Fault Refusal :=
  runBundle false (chstatLane f s.issue.core) s

/-- CMWAIT (R234): Waits until masked chunk-map bits are 1, or raises the map's fault code, then acquires. -/
def execCmwait (f : FmtE) (s : State) : Host.Outcome State Fault Refusal :=
  runBundle false (cmwaitLane f s.issue.core) s

/-- CMTEST (R235): Reads a quarter of a chunk map or its status word. -/
def execCmtest (f : FmtE) (s : State) : Host.Outcome State Fault Refusal :=
  runBundle false (cmtestLane f s.issue.core) s

/-- CMCLR (R236): Sets all bits of a chunk map to 1 and clears its code. -/
def execCmclr (f : FmtE) (s : State) : Host.Outcome State Fault Refusal := runBundle true (cmclrLane f s.issue.core) s

/-- RKINIT (R237): Configures a rink's base, stage size and stage count and frees every stage. -/
def execRkinit (f : FmtE) (s : State) : Host.Outcome State Fault Refusal :=
  runBundle true (rkinitLane f s.issue.core) s

/-- RKACQ (R238): Takes the stage at the producer index, waiting while it is not FREE. -/
def execRkacq (f : FmtE) (s : State) : Host.Outcome State Fault Refusal := runBundle true (rkacqLane f s.issue.core) s

/-- RKCOMMIT (R239): Commits an acquired stage, starting a copy into it or marking it FULL for length 0. -/
def execRkcommit (f : FmtE) (s : State) : Host.Outcome State Fault Refusal :=
  runBundle true (rkcommitLane f s.issue.core) s

/-- RKWAIT (R238): Takes the stage at the consumer index once FULL, or raises the copy's code if FAULTED. -/
def execRkwait (f : FmtE) (s : State) : Host.Outcome State Fault Refusal :=
  runBundle true (rkwaitLane f s.issue.core) s

/-- RKREL (R239): Frees a consumed or faulted stage. -/
def execRkrel (f : FmtE) (s : State) : Host.Outcome State Fault Refusal := runBundle true (rkrelLane f s.issue.core) s

end Sys2Proof.Machine
end

