-- ==== Sys2Proof/Machine/EventsCore.lean ====
section
/-! DEFINITION. Events of cores, matrix engines and copy channels. -/

namespace Sys2Proof.Machine

/-- RECONVERGENCE_TIMEOUT (R172): 1,024 clocks pass for a thread in RECONV and it returns to READY. -/
def execReconvergenceTimeout (core : Nat) (key : Nat) (s : State) : Host.Outcome State Fault Refusal :=
  happens s (reconvExpires s core key)

/-- FIRED_RENDEZVOUS_PROCEED (R175): A fired rendezvous that waited for a reservation entry, a bib or writable
destinations executes at its turn. -/
def execFiredRendezvousProceed (core : Nat) (row : Nat) (cv : Nat) (s : State) : Host.Outcome State Fault Refusal :=
  happens s (firedProceeds s core row cv)

/-- HANDLER_ENTRY (R375): In the clock after a policy fault under HANDLE, the thread enters its trap handler. -/
def execHandlerEntry (core : Nat) (key : Nat) (s : State) : Host.Outcome State Fault Refusal :=
  happens s (handlerEnters s core key)

/-- CHUNK_LAND (R151): Every byte of a chunk has landed and its map bit rises. -/
def execChunkLand (cluster : Nat) (ch : Nat) (chunk : Nat) (s : State) : Host.Outcome State Fault Refusal :=
  happens s (issueChunk s cluster ch chunk)

/-- TRANSFER_END (R147): A transfer's issued accesses are all done, releasing its map and ending normally or by fault.
-/
def execTransferEnd (cluster : Nat) (ch : Nat) (s : State) : Host.Outcome State Fault Refusal :=
  happens s (endTransfer s cluster ch)

/-- MATRIX_GRANT (R182): The arbiter grants the request of highest effective priority and the engine reads its lent
registers. -/
def execMatrixGrant (cluster : Nat) (s : State) : Host.Outcome State Fault Refusal := happens s (grant s cluster)

/-- PASS_COMPLETE (R287): A pass writes its 256 rounded elements, or writes nothing and records DATUM. -/
def execPassComplete (cluster : Nat) (s : State) : Host.Outcome State Fault Refusal := happens s (finishPass s cluster)

/-- TILE_OP_APPLY (R284): A lane tile operation reaches the head of its tile queue and is applied. -/
def execTileOpApply (cluster : Nat) (tile : Nat) (s : State) : Host.Outcome State Fault Refusal :=
  happens s (applyOp s cluster tile)

/-- COUNTER_REACHED (R306): A waited counter reaches its threshold and the waiting thread resumes with its acquire. -/
def execCounterReached (core : Nat) (key : Nat) (s : State) : Host.Outcome State Fault Refusal :=
  happens s (counterWake s core key)

/-- COUNTER_WAIT_TIMEOUT (R306): A counter wait's timeout expires and the predicate is cleared. -/
def execCounterWaitTimeout (core : Nat) (key : Nat) (s : State) : Host.Outcome State Fault Refusal :=
  happens s (counterExpire s core key)

/-- DEMOTION_EXPIRE (R169): A thread's 256-clock demotion ends. -/
def execDemotionExpire (core : Nat) (key : Nat) (s : State) : Host.Outcome State Fault Refusal :=
  happens s (demotionEnds s core key)

end Sys2Proof.Machine
end

