-- ==== Sys2Proof/Machine/EventsFabric.lean ====
section
/-! DEFINITION. Events of the collective engines, the pod links and the remote fabric. -/

namespace Sys2Proof.Machine

/-- GATE_FIRE (R345): An armed gate's counter is reached with no older version pending, and it fires as an acquire at
.sy. -/
def execGateFire (die : Nat) (slot : Nat) (s : State) : Host.Outcome State Fault Refusal :=
  happens s (fireGate s die slot)

/-- GATE_DONE (R346): Every access of a firing gate is performed and acknowledged. -/
def execGateDone (die : Nat) (slot : Nat) (s : State) : Host.Outcome State Fault Refusal :=
  happens s (gateDone s die slot)

/-- GATE_FAULT (R347): A firing gate's access fails and the gate becomes FAULTED. -/
def execGateFault (die : Nat) (slot : Nat) (s : State) : Host.Outcome State Fault Refusal :=
  happens s (gateFault s die slot)

/-- SIGNAL_RECEIVE (R346): A SIGNAL reaches its destination module and adds its value to the counter. -/
def execSignalReceive (src : Nat) (seq : Nat) (sig : Signal) (s : State) : Host.Outcome State Fault Refusal :=
  happens s (signalArrives s src seq sig)

/-- REDUCE_CHUNK_APPLY (R349): A REDUCE chunk arrives at the home module and is checked and applied whole, or refused.
-/
def execReduceChunkApply (die : Nat) (n : Nat) (s : State) : Host.Outcome State Fault Refusal :=
  happens s (tryChunk s die n)

/-- HEADCOUNT_COLLECT (R355): The coordinator starts a round, fixes the target roster and sends DRAIN. -/
def execHeadcountCollect (p : Nat) (i : Nat) (requests : List (Nat × Bool)) (s : State) :
    Host.Outcome State Fault Refusal :=
  happens s (collect s p i requests)

/-- DRAIN_RECEIVE (R355): A member receives DRAIN with the new version and target roster. -/
def execDrainReceive (p : Nat) (i : Nat) (ver : Nat) (roster : List Nat) (s : State) :
    Host.Outcome State Fault Refusal :=
  happens s (drainArrives s p i ver roster)

/-- PUBLISH_RECEIVE (R355): A member receives the new version and roster, writes them and arms its held gates. -/
def execPublishReceive (p : Nat) (i : Nat) (ver : Nat) (roster : List Nat) (s : State) :
    Host.Outcome State Fault Refusal :=
  happens s (publishArrives s p i ver roster)

/-- LINK_ARM (R100): Writing LK_CTL.arm moves an OFF or DOWN link to TRAIN. -/
def execLinkArm (k : Nat) (s : State) : Host.Outcome State Fault Refusal := happens s (writeArm s k)

/-- LINK_TRAINED (R100): Training completes and the link goes UP, or DOWN on a miswire. -/
def execLinkTrained (k : Nat) (farPos : Nat) (s : State) : Host.Outcome State Fault Refusal :=
  happens s (linkTrainedOf s k farPos)

/-- LINK_TRAIN_TIMEOUT (R100): 1 ms passes in TRAIN and the link goes DOWN. -/
def execLinkTrainTimeout (k : Nat) (s : State) : Host.Outcome State Fault Refusal := happens s (trainExpires s k)

/-- LINK_SILENCE_TIMEOUT (R100): Silence reaches 10 μs and the link goes DOWN. -/
def execLinkSilenceTimeout (k : Nat) (s : State) : Host.Outcome State Fault Refusal := happens s (silenceExpires s k)

/-- FLIT_RECEIVE (R98): A flit arrives, ending silence, and is delivered once in order or replayed on a CRC failure.
-/
def execFlitReceive (k : Nat) (f : Flit) (s : State) : Host.Outcome State Fault Refusal :=
  happens s (flitArrives s k f)

/-- HEARTBEAT (R101): A heartbeat flit is sent on VCM at least once every 1 μs. -/
def execHeartbeat (k : Nat) (s : State) : Host.Outcome State Fault Refusal := happens s (beat s k)

/-- POD_TRANSACTION_RECEIVE (R107): A sequenced pod transaction arrives, is checked, applied once and acknowledged. -/
def execPodTransactionReceive (src : Nat) (seq : Nat) (req : FabReq) (s : State) : Host.Outcome State Fault Refusal :=
  happens s (podTxn s src seq req)

/-- POD_ACK_RECEIVE (R107): A pod response acknowledges a transaction at its source. -/
def execPodAckReceive (src : Nat) (seq : Nat) (reply : FabReply) (s : State) : Host.Outcome State Fault Refusal :=
  happens s (podAck s src seq reply)

/-- MULTICAST_COPY_RECEIVE (R109): A multicast copy arrives and is delivered or discarded. -/
def execMulticastCopyReceive (src : Nat) (seq : Nat) (group : Nat) (req : FabReq) (s : State) :
    Host.Outcome State Fault Refusal :=
  happens s (podCopy s src seq group req)

/-- REMOTE_PACKET_RECEIVE (R117): A remote request packet is checked, placed, counted and acknowledged at the home. -/
def execRemotePacketReceive (src : Nat) (port : Nat) (pkt : RemotePacket) (s : State) :
    Host.Outcome State Fault Refusal :=
  happens s (remoteArrives s src port pkt)

/-- REMOTE_REPLY_RECEIVE (R114): The first reply or acknowledgement for a request identifier is delivered, later ones
discarded. -/
def execRemoteReplyReceive (id : Nat) (reply : FabReply) (s : State) : Host.Outcome State Fault Refusal :=
  happens s (remoteReply s id reply)

/-- REMOTE_FORCED_SEND (R115): A request held 0.5 ms by its window is sent outside the window. -/
def execRemoteForcedSend (id : Nat) (s : State) : Host.Outcome State Fault Refusal := happens s (forceRemote s id)

/-- REMOTE_ACK_TIMEOUT (R116): A remote request without acknowledgement 1.5 ms after first transmission fails with
PEER_DEAD. -/
def execRemoteAckTimeout (id : Nat) (s : State) : Host.Outcome State Fault Refusal := happens s (remoteExpires s id)

/-- PACKET_RETRANSMISSION (R114): An Ultra Ethernet port retransmits an unacknowledged or trimmed remote request
packet under its retransmission state. -/
def execPacketRetransmission (id : Nat) (s : State) : Host.Outcome State Fault Refusal := happens s (retransmit s id)

/-- LANE_SPARE (R99): A lane crosses the FEC error threshold and the spare takes its place. -/
def execLaneSpare (k : Nat) (lane : Nat) (s : State) : Host.Outcome State Fault Refusal :=
  happens s (spareLane s k lane)

/-- SPARE_COMPLETE (R99): The swap completes and held flits are replayed in order. -/
def execSpareComplete (k : Nat) (s : State) : Host.Outcome State Fault Refusal := happens s (spareDone s k)

/-- RETRAIN_COMPLETE (R100): Retraining completes and the link returns to UP. -/
def execRetrainComplete (k : Nat) (s : State) : Host.Outcome State Fault Refusal := happens s (retrained s k)

/-- PEER_REVIVE (R103): Writing PF_CTL.revive moves a DEAD position to OFF. -/
def execPeerRevive (bits : BitVec 16) (s : State) : Host.Outcome State Fault Refusal :=
  happens s (regWrite s 0 0x200010 (bits.setWidth 64) true)

/-- DEATH_NOTICE (R104): A death notice sets a peer DEAD and is forwarded once. -/
def execDeathNotice (k : Nat) (peer : Nat) (s : State) : Host.Outcome State Fault Refusal :=
  happens s (deathArrives s k peer)

/-- LINK_STATE_NOTICE (R102): A link-state notice is applied to the link map and forwarded once. -/
def execLinkStateNotice (k : Nat) (origin : Nat) (seq : Nat) (a : Nat) (b : Nat) (up : Bool) (s : State) :
    Host.Outcome State Fault Refusal :=
  happens s (noticeArrives s k origin seq a b up)

/-- TRAVERSE_FORWARD (R106): A relay forwards a traverse's second hop on VC1 through its crossbar alone. -/
def execTraverseForward (k : Nat) (m : Traverse) (s : State) : Host.Outcome State Fault Refusal :=
  happens s (forwardHop s k m.src m.msg)

/-- PUBLISH_ACK (R355): The coordinator receives a member's acknowledgement of a publish. -/
def execPublishAck (p : Nat) (i : Nat) (rank : Nat) (s : State) : Host.Outcome State Fault Refusal :=
  happens s (publishAcks s p i rank)

/-- DRAIN_REPORT (R355): A member reports having no old-version gate ARMED or FIRING. -/
def execDrainReport (p : Nat) (i : Nat) (w : DrainWord) (s : State) : Host.Outcome State Fault Refusal :=
  happens s (drainReports s p i w.rank w.done)

/-- APPLY_MAP_CLOSE (R350): A source's close notice frees an apply-map entry. -/
def execApplyMapClose (part : Nat) (group : Nat) (coll : Nat) (src : Nat) (seq : Nat) (s : State) :
    Host.Outcome State Fault Refusal :=
  happens s (closeNotice s part group coll src seq)

/-- ABORT_NOTICE (R353): An abort notice for a collective faults every unfinished gate of it with GEN_MISMATCH. -/
def execAbortNotice (part : Nat) (group : Nat) (coll : Nat) (s : State) : Host.Outcome State Fault Refusal :=
  happens s (abortGates s part group coll)

/-- GROUP_SLOT_WRITE (R354): A write of a group slot, accepted only while its round is IDLE and no gate is live. -/
def execGroupSlotWrite (p : Nat) (i : Nat) (off : Nat) (v : DWord) (pf0 : Bool) (s : State) :
    Host.Outcome State Fault Refusal :=
  happens s (if i < 256 then blockWrite s p (0x80000 + 0x18 * i + off) v pf0 else s)

end Sys2Proof.Machine
end

