-- ==== Sys2Proof/Machine/EventsHost.lean ====
section
/-! DEFINITION. Events of the host link: queues, SPDM, TDISP, BAR2, registers and power. -/

namespace Sys2Proof.Machine

/-- Q_TAIL (R426): The host writes a queue's tail register in plain PCIe mode to deliver posted entries. -/
def execQTail (fn : Nat) (q : Nat) (v : DWord) (s : State) : Host.Outcome State Fault Refusal :=
  happens s (if q < 9 then regWrite s fn (0x3008 + 0x20 * q) v true else s)

/-- BAR2_READ (R432): A host read through a VF's BAR2 aperture is translated and performed, or completed with an
error. -/
def execBar2Read (p : Nat) (off : Nat) (len : Nat) (inStream : Bool) (s : State) : Host.Outcome State Fault Refusal :=
  happens s (bar2Read s p off len inStream)

/-- BAR2_WRITE (R432): A host write through a VF's BAR2 aperture is translated and performed, or dropped and logged.
-/
def execBar2Write (p : Nat) (off : Nat) (bytes : List (Option Byte)) (inStream : Bool) (s : State) :
    Host.Outcome State Fault Refusal :=
  happens s (bar2Write s p off bytes inStream)

/-- HOST_COMPLETION (R125): A host completion arrives, raising HOST_UR or HOST_CA on error status. -/
def execHostCompletion (id : Nat) (status : HostStatus) (data : List Word) (s : State) :
    Host.Outcome State Fault Refusal :=
  happens s (hostCompletes s id status data)

/-- HOST_COMPLETION_TIMEOUT (R125): A host request's completion timeout expires and HOST_CA is raised. -/
def execHostCompletionTimeout (id : Nat) (s : State) : Host.Outcome State Fault Refusal := happens s (hostExpires s id)

/-- REGISTER_WRITE (R4): A write to a register with no row of its own, under its access codes. Without a value it is a
read of the register, for which the table has no row (DESIGN CHOICE, log entry 109). -/
def execRegisterWrite (fn : Nat) (off : Nat) (v : Option DWord) (inStream : Bool) (s : State) :
    Host.Outcome State Fault Refusal :=
  happens s (regAccess s fn off v inStream)

/-- GET_VERSION (R428): SPDM request served at a DOE mailbox. -/
def execGetVersion (fn : Nat) (msg : List Byte) (s : State) : Host.Outcome State Fault Refusal :=
  happens s (spdmVersion s fn msg)

/-- GET_CAPABILITIES (R428): SPDM request served at a DOE mailbox. -/
def execGetCapabilities (fn : Nat) (msg : List Byte) (s : State) : Host.Outcome State Fault Refusal :=
  happens s (spdmPlain s fn msg)

/-- NEGOTIATE_ALGORITHMS (R428): SPDM request served at a DOE mailbox. -/
def execNegotiateAlgorithms (fn : Nat) (msg : List Byte) (s : State) : Host.Outcome State Fault Refusal :=
  happens s (spdmPlain s fn msg)

/-- GET_DIGESTS (R428): SPDM request served at a DOE mailbox. -/
def execGetDigests (fn : Nat) (msg : List Byte) (s : State) : Host.Outcome State Fault Refusal :=
  happens s (spdmPlain s fn msg)

/-- GET_CERTIFICATE (R428): SPDM request served at a DOE mailbox. -/
def execGetCertificate (fn : Nat) (msg : List Byte) (s : State) : Host.Outcome State Fault Refusal :=
  happens s (spdmPlain s fn msg)

/-- CHALLENGE (R428): SPDM request served at a DOE mailbox. -/
def execChallenge (fn : Nat) (msg : List Byte) (s : State) : Host.Outcome State Fault Refusal :=
  happens s (spdmPlain s fn msg)

/-- GET_MEASUREMENTS (R428): SPDM request that returns the sixteen measurements. -/
def execGetMeasurements (fn : Nat) (msg : List Byte) (s : State) : Host.Outcome State Fault Refusal :=
  happens s (spdmMeasure s fn msg)

/-- KEY_EXCHANGE (R428): SPDM request that begins a session. -/
def execKeyExchange (fn : Nat) (msg : List Byte) (s : State) : Host.Outcome State Fault Refusal :=
  happens s (spdmExchange s fn msg)

/-- FINISH (R428): SPDM request that completes a session's establishment. -/
def execFinish (fn : Nat) (msg : List Byte) (s : State) : Host.Outcome State Fault Refusal :=
  happens s (spdmFinish s fn msg)

/-- END_SESSION (R428): SPDM request that ends a session. -/
def execEndSession (fn : Nat) (msg : List Byte) (s : State) : Host.Outcome State Fault Refusal :=
  happens s (spdmEnd s fn msg)

/-- LOCK_INTERFACE_REQUEST (R430): TDISP request that locks a VF's interface, the first one succeeding. -/
def execLockInterfaceRequest (vf : Nat) (_requester : Nat) (s : State) : Host.Outcome State Fault Refusal :=
  happens s (lockTdi s vf)

/-- START_INTERFACE_REQUEST (R430): A TDISP request moves a locked VF interface from CONFIG_LOCKED to RUN. -/
def execStartInterfaceRequest (vf : Nat) (s : State) : Host.Outcome State Fault Refusal := happens s (startTdi s vf)

/-- STOP_INTERFACE_REQUEST (R430): A TDISP request returns a VF interface from CONFIG_LOCKED, RUN or ERROR to
CONFIG_UNLOCKED. -/
def execStopInterfaceRequest (vf : Nat) (s : State) : Host.Outcome State Fault Refusal := happens s (stopTdi s vf)

/-- IDE_MAC_FAIL (R432): Received IDE data fails its MAC, so the data is discarded and bound TDIs enter ERROR. -/
def execIdeMacFail (vfs : List Nat) (s : State) : Host.Outcome State Fault Refusal := happens s (macFail s vfs)

/-- HX_ERR_CLEAR (R434): Writing 1 to HX_ERR.valid clears the recorded host-link error. -/
def execHxErrClear (fn : Nat) (s : State) : Host.Outcome State Fault Refusal :=
  happens s (regWrite s fn 0x2000 (w64 (2 ^ 31)) true)

/-- PW_CAP_WRITE (R435): A write of the host or BMC power cap register, ignored with bad_write when out of range. -/
def execPwCapWrite (bmc : Bool) (v : DWord) (s : State) : Host.Outcome State Fault Refusal :=
  happens s (capWrite s bmc v)

/-- CORE_CLOCK_STEP (R436): The device moves the core clock one 25 MHz step between 700 and 2,100 MHz to keep average
power within the effective cap, updating PW_NOW and PW_STATUS.capped. -/
def execCoreClockStep (up : Bool) (watts : Nat) (m : Meter) (s : State) : Host.Outcome State Fault Refusal :=
  happens s (clockStep s up watts m)

/-- CORE_FLAGGED_HOT (R400): A core's temperature crosses PW_HOT.hot, and the thermal monitor sets or clears its hot
flag and PW_STATUS.hot. -/
def execCoreFlaggedHot (core : Nat) (temp : Nat) (s : State) : Host.Outcome State Fault Refusal :=
  happens s (flagHot s core temp)

/-- CONFIGURATION_REQUEST (R438): A PCIe configuration request reaches a function and is answered with Request Retry
Status until bring-up step 5 ends, and served afterwards. -/
def execConfigurationRequest (r : ConfigRequest) (s : State) : Host.Outcome State Fault Refusal :=
  happens s (configRequest s r)

/-- RING_SNOOP (R426): In CXL mode a host write to a queue ring line reaches the proctor through a snoop. -/
def execRingSnoop (fn : Nat) (q : Nat) (s : State) : Host.Outcome State Fault Refusal := happens s (ringSeen s fn q)

/-- VF_FLR (R438): A Function Level Reset of a VF acts as RESET_PARTITION and unlocks its TDI. -/
def execVfFlr (p : Nat) (s : State) : Host.Outcome State Fault Refusal := happens s (vfReset s p)

/-- THERMAL_TRIP (R436): A sensor reaches the trip temperature and the clock is held at 700 MHz. -/
def execThermalTrip (s : State) : Host.Outcome State Fault Refusal := happens s (thermalTrip s)

/-- THERMAL_TRIP_CLEAR (R436): Every sensor falls 5 °C below trip and the clock is released. -/
def execThermalTripClear (s : State) : Host.Outcome State Fault Refusal := happens s (thermalClear s)

end Sys2Proof.Machine
end

