-- ==== Sys2Proof/Machine/EventsMemory.lean ====
section
/-! DEFINITION. Events of accesses, caches, main memory and translation. -/

namespace Sys2Proof.Machine

/-- LOAD_FILL (R219): Load data arrives, is checked at the lane and fills the destination registers. -/
def execLoadFill (id : Nat) (evict : List Nat) (s : State) : Host.Outcome State Fault Refusal :=
  happens s (loadFills s id evict)

/-- REFETCH (R26): The reply to a refetch after a code mismatch arrives and is used or raises DATUM. -/
def execRefetch (id : Nat) (s : State) : Host.Outcome State Fault Refusal := happens s (refetches s id)

/-- ATOMIC_REPLY (R297): The old value of an ATOM or CAS returns and fills its destinations. -/
def execAtomicReply (id : Nat) (s : State) : Host.Outcome State Fault Refusal := happens s (atomReplies s id)

/-- SLICE_REQUEST (R130): A request reaches its home L2 slice and is performed there, including sub-word merges and
atomics. -/
def execSliceRequest (id : Nat) (s : State) : Host.Outcome State Fault Refusal := happens s (sliceActs s id)

/-- FILL (R48): The tile engine brings a tile into the L2 after binding, tag and version checks. -/
def execFill (tile : Nat) (way : Nat) (s : State) : Host.Outcome State Fault Refusal := happens s (fillActs s tile way)

/-- SEAL (R51): The tile engine writes a tile back, raising its minor and storing it as a data or zero tile. -/
def execSeal (tile : Nat) (evict : BitVec 8) (s : State) : Host.Outcome State Fault Refusal :=
  happens s (sealActs s tile evict)

/-- METADATA_WRITEBACK (R45): A changed version block or tree node is evicted from the version cache and written back,
raising its parent counter. -/
def execMetadataWriteback (die : Nat) (unit : Nat) (s : State) : Host.Outcome State Fault Refusal :=
  happens s (writeBack s die unit)

/-- TRANSLATION_WALK (R80): The die walker takes a queued walk and reads up to five table entries. -/
def execTranslationWalk (id : Nat) (s : State) : Host.Outcome State Fault Refusal := happens s (walkActs s id)

/-- XL_INVAL (R83): A write to XL_INVAL starts a shootdown of a range, or is ignored and flagged. -/
def execXlInval (p : Nat) (v : DWord) (pf0 : Bool) (s : State) : Host.Outcome State Fault Refusal :=
  happens s (blockWrite s p 0x10 v pf0)

/-- SHOOTDOWN_COMPLETE (R83): Every access translated through a discarded translation is done and busy clears. -/
def execShootdownComplete (p : Nat) (s : State) : Host.Outcome State Fault Refusal := happens s (shootDone s p)

/-- SOFT_ERROR (R20): A bit of a stored word or code flips of itself in a register, SRAM, cache, link or HBM, leaving
a datum whose code mismatches. -/
def execSoftError (loc : ErrLoc) (bit : Nat) (s : State) : Host.Outcome State Fault Refusal :=
  happens s (softError s loc bit)

/-- PL_LIMIT_WRITE (R139): The hypervisor writes a partition's limit register, ignored if invalid. -/
def execPlLimitWrite (p : Nat) (v : DWord) (s : State) : Host.Outcome State Fault Refusal :=
  happens s (if p < 16 then regWrite s 0 (8 * p) v true else s)

/-- XL_REGION_WRITE (R70): A write of a region table entry is checked and installed in every core's region copy, or
ignored with bad_write. -/
def execXlRegionWrite (p : Nat) (i : Nat) (v : DWord) (pf0 : Bool) (s : State) : Host.Outcome State Fault Refusal :=
  happens s (if i < 64 then blockWrite s p (0x100 + 8 * i) v pf0 else s)

end Sys2Proof.Machine
end

