-- ==== Sys2Proof/Machine/EventsProctor.lean ====
section
/-! DEFINITION. Commands that the proctor runs (Table 19.3), and module resets. -/

namespace Sys2Proof.Machine

/-- BIND_FRAME (R57): Proctor command that binds a frame to a key slot at the major above the slot's floor. -/
def execBindFrame (c : Cmd) (s : State) : Host.Outcome State Fault Refusal := happens s (bindCmd s c)

/-- BIND_FRAME_PROCEED (R57): Once fills and seals in flight end, the bind sets the version block, invalidates the
frame's lines and reports completion. -/
def execBindFrameProceed (frame : Nat) (s : State) : Host.Outcome State Fault Refusal := happens s (bindProceed s frame)

/-- UNBIND_FRAME (R58): Proctor command that clears a frame's binding and invalidates its lines without writeback. -/
def execUnbindFrame (c : Cmd) (s : State) : Host.Outcome State Fault Refusal := happens s (unbindCmd s c)

/-- KEY_LOAD (R422): Proctor command that loads a key into a slot, sets its generation, derives the data key and
returns a handle. -/
def execKeyLoad (c : Cmd) (s : State) : Host.Outcome State Fault Refusal := happens s (keyLoadCmd s c)

/-- KEY_FREE (R425): Proctor command that writes back the slot's lines, erases the key and empties the slot. -/
def execKeyFree (c : Cmd) (s : State) : Host.Outcome State Fault Refusal := happens s (keyFreeCmd s c)

/-- PART_CREATE (R427): Proctor command that creates a partition and grants its key slots, clusters and landing
blocks. -/
def execPartCreate (c : Cmd) (_ : OperandBy) (s : State) : Host.Outcome State Fault Refusal :=
  happens s (partCreateCmd s c)

/-- PART_DESTROY (R427): Proctor command that tears down a partition and frees its frames, slots, grants and groups.
-/
def execPartDestroy (c : Cmd) (s : State) : Host.Outcome State Fault Refusal := happens s (partDestroyCmd s c)

/-- RANK_TABLE_LOAD (R92): Proctor command that checks and loads a partition's rank table image. -/
def execRankTableLoad (c : Cmd) (s : State) : Host.Outcome State Fault Refusal := happens s (rankTableCmd s c)

/-- FREEZE_RELEASE (R416): Proctor command that releases a frozen core, copy channel, collective engine or host
function. -/
def execFreezeRelease (c : Cmd) (s : State) : Host.Outcome State Fault Refusal := happens s (freezeReleaseCmd s c)

/-- RESET_PARTITION (R427): Proctor command that tears down every launch of a partition and leaves its resources in
place. -/
def execResetPartition (c : Cmd) (s : State) : Host.Outcome State Fault Refusal := happens s (resetPartCmd s c)

/-- LAUNCH_QUEUE_ENTRY (R426): The proctor processes a host launch-queue entry and writes its LAUNCH status. -/
def execLaunchQueueEntry (c : Cmd) (q : Nat) (s : State) : Host.Outcome State Fault Refusal :=
  happens s (launchEntry s c q)

/-- ATTEST (R429): Proctor command that writes a signed attestation report. -/
def execAttest (c : Cmd) (_ : OperandBy) (s : State) : Host.Outcome State Fault Refusal :=
  happens s (attestCmd s c)

/-- LIFECYCLE (R437): Proctor command that moves the life-cycle state under a signed token and wipes the module. -/
def execLifecycle (c : Cmd) (_ : OperandBy) (s : State) : Host.Outcome State Fault Refusal :=
  happens s (lifecycleCmd s c)

/-- POWER_CAP (R427): Proctor command that writes the host power cap and window. -/
def execPowerCap (c : Cmd) (s : State) : Host.Outcome State Fault Refusal := happens s (powerCapCmd s c)

/-- MODULE_RESET (R438): Power-on, PERST# or PF0 FLR starts bring-up: proctor start, self-test, HBM training, wipe and
host-link configuration. -/
def execModuleReset (pos : Nat) (cxl : Bool) (selfTest : Bool) (s : State) : Host.Outcome State Fault Refusal :=
  happens s (resetModule s pos cxl selfTest)

/-- GROUP_TABLE_SET (R108): Proctor command that sets a multicast group table entry. -/
def execGroupTableSet (c : Cmd) (s : State) : Host.Outcome State Fault Refusal := happens s (groupTableCmd s c)

/-- WIPE_COMPLETE (R63): The reset wipe finishes and TE_STATUS.wiping clears. -/
def execWipeComplete (s : State) : Host.Outcome State Fault Refusal := happens s (wipeDone s)

/-- POWER_REMOVAL (R438): Power is removed and the device loses every state except its one-time fuses. -/
def execPowerRemoval (s : State) : Host.Outcome State Fault Refusal := happens s (powerOff s)

end Sys2Proof.Machine
end

