-- ==== Sys2Proof/Machine/EventsSched.lean ====
section
/-! DEFINITION. Events of fault queues, the router and context switches. -/

namespace Sys2Proof.Machine

/-- FAULT_BATCH_WRITE (R409): A waiting batch of fault records is written to the queue once it has room. -/
def execFaultBatchWrite (p : Nat) (s : State) : Host.Outcome State Fault Refusal := happens s (writeBatch s p)

/-- RESUME_REPLAY (R411): FQ_RESUME with action REPLAY makes threads parked on a record issue the faulting instruction
again. -/
def execResumeReplay (p : Nat) (rseq : Nat) (s : State) : Host.Outcome State Fault Refusal :=
  happens s (blockWrite s p 0x20020 (resumeWord 0 rseq) false)

/-- RESUME_DELIVER (R411): FQ_RESUME with action DELIVER handles a record's fault under the launch policy. -/
def execResumeDeliver (p : Nat) (rseq : Nat) (s : State) : Host.Outcome State Fault Refusal :=
  happens s (blockWrite s p 0x20020 (resumeWord 1 rseq) false)

/-- RESUME_KILL (R411): FQ_RESUME with action KILL ends the parked threads as KILL does. -/
def execResumeKill (p : Nat) (rseq : Nat) (s : State) : Host.Outcome State Fault Refusal :=
  happens s (blockWrite s p 0x20020 (resumeWord 2 rseq) false)

/-- WORLD_SCRUB (R424): A core scrubs a world's registers, scratchpad, engine state and L1 lines before another launch
or when idle. -/
def execWorldScrub (core : Nat) (s : State) : Host.Outcome State Fault Refusal := happens s (scrubCore s core)

/-- LAUNCH_RECORD_ACCEPT (R382): The router checks a launch record in order and accepts or refuses it. -/
def execLaunchRecordAccept (s : State) : Host.Outcome State Fault Refusal := happens s (acceptRecord s)

/-- GANG_DISPATCH (R390): The router places the first placeable waiting gang whole on cores. -/
def execGangDispatch (p : Nat) (cores : List Nat) (s : State) : Host.Outcome State Fault Refusal :=
  happens s (dispatchNext s p cores)

/-- GANG_COMPLETE (R386): A gang node's threads have ended and their accesses are performed, a release at its scope.
-/
def execGangComplete (seq : Nat) (gang : Nat) (s : State) : Host.Outcome State Fault Refusal :=
  happens s (completeGang s seq gang)

/-- LAUNCH_COMPLETE (R386): A launch completes and the proctor writes its completion word. -/
def execLaunchComplete (seq : Nat) (s : State) : Host.Outcome State Fault Refusal := happens s (completeLaunch s seq)

/-- PREEMPT (R397): The router pre-empts a top-level gang and its cores stop issuing. -/
def execPreempt (p : Nat) (s : State) : Host.Outcome State Fault Refusal := happens s (preemptFor s p)

/-- CONTEXT_SAVE (R413): After the halt and the waits, a gang's state is saved to the pool as a release at .sy. -/
def execContextSave (seq : Nat) (gang : Nat) (s : State) : Host.Outcome State Fault Refusal :=
  happens s (contextSaveOf s seq gang)

/-- RESTORE (R415): A saved gang is placed whole again and its state returned, as an acquire at .sy. -/
def execRestore (seq : Nat) (gang : Nat) (cores : List Nat) (s : State) : Host.Outcome State Fault Refusal :=
  happens s (restoreGang s seq gang cores)

/-- THERMAL_MIGRATE (R400): A gang on a hot core is pre-empted and restored on cool cores of the same die. -/
def execThermalMigrate (core : Nat) (cores : List Nat) (s : State) : Host.Outcome State Fault Refusal :=
  happens s (thermalMove s core cores)

/-- RESUME_RESERVED (R411): FQ_RESUME with action 3 changes nothing and sets bad_resume. -/
def execResumeReserved (p : Nat) (rseq : Nat) (s : State) : Host.Outcome State Fault Refusal :=
  happens s (blockWrite s p 0x20020 (resumeWord 3 rseq) false)

/-- FQ_CONS (R409): The driver writes FQ_CONS to consume fault records, ignored if it would overfill the count. -/
def execFqCons (p : Nat) (v : DWord) (s : State) : Host.Outcome State Fault Refusal :=
  happens s (blockWrite s p 0x20010 v false)

/-- FQ_CTL (R409): The driver writes FQ_CTL.enable, letting waiting batches be written. -/
def execFqCtl (p : Nat) (v : DWord) (s : State) : Host.Outcome State Fault Refusal :=
  happens s (blockWrite s p 0x20018 v false)

end Sys2Proof.Machine
end

