-- ==== Sys2Proof/Machine/Float.lean ====
section
/-! DEFINITION. Class 0x4: scalar floating point (R260 to R263). -/

namespace Sys2Proof.Machine

/-- FADD (R261): FP32 add, rounded once. -/
def execFadd (f : FmtA) (s : State) : Host.Outcome State Fault Refusal := runLocal f.lit.isSome (laneFadd f) s

/-- FSUB (R261): FP32 subtract, rounded once. -/
def execFsub (f : FmtA) (s : State) : Host.Outcome State Fault Refusal := runLocal f.lit.isSome (laneFsub f) s

/-- FMUL (R261): FP32 multiply, rounded once. -/
def execFmul (f : FmtA) (s : State) : Host.Outcome State Fault Refusal := runLocal f.lit.isSome (laneFmul f) s

/-- FFMA (R261): FP32 fused multiply-add with one rounding. -/
def execFfma (f : FmtA) (s : State) : Host.Outcome State Fault Refusal := runLocal f.lit.isSome (laneFfma f) s

/-- FMIN (R261): FP32 minimumNumber. -/
def execFmin (f : FmtA) (s : State) : Host.Outcome State Fault Refusal := runLocal f.lit.isSome (laneFmin f) s

/-- FMAX (R261): FP32 maximumNumber. -/
def execFmax (f : FmtA) (s : State) : Host.Outcome State Fault Refusal := runLocal f.lit.isSome (laneFmax f) s

/-- FCMP (R263): FP32 comparison that writes a predicate. -/
def execFcmp (f : FmtA) (s : State) : Host.Outcome State Fault Refusal := runLocal f.lit.isSome (laneFcmp f) s

/-- FCLASS (R263): Classifies an FP32 value into a one-hot word. -/
def execFclass (f : FmtA) (s : State) : Host.Outcome State Fault Refusal := runLocal f.lit.isSome (laneFclass f) s

/-- FRCP (R261): Correctly rounded reciprocal. -/
def execFrcp (f : FmtA) (s : State) : Host.Outcome State Fault Refusal := runLocal f.lit.isSome (laneFrcp f) s

/-- FRSQ (R261): Correctly rounded reciprocal square root. -/
def execFrsq (f : FmtA) (s : State) : Host.Outcome State Fault Refusal := runLocal f.lit.isSome (laneFrsq f) s

/-- FSQRT (R261): Correctly rounded square root. -/
def execFsqrt (f : FmtA) (s : State) : Host.Outcome State Fault Refusal := runLocal f.lit.isSome (laneFsqrt f) s

/-- FEXP2 (R261): Correctly rounded base-2 exponential. -/
def execFexp2 (f : FmtA) (s : State) : Host.Outcome State Fault Refusal := runLocal f.lit.isSome (laneFexp2 f) s

/-- FLOG2 (R261): Correctly rounded base-2 logarithm. -/
def execFlog2 (f : FmtA) (s : State) : Host.Outcome State Fault Refusal := runLocal f.lit.isSome (laneFlog2 f) s

/-- FSIN (R261): Correctly rounded sine. -/
def execFsin (f : FmtA) (s : State) : Host.Outcome State Fault Refusal := runLocal f.lit.isSome (laneFsin f) s

/-- FCOS (R261): Correctly rounded cosine. -/
def execFcos (f : FmtA) (s : State) : Host.Outcome State Fault Refusal := runLocal f.lit.isSome (laneFcos f) s

/-- FTANH (R261): Correctly rounded hyperbolic tangent. -/
def execFtanh (f : FmtA) (s : State) : Host.Outcome State Fault Refusal := runLocal f.lit.isSome (laneFtanh f) s

/-- FSCALE (R261): Multiplies by a power of two, rounded once. -/
def execFscale (f : FmtA) (s : State) : Host.Outcome State Fault Refusal := runLocal f.lit.isSome (laneFscale f) s

end Sys2Proof.Machine
end

