-- ==== Sys2Proof/Machine/Groups.lean ====
section
/-! DEFINITION. Class 0xB: gates and groups (R309 to R315). -/

namespace Sys2Proof.Machine

/-- GPOST (R310): Gives a gate entry to the die's collective engine and writes a handle or refusal. -/
def execGpost (f : FmtE) (s : State) : Host.Outcome State Fault Refusal := runBundle true (gpostLane f s.issue.core) s

/-- GCANCEL (R311): Cancels an ARMED gate and the ARMED gates after it in its course. -/
def execGcancel (f : FmtE) (s : State) : Host.Outcome State Fault Refusal :=
  runBundle true (gcancelLane f s.issue.core) s

/-- GSTAT (R311): Reads a gate word by handle. -/
def execGstat (f : FmtE) (s : State) : Host.Outcome State Fault Refusal := runBundle true (gstatLane f s.issue.core) s

/-- GJOIN (R312): Asks that the module's rank join a group at its next headcount round. -/
def execGjoin (f : FmtE) (s : State) : Host.Outcome State Fault Refusal :=
  runBundle true (joinLane true f s.issue.core) s

/-- GLEAVE (R312): Asks that the module's rank leave a group at its next headcount round. -/
def execGleave (f : FmtE) (s : State) : Host.Outcome State Fault Refusal :=
  runBundle true (joinLane false f s.issue.core) s

/-- GVER (R313): Reads a group's membership version and member count. -/
def execGver (f : FmtE) (s : State) : Host.Outcome State Fault Refusal := runBundle true (gverLane f s.issue.core) s

/-- RANKQ (R314): Resolves a rank without faulting and writes its class, position and host id. -/
def execRankq (f : FmtE) (s : State) : Host.Outcome State Fault Refusal := runBundle true (rankqLane f s.issue.core) s

end Sys2Proof.Machine
end

