-- ==== Sys2Proof/Machine/Integer.lean ====
section
/-! DEFINITION. Class 0x1: integer instructions (R246, R247). -/

namespace Sys2Proof.Machine

/-- IADD (R247): Integer add, wrapping or saturating. -/
def execIadd (f : FmtA) (s : State) : Host.Outcome State Fault Refusal := runLocal f.lit.isSome (laneIadd f) s

/-- IADDC (R247): 32-bit add with carry in and carry out through a predicate. -/
def execIaddc (f : FmtA) (s : State) : Host.Outcome State Fault Refusal := runLocal f.lit.isSome (laneIaddc f) s

/-- ISUB (R247): Integer subtract, wrapping or saturating. -/
def execIsub (f : FmtA) (s : State) : Host.Outcome State Fault Refusal := runLocal f.lit.isSome (laneIsub f) s

/-- ISUBB (R247): 32-bit subtract with borrow in and borrow out through a predicate. -/
def execIsubb (f : FmtA) (s : State) : Host.Outcome State Fault Refusal := runLocal f.lit.isSome (laneIsubb f) s

/-- IMUL (R247): Low 32 bits of a product. -/
def execImul (f : FmtA) (s : State) : Host.Outcome State Fault Refusal := runLocal f.lit.isSome (laneImul f) s

/-- IMULH (R247): High 32 bits of a signed or unsigned product. -/
def execImulh (f : FmtA) (s : State) : Host.Outcome State Fault Refusal := runLocal f.lit.isSome (laneImulh f) s

/-- IMAD (R247): 32-bit multiply-add. -/
def execImad (f : FmtA) (s : State) : Host.Outcome State Fault Refusal := runLocal f.lit.isSome (laneImad f) s

/-- IMADW (R247): Widening multiply-add into a 64-bit register pair. -/
def execImadw (f : FmtA) (s : State) : Host.Outcome State Fault Refusal := runLocal f.lit.isSome (laneImadw f) s

/-- IMIN (R247): Signed or unsigned minimum per element. -/
def execImin (f : FmtA) (s : State) : Host.Outcome State Fault Refusal := runLocal f.lit.isSome (laneImin f) s

/-- IMAX (R247): Signed or unsigned maximum per element. -/
def execImax (f : FmtA) (s : State) : Host.Outcome State Fault Refusal := runLocal f.lit.isSome (laneImax f) s

/-- IABS (R247): Absolute value, wrapping or saturating. -/
def execIabs (f : FmtA) (s : State) : Host.Outcome State Fault Refusal := runLocal f.lit.isSome (laneIabs f) s

/-- ICMP (R247): Integer comparison that writes a predicate. -/
def execIcmp (f : FmtA) (s : State) : Host.Outcome State Fault Refusal := runLocal f.lit.isSome (laneIcmp f) s

/-- SEL (R247): Selects one of two sources by a predicate, carrying the tag. -/
def execSel (f : FmtA) (s : State) : Host.Outcome State Fault Refusal := runLocal f.lit.isSome (laneSel f) s

/-- LEA64 (R247): Adds a scaled signed offset to a 64-bit address pair. -/
def execLea64 (f : FmtA) (s : State) : Host.Outcome State Fault Refusal := runLocal f.lit.isSome (laneLea64 f) s

/-- ADD64 (R247): 64-bit add of two register pairs. -/
def execAdd64 (f : FmtA) (s : State) : Host.Outcome State Fault Refusal := runLocal f.lit.isSome (laneAdd64 f) s

/-- MOV (R247): Copies a word, carrying its tag. -/
def execMov (f : FmtA) (s : State) : Host.Outcome State Fault Refusal := runLocal f.lit.isSome (laneMov f) s

/-- MOVL (R247): Copies a register pair or a 64-bit literal. -/
def execMovl (f : FmtA) (s : State) : Host.Outcome State Fault Refusal := runLocal f.lit.isSome (laneMovl f) s

end Sys2Proof.Machine
end

