-- ==== Sys2Proof/Machine/LoadStore.lean ====
section
/-! DEFINITION. Class 0x7: loads, stores, maintenance, probes and page requests (R216 to R228). -/

namespace Sys2Proof.Machine

/-- LD (R219): Loads words into registers, marking them empty at issue, with optional non-resident handling. -/
def execLd (f : FmtM) (s : State) : Host.Outcome State Fault Refusal :=
  runMem false (loadLane false none f s.issue.core) s

/-- LDA (R220): Load that acts as an acquire at the named scope. -/
def execLda (f : FmtM) (s : State) : Host.Outcome State Fault Refusal :=
  runMem false (loadLane false (some f.scope) f s.issue.core) s

/-- LDX (R220): Load served at the home, never from L1. -/
def execLdx (f : FmtM) (s : State) : Host.Outcome State Fault Refusal :=
  runMem false (loadLane true none f s.issue.core) s

/-- LDS (R219): Load from the gang's scratchpad. -/
def execLds (f : FmtM) (s : State) : Host.Outcome State Fault Refusal := runBundle false (ldsLane f s.issue.core) s

/-- ST (R222): Store of words or a sub-word with its code or partial code. -/
def execSt (f : FmtM) (s : State) : Host.Outcome State Fault Refusal :=
  runMem true (storeLane false none f s.issue.core) s

/-- STL (R223): Store that acts as a release at its scope and reports failed posted writes at .pd or .sy. -/
def execStl (f : FmtM) (s : State) : Host.Outcome State Fault Refusal :=
  runMem true (storeLane false (some f.scope) f s.issue.core) s

/-- STX (R223): Store written through to the home that discards the core's L1 copy. -/
def execStx (f : FmtM) (s : State) : Host.Outcome State Fault Refusal :=
  runMem true (storeLane true none f s.issue.core) s

/-- STS (R223): Store to the gang's scratchpad. -/
def execSts (f : FmtM) (s : State) : Host.Outcome State Fault Refusal := runBundle true (stsLane f s.issue.core) s

/-- PREF (R225): Prefetch of a sector that never faults. -/
def execPref (f : FmtM) (s : State) : Host.Outcome State Fault Refusal :=
  runMem false (maintLane .pref f s.issue.core) s

/-- CINV (R225): Invalidates a line in L1, writing back dirty L2 sectors for local addresses. -/
def execCinv (f : FmtM) (s : State) : Host.Outcome State Fault Refusal :=
  runMem false (maintLane .cinv f s.issue.core) s

/-- CWB (R225): Writes back dirty L2 sectors of a line, leaving them valid. -/
def execCwb (f : FmtM) (s : State) : Host.Outcome State Fault Refusal :=
  runMem false (maintLane .cwb f s.issue.core) s

/-- PROBE (R226): Reports in a word how a load of an address would translate. -/
def execProbe (f : FmtM) (s : State) : Host.Outcome State Fault Refusal := runMem false (probeLane f s.issue.core) s

/-- PGREQ (R227): Writes page-request records to the partition fault queue without parking. -/
def execPgreq (f : FmtM) (s : State) : Host.Outcome State Fault Refusal := runRequests f s

end Sys2Proof.Machine
end

