-- ==== Sys2Proof/Machine/MatrixForms.lean ====
section
/-! DEFINITION. Class 0xA: tiles and the matrix engine (R282 to R292). -/

namespace Sys2Proof.Machine

/-- TACQ (R285): Rendezvous that takes a tile's bib, zeroing the tile if it comes from another launch. -/
def execTacq (f : FmtE) (s : State) : Host.Outcome State Fault Refusal := runSign (.tacq f) f.guard f.cv.toNat [] s

/-- TREL (R286): Rendezvous that frees a tile's bib once its queue is empty. -/
def execTrel (f : FmtE) (s : State) : Host.Outcome State Fault Refusal := runSign (.trel f) f.guard f.cv.toNat [] s

/-- TZERO (R288): Enters a tile-zeroing operation into the tile queue. -/
def execTzero (f : FmtE) (s : State) : Host.Outcome State Fault Refusal :=
  runBundle false (tileLane [] f (effTzero f) s.issue.core) s

/-- MMA (R287): Rendezvous that enters a matrix pass and lends its fragment registers. -/
def execMma (f : FmtE) (s : State) : Host.Outcome State Fault Refusal :=
  runSign (.mma f) f.guard f.cv.toNat (eSrcs (ruleMma f) f) s

/-- MMAX (R287): Rendezvous that enters an MX-scaled matrix pass. -/
def execMmax (f : FmtE) (s : State) : Host.Outcome State Fault Refusal :=
  runSign (.mmax f) f.guard f.cv.toNat (eSrcs (ruleMmax f) f) s

/-- TREAD (R288): Enters a read of eight tile elements into registers, holding the thread until applied. -/
def execTread (f : FmtE) (s : State) : Host.Outcome State Fault Refusal :=
  runMem false (fun n => tileLane [] f (effTread f n) s.issue.core) s

/-- TWRITE (R288): Enters a write of eight registers into tile elements. -/
def execTwrite (f : FmtE) (s : State) : Host.Outcome State Fault Refusal :=
  runBundle false (tileLane (eSrcs (ruleTwrite f) f) f (effTwrite f) s.issue.core) s

/-- TCVT (R289): Enters a conversion of eight tile elements into narrow registers. -/
def execTcvt (f : FmtE) (s : State) : Host.Outcome State Fault Refusal :=
  runMem false (fun n => tileLane [] f (effTcvt f n) s.issue.core) s

/-- MWAIT (R290): Waits for the set's earlier tile operations and raises any tile fault code. -/
def execMwait (f : FmtE) (s : State) : Host.Outcome State Fault Refusal :=
  runBundle false (mwaitLane f s.issue.core) s

/-- MSTAT (R290): Reads a tile control word and its queue count. -/
def execMstat (f : FmtE) (s : State) : Host.Outcome State Fault Refusal :=
  runBundle false (mstatLane f s.issue.core) s

end Sys2Proof.Machine
end

