-- ==== Sys2Proof/Machine/Packed.lean ====
section
/-! DEFINITION. Class 0x5: packed floating point, dot products, conversions and tags (R264 to R271). -/

namespace Sys2Proof.Machine

/-- PKADD (R264): Packed 16-bit add per element. -/
def execPkadd (f : FmtA) (s : State) : Host.Outcome State Fault Refusal := runLocal f.lit.isSome (lanePkadd f) s

/-- PKMUL (R264): Packed 16-bit multiply per element. -/
def execPkmul (f : FmtA) (s : State) : Host.Outcome State Fault Refusal := runLocal f.lit.isSome (lanePkmul f) s

/-- PKFMA (R264): Packed 16-bit fused multiply-add per element. -/
def execPkfma (f : FmtA) (s : State) : Host.Outcome State Fault Refusal := runLocal f.lit.isSome (lanePkfma f) s

/-- PKMIN (R264): Packed 16-bit minimum per element. -/
def execPkmin (f : FmtA) (s : State) : Host.Outcome State Fault Refusal := runLocal f.lit.isSome (lanePkmin f) s

/-- PKMAX (R264): Packed 16-bit maximum per element. -/
def execPkmax (f : FmtA) (s : State) : Host.Outcome State Fault Refusal := runLocal f.lit.isSome (lanePkmax f) s

/-- CVT (R269): Converts one share of elements between numeric formats, with optional saturation and stochastic
rounding. -/
def execCvt (f : FmtA) (s : State) : Host.Outcome State Fault Refusal := runLocal f.lit.isSome (laneCvt f) s

/-- PACK (R271): Joins the low halves of two packed words. -/
def execPack (f : FmtA) (s : State) : Host.Outcome State Fault Refusal := runLocal f.lit.isSome (lanePack f) s

/-- UNPK (R271): Splits a packed word into two registers. -/
def execUnpk (f : FmtA) (s : State) : Host.Outcome State Fault Refusal := runLocal f.lit.isSome (laneUnpk f) s

/-- DOT2 (R266): Exact two-element dot product added to an FP32 accumulator with one rounding. -/
def execDot2 (f : FmtA) (s : State) : Host.Outcome State Fault Refusal := runLocal f.lit.isSome (laneDot2 f) s

/-- DOT4 (R266): Four-element dot product, float or integer. -/
def execDot4 (f : FmtA) (s : State) : Host.Outcome State Fault Refusal := runLocal f.lit.isSome (laneDot4 f) s

/-- DOT8 (R266): Eight-element dot product, float or integer. -/
def execDot8 (f : FmtA) (s : State) : Host.Outcome State Fault Refusal := runLocal f.lit.isSome (laneDot8 f) s

/-- TAGSET (R271): Relabels a word's format tag without converting it. -/
def execTagset (f : FmtA) (s : State) : Host.Outcome State Fault Refusal := runLocal f.lit.isSome (laneTagset f) s

/-- TAGGET (R271): Reads a register's format tag. -/
def execTagget (f : FmtA) (s : State) : Host.Outcome State Fault Refusal := runLocal f.lit.isSome (laneTagget f) s

end Sys2Proof.Machine
end

