-- ==== Sys2Proof/Machine/SystemForms.lean ====
section
/-! DEFINITION. Class 0xC: traps, special registers, the clock and marks (R374 to R378). -/

namespace Sys2Proof.Machine

/-- TRAP (R375): Raises TRAP with an 8-bit code. -/
def execTrap (f : FmtS) (s : State) : Host.Outcome State Fault Refusal :=
  runBundle false (trapLane fcTrap f s.issue.core) s

/-- BRK (R375): Raises BREAKPOINT with an 8-bit code. -/
def execBrk (f : FmtS) (s : State) : Host.Outcome State Fault Refusal :=
  runBundle false (trapLane fcBreak f s.issue.core) s

/-- ERET (R376): Leaves a trap handler, resuming at %epc or branching to a rewritten %epc. -/
def execEret (f : FmtS) (s : State) : Host.Outcome State Fault Refusal := runBundle false (eretLane f s.issue.core) s

/-- KILL (R364): Ends the thread as EXIT does and sets the launch's killed flag. -/
def execKill (f : FmtS) (s : State) : Host.Outcome State Fault Refusal := runEnd true f.guard s

/-- SREAD (R377): Reads a special register or thread and trap state. -/
def execSread (f : FmtS) (s : State) : Host.Outcome State Fault Refusal :=
  runBundle false (sreadLane f s.issue.core) s

/-- SWRITE (R377): Writes a writable thread or trap state register. -/
def execSwrite (f : FmtS) (s : State) : Host.Outcome State Fault Refusal :=
  runBundle false (swriteLane f s.issue.core) s

/-- CLOCK (R378): Reads the module clock count into a register pair. -/
def execClock (f : FmtS) (s : State) : Host.Outcome State Fault Refusal :=
  runBundle false (clockLane f s.issue.core) s

/-- PMARK (R378): Records a marker in the core's %pmark and counts it. -/
def execPmark (f : FmtS) (s : State) : Host.Outcome State Fault Refusal :=
  runBundle false (pmarkLane f s.issue.core) s

end Sys2Proof.Machine
end

