-- ==== Sys2Proof/Machine/Dispatch.lean ====
section
/-! DEFINITION. The one dispatch: each instruction and each event runs its meaning. -/

namespace Sys2Proof.Machine

open Sys2Proof

/-- One instruction or event. -/
def exec (i : Instr) (s : State) : Host.Outcome State Fault Refusal :=
  match i with
  | .bra f => Sys2Proof.Machine.execBra f s
  | .brc f => Sys2Proof.Machine.execBrc f s
  | .brx f => Sys2Proof.Machine.execBrx f s
  | .call f => Sys2Proof.Machine.execCall f s
  | .callx f => Sys2Proof.Machine.execCallx f s
  | .ret f => Sys2Proof.Machine.execRet f s
  | .exit f => Sys2Proof.Machine.execExit f s
  | .nop f => Sys2Proof.Machine.execNop f s
  | .yield f => Sys2Proof.Machine.execYield f s
  | .pause f => Sys2Proof.Machine.execPause f s
  | .sign f => Sys2Proof.Machine.execSign f s
  | .cvdecl f => Sys2Proof.Machine.execCvdecl f s
  | .cvwait f => Sys2Proof.Machine.execCvwait f s
  | .cvclr f => Sys2Proof.Machine.execCvclr f s
  | .bara f => Sys2Proof.Machine.execBara f s
  | .barw f => Sys2Proof.Machine.execBarw f s
  | .bar f => Sys2Proof.Machine.execBar f s
  | .launch f => Sys2Proof.Machine.execLaunch f s
  | .epush f => Sys2Proof.Machine.execEpush f s
  | .epop f => Sys2Proof.Machine.execEpop f s
  | .iadd f => Sys2Proof.Machine.execIadd f s
  | .iaddc f => Sys2Proof.Machine.execIaddc f s
  | .isub f => Sys2Proof.Machine.execIsub f s
  | .isubb f => Sys2Proof.Machine.execIsubb f s
  | .imul f => Sys2Proof.Machine.execImul f s
  | .imulh f => Sys2Proof.Machine.execImulh f s
  | .imad f => Sys2Proof.Machine.execImad f s
  | .imadw f => Sys2Proof.Machine.execImadw f s
  | .imin f => Sys2Proof.Machine.execImin f s
  | .imax f => Sys2Proof.Machine.execImax f s
  | .iabs f => Sys2Proof.Machine.execIabs f s
  | .icmp f => Sys2Proof.Machine.execIcmp f s
  | .sel f => Sys2Proof.Machine.execSel f s
  | .lea64 f => Sys2Proof.Machine.execLea64 f s
  | .add64 f => Sys2Proof.Machine.execAdd64 f s
  | .mov f => Sys2Proof.Machine.execMov f s
  | .movl f => Sys2Proof.Machine.execMovl f s
  | .shl f => Sys2Proof.Machine.execShl f s
  | .shr f => Sys2Proof.Machine.execShr f s
  | .sar f => Sys2Proof.Machine.execSar f s
  | .dsh f => Sys2Proof.Machine.execDsh f s
  | .and f => Sys2Proof.Machine.execAnd f s
  | .or f => Sys2Proof.Machine.execOr f s
  | .xor f => Sys2Proof.Machine.execXor f s
  | .bool3 f => Sys2Proof.Machine.execBool3 f s
  | .pbool f => Sys2Proof.Machine.execPbool f s
  | .clz f => Sys2Proof.Machine.execClz f s
  | .ctz f => Sys2Proof.Machine.execCtz f s
  | .popc f => Sys2Proof.Machine.execPopc f s
  | .brev f => Sys2Proof.Machine.execBrev f s
  | .bfx f => Sys2Proof.Machine.execBfx f s
  | .bfi f => Sys2Proof.Machine.execBfi f s
  | .bil2 f => Sys2Proof.Machine.execBil2 f s
  | .bil3 f => Sys2Proof.Machine.execBil3 f s
  | .bdl2 f => Sys2Proof.Machine.execBdl2 f s
  | .bdl3 f => Sys2Proof.Machine.execBdl3 f s
  | .bysel f => Sys2Proof.Machine.execBysel f s
  | .permx f => Sys2Proof.Machine.execPermx f s
  | .permxCv f => Sys2Proof.Machine.execPermxCv f s
  | .ballot f => Sys2Proof.Machine.execBallot f s
  | .ballotCv f => Sys2Proof.Machine.execBallotCv f s
  | .vote f => Sys2Proof.Machine.execVote f s
  | .voteCv f => Sys2Proof.Machine.execVoteCv f s
  | .laneMatch f => Sys2Proof.Machine.execLaneMatch f s
  | .laneMatchCv f => Sys2Proof.Machine.execLaneMatchCv f s
  | .lscan f => Sys2Proof.Machine.execLscan f s
  | .lscanCv f => Sys2Proof.Machine.execLscanCv f s
  | .lred f => Sys2Proof.Machine.execLred f s
  | .lredCv f => Sys2Proof.Machine.execLredCv f s
  | .elect f => Sys2Proof.Machine.execElect f s
  | .electCv f => Sys2Proof.Machine.execElectCv f s
  | .fadd f => Sys2Proof.Machine.execFadd f s
  | .fsub f => Sys2Proof.Machine.execFsub f s
  | .fmul f => Sys2Proof.Machine.execFmul f s
  | .ffma f => Sys2Proof.Machine.execFfma f s
  | .fmin f => Sys2Proof.Machine.execFmin f s
  | .fmax f => Sys2Proof.Machine.execFmax f s
  | .fcmp f => Sys2Proof.Machine.execFcmp f s
  | .fclass f => Sys2Proof.Machine.execFclass f s
  | .frcp f => Sys2Proof.Machine.execFrcp f s
  | .frsq f => Sys2Proof.Machine.execFrsq f s
  | .fsqrt f => Sys2Proof.Machine.execFsqrt f s
  | .fexp2 f => Sys2Proof.Machine.execFexp2 f s
  | .flog2 f => Sys2Proof.Machine.execFlog2 f s
  | .fsin f => Sys2Proof.Machine.execFsin f s
  | .fcos f => Sys2Proof.Machine.execFcos f s
  | .ftanh f => Sys2Proof.Machine.execFtanh f s
  | .fscale f => Sys2Proof.Machine.execFscale f s
  | .pkadd f => Sys2Proof.Machine.execPkadd f s
  | .pkmul f => Sys2Proof.Machine.execPkmul f s
  | .pkfma f => Sys2Proof.Machine.execPkfma f s
  | .pkmin f => Sys2Proof.Machine.execPkmin f s
  | .pkmax f => Sys2Proof.Machine.execPkmax f s
  | .cvt f => Sys2Proof.Machine.execCvt f s
  | .pack f => Sys2Proof.Machine.execPack f s
  | .unpk f => Sys2Proof.Machine.execUnpk f s
  | .dot2 f => Sys2Proof.Machine.execDot2 f s
  | .dot4 f => Sys2Proof.Machine.execDot4 f s
  | .dot8 f => Sys2Proof.Machine.execDot8 f s
  | .tagset f => Sys2Proof.Machine.execTagset f s
  | .tagget f => Sys2Proof.Machine.execTagget f s
  | .qclr f => Sys2Proof.Machine.execQclr f s
  | .qadd f => Sys2Proof.Machine.execQadd f s
  | .qaddSeg f => Sys2Proof.Machine.execQaddSeg f s
  | .qmac f => Sys2Proof.Machine.execQmac f s
  | .qscan f => Sys2Proof.Machine.execQscan f s
  | .qrnd f => Sys2Proof.Machine.execQrnd f s
  | .qmov f => Sys2Proof.Machine.execQmov f s
  | .qmovSeg f => Sys2Proof.Machine.execQmovSeg f s
  | .qflag f => Sys2Proof.Machine.execQflag f s
  | .ld f => Sys2Proof.Machine.execLd f s
  | .lda f => Sys2Proof.Machine.execLda f s
  | .ldx f => Sys2Proof.Machine.execLdx f s
  | .lds f => Sys2Proof.Machine.execLds f s
  | .st f => Sys2Proof.Machine.execSt f s
  | .stl f => Sys2Proof.Machine.execStl f s
  | .stx f => Sys2Proof.Machine.execStx f s
  | .sts f => Sys2Proof.Machine.execSts f s
  | .pref f => Sys2Proof.Machine.execPref f s
  | .cinv f => Sys2Proof.Machine.execCinv f s
  | .cwb f => Sys2Proof.Machine.execCwb f s
  | .probe f => Sys2Proof.Machine.execProbe f s
  | .pgreq f => Sys2Proof.Machine.execPgreq f s
  | .copy f => Sys2Proof.Machine.execCopy f s
  | .copyx f => Sys2Proof.Machine.execCopyx f s
  | .chain f => Sys2Proof.Machine.execChain f s
  | .chstat f => Sys2Proof.Machine.execChstat f s
  | .cmwait f => Sys2Proof.Machine.execCmwait f s
  | .cmtest f => Sys2Proof.Machine.execCmtest f s
  | .cmclr f => Sys2Proof.Machine.execCmclr f s
  | .rkinit f => Sys2Proof.Machine.execRkinit f s
  | .rkacq f => Sys2Proof.Machine.execRkacq f s
  | .rkcommit f => Sys2Proof.Machine.execRkcommit f s
  | .rkwait f => Sys2Proof.Machine.execRkwait f s
  | .rkrel f => Sys2Proof.Machine.execRkrel f s
  | .atom f => Sys2Proof.Machine.execAtom f s
  | .cas f => Sys2Proof.Machine.execCas f s
  | .red f => Sys2Proof.Machine.execRed f s
  | .lcwait f => Sys2Proof.Machine.execLcwait f s
  | .lcread f => Sys2Proof.Machine.execLcread f s
  | .lcadd f => Sys2Proof.Machine.execLcadd f s
  | .towait f => Sys2Proof.Machine.execTowait f s
  | .fence f => Sys2Proof.Machine.execFence f s
  | .tacq f => Sys2Proof.Machine.execTacq f s
  | .trel f => Sys2Proof.Machine.execTrel f s
  | .tzero f => Sys2Proof.Machine.execTzero f s
  | .mma f => Sys2Proof.Machine.execMma f s
  | .mmax f => Sys2Proof.Machine.execMmax f s
  | .tread f => Sys2Proof.Machine.execTread f s
  | .twrite f => Sys2Proof.Machine.execTwrite f s
  | .tcvt f => Sys2Proof.Machine.execTcvt f s
  | .mwait f => Sys2Proof.Machine.execMwait f s
  | .mstat f => Sys2Proof.Machine.execMstat f s
  | .gpost f => Sys2Proof.Machine.execGpost f s
  | .gcancel f => Sys2Proof.Machine.execGcancel f s
  | .gstat f => Sys2Proof.Machine.execGstat f s
  | .gjoin f => Sys2Proof.Machine.execGjoin f s
  | .gleave f => Sys2Proof.Machine.execGleave f s
  | .gver f => Sys2Proof.Machine.execGver f s
  | .rankq f => Sys2Proof.Machine.execRankq f s
  | .trap f => Sys2Proof.Machine.execTrap f s
  | .brk f => Sys2Proof.Machine.execBrk f s
  | .eret f => Sys2Proof.Machine.execEret f s
  | .kill f => Sys2Proof.Machine.execKill f s
  | .sread f => Sys2Proof.Machine.execSread f s
  | .swrite f => Sys2Proof.Machine.execSwrite f s
  | .clock f => Sys2Proof.Machine.execClock f s
  | .pmark f => Sys2Proof.Machine.execPmark f s
  | .reconvergenceTimeout core key => Sys2Proof.Machine.execReconvergenceTimeout core key s
  | .firedRendezvousProceed core row cv => Sys2Proof.Machine.execFiredRendezvousProceed core row cv s
  | .loadFill id evict => Sys2Proof.Machine.execLoadFill id evict s
  | .refetch id => Sys2Proof.Machine.execRefetch id s
  | .atomicReply id => Sys2Proof.Machine.execAtomicReply id s
  | .sliceRequest id => Sys2Proof.Machine.execSliceRequest id s
  | .fill tile way => Sys2Proof.Machine.execFill tile way s
  | .seal tile evict => Sys2Proof.Machine.execSeal tile evict s
  | .metadataWriteback die unit => Sys2Proof.Machine.execMetadataWriteback die unit s
  | .bindFrame c => Sys2Proof.Machine.execBindFrame c s
  | .bindFrameProceed frame => Sys2Proof.Machine.execBindFrameProceed frame s
  | .unbindFrame c => Sys2Proof.Machine.execUnbindFrame c s
  | .keyLoad c => Sys2Proof.Machine.execKeyLoad c s
  | .keyFree c => Sys2Proof.Machine.execKeyFree c s
  | .partCreate c o => Sys2Proof.Machine.execPartCreate c o s
  | .partDestroy c => Sys2Proof.Machine.execPartDestroy c s
  | .rankTableLoad c => Sys2Proof.Machine.execRankTableLoad c s
  | .freezeRelease c => Sys2Proof.Machine.execFreezeRelease c s
  | .resetPartition c => Sys2Proof.Machine.execResetPartition c s
  | .launchQueueEntry c q => Sys2Proof.Machine.execLaunchQueueEntry c q s
  | .qTail fn q v => Sys2Proof.Machine.execQTail fn q v s
  | .bar2Read p off len inStream => Sys2Proof.Machine.execBar2Read p off len inStream s
  | .bar2Write p off bytes inStream => Sys2Proof.Machine.execBar2Write p off bytes inStream s
  | .translationWalk id => Sys2Proof.Machine.execTranslationWalk id s
  | .xlInval p v pf0 => Sys2Proof.Machine.execXlInval p v pf0 s
  | .shootdownComplete p => Sys2Proof.Machine.execShootdownComplete p s
  | .faultBatchWrite p => Sys2Proof.Machine.execFaultBatchWrite p s
  | .resumeReplay p rseq => Sys2Proof.Machine.execResumeReplay p rseq s
  | .resumeDeliver p rseq => Sys2Proof.Machine.execResumeDeliver p rseq s
  | .resumeKill p rseq => Sys2Proof.Machine.execResumeKill p rseq s
  | .handlerEntry core key => Sys2Proof.Machine.execHandlerEntry core key s
  | .worldScrub core => Sys2Proof.Machine.execWorldScrub core s
  | .launchRecordAccept => Sys2Proof.Machine.execLaunchRecordAccept s
  | .gangDispatch p cores => Sys2Proof.Machine.execGangDispatch p cores s
  | .gangComplete seq gang => Sys2Proof.Machine.execGangComplete seq gang s
  | .launchComplete seq => Sys2Proof.Machine.execLaunchComplete seq s
  | .preempt p => Sys2Proof.Machine.execPreempt p s
  | .contextSave seq gang => Sys2Proof.Machine.execContextSave seq gang s
  | .restore seq gang cores => Sys2Proof.Machine.execRestore seq gang cores s
  | .thermalMigrate core cores => Sys2Proof.Machine.execThermalMigrate core cores s
  | .chunkLand cluster ch chunk => Sys2Proof.Machine.execChunkLand cluster ch chunk s
  | .transferEnd cluster ch => Sys2Proof.Machine.execTransferEnd cluster ch s
  | .matrixGrant cluster => Sys2Proof.Machine.execMatrixGrant cluster s
  | .passComplete cluster => Sys2Proof.Machine.execPassComplete cluster s
  | .tileOpApply cluster tile => Sys2Proof.Machine.execTileOpApply cluster tile s
  | .counterReached core key => Sys2Proof.Machine.execCounterReached core key s
  | .counterWaitTimeout core key => Sys2Proof.Machine.execCounterWaitTimeout core key s
  | .gateFire die slot => Sys2Proof.Machine.execGateFire die slot s
  | .gateDone die slot => Sys2Proof.Machine.execGateDone die slot s
  | .gateFault die slot => Sys2Proof.Machine.execGateFault die slot s
  | .signalReceive src seq sig => Sys2Proof.Machine.execSignalReceive src seq sig s
  | .reduceChunkApply die n => Sys2Proof.Machine.execReduceChunkApply die n s
  | .headcountCollect p ix requests => Sys2Proof.Machine.execHeadcountCollect p ix requests s
  | .drainReceive p ix ver roster => Sys2Proof.Machine.execDrainReceive p ix ver roster s
  | .publishReceive p ix ver roster => Sys2Proof.Machine.execPublishReceive p ix ver roster s
  | .linkArm k => Sys2Proof.Machine.execLinkArm k s
  | .linkTrained k farPos => Sys2Proof.Machine.execLinkTrained k farPos s
  | .linkTrainTimeout k => Sys2Proof.Machine.execLinkTrainTimeout k s
  | .linkSilenceTimeout k => Sys2Proof.Machine.execLinkSilenceTimeout k s
  | .flitReceive k f => Sys2Proof.Machine.execFlitReceive k f s
  | .heartbeat k => Sys2Proof.Machine.execHeartbeat k s
  | .podTransactionReceive src seq req => Sys2Proof.Machine.execPodTransactionReceive src seq req s
  | .podAckReceive src seq reply => Sys2Proof.Machine.execPodAckReceive src seq reply s
  | .multicastCopyReceive src seq group req => Sys2Proof.Machine.execMulticastCopyReceive src seq group req s
  | .remotePacketReceive src port pkt => Sys2Proof.Machine.execRemotePacketReceive src port pkt s
  | .remoteReplyReceive id reply => Sys2Proof.Machine.execRemoteReplyReceive id reply s
  | .remoteForcedSend id => Sys2Proof.Machine.execRemoteForcedSend id s
  | .remoteAckTimeout id => Sys2Proof.Machine.execRemoteAckTimeout id s
  | .hostCompletion id status data => Sys2Proof.Machine.execHostCompletion id status data s
  | .hostCompletionTimeout id => Sys2Proof.Machine.execHostCompletionTimeout id s
  | .registerWrite fn off v inStream => Sys2Proof.Machine.execRegisterWrite fn off v inStream s
  | .getVersion fn msg => Sys2Proof.Machine.execGetVersion fn msg s
  | .getCapabilities fn msg => Sys2Proof.Machine.execGetCapabilities fn msg s
  | .negotiateAlgorithms fn msg => Sys2Proof.Machine.execNegotiateAlgorithms fn msg s
  | .getDigests fn msg => Sys2Proof.Machine.execGetDigests fn msg s
  | .getCertificate fn msg => Sys2Proof.Machine.execGetCertificate fn msg s
  | .challenge fn msg => Sys2Proof.Machine.execChallenge fn msg s
  | .getMeasurements fn msg => Sys2Proof.Machine.execGetMeasurements fn msg s
  | .keyExchange fn msg => Sys2Proof.Machine.execKeyExchange fn msg s
  | .finish fn msg => Sys2Proof.Machine.execFinish fn msg s
  | .endSession fn msg => Sys2Proof.Machine.execEndSession fn msg s
  | .lockInterfaceRequest vf requester => Sys2Proof.Machine.execLockInterfaceRequest vf requester s
  | .startInterfaceRequest vf => Sys2Proof.Machine.execStartInterfaceRequest vf s
  | .stopInterfaceRequest vf => Sys2Proof.Machine.execStopInterfaceRequest vf s
  | .ideMacFail vfs => Sys2Proof.Machine.execIdeMacFail vfs s
  | .hxErrClear fn => Sys2Proof.Machine.execHxErrClear fn s
  | .pwCapWrite bmc v => Sys2Proof.Machine.execPwCapWrite bmc v s
  | .coreClockStep up watts m => Sys2Proof.Machine.execCoreClockStep up watts m s
  | .coreFlaggedHot core temp => Sys2Proof.Machine.execCoreFlaggedHot core temp s
  | .configurationRequest r => Sys2Proof.Machine.execConfigurationRequest r s
  | .softError loc bit => Sys2Proof.Machine.execSoftError loc bit s
  | .packetRetransmission id => Sys2Proof.Machine.execPacketRetransmission id s
  | .laneSpare k lane => Sys2Proof.Machine.execLaneSpare k lane s
  | .spareComplete k => Sys2Proof.Machine.execSpareComplete k s
  | .resumeReserved p rseq => Sys2Proof.Machine.execResumeReserved p rseq s
  | .ringSnoop fn q => Sys2Proof.Machine.execRingSnoop fn q s
  | .attest c o => Sys2Proof.Machine.execAttest c o s
  | .lifecycle c o => Sys2Proof.Machine.execLifecycle c o s
  | .powerCap c => Sys2Proof.Machine.execPowerCap c s
  | .vfFlr p => Sys2Proof.Machine.execVfFlr p s
  | .moduleReset pos cxl selfTest => Sys2Proof.Machine.execModuleReset pos cxl selfTest s
  | .retrainComplete k => Sys2Proof.Machine.execRetrainComplete k s
  | .peerRevive bits => Sys2Proof.Machine.execPeerRevive bits s
  | .deathNotice k peer => Sys2Proof.Machine.execDeathNotice k peer s
  | .linkStateNotice k origin seq a b up => Sys2Proof.Machine.execLinkStateNotice k origin seq a b up s
  | .traverseForward k m => Sys2Proof.Machine.execTraverseForward k m s
  | .groupTableSet c => Sys2Proof.Machine.execGroupTableSet c s
  | .demotionExpire core key => Sys2Proof.Machine.execDemotionExpire core key s
  | .publishAck p ix rank => Sys2Proof.Machine.execPublishAck p ix rank s
  | .drainReport p ix w => Sys2Proof.Machine.execDrainReport p ix w s
  | .applyMapClose part group coll src seq => Sys2Proof.Machine.execApplyMapClose part group coll src seq s
  | .abortNotice part group coll => Sys2Proof.Machine.execAbortNotice part group coll s
  | .plLimitWrite p v => Sys2Proof.Machine.execPlLimitWrite p v s
  | .xlRegionWrite p ix v pf0 => Sys2Proof.Machine.execXlRegionWrite p ix v pf0 s
  | .groupSlotWrite p ix off v pf0 => Sys2Proof.Machine.execGroupSlotWrite p ix off v pf0 s
  | .fqCons p v => Sys2Proof.Machine.execFqCons p v s
  | .fqCtl p v => Sys2Proof.Machine.execFqCtl p v s
  | .thermalTrip => Sys2Proof.Machine.execThermalTrip s
  | .thermalTripClear => Sys2Proof.Machine.execThermalTripClear s
  | .wipeComplete => Sys2Proof.Machine.execWipeComplete s
  | .powerRemoval => Sys2Proof.Machine.execPowerRemoval s

end Sys2Proof.Machine
end

