-- ==== Sys2Proof/Machine/Auto.lean ====
section
/-! DEFINITION. What a step comes to (log entry 1): what the agenda names, else what the part does of itself, in a
fixed order; and the placing of one instruction where the next step fetches. -/

namespace Sys2Proof.Machine

/-! ## The part's own events, in the order in which they are tried -/

def accessEvents (s : State) : List Instr :=
  (s.accesses.map fun a =>
    match a.stage with
    | .walk => [.translationWalk a.id]
    | .slice | .hold _ => [.sliceRequest a.id]
    | .reply _ _ => [.refetch a.id, .loadFill a.id [], .atomicReply a.id]
    | .probed _ | .failed _ => [.loadFill a.id []]
    | _ => []).flatten ++ ((s.walks.filter fun x => x.result.isNone).map fun x => .translationWalk x.id) ++
  s.fills.map fun f => Instr.fill f.tile anyWay

def threadEvents (s : State) : List Instr :=
  (s.cores.map fun c => (c.2.threads.map fun e =>
    match e.2.status with
    | .trapping => [.handlerEntry c.1 e.1]
    | .blocked (.counter _ _ _ _ _ _ _) => [.counterReached c.1 e.1, .counterWaitTimeout c.1 e.1]
    | .reconv _ _ => [.reconvergenceTimeout c.1 e.1]
    | _ => []).flatten).flatten

def rowEvents (s : State) : List Instr :=
  (s.cores.map fun c => (c.2.rows.map fun r => (r.2.cv.filter fun v => v.2.fired.isSome).map fun v =>
    Instr.firedRendezvousProceed c.1 r.1 v.1).flatten).flatten

def clusterEvents (s : State) : List Instr :=
  (s.clusters.map fun c =>
    [.passComplete c.1, .matrixGrant c.1] ++ (c.2.tiles.map fun t => Instr.tileOpApply c.1 t.1) ++
    (c.2.chans.map fun h => match h.2.work with
      | none => []
      | some w => .transferEnd c.1 h.1 :: match w.tr with
        | none => []
        | some t => ((List.range t.chunks).filter fun i => !w.issued.contains i || chunkHeld w i).map
            fun i => Instr.chunkLand c.1 h.1 i).flatten).flatten

def dieEvents (s : State) : List Instr :=
  (s.dies.map fun d => (d.2.gates.map fun g =>
    [Instr.gateFire d.1 g.1, .gateDone d.1 g.1, .gateFault d.1 g.1]).flatten ++
    (List.range d.2.staged.length).map fun n => Instr.reduceChunkApply d.1 n).flatten

/-- Fault queues, the router, shootdowns and groups of every partition. -/
def partEvents (s : State) : List Instr :=
  (((s.parts.map Prod.fst).filter fun p => p < 16).map fun p =>
    [Instr.faultBatchWrite p, .shootdownComplete p, .gangDispatch p []] ++
    (((s.part p).groups.filter fun g => g.2.round == 1 || !g.2.requests.isEmpty || !g.2.dead.isEmpty).map
      fun g => .headcountCollect p g.1 []) ++
    (((s.part p).groups.filter fun g => g.2.round == 2).map fun g => .drainReport p g.1 ⟨selfRank s p, true⟩)).flatten

def launchEvents (s : State) : List Instr :=
  (s.launches.map fun l => (l.2.gangs.map fun g => match g.state with
    | .placed _ => [Instr.gangComplete l.1 g.idx]
    | .halting _ => [.contextSave l.1 g.idx]
    | .saved _ _ _ => [.restore l.1 g.idx []]
    | _ => []).flatten ++ [.launchComplete l.1]).flatten

def moduleEvents (s : State) : List Instr :=
  (if s.routerQ.isEmpty then [] else [.launchRecordAccept]) ++ (s.binds.map fun b => Instr.bindFrameProceed b.1) ++
  s.unbinds.map fun b => Instr.unbindFrame b.2

/-- A world without a gang on the core is scrubbed once it is over, or once another launch waits (R424). -/
def scrubWanted (s : State) (x : Core) : Bool :=
  x.scrubDue || x.gangs.isEmpty && match x.launch with
    | none => false
    | some seq =>
      (match tabFind s.launches seq with
       | none => true
       | some l => launchOver s seq l) ||
      s.launches.any fun l => l.1 != seq && l.2.gangs.any fun g => g.state != .done

/-- Pre-emption and scrubbing, which follow every placement. -/
def switchEvents (s : State) : List Instr :=
  (s.cores.filter fun c => scrubWanted s c.2).map (fun c => Instr.worldScrub c.1) ++
  (s.cores.filter fun c => c.2.hot && !c.2.gangs.isEmpty).map (fun c => Instr.thermalMigrate c.1 []) ++
  ((s.parts.map Prod.fst).filter fun p => p < 16).map fun p => Instr.preempt p

/-- Timers of the links and of requests without an answer. A heartbeat goes out each half microsecond, which meets the
bound of R101. -/
def timerEvents (s : State) : List Instr :=
  (s.links.map fun k => [Instr.linkSilenceTimeout k.1, .linkTrainTimeout k.1] ++
    if k.2.lastBeat + beatTime / 2 ≤ s.time then [.heartbeat k.1] else []).flatten ++
  (s.remotes.map fun r => [Instr.remoteAckTimeout r.id, .remoteForcedSend r.id]).flatten ++
  s.hostReqs.map fun r => Instr.hostCompletionTimeout r.id

def ownEvents (s : State) : List Instr :=
  moduleEvents s ++ accessEvents s ++ threadEvents s ++ rowEvents s ++ clusterEvents s ++ dieEvents s ++ partEvents s ++
  launchEvents s ++ switchEvents s ++ timerEvents s

/-- The event changes the state, and does not wait for a frame that is being bound or for a walk slot: it is enabled. -/
def enabled (s : State) (i : Instr) : Bool :=
  formOk i && match exec i s with
    | .next t => t != s && !t.stalled
    | _ => false

def ownEvent (s : State) : Option Instr := (ownEvents s).find? (enabled s)

/-- An event that has waited and need not wait any longer. -/
def proceeds (s : State) (i : Instr) : Bool :=
  match exec i s with
  | .next t => !t.stalled
  | _ => true

/-- The oldest of the waiting events that need not wait any longer, with those ahead of it and those behind it. -/
def takeWaiting (s : State) (ahead : List Instr) : List Instr → Option (Instr × List Instr × List Instr)
  | [] => none
  | i :: is =>
    if proceeds { s with waiting := ahead } i then some (i, ahead, is) else takeWaiting s (ahead ++ [i]) is

/-! ## Plans -/

/-- An event of the part: a row of the opcode table that has no encoding. -/
def isEvent (i : Instr) : Bool := (opcodeOf i).isNone

/-- Every core that holds threads is prepared for the clock. -/
def prepareAll (s : State) : State := (liveCores s).foldl prepare s

/-- Events: those that have waited come first, then the part's own; else a clock passes. -/
def planEvent (s : State) : Plan :=
  match takeWaiting s [] s.waiting with
  | some (i, ahead, behind) => .run i behind { s with waiting := ahead }
  | none =>
    match ownEvent s with
    | some i => .run i [] s
    | none => .rest (tick 1 s)

/-- With nothing on the agenda: the cores issue in their order, then events come about, then a clock passes. -/
def planAuto (s : State) : Plan :=
  if s.turn == 0 then .rest { prepareAll s with turn := 1 }
  else
    match nextPair s with
    | some (c, p) => planIssue { s with turn := 2 * c + p + 2 } c p
    | none => planEvent s

/-- Clocks of the agenda: a thread that has been READY for the bound issues before the clock passes, and clocks pass no
further than to the next that comes to it (R170). -/
def planTick (s : State) (n : Nat) (rest : List Act) : Plan :=
  match duePair s with
  | some (c, p) => planIssue (prepare s c) c p
  | none =>
    let m := min n (clocksFree s)
    .rest (tick m { s with agenda := if m < n then .tick (n - m) :: rest else rest })

/-- What the next step does with power on. An item of the agenda that is no event of the part, or that is ill-formed,
never happens. -/
def planOn (s : State) : Plan :=
  match s.agenda with
  | [] => planAuto s
  | .event i :: rest => if isEvent i && formOk i then .run i [] { s with agenda := rest } else .rest { s with agenda := rest }
  | .issue c p :: rest => planIssue (prepare { s with agenda := rest } c) c p
  | .tick 0 :: rest => .rest { s with agenda := rest }
  | .tick (n + 1) :: rest => planTick s (n + 1) rest

/-- Power-on is a module reset (R438). -/
def powersOn : Instr → Bool
  | .moduleReset _ _ _ => true
  | _ => false

/-- What the next step does: with power removed, nothing but a power-on happens (R438). -/
def plan (s : State) : Plan :=
  if s.powered then planOn s
  else
    match s.agenda with
    | [] => .rest s
    | .event i :: rest => if powersOn i then .run i [] { s with agenda := rest } else .rest { s with agenda := rest }
    | _ :: rest => .rest { s with agenda := rest }

/-- An event that has to wait as a whole joins those that wait; the lanes of an instruction that waits so issue it again
(R57, R80). -/
def putOff (i : Instr) (behind : List Instr) (s : State) : State :=
  { s with stalled := false
           waiting := s.waiting ++ (if s.stalled && isEvent i then [i] else []) ++ behind }

/-- After an instruction or event: it has come about or waits, and worlds that a tile engine has reported are torn down
(R50). -/
def afterRun (i : Instr) (behind : List Instr) (o : Host.Outcome State Fault Refusal) : Host.Outcome State Fault Refusal :=
  match o with
  | .next s => .next (serveReports (putOff i behind s))
  | .fault f => .fault f
  | .refused r => .refused r

/-! ## One instruction in place of the next fetch -/

/-- The header of a block of one instruction: length 1 or 2, live 255, bar set. -/
def slotHeader (lit : Bool) : DWord := w64 (15 * 2 ^ 60 + (if lit then 2 else 1) * 2 ^ 50 + 255 * 2 ^ 42 + 2 ^ 15)

/-- Where the block stands: local virtual address 0x1000, mapped to DPA 0 under key slot 0. -/
def slotVa : Nat := 0x1000
def slotLeaf : Leaf := ⟨0, slotVa, 0, 0, 0, false, true, true, true, true, .so⟩

/-- The launch that runs it: 255 registers, one lane, one core. -/
def slotRecord : BitVec 2048 :=
  BitVec.ofNat 2048 (255 * 2 ^ 368 + 1 * 2 ^ 343 + 1 * 2 ^ 512 + 1 * 2 ^ 576 + 2 * 2 ^ 631)

def slotLaunch : Launch :=
  { part := 0, record := slotRecord, queue := 0, keySlot := 0, gangs := [⟨0, .placed [0], 0, 0, 0, 0, none, false⟩], barriers := []
    completed := 0, admitted := 0, killed := false, torn := false, short := false, owed := none }

def slotThread (uid seq : Nat) (hdr : DWord) : Thread :=
  { uid := uid, seq := seq, pc := w64 (slotVa + 8), blk := w64 slotVa, hdr := hdr, entered := true, regs := [], preds := 0
    rstk := [], status := .ready, since := 0, demotedUntil := 0, acquired := true, waited := false, bundle := none, epc := 0, eblk := 0
    ehdr := 0, inHandler := false, epcWritten := false, trapinfo := 0, frec := 0, posted := []
    gid := [0, 0, 0, 0, 0, 0, 0, 0], ext := [1, 1, 1, 1, 1, 1, 1, 1] }

/-- A row of one lane, declared in its four convergence registers. -/
def slotRow (seq : Nat) : Row :=
  let v := { CvReg.zero with decl := 1 }
  { seq := seq, top := 0, index := 0, path := [0, 0, 0, 0, 0, 0, 0], cv := [(0, v), (1, v), (2, v), (3, v)], bar := [] }

def slotCore (uid seq : Nat) (hdr : DWord) : Core :=
  { Core.empty with threads := [(0, slotThread uid seq hdr)], rows := [(0, slotRow seq)], tlb := [slotLeaf]
                    launch := some seq, gangs := [⟨seq, 0, [0, 0, 0, 0, 0, 0, 0], [0], 0, 4096, 0⟩] }

/-- The instruction's words behind a header, in an L2 sector. -/
def slotSector (ws : List DWord) : L2Sector :=
  ⟨((ws.map fun w => [mk (lo32 w), mk (hi32 w)]).flatten ++ List.replicate 16 zeroDatum).take 16, false⟩

/-- A word and its literal stand where core 0 fetches next, for the one thread that it holds. -/
def placeWord (s : State) (nbits w : Nat) : State :=
  let v := w % 2 ^ nbits
  let w0 := w64 v
  let hdr := slotHeader (hasLitBit w0)
  let x := s.part 0
  { s with
    agenda := [.issue 0 (pipeOf (wordClass w0))], issued := [], powered := true
    clock := s.clock + 1, nextId := s.nextId + 1, nextSeq := s.nextSeq + 1
    cores := tabPut s.cores 0 (slotCore s.nextId s.nextSeq hdr)
    parts := tabPut s.parts 0 { x with xlEnable := true, keymask := x.keymask ||| 1 }
    l2Tags := tabPut s.l2Tags 0 ⟨0, 0⟩
    l2 := tabPut s.l2 0 (slotSector [hdr, w0, w64 (v / 2 ^ 64)])
    launches := tabPut s.launches s.nextSeq slotLaunch }

end Sys2Proof.Machine
end

