-- ==== Sys2Proof/Machine/Step.lean ====
section
/-! DEFINITION. One step of the module. -/

namespace Sys2Proof.Machine

/-- One step: the instruction or event that the plan names runs, or the state that the plan gives is the next. -/
def step (s : State) : Host.Outcome State Fault Refusal :=
  match plan s with
  | .run i behind t => afterRun i behind (exec i t)
  | .rest t => .next (serveReports t)

/-- The state with an instruction of `nbits` bits placed where `step` fetches next. -/
def State.withFetchWord (s : State) (nbits w : Nat) : State := placeWord s nbits w

end Sys2Proof.Machine
end

