-- ==== Sys2Proof/Safety.lean ====
section
/-! DEFINITION. What the statements speak of: bundles and the lanes that go on from them, forms that give a result,
memory in canonical form, runs that do not stop. -/

namespace Sys2Proof.Machine

/-- Memory of a module is in its canonical form: addresses strictly rising, no entry that holds 0 (log entry 13). -/
def Memory.wf (s : State) : Bool := tabWf 0 s.hbm && tabWf 0 s.hbmSide

/-- A step is taken, to a state. -/
def Steps (s t : State) : Prop := step s = .next t

/-- A state neither faults nor refuses in its next step. -/
def Goes (s : State) : Prop := ∃ t, Steps s t

/-- Every step from a state on is taken. -/
def Safe (s : State) : Prop := ∀ n, ∃ t, Host.Core.run ⟨State, Fault, Refusal, step, State.reset⟩ n s = .next t

/-! ## Instructions written field by field -/

/-- The words of each format with guard p7 and every other field zero (R193 to R198), to which an instruction's own fields
are added. -/
def plainA : FmtA := ⟨⟨7, false⟩, 0, 0, 0, 0, 0, 0, 0, .raw, 0, false, false, none⟩
def plainM : FmtM := ⟨⟨7, false⟩, 0, 0, 0, 0, 7, .page, .th, false, .raw, 0, 0, none⟩
def plainB : FmtB := ⟨⟨7, false⟩, 0, 0, 0, false⟩
def plainE : FmtE := ⟨⟨7, false⟩, 0, 0, 0, 0, 0, 0, false, .raw, 0, 0, none⟩
def plainS : FmtS := ⟨⟨7, false⟩, 0, 0, 0, 0, false⟩

/-! ## Bundles (R167) -/

/-- The bundle in issue: threads of a core, each under its key. -/
def Bundle (s : State) (c : Nat) (us : List (Nat × Thread)) : Prop :=
  s.issue = ⟨c, us.map Prod.fst⟩ ∧ us ≠ [] ∧ (us.map Prod.fst).Nodup ∧ ∀ e ∈ us, s.thread c e.1 = some e.2

/-- A bundle of one thread. -/
def Single (s : State) (c k : Nat) (t : Thread) : Prop := s.issue = ⟨c, [k]⟩ ∧ s.thread c k = some t

/-- Every thread of the bundle has issued the instruction, with its own result, and stands behind it (R188). -/
def goAll (s : State) (c : Nat) (lit : Bool) (us : List (Nat × Thread)) (g : Nat × Thread → Thread) : State :=
  us.foldl (fun st e => st.setThread c e.1 ((g e).advance s.clock lit)) s

/-- One thread has issued the instruction and stands behind it. -/
def goOn (s : State) (c k : Nat) (u : Thread) (lit : Bool) : State := s.setThread c k (u.advance s.clock lit)

/-! ## Operands (R32, R165) -/

/-- A thread that runs a form of format A: its guard is true, its sources pass R32 and read as `xs`, no write to its
destination is outstanding. -/
def AReady (r : ARule) (f : FmtA) (t : Thread) (xs : List (List Reg)) : Prop :=
  t.guard f.guard = true ∧ t.sources (aSrcs r f) = .ok xs ∧
    (match r.dst with
     | .regs n => t.dstReady f.dst.toNat n
     | _ => .ok ()) = .ok ()

/-- The form completes on every bundle whose lanes are ready: each lane comes to a thread to which `R` relates it and
its operands, and goes on; nothing else changes. -/
def Gives (mk : FmtA → Instr) (rule : FmtA → ARule) (R : FmtA → Thread → List (List Reg) → Thread → Prop) : Prop :=
  ∀ (f : FmtA) (s : State) (c : Nat) (us : List (Nat × Thread)) (xs : Nat → List (List Reg)),
    WellFormed (mk f) → Bundle s c us → (∀ e ∈ us, AReady (rule f) f e.2 (xs e.1)) →
    ∃ u : Nat → Thread, (∀ e ∈ us, R f e.2 (xs e.1) (u e.1)) ∧
      exec (mk f) s = .next (goAll s c f.lit.isSome us fun e => u e.1)

/-- The lane writes one word to its destination, with a tag, and the word's code (R242). -/
def PutsWord (tag : FmtA → Tag) (P : FmtA → List (List Reg) → Word → Prop) (f : FmtA) (t : Thread)
    (xs : List (List Reg)) (u : Thread) : Prop :=
  ∃ w, P f xs w ∧ u = t.write f.dst.toNat (tag f) w

/-- The lane writes a pair, with two tags (R243). -/
def PutsPair (tags : FmtA → Tag × Tag) (P : FmtA → List (List Reg) → DWord → Prop) (f : FmtA) (t : Thread)
    (xs : List (List Reg)) (u : Thread) : Prop :=
  ∃ d, P f xs d ∧ u = t.writePair f.dst.toNat (tags f).1 (tags f).2 d

/-- The lane writes the predicate that its destination names (R244). -/
def PutsPred (P : FmtA → Thread → List (List Reg) → Bool → Prop) (f : FmtA) (t : Thread)
    (xs : List (List Reg)) (u : Thread) : Prop :=
  ∃ b, P f t xs b ∧ u = t.setPred f.dst.toNat b

/-- The tag that the type field names. -/
def ofType (f : FmtA) : Tag := f.type

/-- Element `i` of a result is `fit` of an exact number (R245). -/
def FitElem (f : FmtA) (w : Word) (i : Nat) (z : Int) : Prop :=
  (f.sat = false → (elem f.type w i : Int) = z % 2 ^ elemBits f.type) ∧
  (f.sat = true → elemI f.type w i = max (intMin f.type) (min (intMax f.type) z))

/-- Two integers are the values of two words, signed for type 1 and unsigned for type 2 (R245). -/
def ReadAs (t : Tag) (a b : Word) (x y : Int) : Prop :=
  (t = .i32 ∧ x = a.toInt ∧ y = b.toInt) ∨ (t = .u32 ∧ x = a.toNat ∧ y = b.toNat)

/-! ## Numbers (R10, R15, R17, R259) -/

/-- The floating-point formats with a sign (Table 1.2). -/
def allFmts : List FFmt := [fmtF32, fmtF16, fmtBF16, fmtE4M3, fmtE5M2, fmtE2M1]

/-- The magnitude of an encoding without its sign, with an exponent range unbounded above (R10). -/
def FFmt.mag (f : FFmt) (g : Nat) : ℚ :=
  if g < 2 ^ f.frac then (g : ℚ) * 2 ^ (1 - f.bias - f.frac)
  else ((2 ^ f.frac + g % 2 ^ f.frac : Nat) : ℚ) * 2 ^ ((g / 2 ^ f.frac : Nat) - f.bias - f.frac)

/-- The number that a finite value is. -/
def FVal.rat : FVal → ℚ
  | .fin n m e => (if n then -1 else 1) * m * 2 ^ e
  | _ => 0

/-- The mode rounds a magnitude strictly between the neighbours `lo` and `hi` away from zero (Table 1.4). -/
def RoundsAway (md : RMode) (neg odd : Bool) (lo hi r : ℝ) : Prop :=
  match md with
  | .rne => lo + hi < 2 * r ∨ (lo + hi = 2 * r ∧ odd = true)
  | .rz => False
  | .rd => neg = true
  | .ru => neg = false

/-- What a finite magnitude beyond the format becomes: the largest magnitude where the mode keeps it, else infinity,
NaN where the format has no infinity, the largest magnitude where it has neither (R17, R259, Table 1.5). -/
def overflowOf (f : FFmt) (md : RMode) (neg : Bool) : Nat :=
  if md = .rz ∨ (md = .rd ∧ neg = false) ∨ (md = .ru ∧ neg = true) then signed f neg f.maxFin
  else match f.inf, f.nan with
    | some i, _ => signed f neg i
    | none, some n => n
    | none, none => signed f neg f.maxFin

/-- `w` is the real number of magnitude `r` and sign `neg`, rounded once to a format (R15, R17, R259). -/
def Rounds (f : FFmt) (md : RMode) (neg : Bool) (r : ℝ) (w : Nat) : Prop :=
  ∃ lo g : Nat, (f.mag lo : ℝ) ≤ r ∧ r < f.mag (lo + 1) ∧
    (((f.mag lo : ℝ) ≠ r ∧ RoundsAway md neg (lo % 2 == 1) (f.mag lo) (f.mag (lo + 1)) r) ∧ g = lo + 1 ∨
     ¬((f.mag lo : ℝ) ≠ r ∧ RoundsAway md neg (lo % 2 == 1) (f.mag lo) (f.mag (lo + 1)) r) ∧ g = lo) ∧
    w = if g ≤ f.maxFin then signed f neg g else overflowOf f md neg

/-- `w` is the exact sum of terms rounded once, for a format with infinities: NaN, infinities and the sign of a zero
by R259 and R266. -/
def SumRounds (f : FFmt) (md : RMode) (ts : List FVal) (w : Nat) : Prop :=
  let z := (ts.map FVal.rat).sum
  if FVal.nan ∈ ts ∨ (FVal.inf false ∈ ts ∧ FVal.inf true ∈ ts) then w = nanOf f
  else if FVal.inf false ∈ ts then w = overMag f
  else if FVal.inf true ∈ ts then w = signed f true (overMag f)
  else if z = 0 then
    w = signed f (if ts ≠ [] ∧ ∀ t ∈ ts, t.isZero = true ∧ t.isNeg = true then true
                  else if ∀ t ∈ ts, t.isZero = true ∧ t.isNeg = false then false else md == .rd) 0
  else Rounds f md (decide (z < 0)) |(z : ℝ)| w

/-- The extended real number that a value is; a NaN is none, and every number stands for it. -/
def ValueOf (x : FVal) (r : EReal) : Prop :=
  match x with
  | .nan => True
  | .inf n => r = if n then ⊥ else ⊤
  | .fin _ _ _ => r = ((x.rat : ℝ) : EReal)

/-- The encoding `w` is minimumNumber, or maximumNumber, of `a` and `b`: the number where one is NaN, the canonical
NaN where both are; else the lesser or greater, -0 below +0 (R261). -/
def MinNumber (f : FFmt) (greater : Bool) (a b w : Nat) : Prop :=
  (decodeF f a = .nan → decodeF f b = .nan → w = nanOf f) ∧
  (decodeF f a = .nan → decodeF f b ≠ .nan → w = b) ∧ (decodeF f a ≠ .nan → decodeF f b = .nan → w = a) ∧
  (decodeF f a ≠ .nan → decodeF f b ≠ .nan → ∀ x y : EReal, ValueOf (decodeF f a) x → ValueOf (decodeF f b) y →
    (x < y → w = if greater then b else a) ∧ (y < x → w = if greater then a else b) ∧
    (x = y → (w = a ∨ w = b) ∧ ((decodeF f a).isNeg = (decodeF f b).isNeg ∨ (decodeF f w).isNeg = !greater)))

/-- Element `j` of `w` is a value as `convert` gives it for the form's destination (R16, R17, R270). -/
def Converts (f : FmtA) (rb : Word) (j : Nat) (x : FVal) (w : Word) : Prop :=
  let e := elem f.type w j
  let k := 32 / tagElems f.type
  (∀ t, ffmtOf f.type = some t → e = roundTo t
    (if cvtSr f.srcC then .sr k (rb.toNat / 2 ^ (k * j) % 2 ^ k) else .mode (rmodeOf f.var)) f.sat x) ∧
  (intTag f.type = true →
    (x = .nan → e = 0) ∧ (∀ n, x = .inf n → intElem f.type e = if n then intMin f.type else intMax f.type) ∧
    (∀ n m q, x = .fin n m q →
      intElem f.type e = max (intMin f.type) (min (intMax f.type) (roundInt (rmodeOf f.var) n m q)))) ∧
  (f.type = .e8m0x4 →
    (x = .nan → e = 0xFF) ∧ (∀ n, x = .inf n → e = 0xFF) ∧
    (∀ n m q, x = .fin n m q → (m = 0 → e = 0) ∧
      (m ≠ 0 → (e : Int) = max ((Nat.log2 m : Int) + q) (-127) + 127)))

/-! ## Abacus registers (R178, R179, R273 to R275) -/

/-- A term is added to an abacus register (R273): val rises by the term times 2^298, modulo 2^656; NaN and infinities
set their flags. -/
def Adds (q : Abacus) (x : FVal) (q' : Abacus) : Prop :=
  (x = .nan → q' = { q with nan := true }) ∧ (x = .inf false → q' = { q with pinf := true }) ∧
  (x = .inf true → q' = { q with ninf := true }) ∧
  (∀ n m e, x = .fin n m e → ∃ z : ℤ, (z : ℚ) = x.rat * 2 ^ 298 ∧ q' = { q with val := q'.val } ∧
    (q'.val : ℤ) = (q.val + z) % 2 ^ 656)

/-- A read has noted whether val lies outside the representable range (R178, R179). -/
def Notes (q q' : Abacus) : Prop :=
  q' = { q with ovf := q.ovf || !(decide (-2 ^ 639 ≤ sgn 656 q.val) && decide (sgn 656 q.val < 2 ^ 639)) }

/-- The first result of Table 11.13 whose condition holds, in F32, BF16 or I32. -/
def ReadsAs (t : Tag) (md : RMode) (q : Abacus) (w : Word) : Prop :=
  let f := if t = .bf16x2 then fmtBF16 else fmtF32
  let of (x : FVal) (i : Word) : Prop := if t = .i32 then w = i else w.toNat = rndT f md x
  if q.nan = true ∨ (q.pinf = true ∧ q.ninf = true) then of .nan 0
  else if q.pinf = true then of (.inf false) 0x7FFFFFFF
  else if q.ninf = true then of (.inf true) 0x80000000
  else if q.ovf = true then of (.inf (q.val.testBit 655)) (if q.val.testBit 655 then 0x80000000 else 0x7FFFFFFF)
  else if q.val = 0 then w = 0
  else ∀ v : ℤ, v = sgn 656 q.val →
    (t = .i32 → w.toInt = max (-2 ^ 31) (min (2 ^ 31 - 1) (roundInt md (decide (v < 0)) v.natAbs (-298)))) ∧
    (t ≠ .i32 → Rounds f md (decide (v < 0)) ((v.natAbs : ℝ) * 2 ^ (-298 : ℤ)) w.toNat)

/-- Lanes that act one after another on the registers of their core and each on its own thread. -/
def LaneByLane (c clock : Nat) (lit : Bool) (R : Nat × Thread → Tab Abacus → Tab Abacus → Thread → Prop) :
    List (Nat × Thread) → State → State → Prop
  | [], s, t => t = s
  | e :: us, s, t => ∃ q u, R e (s.core c).q q u ∧
      LaneByLane c clock lit R us
        ((s.setCore c { s.core c with q := q }).setThread c e.1 (u.advance clock lit)) t

/-- The register `n` of a core's eight, and a core's registers with one of them changed. -/
def regQ (q : Tab Abacus) (n : Nat) : Abacus := tabGet Abacus.zero q n
def OnlyQ (q : Tab Abacus) (n : Nat) (x : Abacus) (q' : Tab Abacus) : Prop :=
  regQ q' n = x ∧ ∀ m, m ≠ n → regQ q' m = regQ q m

/-- The abacus form completes on every bundle whose lanes are ready, lane by lane in the bundle's order (R275). -/
def GivesAbacus (mk : FmtA → Instr) (rule : FmtA → ARule)
    (R : FmtA → Thread → List (List Reg) → Tab Abacus → Tab Abacus → Thread → Prop) : Prop :=
  ∀ (f : FmtA) (s : State) (c : Nat) (us : List (Nat × Thread)) (xs : Nat → List (List Reg)),
    WellFormed (mk f) → Bundle s c us → (∀ e ∈ us, AReady (rule f) f e.2 (xs e.1)) →
    ∃ t, exec (mk f) s = .next t ∧
      LaneByLane c s.clock f.lit.isSome (fun e q q' u => R f e.2 (xs e.1) q q' u) us s t

/-- The exact product or value that an abacus form adds (R273). -/
def termVal (t : Tag) (w : Word) : FVal :=
  if t = .f32 then f32Val w else .fin (decide (w.toInt < 0)) w.toInt.natAbs 0

/-! ## Cross-lane forms (R251 to R255) -/

/-- Nothing changes but threads of one core. -/
structure OnlyThreads (s t : State) (c : Nat) : Prop where
  module : t = { s with cores := t.cores }
  others : ∀ d, d ≠ c → t.core d = s.core d
  core : t.core c = { s.core c with threads := (t.core c).threads }

def PermxDoes (f : FmtA) (P : List PLane) (p : PLane) (u : Thread) : Prop :=
  (∀ q ∈ P, q.lane = (p.word 1).toNat → u = (p.thread.write f.dst.toNat
    (if f.type = .raw then (q.reg 0).tag else f.type) (q.word 0)).setPred (4 + f.modB.toNat / 2) true) ∧
  ((∀ q ∈ P, q.lane ≠ (p.word 1).toNat) → u = (p.thread.write f.dst.toNat
    (if f.type = .raw then (p.reg 2).tag else f.type) (p.word 2)).setPred (4 + f.modB.toNat / 2) false)

def BallotDoes (f : FmtA) (P : List PLane) (p : PLane) (u : Thread) : Prop :=
  ∃ w : Word, u = p.thread.write f.dst.toNat .u32 w ∧
    ∀ i < 32, w.getLsbD i = true ↔ ∃ q ∈ P, q.lane = i ∧ q.thread.pred f.srcA.toNat = true

def VoteDoes (f : FmtA) (P : List PLane) (p : PLane) (u : Thread) : Prop :=
  ∃ b, u = p.thread.setPred f.dst.toNat b ∧
    (f.srcB = 0 → (b = true ↔ ∀ q ∈ P, q.thread.pred f.srcA.toNat = true)) ∧
    (f.srcB = 1 → (b = true ↔ ∃ q ∈ P, q.thread.pred f.srcA.toNat = true)) ∧
    (f.srcB = 2 → (b = true ↔ ∀ q ∈ P, ∀ q' ∈ P, q.thread.pred f.srcA.toNat = q'.thread.pred f.srcA.toNat))

def MatchDoes (f : FmtA) (P : List PLane) (p : PLane) (u : Thread) : Prop :=
  ∃ w : Word, u = p.thread.write f.dst.toNat .u32 w ∧
    ∀ i < 32, w.getLsbD i = true ↔ ∃ q ∈ P, q.lane = i ∧ q.word 0 = p.word 0

def ElectDoes (f : FmtA) (P : List PLane) (p : PLane) (u : Thread) : Prop :=
  ∃ b, u = p.thread.setPred f.dst.toNat b ∧ (b = true ↔ ∀ q ∈ P, p.lane ≤ q.lane)

/-- An operator of Table 10.5. -/
def ScanOp (t : Tag) (n : Nat) (op : Word → Word → Word) : Prop :=
  ∀ a b,
    (n = 0 → t ≠ .f32 → (op a b).toNat = (a.toNat + b.toNat) % 2 ^ 32) ∧
    (n = 0 → t = .f32 → SumRounds fmtF32 .rne [f32Val a, f32Val b] (op a b).toNat) ∧
    (n = 1 → t = .i32 → (op a b).toInt = min a.toInt b.toInt) ∧
    (n = 1 → t = .u32 → (op a b).toNat = min a.toNat b.toNat) ∧
    (n = 1 → t = .f32 → MinNumber fmtF32 false a.toNat b.toNat (op a b).toNat) ∧
    (n = 2 → t = .i32 → (op a b).toInt = max a.toInt b.toInt) ∧
    (n = 2 → t = .u32 → (op a b).toNat = max a.toNat b.toNat) ∧
    (n = 2 → t = .f32 → MinNumber fmtF32 true a.toNat b.toNat (op a b).toNat) ∧
    (n = 3 → op a b = a &&& b) ∧ (n = 4 → op a b = a ||| b) ∧ (n = 5 → op a b = a ^^^ b)

/-- The identities of Table 10.5, for I32, U32 and F32. -/
def scanIdentity (n : Nat) (t : Tag) : Word :=
  ([[0, 0, 0x80000000], [0x7FFFFFFF, 0xFFFFFFFF, 0x7F800000], [0x80000000, 0, 0xFF800000], [0xFFFFFFFF, 0xFFFFFFFF],
    [0, 0], [0, 0]].getD n []).getD (tagNum t - 1) 0

def LscanDoes (f : FmtA) (P : List PLane) (p : PLane) (u : Thread) : Prop :=
  ∃ (op : Word → Word → Word) (w : Word), ScanOp f.type (f.srcB.toNat % 8) op ∧
    u = p.thread.write f.dst.toNat f.type w ∧
    ∀ below, below = (P.filter fun q => q.lane < p.lane).map (fun q => q.word 0) →
      (f.srcB.getLsbD 3 = false → ∀ a as, below ++ [p.word 0] = a :: as → w = as.foldl op a) ∧
      (f.srcB.getLsbD 3 = true → below = [] → w = scanIdentity (f.srcB.toNat % 8) f.type) ∧
      (f.srcB.getLsbD 3 = true → ∀ a as, below = a :: as → w = as.foldl op a)

def LredDoes (f : FmtA) (P : List PLane) (p : PLane) (u : Thread) : Prop :=
  ∃ (op : Word → Word → Word) (w : Word), ScanOp f.type (f.srcB.toNat % 8) op ∧
    u = p.thread.write f.dst.toNat f.type w ∧ ∀ a as, P.map (fun q => q.word 0) = a :: as → w = as.foldl op a

/-- The lanes of a list, each with its thread and what it has read. -/
def planes (xs : Nat → List (List Reg)) (us : List (Nat × Thread)) : List PLane := us.map fun e => ⟨e.1, e.2, xs e.1⟩

/-- The plain form completes on every bundle whose lanes with a true guard are ready: they are the set P, and each
comes to a thread to which `R` relates it; the others only go on (R251). -/
def GivesCross (mk : FmtA → Instr) (rule : FmtA → ARule) (R : FmtA → List PLane → PLane → Thread → Prop) : Prop :=
  ∀ (f : FmtA) (s : State) (c : Nat) (us : List (Nat × Thread)) (xs : Nat → List (List Reg)),
    WellFormed (mk f) → Bundle s c us → us.Pairwise (fun a b => a.1 % 32 < b.1 % 32) →
    (∀ e ∈ us, e.2.guard f.guard = true → AReady (rule f) f e.2 (xs e.1)) →
    ∃ t, exec (mk f) s = .next t ∧ OnlyThreads s t c ∧ (∀ k, (∀ e ∈ us, e.1 ≠ k) → t.thread c k = s.thread c k) ∧
      (∀ e ∈ us, e.2.guard f.guard = false → t.thread c e.1 = some (e.2.advance s.clock f.lit.isSome)) ∧
      (∀ e ∈ us, e.2.guard f.guard = true → ∃ u,
        R f (planes xs (us.filter fun x => x.2.guard f.guard)) ⟨e.1, e.2, xs e.1⟩ u ∧
        t.thread c e.1 = some (u.advance s.clock f.lit.isSome))

/-! ## Rendezvous (R173 to R176) -/

/-- Thread `t`, alone in its bundle, is the last declared lane to sign convergence register `cv` of its row `r`, and no
other register of the core is complete. -/
structure LastSigner (s : State) (c k cv : Nat) (t : Thread) (r : Row) : Prop where
  single : Single s c k t
  runs : (s.core c).issues = true
  row : rowAt s c (k / 32) = some r
  idle : (r.reg cv).fired = none
  missing : (r.reg cv).signed.getLsbD (k % 32) = false
  last : (r.reg cv).signed ||| (1#32 <<< (k % 32)) = (r.reg cv).decl
  same : (r.reg cv).signed ≠ 0 → (r.reg cv).pc = t.pc
  live : ∀ j < 32, (r.reg cv).decl.getLsbD j = true → (s.thread c (32 * (k / 32) + j)).isSome = true
  alone : ∀ e ∈ (s.core c).rows, ∀ v ∈ e.2.cv, v.2.complete = false

/-- Lane `e` goes on behind a rendezvous that lane `k` was the last to sign: a lane of a spin block is demoted from its
own issue on (R169). -/
def goneOn (k e : Nat) (u : Thread) (clock : Nat) (lit : Bool) : Thread :=
  (if e = k then u.spun clock else u).proceed clock lit

/-- The lanes of B: those that signed with a true guard (R174). -/
def setB (r : Row) (cv k : Nat) (t : Thread) (g : Guard) : List Nat :=
  maskKeys (k / 32) (if t.guard g then (r.reg cv).gmask ||| (1#32 <<< (k % 32)) else (r.reg cv).gmask)

/-- A rendezvous has fired and is over: its register is re-armed, and nothing has changed but threads of its lanes,
the cluster's state and the names that the model has given out. -/
structure FiredFrame (s t : State) (c row cv : Nat) (r : Row) : Prop where
  module : t = { s with cores := t.cores, clusters := t.clusters, nextId := t.nextId }
  others : ∀ d, d ≠ c → t.core d = s.core d
  clusters : ∀ d, d ≠ c / 4 → t.cluster d = s.cluster d
  core : t.core c = { s.core c with threads := (t.core c).threads, rows := (t.core c).rows }
  armed : rowAt t c row = some (r.setReg cv { CvReg.zero with decl := (r.reg cv).decl })
  rows : ∀ x, x ≠ row → rowAt t c x = rowAt s c x
  threads : ∀ x, x / 32 ≠ row ∨ (r.reg cv).decl.getLsbD (x % 32) = false → t.thread c x = s.thread c x

/-- The .cv form, at its last signer: every declared lane goes on, and the lanes of B come to threads to which `R`
relates them over the set P = B (R174, R251, R252). -/
def FiresCross (mk : FmtA → Instr) (rule : FmtA → ARule) (R : FmtA → List PLane → PLane → Thread → Prop) : Prop :=
  ∀ (f : FmtA) (s : State) (c k : Nat) (t : Thread) (r : Row) (th : Nat → Thread) (xs : Nat → List (List Reg)),
    WellFormed (mk f) → LastSigner s c k f.var.toNat t r →
    (∀ j < 32, (r.reg f.var.toNat).decl.getLsbD j = true →
      s.thread c (32 * (k / 32) + j) = some (th (32 * (k / 32) + j))) →
    (∀ e ∈ setB r f.var.toNat k t f.guard, AReady (rule f) f (th e) (xs e)) →
    (∀ j < 32, (r.reg f.var.toNat).gmask.getLsbD j = true → (r.reg f.var.toNat).signed.getLsbD j = true) →
    ∃ t', exec (mk f) s = .next t' ∧ FiredFrame s t' c (k / 32) f.var.toNat r ∧ t'.clusters = s.clusters ∧
      (∀ e ∈ maskKeys (k / 32) (r.reg f.var.toNat).decl, e ∉ setB r f.var.toNat k t f.guard →
        t'.thread c e = some (goneOn k e (th e) s.clock f.lit.isSome)) ∧
      (∀ e ∈ setB r f.var.toNat k t f.guard, ∃ u,
        R f ((setB r f.var.toNat k t f.guard).map fun x => ⟨x, th x, xs x⟩) ⟨e, th e, xs e⟩ u ∧
        t'.thread c e = some (goneOn k e u s.clock f.lit.isSome))

/-! ## Accesses (R195, R216 to R228, R297) -/

/-- The effective address from the base pair and the index among a lane's sources (R195). -/
def eaOf (f : FmtM) (xs : List (List Reg)) (i : Nat) : DWord :=
  srcPair xs i + (f.disp.signExtend 64 + (srcW xs (i + 1)).signExtend 64) * BitVec.ofNat 64 (mBytes f)

/-- A canonical local address whose leaf is cached at the core, grants the access and lies in main memory (R65, R74,
R78, R79): the DPA is `dpa`. -/
structure Mapped (s : State) (c p : Nat) (ea : DWord) (k : AKind) (o : OrderReq) (l : Leaf) (dpa : Nat) : Prop where
  canonical : ea.toNat < 2 ^ 57
  enabled : (s.part p).xlEnable = true
  cached : cachedLeaf s (corePlace c) p ea.toNat = some l
  granted : leafFail s p l k o none = none
  hbm : l.host = false
  aligned : l.vbase % 4096 = 0 ∧ l.base % 4096 = 0
  place : dpa = l.base + (ea.toNat - l.vbase)
  free : binding s dpa = false

/-- Nothing is in flight, so that the next access is alone. -/
def Alone (s : State) : Prop := s.accesses = [] ∧ ∀ d ∈ s.demands, d.inst ≠ s.nextId

/-- The registers after `n` words are filled from `dst`, each under its tag of R218 and with its own code. -/
def Filled (type : Tag) (dst n : Nat) (ds : List Datum) (t u : Thread) : Prop :=
  (∀ r, r < dst ∨ dst + n ≤ r ∨ r = 255 → u.reg r = t.reg r) ∧
  ∀ i < n, dst + i ≠ 255 → ∀ d, ds[i]? = some d → u.reg (dst + i) =
    { t.reg (dst + i) with
      word := d.word, code := d.code, tag := if type = .addrLo ∧ i % 2 = 1 then .addrHi else type, full := true,
      pending := false }

/-- A load has filled its registers from the words `ws` that cover its address (R219), and set its residency
predicate, if it names one. -/
def LoadsAs (f : FmtM) (ea : DWord) (ws : List Datum) (t u : Thread) : Prop :=
  u = { t with regs := u.regs, preds := u.preds } ∧
  u.preds = (if f.nrp = 7 then t.preds else (t.setPred f.nrp.toNat true).preds) ∧
  (f.size ≠ 3 → Filled f.type f.dst.toNat (mWords f.size) ws t u) ∧
  (f.size = 3 → ∀ d, ws = [d] → ∃ w : Word, Filled f.type f.dst.toNat 1 [⟨w, lcc w⟩] t u ∧
    (f.type = .i32 → w = (d.word.extractLsb' (8 * (ea.toNat % 4)) (8 * mBytes f)).signExtend 32) ∧
    (f.type ≠ .i32 → w = (d.word.extractLsb' (8 * (ea.toNat % 4)) (8 * mBytes f)).setWidth 32))

/-- Nothing but the threads, the L1 and the scratchpad of core `c` and thread `k` has changed in the cores. -/
structure OnlyThread (s t : State) (c k : Nat) : Prop where
  others : ∀ d, d ≠ c → t.core d = s.core d
  core : t.core c = { s.core c with threads := (t.core c).threads, l1 := (t.core c).l1, scratch := (t.core c).scratch }
  threads : ∀ x, x ≠ k → t.thread c x = s.thread c x

/-- The L1's part of an acquire, where `yes`: the L1 holds nothing, and no reply on its way to the core is installed
(R133, R134, Table 5.5). -/
structure Acquired (s t : State) (c : Nat) (yes : Bool) : Prop where
  l1 : (t.core c).l1 = if yes then [] else (s.core c).l1
  flying : t.accesses = if yes then s.accesses.map fun a =>
    if a.core = c ∧ a.kind.fetches = true then { a with sector := none } else a else s.accesses

/-- A landing counter has changed: nothing in the dies is different but gates armed on it that are now ready (R345). -/
def OnlyReady (s t : State) (lc : Nat) : Prop :=
  ∀ d, t.die d = { s.die d with gates := (t.die d).gates } ∧ ∀ i, ∃ r, gate t d i = { gate s d i with ready := r } ∧
    ((gate s d i).ready = true → r = true) ∧
    (r = true → (gate s d i).ready = true ∨ ∃ e, (gate s d i).gate = some e ∧ e.armEn = true ∧ e.lc = lc)

/-- The gates that a change of a landing counter, if there is one, has made ready. -/
def Readied (s t : State) (lc : Option Nat) : Prop :=
  (lc = none → t.dies = s.dies) ∧ ∀ i, lc = some i → OnlyReady s t i

/-- Counters have changed: nothing in the cores is different but waits on them that a change has met (R306). -/
def OnlyMarked (s t : State) : Prop :=
  ∀ c, t.core c = { s.core c with threads := (t.core c).threads } ∧ ∀ k, (s.thread c k = none → t.thread c k = none) ∧
    ∀ u, s.thread c k = some u → ∃ x, t.thread c k = some { u with status := x } ∧
      (x = u.status ∨ ∃ tk i h d p lit, u.status = .blocked (.counter tk i h d p lit false) ∧
        x = .blocked (.counter tk i h d p lit true))

/-- Memory reads as before, under every key slot, but for `n` bytes from `dpa` under `slot`, which are those of the
words `ds`. -/
def Stored (s t : State) (slot dpa n : Nat) (ds : List Datum) : Prop :=
  (∀ a x, x ≠ slot ∨ a < dpa ∨ dpa + n ≤ a → byteRead t a x = byteRead s a x) ∧
  ∀ i < n, byteRead t (dpa + i) slot = byteOf ((ds[i / 4]?).getD zeroDatum).word (i % 4)

/-- The words that an atomic leaves, by Table 13.2 and R296; CAS leaves memory as it is where the words differ. -/
def AtomicIs (op : AtomOp) (t : Tag) (old operand new res : List Datum) : Prop :=
  let a := wordsVal old
  let b := wordsVal operand
  let m := 2 ^ (32 * old.length)
  let sg := fun x : Nat => if t = .i32 then (BitVec.ofNat (32 * old.length) x).toInt else (x : Int)
  (∀ d ∈ res, d.code = lcc d.word) ∧ res.length = old.length ∧
  (op = .and → wordsVal res = a &&& b) ∧ (op = .or → wordsVal res = a ||| b) ∧ (op = .xor → wordsVal res = a ^^^ b) ∧
  (op = .xch → res.map Datum.word = operand.map Datum.word) ∧
  (op = .cas → res.map Datum.word =
    if old.map Datum.word = operand.map Datum.word then new.map Datum.word else old.map Datum.word) ∧
  (t ≠ .f32 → (op = .add → wordsVal res = (a + b) % m) ∧
    (op = .min → wordsVal res = if sg a ≤ sg b then a else b) ∧
    (op = .max → wordsVal res = if sg a ≤ sg b then b else a)) ∧
  (t = .f32 → (op = .add → SumRounds fmtF32 .rne [decodeF fmtF32 a, decodeF fmtF32 b] (wordsVal res)) ∧
    (op = .min → MinNumber fmtF32 false a b (wordsVal res)) ∧ (op = .max → MinNumber fmtF32 true a b (wordsVal res)))

/-! ## Copies, maps and tiles (R143 to R158, R181 to R186, R231, R285 to R289) -/

/-- The lane takes a policy fault with this code as its instruction issues, its thread's earlier accesses having their
verdicts (R404), and nothing else happens. -/
def FaultsWith (i : Instr) (s : State) (c k : Nat) (code : BitVec 8) : Prop :=
  ∀ t, s.thread c k = some t → openVerdict s t.uid = false →
    exec i s = .next (takeLanes s c s.nextId [(k, ⟨code, 0, 0, none, false, none, false⟩)])

/-- What a fault with a code alone says of it. -/
def codeOnly (code : BitVec 8) : FInfo := ⟨code, 0, 0, none, false, none, false⟩

/-- The one lane of a bundle of an instruction that names its instance takes a fault. -/
def FaultsHeld (i : Instr) (s : State) (c k : Nat) (x : FInfo) : Prop :=
  ∀ t, s.thread c k = some t → openVerdict s t.uid = false →
    exec i s = .next (settleInst (takeLanes { s with nextId := s.nextId + 1 } c s.nextId [(k, x)]) s.nextId)

/-- `n` registers from `d` are left empty, with no fill pending; nothing else of the thread changes. -/
def Emptied (t u : Thread) (d n : Nat) : Prop :=
  u = { t with regs := u.regs } ∧ ∀ j, (j < d ∨ d + n ≤ j → u.reg j = t.reg j) ∧
    (d ≤ j → j < d + n → j ≠ 255 → (u.reg j).full = false ∧ (u.reg j).pending = false)

/-- The one lane of a bundle of an instruction that names its instance takes a fault, what it would fill being left empty. -/
def FaultsEmptied (i : Instr) (s : State) (c k : Nat) (t : Thread) (x : FInfo) (d n : Nat) : Prop :=
  ∃ u, exec i s = .next (settleInst
      (takeLanes ({ s with nextId := s.nextId + 1 }.setThread c k u) c s.nextId [(k, x)]) s.nextId) ∧ Emptied t u d n

/-- The fields that COPY and COPYX submit (R231). -/
def copySpec (f : FmtE) (xs : List (List Reg)) : Transfer where
  kind := 0
  dst := if f.var.getLsbD 1 then (srcW xs 0).setWidth 64 else srcPair xs 0
  src := if f.var.getLsbD 0 then (srcW xs 1).setWidth 64 else srcPair xs 1
  srcSp := f.var.getLsbD 0
  dstSp := f.var.getLsbD 1
  srcStride := 0
  dstStride := 0
  rows := 1
  rowBytes := (srcW xs 2).toNat
  idx := 0
  map := if f.fn.getLsbD 0 then some f.dst.toNat else none
  lc := none
  toc := none
def copyxSpec (f : FmtE) (xs : List (List Reg)) : Transfer :=
  { copySpec f xs with
    kind := if f.fn.getLsbD 1 then 2 else 1
    idx := (srcReg xs 2 0).word.toNat
    rows := (srcReg xs 2 1).word.toNat
    rowBytes := (srcReg xs 2 2).word.toNat
    srcStride := if f.fn.getLsbD 1 then ((srcReg xs 2 2).word.toNat : Int) else (srcReg xs 2 3).word.toInt
    dstStride := if f.fn.getLsbD 1 then (srcReg xs 2 3).word.toInt else ((srcReg xs 2 2).word.toNat : Int) }

/-- The first three rows of Table 6.2. -/
def WithinLimits (x : Transfer) : Prop :=
  4 ≤ x.rowBytes ∧ x.rowBytes ≤ 65536 ∧ x.rowBytes % 4 = 0 ∧ 1 ≤ x.rows ∧ x.rows ≤ 4096 ∧
  (x.map ≠ none → x.rows * x.rowBytes ≤ 65536)

/-- The scope of an address operand is known without a table walk: a scratchpad offset, a global address, or a cached
translation that permits the access. -/
def Known (s : State) (c p : Nat) (sp : Bool) (k : AKind) (a : DWord) : Prop :=
  sp = true ∨ 2 ^ 57 ≤ a.toNat ∨ (s.part p).xlEnable = false ∨
    ∃ l, cachedLeaf s (corePlace c) p a.toNat = some l ∧ leafFail s p l k .page none = none

/-- The channel's registers, at rest or running. -/
def chanOf (s : State) (c : Nat) (f : FmtE) : Channel := chan s (c / 4) (4 * (c % 4) + f.unit.toNat)
/-- No thread of the core waits for the channel. -/
def NoLine (s : State) (c : Nat) (u : Nat) : Prop := ∀ e ∈ (s.core c).threads, chanPlace e.2 u = none

/-- A channel has started a transfer for a thread, which goes on: the channel and, where one is named, the map or the
rink's stage, are taken; nothing else changes (R143, R151, R231). -/
structure Started (s t : State) (c k ch : Nat) (th : Thread) (lit : Bool) (x : Transfer) (rink : Option (Nat × Nat)) :
    Prop where
  thread : t.thread c k = some (th.advance s.clock lit)
  others : ∀ j, j ≠ k → t.thread c j = s.thread c j
  channel : ∃ w, chan t (c / 4) ch = { chan s (c / 4) ch with
      state := 1, resume := false, code := 0, row := 0, head := 0, faddr := 0, work := some w } ∧
    w.tr = some x ∧ w.seq = th.seq ∧ w.part = launchPart s th.seq ∧ w.rink = rink ∧ w.chain = none ∧ w.issued = [] ∧
    w.landed = [] ∧ w.failed = [] ∧ w.fault = none ∧
    ∀ g, gangOf s c k = some g → w.base = g.base ∧ w.size = g.size
  channels : ∀ j, j ≠ ch → chan t (c / 4) j = chan s (c / 4) j
  module : t = { s with cores := t.cores, clusters := t.clusters, nextId := t.nextId }
  core : t.core c = { s.core c with threads := (t.core c).threads, cm := (t.core c).cm, rk := (t.core c).rk }

/-- Tile `i` of a cluster has changed, and no other tile's elements or tag. -/
def OnlyTile (s t : State) (cl i : Nat) : Prop :=
  ∀ j, j ≠ i → (tileOf t cl j).elems = (tileOf s cl j).elems ∧ (tileOf t cl j).tag = (tileOf s cl j).tag ∧
    (tileOf t cl j).queue = (tileOf s cl j).queue

/-- The tile's bib is held by the set of a lane, whose lane is declared in it (R283). -/
structure Holds (s : State) (c k : Nat) (f : FmtE) : Prop where
  declared : ∃ r, rowAt s c (k / 32) = some r ∧ (r.reg f.cv.toNat).decl.getLsbD (k % 32) = true
  held : (tileOf s (c / 4) f.unit.toNat).held = true
  core : (tileOf s (c / 4) f.unit.toNat).core = c % 4
  row : (tileOf s (c / 4) f.unit.toNat).row = k / 32
  cv : (tileOf s (c / 4) f.unit.toNat).cv = f.cv.toNat

/-! ## Control (R362 to R378) -/

/-- The reconvergence stack after the push of a point, if there is one: unless it is the top entry already, and with the
bottom entry discarded from a full stack (R171). -/
def Pushed (old : List DWord) (p : Option DWord) (new : List DWord) : Prop :=
  (p = none → new = old) ∧
  ∀ a, p = some a → (old.head? = some a → new = old) ∧ (old.head? ≠ some a → new = (a :: old).take 4)

/-- The point that a branch would push, if any, passes the checks of R171. -/
def PointOk (s : State) (c part : Nat) (p : Option DWord) (s1 : State) : Prop :=
  (p = none → s1 = s) ∧ ∀ a, p = some a → ∃ w, checkPoint s c part a = .ok w s1

/-- The thread has no access outstanding and no failed posted write that no release has reported. -/
def Quiet (s : State) (t : Thread) : Prop := (∀ a ∈ s.accesses, a.uid ≠ t.uid) ∧ t.posted = []

/-- The rendezvous of the last signer `k` is over for every declared lane: each goes on behind the instruction. -/
def AllGoOn (s t : State) (c k : Nat) (m : BitVec 32) (lit : Bool) : Prop :=
  ∀ e ∈ maskKeys (k / 32) m, ∀ u, s.thread c e = some u → t.thread c e = some (goneOn k e u s.clock lit)

/-- A lane's bit of a convergence register is cleared, in each of its masks (R176). -/
def Cleared (l : Nat) (v v' : CvReg) : Prop :=
  v'.decl = v.decl &&& ~~~(1#32 <<< l) ∧ v'.signed = v.signed &&& ~~~(1#32 <<< l) ∧
  v'.gmask = v.gmask &&& ~~~(1#32 <<< l) ∧ v' = { v with decl := v'.decl, signed := v'.signed, gmask := v'.gmask }

/-- The words of a special register with their tags (R377, Tables 8.15 and 16.6). -/
inductive SpecialIs (s : State) (c k : Nat) (t : Thread) : Nat → List (Tag × Word) → Prop where
  | lane : SpecialIs s c k t 1 [(.u32, BitVec.ofNat 32 (k % 32))]
  | slot : SpecialIs s c k t 2 [(.u32, BitVec.ofNat 32 (k / 32))]
  | core : SpecialIs s c k t 3 [(.u32, BitVec.ofNat 32 (c % 4))]
  | cluster : SpecialIs s c k t 4 [(.u32, BitVec.ofNat 32 (c / 4 % 16))]
  | die : SpecialIs s c k t 5 [(.u32, BitVec.ofNat 32 (c / 64))]
  | rank : SpecialIs s c k t 6 [(.u32, BitVec.ofNat 32 (rtSelf s (launchPart s t.seq)))]
  | gid (i : Nat) (h : i < 8) : SpecialIs s c k t (0x10 + i) [(.u32, BitVec.ofNat 32 (t.gid.getD i 0))]
  | ext (i : Nat) (h : i < 8) : SpecialIs s c k t (0x18 + i) [(.u32, BitVec.ofNat 32 (t.ext.getD i 1))]
  | clock : SpecialIs s c k t 0x20
      [(.u32, lo32 (BitVec.ofNat 64 s.clock)), (.u32, hi32 (BitVec.ofNat 64 s.clock))]
  | trapinfo : SpecialIs s c k t 0x30 [(.raw, lo32 t.trapinfo), (.raw, hi32 t.trapinfo)]
  | cv (i : Nat) (h : i < 4) (r : Row) (hr : rowAt s c (k / 32) = some r) : SpecialIs s c k t (0x40 + i)
      [(.raw, (r.reg i).decl), (.raw, (r.reg i).signed), (.raw, lo32 (r.reg i).pc), (.raw, hi32 (r.reg i).pc),
       (.raw, (r.reg i).gmask)]
  | epc : SpecialIs s c k t 0x100 [(.addrLo, lo32 t.epc), (.addrHi, hi32 t.epc)]
  | eblk : SpecialIs s c k t 0x101 [(.addrLo, lo32 t.eblk), (.addrHi, hi32 t.eblk)]
  | thread (h : t.rstk.length ≤ 4) : SpecialIs s c k t 0x102
      [(.u32, BitVec.ofNat 32 (t.inHandler.toNat + 2 * t.rstk.length + 16 * (decide (s.clock < t.demotedUntil)).toNat +
        32 * t.epcWritten.toNat))]
  | frec (i : Nat) (h : i < 4) : SpecialIs s c k t (0x104 + i)
      [(.raw, lo32 (t.frec.extractLsb' (64 * i) 64)), (.raw, hi32 (t.frec.extractLsb' (64 * i) 64))]
  | rstk (i : Nat) (h : i < 4) : SpecialIs s c k t (0x108 + i)
      [(.addrLo, lo32 (t.rstk.getD i 0)), (.addrHi, hi32 (t.rstk.getD i 0))]
  | pred : SpecialIs s c k t 0x110 [(.u32, BitVec.ofNat 32 (t.preds.toNat + 128))]
  | pmark : SpecialIs s c k t 0x120 [(.u32, (s.core c).pmark.setWidth 32), (.u32, (s.core c).pmarkCount)]

/-! ## Events -/

/-- One bit of a datum has flipped, of its word or of its code; a consistent datum no longer is (R20). -/
def Flipped (n : Nat) (d d' : Datum) : Prop :=
  (n < 32 → d'.word = d.word ^^^ (1#32 <<< n) ∧ d'.code = d.code) ∧
  (32 ≤ n → d'.word = d.word ∧ d'.code = d.code ^^^ (1#4 <<< (n - 32))) ∧
  (Datum.okay d = true → Datum.okay d' = false)

/-- A well-formed leaf entry of level 0, and the leaf that it gives for an address (R74, R75, Table 3.4). -/
structure LeafEntry (p va : Nat) (e : DWord) (l : Leaf) : Prop where
  present : e.getLsbD 0 = true
  isLeaf : e.getLsbD 1 = true
  reserved : e.extractLsb' 61 3 = 0
  size : l.size = (e.extractLsb' 2 4).toNat
  small : l.size ≤ 8
  cls : ordOf (e.extractLsb' 6 2).toNat = some l.cls
  rd : l.rd = e.getLsbD 8
  wr : l.wr = e.getLsbD 9
  at_ : l.at_ = e.getLsbD 10
  host : l.host = e.getLsbD 11
  x : l.x = e.getLsbD 60
  slot : l.slot = (e.extractLsb' 52 8).toNat
  base : l.base = (e.extractLsb' 12 40).toNat * 4096
  part : l.part = p
  page : l.vbase = va / 2 ^ (l.size + 12) * 2 ^ (l.size + 12)
  wrRd : l.wr = true → l.rd = true
  atRdWr : l.at_ = true → l.rd = true ∧ l.wr = true
  aligned : l.base % 2 ^ (l.size + 12) = 0
  inside : l.host = true ∨ l.base < 2 ^ 40

/-- A write of a partition's block register reaches it: by the VF within its stream, or through PF0's window while the
TDI is not locked (R430, R432, R433). -/
structure Reaches (s : State) (p : Nat) (pf0 : Bool) : Prop where
  up : s.up = true
  part : p < 16
  window : pf0 = true → (s.part p).tdi = .unlocked ∨ (s.part p).tdi = .error
  served : pf0 = false → (s.part p).vfFrozen = false ∧
    ((s.part p).tdi = .locked ∨ (s.part p).tdi = .run → (s.part p).ideSecure = true)

/-- No peer of the pod is in DETOUR, and no partition has a group: nothing else follows a change of a link (R105, R356). -/
structure Calm (s : State) : Prop where
  direct : ∀ t, (s.peer t).state ≠ 2
  groups : ∀ e ∈ s.parts, (s.part e.1).groups = []

/-- The link of two positions, as the link map names it. -/
def linkEnds (a b : Nat) : Nat × Nat := (min a b, max a b)

/-- A relay for a peer: an ALIVE peer whose links to the module and to the peer are up (R105). -/
def Relay (s : State) (t m : Nat) : Prop :=
  m ≠ s.pos ∧ m ≠ t ∧ (s.peer m).state = 1 ∧ linkEnds s.pos m ∈ s.linkMap ∧ linkEnds m t ∈ s.linkMap

/-- One message on VCM of every link that is UP, SPARE or RETRAIN, but for one. -/
def vcmAll (s : State) (but : Option Nat) (m : PodMsg) : List PodOut :=
  ((List.range 15).filter fun j => decide ((s.link j).state ∈ [2, 3, 4] ∧ but ≠ some j)).map fun j => ⟨j, 2, m⟩

/-- Messages are put on their ports, one after another, and nothing else has happened to ports (R97, R98, R100). -/
def putAll (ms : List PodOut) (s : State) : State := ms.foldl (fun st m => podPut st m.port m.vc m.msg) s
def Sent (s t : State) (ms : List PodOut) : Prop :=
  t.podOut = (putAll ms s).podOut ∧ ∀ j, t.link j = (putAll ms s).link j

/-- The link map has one link changed. -/
def MapIs (s t : State) (e : Nat × Nat) (up : Bool) : Prop :=
  (e ∈ t.linkMap ↔ up = true) ∧ ∀ x, x ≠ e → (x ∈ t.linkMap ↔ x ∈ s.linkMap)

/-- Link `k` reads as `l`, and the other links as before. -/
def LinkIs (s t : State) (k : Nat) (l : Link) : Prop := t.link k = l ∧ ∀ j, j ≠ k → t.link j = s.link j
/-- Peer `p` reads as `x`, and the other peers as before. -/
def PeerIs (s t : State) (p : Nat) (x : Peer) : Prop := t.peer p = x ∧ ∀ q, q ≠ p → t.peer q = s.peer q
/-- Link `k` has come to `l`, and then messages were put on the ports. -/
def LinkThenSent (s t : State) (k : Nat) (l : Link) (ms : List PodOut) : Prop :=
  ∃ s1, s1 = { s with links := s1.links } ∧ LinkIs s s1 k l ∧ Sent s1 t ms
/-- A link after its loss: nothing is held or replayed on it, and where it is armed it trains anew (R100). -/
def lostLink (s : State) (l : Link) : Link :=
  { l with inRow := 0, outRow := 0, rxSeq := 0, queue := [], buffer := [], used := [], state := if l.arm then 1 else 5
           arm := false, trainSince := if l.arm then s.time else l.trainSince
           lastRx := if l.arm then s.time else l.lastRx }
/-- Staged pieces of chunks, but for those of a dead position (R110). -/
def DropsStaged (s t : State) (dead : Option Nat) : Prop :=
  ∀ d, t.die d = { s.die d with staged := (t.die d).staged } ∧ (dead = none → (t.die d).staged = (s.die d).staged) ∧
    ∀ p, dead = some p → ∀ y, y ∈ (t.die d).staged ↔ y ∈ (s.die d).staged ∧ (d < 8 → ∀ n, y.from_ ≠ .pod p n)

/-- The leaf of a request from outside is cached at the unit that translates for it, grants the request, and lies in main
memory at `dpa` (R71). -/
structure HomeLeaf (s : State) (r : FabReq) (k : AKind) (cls : Option OrdClass) (l : Leaf) (va dpa : Nat) : Prop where
  region : va = ((tabGet 0 (s.part r.part).regions r.region).extractLsb' 12 45).toNat * 4096 + r.offset
  enabled : (s.part r.part).xlEnable = true
  cached : cachedLeaf s inPlace r.part va = some l
  granted : leafFail s r.part l k .page cls = none
  hbm : l.host = false
  place : dpa = l.base + (va - l.vbase)

/-- A run of words lies in one sector that the L2 holds and that may be written. -/
structure HeldRun (s : State) (slot dpa n : Nat) (y : L2Sector) : Prop where
  aligned : dpa % 4 = 0
  some_ : 0 < n
  fits : dpa / 4 % 16 + n ≤ 16
  hit : l2Hit s dpa slot = some y
  words : y.words.length = 16
  open_ : readOnly s dpa = false

/-- The L2 holds the words `ds` from `dpa` in a sector that read as `y`, and is unchanged elsewhere. -/
def RunIs (s t : State) (dpa : Nat) (ds : List Datum) (y : L2Sector) : Prop :=
  (∃ ws, tabFind t.l2 (dpa / 64) = some { y with words := ws, dirty := true } ∧ ws.length = 16 ∧
    (∀ i < ds.length, ws[dpa / 4 % 16 + i]? = ds[i]?) ∧
    ∀ i, i < dpa / 4 % 16 ∨ dpa / 4 % 16 + ds.length ≤ i → ws[i]? = y.words[i]?) ∧
  ∀ i, i ≠ dpa / 64 → tabFind t.l2 i = tabFind s.l2 i

/-- Landing counter `i` has risen by `n`, modulo 2^48, and no other has changed (R118). -/
def Landed (s t : State) (i : Option Nat) (n : Int) : Prop :=
  (∀ j, i = some j → (landing t j).pending = (landing s j).pending ∧
    ((landing t j).count.toNat : Int) = ((landing s j).count.toNat + n) % 2 ^ 48) ∧
  ∀ j, i ≠ some j → landing t j = landing s j

/-- A chunk's element, combined with the element that memory holds (Table 15.4), for the 32-bit formats. -/
def CombineIs (op : AtomOp) (t : Tag) (a b w : Word) : Prop :=
  (t = .i32 → op = .add → w = a + b) ∧ (t = .i32 → op = .min → w.toInt = min a.toInt b.toInt) ∧
  (t = .i32 → op = .max → w.toInt = max a.toInt b.toInt) ∧
  (t = .f32 → op = .add → SumRounds fmtF32 .rne [f32Val a, f32Val b] w.toNat) ∧
  (t = .f32 → op = .min → MinNumber fmtF32 false a.toNat b.toNat w.toNat) ∧
  (t = .f32 → op = .max → MinNumber fmtF32 true a.toNat b.toNat w.toNat)

/-- Gate slots are listed once. -/
def GatesListed (s : State) : Prop := tabSorted s.dies = true ∧ ∀ d, tabSorted (s.die d).gates = true

/-- The expectation of an ARMED gate that leaves its counter: taken back once (R344). -/
def Unexpected (s t : State) (e : Gate) : Prop :=
  ∀ j, landing t j = if e.armEn = true ∧ j = e.lc then
    { landing s j with pending := (landing s j).pending - BitVec.ofNat 16 e.expect } else landing s j

/-- Group slot `i` of partition `p` reads as `g`, and nothing else of a partition has changed. -/
def GroupIs (s t : State) (p i : Nat) (g : GroupSlot) : Prop :=
  t.part p = { s.part p with groups := (t.part p).groups } ∧ (t.part p).group i = g ∧
  (∀ j, j ≠ i → (t.part p).group j = (s.part p).group j) ∧ ∀ q, q ≠ p → t.part q = s.part q

/-- The message is on its way to a rank of the pod, or of the remote fabric, or held at its port (R314, R100). -/
def Notified (s t : State) (p rank : Nat) (m : PodMsg) : Prop :=
  (∀ hid prof, resolveRank s p rank = .pod hid prof → (s.link (routePort s (hid % 16))).state ∈ [2, 3, 4] →
    ⟨routePort s (hid % 16), 0, .member (hid % 16) m⟩ ∈ t.podOut ∨
      (0, .member (hid % 16) m) ∈ (t.link (routePort s (hid % 16))).queue) ∧
  ∀ hid prof, resolveRank s p rank = .remote hid prof → .notice hid m ∈ t.remoteOut

/-- A live gate of a group of a partition. -/
def GateOfGroup (g : GateSlot) (p group : Nat) : Prop :=
  (g.state = 1 ∨ g.state = 2) ∧ g.part = p ∧ ∃ e, g.gate = some e ∧ e.group = group

/-- One version comes before another, modulo 2^32 (R355). -/
def Older (a b : Nat) : Prop := a ≠ b ∧ (b + 2 ^ 32 - a % 2 ^ 32) % 2 ^ 32 < 2 ^ 31

/-- A live gate of a group that is not held back, under a version older than one. -/
def OldGate (g : GateSlot) (p group ver : Nat) : Prop :=
  (g.state = 1 ∨ g.state = 2) ∧ g.part = p ∧ g.heldBack = false ∧ ∃ e, g.gate = some e ∧ e.group = group ∧ Older e.ver ver

/-! ## Commands, the host and power (R425 to R438) -/

/-- The proctor takes up a command that its queue holds, of a function and under an opcode that Table 19.3 lists, with its
reserved fields 0. -/
structure Takes (s : State) (c : Cmd) (pf vf : Bool) : Prop where
  up : s.up = true
  free : proctorAt s = false
  posted : posted s c.fn 0 = true
  listed : c.unlisted = none
  fn : c.fn ≤ 16
  reserved : c.rsv = 0
  lists : (c.fn = 0 → pf = true) ∧ (c.fn ≠ 0 → vf = true)

/-- An entry of a queue is completed with a status and operands, the next entry being due, and vector 0 is signalled
(R426). -/
def Finished (s t : State) (fn q : Nat) (c : Cmd) (status : BitVec 8) (dw : List DWord) : Prop :=
  t = { s with fns := t.fns, hostOut := s.hostOut ++
    [.complete fn q (tabGet HostQueue.zero (s.fn fn).queues q).entry c.tag status dw, .msix fn 0] } ∧
  t.fn fn = { s.fn fn with queues := (t.fn fn).queues } ∧ (∀ g, g ≠ fn → t.fn g = s.fn g) ∧
  ∀ j, tabGet HostQueue.zero (t.fn fn).queues j =
    let x := tabGet HostQueue.zero (s.fn fn).queues j
    if j = q then { x with cons := x.cons + 1 } else x

/-- A cap has been written, with its window; the time of the write is kept where the lower of the two caps has changed, or its
window (R436). -/
def CapIs (s t : State) (bmc : Bool) (window cap : Nat) : Prop :=
  t = { s with capHost := t.capHost, capBmc := t.capBmc, capSince := t.capSince } ∧
  t.capHost = (if bmc then s.capHost else ⟨window, cap⟩) ∧ t.capBmc = (if bmc then ⟨window, cap⟩ else s.capBmc) ∧
  (effectiveCap t = effectiveCap s → t.capSince = s.capSince) ∧ (effectiveCap t ≠ effectiveCap s → t.capSince = s.time)

/-- The event completes the command with a status and does nothing else. -/
def Refuses (i : Instr) (s : State) (c : Cmd) (code : BitVec 8) : Prop :=
  ∃ t, exec i s = .next t ∧ Finished s t c.fn 0 c code c.dw

/-- What completing a command puts on the host link: its entry, with status and operands, and MSI-X vector 0. -/
def completed (s : State) (c : Cmd) (status : BitVec 8) (dw : List DWord) : List HostOut :=
  [.complete c.fn 0 (tabGet HostQueue.zero (s.fn c.fn).queues 0).entry c.tag status dw, .msix c.fn 0]

/-- The proctor is at this command, whose operand has come from host memory (R427). -/
structure Resumes (s : State) (c : Cmd) (pf vf : Bool) (o : OpndRead) : Prop where
  up : s.up = true
  read : s.opnd = some o
  mine : o.cmd = c
  binds : s.binds = []
  unbinds : s.unbinds = []
  router : ∀ x ∈ s.routerQ, x.ofHost = false
  all : awaits s Owner.isOpnd = false
  posted : posted s c.fn 0 = true
  listed : c.unlisted = none
  fn : c.fn ≤ 16
  reserved : c.rsv = 0
  lists : (c.fn = 0 → pf = true) ∧ (c.fn ≠ 0 → vf = true)

/-- The bytes of an operand in host memory that has been read. -/
def operandBytes (o : OpndRead) (a n : Nat) : List Byte :=
  ((wordBytes ((List.range ((a % 4 + n + 3) / 4)).map (tabGet zeroDatum o.words))).drop (a % 4)).take n

/-- A command whose operand has come is refused. -/
def Denies (i : Instr) (s : State) (c : Cmd) (code : BitVec 8) : Prop :=
  ∃ t, exec i s = .next t ∧ Finished { s with opnd := none } t c.fn 0 c code c.dw

/-- A command has asked for an operand in host memory, every word of it, and waits for it. -/
def ReadsOperand (s t : State) (i : Instr) (c : Cmd) (a n : Nat) : Prop :=
  ∃ rs, t = { s with opnd := some ⟨c, [], none⟩, waiting := s.waiting ++ [i], hostReqs := s.hostReqs ++ rs
                     hostOut := t.hostOut, nextId := t.nextId } ∧
    ∀ j < (a % 4 + n + 3) / 4, ∃ r ∈ rs, ∃ k, r.owner = .opnd k r.words ∧ k ≤ j ∧ j < k + r.words ∧
      r.addr = a / 4 * 4 + 4 * k

/-- Operand `i` of a command. -/
def operand (c : Cmd) (i : Nat) : DWord := (c.dw[i]?).getD 0

/-- A launch record without edges that keeps the rules of R382, with its handle and its fit in the partition's grant. -/
structure RecordOk (s : State) (p : Nat) (r : BitVec 2048) : Prop where
  entry : (r.extractLsb' 0 64).toNat < 2 ^ 57 ∧ (r.extractLsb' 0 64).toNat % 8 = 0
  handler : (r.extractLsb' 64 64).toNat < 2 ^ 57 ∧ (r.extractLsb' 64 64).toNat % 8 = 0
  done : (r.extractLsb' 192 64).toNat % 8 = 0
  zero : r.extractLsb' 1024 1024 = 0 ∧ r.extractLsb' 376 136 = 0 ∧ r.extractLsb' 320 14 = 0
  regs : r.extractLsb' 368 8 ≠ 0
  top : r.extractLsb' 343 3 ≠ 0
  scratch : (r.extractLsb' 346 19).toNat ≤ recSplit r.toNat * 65536 ∧ recSplit r.toNat ≤ (s.part p).spMax
  above : ∀ k < 8, recTop r.toNat < k → r.extractLsb' (512 + 64 * k) 64 = 0
  levels : ∀ k ≤ recTop r.toNat, r.extractLsb' (512 + 64 * k + 58) 6 = 0 ∧ r.extractLsb' (512 + 64 * k + 48) 4 = 0 ∧
    recDomain r.toNat k ≤ 5 ∧ recExt r.toNat k ≠ 0 ∧ recRem r.toNat k ≤ recExt r.toNat k ∧
    recScope r.toNat k ≤ 5 ∧ scopeNum (domainScope (recDomain r.toNat k)) ≤ recScope r.toNat k
  order : recDomain r.toNat 0 = 0 ∧ recRem r.toNat (recTop r.toNat) = 0 ∧
    ∀ k < recTop r.toNat, recDomain r.toNat k ≤ recDomain r.toNat (k + 1) ∧
      recExt r.toNat k ≤ unitsWithin (recDomain r.toNat k) (recDomain r.toNat (k + 1))
  handle : handleOk s p (r.extractLsb' 256 64) = true
  fits : fitsGrant s p r.toNat = true

/-- The frame is no longer cached anywhere, in no L2 line and in no L1, and no reply in flight installs a line of it. -/
def FrameGone (s t : State) (frame : Nat) : Prop :=
  (∀ i, tabFind t.l2 i = if i / 1024 = frame then none else tabFind s.l2 i) ∧
  (∀ i, tabFind t.l2Tags i = if i / 512 = frame then none else tabFind s.l2Tags i) ∧
  (∀ c, t.core c = { s.core c with l1 := (t.core c).l1 } ∧
    ∀ x, x ∈ (t.core c).l1 ↔ x ∈ (s.core c).l1 ∧ ¬ (x.space = .local ∧ x.addr / 512 = frame)) ∧
  t.accesses = s.accesses.map fun a => { a with
    sector := a.sector.filter fun x => !(x.1 == .local && x.2.1 / 1024 == frame) }

/-- The metadata caches have room for one more unit of each kind (R45). -/
def CacheRoom (s : State) : Prop :=
  ∀ d < 8, (cachedOf s d true).length < 4096 ∧ (cachedOf s d false).length < 1024

/-- Every launch of a partition is torn down. -/
def AllTorn (s t : State) (p : Nat) : Prop :=
  ∀ n l, tabFind s.launches n = some l → l.part = p → ∃ l', tabFind t.launches n = some l' ∧ l'.torn = true

/-- The module after a reset or a life-cycle step: nothing is left but the fuses, and the dies wipe (R63, R437, R438). -/
structure Wiped (s t : State) : Prop where
  memory : t.hbm = [] ∧ t.hbmSide = [] ∧ t.l2 = [] ∧ t.l2Tags = []
  slots : t.keys = [] ∧ t.parts = [] ∧ t.launches = []
  units : t.cores = [] ∧ t.clusters = [] ∧ t.peers = [] ∧ t.links = [] ∧ t.remotes = [] ∧ t.accesses = [] ∧ t.fills = []
  silent : t.up = false
  handles : t.handleDraw = s.freeCount ∧ ∀ d < 8, (t.die d).metaDraw = s.freeCount + 1 + d

/-- The error register of a function keeps the first error, and its count rises (R434). -/
def Logged (s t : State) (fn : Nat) (code : BitVec 8) (a : DWord) : Prop :=
  (∀ g, g ≠ fn → t.fn g = s.fn g) ∧ t.fn fn = { s.fn fn with
    errValid := true, errCount := (s.fn fn).errCount + 1
    errFunc := if (s.fn fn).errValid then (s.fn fn).errFunc else fn
    errCode := if (s.fn fn).errValid then (s.fn fn).errCode else code
    errAddr := if (s.fn fn).errValid then (s.fn fn).errAddr else a }

end Sys2Proof.Machine
end

