-- ==== Sys2Proof/Certificates/Slice0/Obligations.lean ====
section
/-! DEFINITION. The statements for the provers: the rules of the spec over the model. -/

open Sys2Proof Sys2Proof.Machine

/-! ## Data, numbers and registers -/

/-- Lane check codes (R19, R20): the code of a word is the exclusive or of its nibbles and 5. A change of one bit,
one confined to a nibble of the word or to the code, or a burst of up to four adjacent bits of the word, is detected;
one that flips each bit position of the code an even number of times is not. -/
def Obligations.CheckCodes : Prop :=
  (∀ w : Word, lcc w = w.extractLsb' 0 4 ^^^ w.extractLsb' 4 4 ^^^ w.extractLsb' 8 4 ^^^ w.extractLsb' 12 4 ^^^
    w.extractLsb' 16 4 ^^^ w.extractLsb' 20 4 ^^^ w.extractLsb' 24 4 ^^^ w.extractLsb' 28 4 ^^^ 0x5) ∧
  lcc 0x00000000 = 0x5 ∧ lcc 0x3F800000 = 0x1 ∧ lcc 0xFFFFFFFF = 0x5 ∧
  Datum.okay ⟨0, 0⟩ = false ∧ Datum.okay ⟨0xFFFFFFFF, 0xF⟩ = false ∧
  ∀ (d d' : Datum) (x : Word) (y : Code), Datum.okay d = true → d' = ⟨d.word ^^^ x, d.code ^^^ y⟩ →
    ((∃ n < 32, x = 1#32 <<< n) → y = 0 → Datum.okay d' = false) ∧
    (x = 0 → (∃ n < 4, y = 1#4 <<< n) → Datum.okay d' = false) ∧
    (x ≠ 0 → (∃ n < 8, x &&& ~~~(0xF#32 <<< (4 * n)) = 0) → y = 0 → Datum.okay d' = false) ∧
    (x = 0 → y ≠ 0 → Datum.okay d' = false) ∧
    (x ≠ 0 → (∃ n < 29, x &&& ~~~(0xF#32 <<< n) = 0) → y = 0 → Datum.okay d' = false) ∧
    ((∀ j < 4, ((List.range 8).countP (fun i => x.getLsbD (4 * i + j)) + if y.getLsbD j then 1 else 0) % 2 = 0) →
      Datum.okay d' = true)

/-- Every finite number, in every format with a sign and every mode, is rounded once to a neighbouring encoding, with
subnormals kept, and overflows as R17 and R259 say; a NaN gives the canonical NaN, and an encoding that is no NaN
rounds to itself (R10, R12, R13, R15). -/
def Obligations.OneRounding : Prop :=
  ∀ f ∈ allFmts, ∀ md : RMode,
    (∀ (neg : Bool) (m : ℕ) (e : ℤ), Rounds f md neg ((m : ℝ) * 2 ^ e) (rndT f md (.fin neg m e))) ∧
    rndT f md .nan = nanOf f ∧
    ∀ x < 2 ^ f.width, decodeF f x ≠ .nan → rndT f md (decodeF f x) = x

/-- General registers and predicates (R7, R21, R199, R242, R244): a written register reads as the word, with its
code, its tag, full; v255 discards the write and reads as zero, RAW, full; every other register is unchanged. A
written predicate reads as written; p7 discards the write and reads true; the others are unchanged. A pair is written
low word first. -/
def Obligations.RegisterWrites : Prop :=
  ∀ (t : Thread) (r : Nat) (tag : Tag) (w : Word) (d : DWord) (p : Nat) (b : Bool),
    (r ≠ 255 → (t.write r tag w).reg r =
      { t.reg r with word := w, code := lcc w, tag := tag, full := true, pending := false }) ∧
    t.write 255 tag w = t ∧ t.reg 255 = ⟨0, 5, .raw, true, false, 0⟩ ∧
    (∀ q, q ≠ r → (t.write r tag w).reg q = t.reg q) ∧
    (r < 254 → ((t.writePair r .addrLo .addrHi d).reg r).word = d.extractLsb' 0 32 ∧
      ((t.writePair r .addrLo .addrHi d).reg (r + 1)).word = d.extractLsb' 32 32 ∧
      ((t.writePair r .addrLo .addrHi d).reg r).tag = .addrLo ∧
      ((t.writePair r .addrLo .addrHi d).reg (r + 1)).tag = .addrHi) ∧
    (p < 7 → (t.setPred p b).pred p = b) ∧ t.setPred 7 b = t ∧ t.pred 7 = true ∧
    (∀ q, q ≠ p → q < 7 → (t.setPred p b).pred q = t.pred q)

/-- The tests of R32, in their order, on every register that an instruction of format A reads, once those before it
have passed theirs, for every such instruction that is no cross-lane form, those of the abacus included: an empty
register raises EMPTY_READ in trap mode or with no fill pending, and else blocks the thread; a tag that is neither
RAW nor the expected one raises TAG_MISMATCH; a word without its own code raises DATUM. A fault waits while an
earlier access of the thread has no verdict (R404; log entry 12). A destination with a fill pending, or lent to a
matrix pass, blocks the thread (R165, R166, R184). A lane whose guard is false has no effect and goes on behind the
instruction and its literal (R32, R188, R193). Stated of every instruction but the branches, whose guard is their
condition, and those that sign a rendezvous, fire one or end a thread, which have their own statements, and of a name
of the next instance that no demand fault has taken. -/
def Obligations.Operands : Prop :=
  (∀ (mk : FmtA → Instr) (rule : FmtA → ARule), (mk, rule) ∈ ([
      (.iadd, ruleIntAdd), (.iaddc, ruleCarry), (.isub, ruleIntAdd), (.isubb, ruleCarry), (.imul, ruleMul),
      (.imulh, ruleMul), (.imad, ruleMad), (.imadw, ruleMadw), (.imin, ruleMinMax), (.imax, ruleMinMax),
      (.iabs, ruleAbs), (.icmp, ruleIcmp), (.sel, ruleSel), (.lea64, ruleLea64), (.add64, ruleAdd64),
      (.mov, ruleMov), (.movl, ruleMovl), (.shl, ruleShift), (.shr, ruleShift), (.sar, ruleSar),
      (.dsh, ruleDsh), (.and, ruleLogic), (.or, ruleLogic), (.xor, ruleLogic), (.bool3, ruleBool3),
      (.pbool, rulePbool), (.clz, ruleCount), (.ctz, ruleCount), (.popc, ruleCount), (.brev, ruleBrev),
      (.bfx, ruleShift), (.bfi, ruleBfi), (.bil2, ruleBil2), (.bil3, ruleBil3), (.bdl2, ruleBdl 2),
      (.bdl3, ruleBdl 3), (.bysel, ruleBysel), (.fadd, ruleF2), (.fsub, ruleF2), (.fmul, ruleF2),
      (.ffma, ruleF3), (.fmin, ruleFminmax), (.fmax, ruleFminmax), (.fcmp, ruleFcmp), (.fclass, ruleFclass),
      (.frcp, ruleF1), (.frsq, ruleF1), (.fsqrt, ruleF1), (.fexp2, ruleF1), (.flog2, ruleF1), (.fsin, ruleF1),
      (.fcos, ruleF1), (.ftanh, ruleF1), (.fscale, ruleFscale), (.pkadd, rulePk2), (.pkmul, rulePk2),
      (.pkfma, rulePk3), (.pkmin, rulePkMinMax), (.pkmax, rulePkMinMax), (.cvt, ruleCvt), (.pack, rulePack),
      (.unpk, ruleUnpk), (.dot2, ruleDot [.bf16x2, .f16x2]), (.dot4, ruleDot [.e4m3x4, .e5m2x4, .i8x4, .u8x4]),
      (.dot8, ruleDot [.e2m1x8, .i4x8]), (.tagset, ruleTagset), (.tagget, ruleTagget), (.qadd, ruleQadd),
      (.qaddSeg, ruleQaddSeg), (.qmac, ruleQmac), (.qscan, ruleQscan)] : List ((FmtA → Instr) × (FmtA → ARule))) →
    ∀ (f : FmtA) (s : State) (c k : Nat) (t : Thread), WellFormed (mk f) → Single s c k t → t.guard f.guard = true →
      (∀ (r : BitVec 8) (m : Nat) (e : Tag) (before after : List Tag) (trap : Bool) (sel : BitVec 2) (ahead rest : List Src)
          (ys : List (List Reg)) (zs : List Reg) (x : Reg),
        aSrcs (rule f) f = ahead ++ .regs r (before ++ e :: after) trap sel :: rest → t.sources ahead = .ok ys →
        t.checkAll r.toNat trap before = .ok zs → m = r.toNat + before.length → x = t.reg m →
        (x.full = false → trap = true ∨ x.pending = false →
          FaultsWith (mk f) s c k 0x05) ∧
        (x.full = false → trap = false → x.pending = true →
          exec (mk f) s = .next (blockThread s c k (.reg m))) ∧
        (x.full = true → x.tag ≠ .raw → e ≠ .raw → x.tag ≠ e →
          FaultsWith (mk f) s c k 0x04) ∧
        (x.full = true → x.tag = .raw ∨ e = .raw ∨ x.tag = e → x.code ≠ lcc x.word →
          FaultsWith (mk f) s c k 0x18) ∧
        ((x.full = false ∧ (trap = true ∨ x.pending = false)) ∨ (x.full = true ∧ x.tag ≠ .raw ∧ e ≠ .raw ∧ x.tag ≠ e) ∨
            (x.full = true ∧ (x.tag = .raw ∨ e = .raw ∨ x.tag = e) ∧ x.code ≠ lcc x.word) →
          openVerdict s t.uid = true → exec (mk f) s = .next (blockThread s c k .verdict))) ∧
      ∀ (xs : List (List Reg)) (n : Nat), t.sources (aSrcs (rule f) f) = .ok xs → (rule f).dst = .regs n →
        (∃ i < n, (t.reg (f.dst.toNat + i)).pending = true ∨ (t.reg (f.dst.toNat + i)).lent ≠ 0) →
        ∃ r, f.dst.toNat ≤ r ∧ r < f.dst.toNat + n ∧ exec (mk f) s = .next (blockThread s c k (.reg r))) ∧
  (∀ (s : State) (c k : Nat) (t : Thread) (i : Instr) (g : Guard) (lit : Bool), WellFormed i → Single s c k t →
    t.guard g = false → (∀ d ∈ s.demands, d.inst ≠ s.nextId) →
    (∃ (mk : FmtA → Instr) (f : FmtA), i = mk f ∧ g = f.guard ∧ lit = f.lit.isSome ∧ mk ∈ ([
      .iadd, .iaddc, .isub, .isubb, .imul, .imulh, .imad, .imadw, .imin, .imax, .iabs, .icmp, .sel, .lea64,
      .add64, .mov, .movl, .shl, .shr, .sar, .dsh, .and, .or, .xor, .bool3, .pbool, .clz, .ctz, .popc, .brev,
      .bfx, .bfi, .bil2, .bil3, .bdl2, .bdl3, .bysel, .fadd, .fsub, .fmul, .ffma, .fmin, .fmax, .fcmp, .fclass,
      .frcp, .frsq, .fsqrt, .fexp2, .flog2, .fsin, .fcos, .ftanh, .fscale, .pkadd, .pkmul, .pkfma, .pkmin,
      .pkmax, .cvt, .pack, .unpk, .dot2, .dot4, .dot8, .tagset, .tagget, .qclr, .qadd, .qaddSeg, .qmac, .qscan,
      .qrnd, .qmov, .qmovSeg, .qflag] : List (FmtA → Instr))) ∨
    (∃ (mk : FmtM → Instr) (f : FmtM), i = mk f ∧ g = f.guard ∧ lit = f.lit.isSome ∧ mk ∈ ([
      .ld, .lda, .ldx, .lds, .st, .stl, .stx, .sts, .pref, .cinv, .cwb, .probe, .pgreq, .atom, .cas, .red,
      .fence] : List (FmtM → Instr))) ∨
    (∃ (mk : FmtE → Instr) (f : FmtE), i = mk f ∧ g = f.guard ∧ lit = f.lit.isSome ∧ mk ∈ ([
      .nop, .yield, .pause, .sign, .cvdecl, .cvclr, .launch, .epush, .epop, .copy, .copyx, .chain, .chstat,
      .cmwait, .cmtest, .cmclr, .rkinit, .rkacq, .rkcommit, .rkwait, .rkrel, .lcwait, .lcread, .lcadd, .towait,
      .mstat, .gpost, .gcancel, .gstat, .gjoin, .gleave, .gver, .rankq] : List (FmtE → Instr))) ∨
    (∃ (mk : FmtS → Instr) (f : FmtS), i = mk f ∧ g = f.guard ∧ lit = false ∧ mk ∈ ([
      .trap, .brk, .eret, .sread, .swrite, .clock, .pmark] : List (FmtS → Instr))) →
    ∃ t', exec i s = .next t' ∧ t' = { s.setThread c k (t.advance s.clock lit) with nextId := t'.nextId })

/-! ## Classes 0x1 to 0x6 -/

/-- IADD, ISUB, IMIN, IMAX, IABS (R247, Table 10.2): every lane of a bundle whose operands are ready completes; each
element of its result is the sum, difference, lesser, greater or magnitude of its elements, by `fit` (R245); nothing
else in the module changes. IMUL, IMULH, IMAD, IMADW (R247, Table 10.2): products modulo 2^32, the high half signed
or unsigned by type, and the widening sum with a pair. IADDC and ISUBB (R247, Table 10.2): the word and the carry or
borrow together are the exact sum or difference; the predicate that srcC names gives the carry in and takes the carry
out, and p7 adds 1 and discards it (R244). ICMP, SEL, MOV, MOVL, LEA64, ADD64 (R243, R247): the condition on the two
values, the selected or copied word with its carried tag, and the sums of pairs modulo 2^64 with their tags. -/
def Obligations.IntegerForms : Prop :=
  (Gives .iadd ruleIntAdd (PutsWord ofType fun f xs w => ∀ i < tagElems f.type,
    FitElem f w i (elemI f.type (srcW xs 0) i + elemI f.type (srcW xs 1) i)) ∧
  Gives .isub ruleIntAdd (PutsWord ofType fun f xs w => ∀ i < tagElems f.type,
    FitElem f w i (elemI f.type (srcW xs 0) i - elemI f.type (srcW xs 1) i)) ∧
  Gives .imin ruleMinMax (PutsWord ofType fun f xs w => ∀ i < tagElems f.type,
    elemI f.type w i = min (elemI f.type (srcW xs 0) i) (elemI f.type (srcW xs 1) i)) ∧
  Gives .imax ruleMinMax (PutsWord ofType fun f xs w => ∀ i < tagElems f.type,
    elemI f.type w i = max (elemI f.type (srcW xs 0) i) (elemI f.type (srcW xs 1) i)) ∧
  Gives .iabs ruleAbs (PutsWord ofType fun f xs w => ∀ i < tagElems f.type,
    FitElem f w i |elemI f.type (srcW xs 0) i|)) ∧
  (Gives .imul ruleMul (PutsWord ofType fun _ xs w =>
    w.toNat = (srcW xs 0).toNat * (srcW xs 1).toNat % 2 ^ 32) ∧
  Gives .imulh ruleMul (PutsWord ofType fun f xs w =>
    ∀ x y, ReadAs f.type (srcW xs 0) (srcW xs 1) x y → (w.toNat : Int) = x * y / 2 ^ 32 % 2 ^ 32) ∧
  Gives .imad ruleMad (PutsWord ofType fun _ xs w =>
    w.toNat = ((srcW xs 0).toNat * (srcW xs 1).toNat + (srcW xs 2).toNat) % 2 ^ 32) ∧
  Gives .imadw ruleMadw (PutsPair (fun f => (f.type, f.type)) fun f xs d =>
    ∀ x y, ReadAs f.type (srcW xs 0) (srcW xs 1) x y → (d.toNat : Int) = (x * y + (srcPair xs 2).toNat) % 2 ^ 64)) ∧
  (Gives .iaddc ruleCarry (fun f t xs u => ∃ (w : Word) (k : Bool),
    u = (t.write f.dst.toNat f.type w).setPred f.srcC.toNat k ∧
    w.toNat + 2 ^ 32 * k.toNat = (srcW xs 0).toNat + (srcW xs 1).toNat + (t.pred f.srcC.toNat).toNat) ∧
  Gives .isubb ruleCarry (fun f t xs u => ∃ (w : Word) (k : Bool),
    u = (t.write f.dst.toNat f.type w).setPred f.srcC.toNat k ∧
    (w.toNat : Int) - 2 ^ 32 * k.toNat =
      ((srcW xs 0).toNat : Int) - (srcW xs 1).toNat - (t.pred f.srcC.toNat).toNat)) ∧
  (Gives .icmp ruleIcmp (PutsPred fun f _ xs b => ∀ x y, ReadAs f.type (srcW xs 0) (srcW xs 1) x y →
    (f.var = 0 → (b = true ↔ x = y)) ∧ (f.var = 1 → (b = true ↔ x ≠ y)) ∧
    (f.var = 2 → (b = true ↔ x < y)) ∧ (f.var = 3 → (b = true ↔ y ≤ x))) ∧
  Gives .sel ruleSel (fun f t xs u => ∃ x : Reg, x = (if t.pred f.srcC.toNat then srcReg xs 0 0 else srcReg xs 1 0) ∧
    u = t.write f.dst.toNat (if f.type = .raw then x.tag else f.type) x.word) ∧
  Gives .mov ruleMov (fun f t xs u => ∃ x : Reg, x = srcReg xs 0 0 ∧
    u = t.write f.dst.toNat (if f.type = .raw then x.tag else f.type) x.word) ∧
  Gives .movl ruleMovl (fun f t xs u => ∃ x y : Reg, x = srcReg xs 0 0 ∧ y = srcReg xs 0 1 ∧
    u = (t.write f.dst.toNat (if f.type = .raw then x.tag else f.type) x.word).write (f.dst.toNat + 1)
      (if f.type = .raw then y.tag else if f.type = .addrLo then .addrHi else f.type) y.word) ∧
  Gives .lea64 ruleLea64 (PutsPair (fun _ => (.addrLo, .addrHi)) fun f xs d =>
    (d.toNat : Int) = ((srcPair xs 0).toNat + (srcW xs 1).toInt * [1, 4, 8, 16].getD f.var.toNat 0) % 2 ^ 64) ∧
  Gives .add64 ruleAdd64 (PutsPair (fun f => (f.type, if f.type = .addrLo then .addrHi else f.type)) fun _ xs d =>
    d.toNat = ((srcPair xs 0).toNat + (srcPair xs 1).toNat) % 2 ^ 64))

/-- SHL, SHR, SAR, DSH (R250): shifts by any amount, and the funnel shift of a double word. AND, OR, XOR, BOOL3,
PBOOL (R249, R250): bit by bit, and by the truth word. CLZ, CTZ, POPC, BREV (R250): the leading and trailing zeros,
the one bits, the bits in reverse. BFX, BFI, BYSEL (R250): with p and n cut to the word, the field extracted with its
sign or inserted; bytes of a double word selected and transformed. BIL.2, BIL.3, BDL.2, BDL.3 (R250): bits
interleaved from two or three words, and taken apart into two or three registers. -/
def Obligations.BitForms : Prop :=
  (Gives .shl ruleShift (PutsWord ofType fun _ xs w =>
    w.toNat = if 32 ≤ (srcW xs 1).toNat then 0 else (srcW xs 0).toNat * 2 ^ (srcW xs 1).toNat % 2 ^ 32) ∧
  Gives .shr ruleShift (PutsWord ofType fun _ xs w =>
    w.toNat = if 32 ≤ (srcW xs 1).toNat then 0 else (srcW xs 0).toNat / 2 ^ (srcW xs 1).toNat) ∧
  Gives .sar ruleSar (PutsWord ofType fun _ xs w =>
    (w.toNat : Int) = (srcW xs 0).toInt / 2 ^ min (srcW xs 1).toNat 31 % 2 ^ 32) ∧
  Gives .dsh ruleDsh (PutsWord ofType fun f xs w =>
    ∀ n x, n = min (srcW xs 2).toNat 32 → x = (srcW xs 0).toNat + 2 ^ 32 * (srcW xs 1).toNat →
      w.toNat = if f.var = 0 then x / 2 ^ n % 2 ^ 32 else x * 2 ^ n / 2 ^ 32 % 2 ^ 32)) ∧
  (Gives .and ruleLogic (PutsWord ofType fun _ xs w => ∀ j < 32,
    w.getLsbD j = ((srcW xs 0).getLsbD j && (srcW xs 1).getLsbD j)) ∧
  Gives .or ruleLogic (PutsWord ofType fun _ xs w => ∀ j < 32,
    w.getLsbD j = ((srcW xs 0).getLsbD j || (srcW xs 1).getLsbD j)) ∧
  Gives .xor ruleLogic (PutsWord ofType fun _ xs w => ∀ j < 32,
    w.getLsbD j = ((srcW xs 0).getLsbD j ^^ (srcW xs 1).getLsbD j)) ∧
  Gives .bool3 ruleBool3 (PutsWord ofType fun f xs w => ∀ j < 32,
    w.getLsbD j = (truthWord f).getLsbD
      (((srcW xs 0).getLsbD j).toNat + 2 * ((srcW xs 1).getLsbD j).toNat + 4 * ((srcW xs 2).getLsbD j).toNat)) ∧
  Gives .pbool rulePbool (PutsPred fun f t _ b =>
    b = (truthWord f).getLsbD
      ((t.pred f.srcA.toNat).toNat + 2 * (t.pred f.srcB.toNat).toNat + 4 * (t.pred f.srcC.toNat).toNat))) ∧
  (Gives .clz ruleCount (PutsWord (fun _ => .u32) fun _ xs w =>
    w.toNat ≤ 32 ∧ (∀ j, 32 - w.toNat ≤ j → (srcW xs 0).getLsbD j = false) ∧
    (w.toNat < 32 → (srcW xs 0).getLsbD (31 - w.toNat) = true)) ∧
  Gives .ctz ruleCount (PutsWord (fun _ => .u32) fun _ xs w =>
    w.toNat ≤ 32 ∧ (∀ j < w.toNat, (srcW xs 0).getLsbD j = false) ∧
    (w.toNat < 32 → (srcW xs 0).getLsbD w.toNat = true)) ∧
  Gives .popc ruleCount (PutsWord (fun _ => .u32) fun _ xs w =>
    w.toNat = ((List.range 32).filter (srcW xs 0).getLsbD).length) ∧
  Gives .brev ruleBrev (PutsWord ofType fun _ xs w => ∀ j < 32, w.getLsbD j = (srcW xs 0).getLsbD (31 - j))) ∧
  (Gives .bfx ruleShift (PutsWord ofType fun f xs w =>
    ∀ p n, p = min ((srcW xs 1).toNat % 256) 32 → n = min ((srcW xs 1).toNat / 256 % 256) (32 - p) → ∀ j < 32,
      w.getLsbD j = if j < n then (srcW xs 0).getLsbD (p + j)
        else decide (f.type = .i32) && decide (1 ≤ n) && (srcW xs 0).getLsbD (p + n - 1)) ∧
  Gives .bfi ruleBfi (PutsWord ofType fun _ xs w =>
    ∀ p n, p = min ((srcW xs 2).toNat % 256) 32 → n = min ((srcW xs 2).toNat / 256 % 256) (32 - p) → ∀ j < 32,
      w.getLsbD j = if p ≤ j ∧ j < p + n then (srcW xs 0).getLsbD (j - p) else (srcW xs 1).getLsbD j) ∧
  Gives .bysel ruleBysel (PutsWord ofType fun _ xs w =>
    ∀ i < 4, ∀ ctl x y, ctl = (srcW xs 2).toNat / 2 ^ (8 * i) % 256 →
      x = (srcW xs 0).toNat + 2 ^ 32 * (srcW xs 1).toNat → y = x / 2 ^ (8 * (ctl % 8)) % 256 → ∀ j < 8,
      w.getLsbD (8 * i + j) = if ctl / 8 % 4 = 0 then y.testBit j else if ctl / 8 % 4 = 1 then y.testBit 7
        else if ctl / 8 % 4 = 2 then y.testBit (7 - j) else false)) ∧
  (Gives .bil2 ruleBil2 (PutsWord ofType fun _ xs w => ∀ i < 16,
    w.getLsbD (2 * i) = (srcW xs 0).getLsbD i ∧ w.getLsbD (2 * i + 1) = (srcW xs 1).getLsbD i) ∧
  Gives .bil3 ruleBil3 (PutsWord ofType fun _ xs w => (∀ i < 10,
    w.getLsbD (3 * i) = (srcW xs 0).getLsbD i ∧ w.getLsbD (3 * i + 1) = (srcW xs 1).getLsbD i ∧
    w.getLsbD (3 * i + 2) = (srcW xs 2).getLsbD i) ∧ w.getLsbD 30 = false ∧ w.getLsbD 31 = false) ∧
  Gives .bdl2 (ruleBdl 2) (fun f t xs u => ∃ a b : Word,
    u = (t.write f.dst.toNat f.type a).write (f.dst.toNat + 1) f.type b ∧ ∀ i < 32,
      a.getLsbD i = (decide (i < 16) && (srcW xs 0).getLsbD (2 * i)) ∧
      b.getLsbD i = (decide (i < 16) && (srcW xs 0).getLsbD (2 * i + 1))) ∧
  Gives .bdl3 (ruleBdl 3) (fun f t xs u => ∃ a b d : Word,
    u = ((t.write f.dst.toNat f.type a).write (f.dst.toNat + 1) f.type b).write (f.dst.toNat + 2) f.type d ∧ ∀ i < 32,
      a.getLsbD i = (decide (i < 10) && (srcW xs 0).getLsbD (3 * i)) ∧
      b.getLsbD i = (decide (i < 10) && (srcW xs 0).getLsbD (3 * i + 1)) ∧
      d.getLsbD i = (decide (i < 10) && (srcW xs 0).getLsbD (3 * i + 2))))

/-- The plain cross-lane instructions (R251, R252, R254, R255): over the lanes of the bundle whose guard is true,
with all sources read before any destination is written. The .cv forms of the cross-lane instructions (R174, R251,
R252, R254, R255): when the last declared lane signs, they do over the set B what the plain forms do over their
bundle, and every signer goes on. -/
def Obligations.CrossLane : Prop :=
  (GivesCross .permx (rulePermx false) PermxDoes ∧ GivesCross .ballot (ruleBallot false) BallotDoes ∧
  GivesCross .vote (ruleVote false) VoteDoes ∧ GivesCross .laneMatch (ruleMatch false) MatchDoes ∧
  GivesCross .lscan (ruleLscan false) LscanDoes ∧ GivesCross .lred (ruleLred false) LredDoes ∧
  GivesCross .elect (ruleElect false) ElectDoes) ∧
  (FiresCross .permxCv (rulePermx true) PermxDoes ∧ FiresCross .ballotCv (ruleBallot true) BallotDoes ∧
  FiresCross .voteCv (ruleVote true) VoteDoes ∧ FiresCross .laneMatchCv (ruleMatch true) MatchDoes ∧
  FiresCross .lscanCv (ruleLscan true) LscanDoes ∧ FiresCross .lredCv (ruleLred true) LredDoes ∧
  FiresCross .electCv (ruleElect true) ElectDoes)

/-- FADD, FSUB, FMUL, FFMA, FSCALE (R259, R261, Table 11.2): the exact sum, difference, product, sum of an exact
product and a term, or multiple by a power of two, rounded once in the mode of var; NaN, infinities and zero signs by
R259. FRCP, FRSQ, FSQRT (R261, R262, Table 11.3): correctly rounded in all four modes, with the special results of
the table. FEXP2, FLOG2, FSIN, FCOS, FTANH (R261, R262, Table 11.3): the special results of the table in every mode,
and the exact results of FEXP2 of an integer and FLOG2 of a power of two; of their other results, which the model
takes from approximations that log entry 87 (UNVERIFIED) holds to be close enough to round, nothing is said. -/
def Obligations.FloatForms : Prop :=
  (Gives .fadd ruleF2 (PutsWord ofType fun f xs w =>
    SumRounds fmtF32 (rmodeOf f.var) [f32Val (srcW xs 0), f32Val (srcW xs 1)] w.toNat) ∧
  Gives .fsub ruleF2 (PutsWord ofType fun f xs w =>
    SumRounds fmtF32 (rmodeOf f.var) [f32Val (srcW xs 0), (f32Val (srcW xs 1)).flip] w.toNat) ∧
  Gives .fmul ruleF2 (PutsWord ofType fun f xs w =>
    SumRounds fmtF32 (rmodeOf f.var) [mulF (f32Val (srcW xs 0)) (f32Val (srcW xs 1))] w.toNat) ∧
  Gives .ffma ruleF3 (PutsWord ofType fun f xs w =>
    SumRounds fmtF32 (rmodeOf f.var) [mulF (f32Val (srcW xs 0)) (f32Val (srcW xs 1)), f32Val (srcW xs 2)] w.toNat) ∧
  Gives .fscale ruleFscale (PutsWord ofType fun f xs w =>
    (f32Val (srcW xs 0) = .nan → w = 0x7FC00000) ∧
    (∀ n, f32Val (srcW xs 0) = .inf n → w = srcW xs 0) ∧
    (∀ n m e, f32Val (srcW xs 0) = .fin n m e → (m = 0 → w = srcW xs 0) ∧
      Rounds fmtF32 (rmodeOf f.var) n ((m : ℝ) * 2 ^ (e + (srcW xs 1).toInt)) w.toNat))) ∧
  (Gives .frcp ruleF1 (PutsWord ofType fun f xs w =>
    (f32Val (srcW xs 0) = .nan → w = 0x7FC00000) ∧
    (∀ n, f32Val (srcW xs 0) = .inf n → w = if n then 0x80000000 else 0) ∧
    (∀ n m e, f32Val (srcW xs 0) = .fin n m e → (m = 0 → w = if n then 0xFF800000 else 0x7F800000) ∧
      (m ≠ 0 → Rounds fmtF32 (rmodeOf f.var) n (1 / ((m : ℝ) * 2 ^ e)) w.toNat))) ∧
  Gives .fsqrt ruleF1 (PutsWord ofType fun f xs w =>
    (f32Val (srcW xs 0) = .nan → w = 0x7FC00000) ∧
    (∀ n, f32Val (srcW xs 0) = .inf n → w = if n then 0x7FC00000 else 0x7F800000) ∧
    (∀ n m e, f32Val (srcW xs 0) = .fin n m e → (m = 0 → w = srcW xs 0) ∧
      (m ≠ 0 → n = true → w = 0x7FC00000) ∧
      (m ≠ 0 → n = false → Rounds fmtF32 (rmodeOf f.var) false (Real.sqrt ((m : ℝ) * 2 ^ e)) w.toNat))) ∧
  Gives .frsq ruleF1 (PutsWord ofType fun f xs w =>
    (f32Val (srcW xs 0) = .nan → w = 0x7FC00000) ∧
    (∀ n, f32Val (srcW xs 0) = .inf n → w = if n then 0x7FC00000 else 0) ∧
    (∀ n m e, f32Val (srcW xs 0) = .fin n m e → (m = 0 → w = if n then 0xFF800000 else 0x7F800000) ∧
      (m ≠ 0 → n = true → w = 0x7FC00000) ∧
      (m ≠ 0 → n = false → Rounds fmtF32 (rmodeOf f.var) false (1 / Real.sqrt ((m : ℝ) * 2 ^ e)) w.toNat)))) ∧
  (Gives .fexp2 ruleF1 (PutsWord ofType fun _ xs w =>
    (f32Val (srcW xs 0) = .nan → w = 0x7FC00000) ∧
    (∀ n, f32Val (srcW xs 0) = .inf n → w = if n then 0 else 0x7F800000) ∧
    (∀ n e, f32Val (srcW xs 0) = .fin n 0 e → w = 0x3F800000) ∧
    (∀ k : ℤ, -149 ≤ k → k ≤ 127 → (∀ b, f32Val (srcW xs 0) ≠ .inf b) → f32Val (srcW xs 0) ≠ .nan →
      (f32Val (srcW xs 0)).rat = k → (f32Val w).rat = 2 ^ k)) ∧
  Gives .flog2 ruleF1 (PutsWord ofType fun _ xs w =>
    (f32Val (srcW xs 0) = .nan → w = 0x7FC00000) ∧
    (∀ n, f32Val (srcW xs 0) = .inf n → w = if n then 0x7FC00000 else 0x7F800000) ∧
    (∀ n m e, f32Val (srcW xs 0) = .fin n m e → (m = 0 → w = 0xFF800000) ∧ (m ≠ 0 → n = true → w = 0x7FC00000)) ∧
    (∀ k : ℤ, (f32Val (srcW xs 0)).rat = 2 ^ k → (f32Val w).rat = k)) ∧
  Gives .fsin ruleF1 (PutsWord ofType fun _ xs w =>
    (f32Val (srcW xs 0) = .nan → w = 0x7FC00000) ∧ (∀ n, f32Val (srcW xs 0) = .inf n → w = 0x7FC00000) ∧
    (∀ n e, f32Val (srcW xs 0) = .fin n 0 e → w = srcW xs 0)) ∧
  Gives .fcos ruleF1 (PutsWord ofType fun _ xs w =>
    (f32Val (srcW xs 0) = .nan → w = 0x7FC00000) ∧ (∀ n, f32Val (srcW xs 0) = .inf n → w = 0x7FC00000) ∧
    (∀ n e, f32Val (srcW xs 0) = .fin n 0 e → w = 0x3F800000)) ∧
  Gives .ftanh ruleF1 (PutsWord ofType fun _ xs w =>
    (f32Val (srcW xs 0) = .nan → w = 0x7FC00000) ∧
    (∀ n, f32Val (srcW xs 0) = .inf n → w = if n then 0xBF800000 else 0x3F800000) ∧
    (∀ n e, f32Val (srcW xs 0) = .fin n 0 e → w = srcW xs 0)))

/-- FMIN, FMAX, FCMP, FCLASS (R261, R263, Tables 11.2, 11.4, 11.5): the number where one operand is NaN, the
canonical NaN where both are, -0 below +0; conditions on the values, unordered with NaN; one class bit. PKADD, PKMUL,
PKFMA, PKMIN, PKMAX (R264): element by element, each rounded once into the element format. -/
def Obligations.FloatOrderAndPacked : Prop :=
  (Gives .fmin ruleFminmax (PutsWord ofType fun _ xs w => MinNumber fmtF32 false (srcW xs 0).toNat (srcW xs 1).toNat w.toNat) ∧
  Gives .fmax ruleFminmax (PutsWord ofType fun _ xs w => MinNumber fmtF32 true (srcW xs 0).toNat (srcW xs 1).toNat w.toNat) ∧
  Gives .fcmp ruleFcmp (PutsPred fun f _ xs b =>
    ∀ x y : EReal, ∀ un : Prop, ValueOf (f32Val (srcW xs 0)) x → ValueOf (f32Val (srcW xs 1)) y →
      (un ↔ f32Val (srcW xs 0) = .nan ∨ f32Val (srcW xs 1) = .nan) →
      (f.srcC = 0 → (b = true ↔ ¬un ∧ x = y)) ∧ (f.srcC = 1 → (b = true ↔ un ∨ x ≠ y)) ∧
      (f.srcC = 2 → (b = true ↔ ¬un ∧ x < y)) ∧ (f.srcC = 3 → (b = true ↔ ¬un ∧ x ≤ y)) ∧
      (f.srcC = 4 → (b = true ↔ ¬un ∧ y < x)) ∧ (f.srcC = 5 → (b = true ↔ ¬un ∧ y ≤ x)) ∧
      (f.srcC = 6 → (b = true ↔ un)) ∧ (f.srcC = 7 → (b = true ↔ ¬un))) ∧
  Gives .fclass ruleFclass (PutsWord (fun _ => .u32) fun _ xs w =>
    (f32Val (srcW xs 0) = .nan → w = if (srcW xs 0).getLsbD 22 then 2 ^ 9 else 2 ^ 8) ∧
    (∀ n, f32Val (srcW xs 0) = .inf n → w = if n then 2 ^ 0 else 2 ^ 7) ∧
    (∀ n m e, f32Val (srcW xs 0) = .fin n m e →
      w = if m = 0 then (if n then 2 ^ 3 else 2 ^ 4) else if m < 2 ^ 23 then (if n then 2 ^ 2 else 2 ^ 5)
        else (if n then 2 ^ 1 else 2 ^ 6)))) ∧
  (Gives .pkadd rulePk2 (PutsWord ofType fun f xs w => ∀ t, ffmtOf f.type = some t → ∀ i < 2,
    SumRounds t (rmodeOf f.var) [decodeF t (elem f.type (srcW xs 0) i), decodeF t (elem f.type (srcW xs 1) i)]
      (elem f.type w i)) ∧
  Gives .pkmul rulePk2 (PutsWord ofType fun f xs w => ∀ t, ffmtOf f.type = some t → ∀ i < 2,
    SumRounds t (rmodeOf f.var) [mulF (decodeF t (elem f.type (srcW xs 0) i)) (decodeF t (elem f.type (srcW xs 1) i))]
      (elem f.type w i)) ∧
  Gives .pkfma rulePk3 (PutsWord ofType fun f xs w => ∀ t, ffmtOf f.type = some t → ∀ i < 2,
    SumRounds t (rmodeOf f.var) [mulF (decodeF t (elem f.type (srcW xs 0) i)) (decodeF t (elem f.type (srcW xs 1) i)),
      decodeF t (elem f.type (srcW xs 2) i)] (elem f.type w i)) ∧
  Gives .pkmin rulePkMinMax (PutsWord ofType fun f xs w => ∀ t, ffmtOf f.type = some t → ∀ i < 2,
    MinNumber t false (elem f.type (srcW xs 0) i) (elem f.type (srcW xs 1) i) (elem f.type w i)) ∧
  Gives .pkmax rulePkMinMax (PutsWord ofType fun f xs w => ∀ t, ffmtOf f.type = some t → ∀ i < 2,
    MinNumber t true (elem f.type (srcW xs 0) i) (elem f.type (srcW xs 1) i) (elem f.type w i)))

/-- DOT2, DOT4, DOT8 (R266): the exact sum of c and the products of elements, rounded once to F32 for a float type;
for an integer type the exact sum modulo 2^32, or clamped with .sat. -/
def Obligations.DotProducts : Prop :=
  ∀ P, P = (fun (f : FmtA) (xs : List (List Reg)) (w : Word) =>
      (∀ t, ffmtOf f.type = some t → SumRounds fmtF32 (rmodeOf f.var)
        (f32Val (srcW xs 2) :: (List.range (tagElems f.type)).map fun i =>
          mulF (decodeF t (elem f.type (srcW xs 0) i)) (decodeF t (elem f.type (srcW xs 1) i))) w.toNat) ∧
      (ffmtOf f.type = none → ∀ z : ℤ, z = (srcW xs 2).toInt +
          ((List.range (tagElems f.type)).map fun i => elemI f.type (srcW xs 0) i * elemI f.type (srcW xs 1) i).sum →
        (f.sat = false → (w.toNat : Int) = z % 2 ^ 32) ∧
        (f.sat = true → w.toInt = max (-2 ^ 31) (min (2 ^ 31 - 1) z)))) →
    Gives .dot2 (ruleDot [.bf16x2, .f16x2]) (PutsWord (fun f => if ffmtOf f.type = none then .i32 else .f32) P) ∧
    Gives .dot4 (ruleDot [.e4m3x4, .e5m2x4, .i8x4, .u8x4])
      (PutsWord (fun f => if ffmtOf f.type = none then .i32 else .f32) P) ∧
    Gives .dot8 (ruleDot [.e2m1x8, .i4x8]) (PutsWord (fun f => if ffmtOf f.type = none then .i32 else .f32) P)

/-- CVT, PACK, UNPK, TAGSET, TAGGET (R269 to R271): each element of the share converted from the exact value of its
source element, every other element zero; halves joined and taken apart; tags set and read without changing the word. -/
def Obligations.ConversionsAndTags : Prop :=
  Gives .cvt ruleCvt (PutsWord ofType fun f xs w => ∀ st, cvtStype f.srcC = some st → ∀ ns nd, ns = tagElems st →
    nd = tagElems f.type → ∀ j < nd, ∀ i,
      (nd ≤ ns → i = cvtPart f.srcC * nd + j → Converts f (srcW xs 1) j (elemVal st (elem st (srcW xs 0) i)) w) ∧
      (ns < nd → j / ns = cvtPart f.srcC → i = j % ns →
        Converts f (srcW xs 1) j (elemVal st (elem st (srcW xs 0) i)) w) ∧
      (ns < nd → j / ns ≠ cvtPart f.srcC → elem f.type w j = 0)) ∧
  Gives .pack rulePack (PutsWord ofType fun f xs w => ∀ h, h = tagElems f.type / 2 → ∀ i < h,
    elem f.type w i = elem f.type (srcW xs 0) i ∧ elem f.type w (i + h) = elem f.type (srcW xs 1) i) ∧
  Gives .unpk ruleUnpk (fun f t xs u => ∃ a b : Word,
    u = (t.write f.dst.toNat f.type a).write (f.dst.toNat + 1) f.type b ∧ ∀ h, h = tagElems f.type / 2 → ∀ i < h,
      elem f.type a i = elem f.type (srcW xs 0) i ∧ elem f.type b i = elem f.type (srcW xs 0) (i + h) ∧
      elem f.type a (i + h) = 0 ∧ elem f.type b (i + h) = 0) ∧
  Gives .tagset ruleTagset (PutsWord ofType fun _ xs w => w = srcW xs 0) ∧
  Gives .tagget ruleTagget (PutsWord (fun _ => .u32) fun _ xs w => w.toNat = tagNum (srcReg xs 0 0).tag)

/-- The abacus instructions (R273, R274, R275, Table 11.13), lane by lane in the order of the bundle: what each adds,
clears, copies or reads, with ovf set first by a read of a value out of range; no other register of the core changes.
Additions to an abacus register, of any terms and raw segments in any order, leave the same register (R179). -/
def Obligations.AbacusForms : Prop :=
  (GivesAbacus .qclr ruleQclr (fun f t _ q q' u => u = t ∧ OnlyQ q f.dst.toNat ⟨0, false, false, false, false⟩ q') ∧
  GivesAbacus .qadd ruleQadd (fun f t xs q q' u => u = t ∧
    ∃ x, OnlyQ q f.dst.toNat x q' ∧ Adds (regQ q f.dst.toNat) (termVal f.type (srcW xs 0)) x) ∧
  GivesAbacus .qaddSeg ruleQaddSeg (fun f t xs q q' u => u = t ∧ ∃ x, OnlyQ q f.dst.toNat x q' ∧
    x = { regQ q f.dst.toNat with val := x.val } ∧
    (x.val : Int) = ((regQ q f.dst.toNat).val +
      (if f.srcB.toNat < 19 then ((srcW xs 0).toNat : Int) else (srcW xs 0).toInt) * 2 ^ (32 * f.srcB.toNat)) %
        2 ^ 656) ∧
  GivesAbacus .qmac ruleQmac (fun f t xs q q' u => u = t ∧ ∃ x, OnlyQ q f.dst.toNat x q' ∧
    Adds (regQ q f.dst.toNat) (mulF (termVal f.type (srcW xs 0)) (termVal f.type (srcW xs 1))) x) ∧
  GivesAbacus .qscan ruleQscan (fun f t xs q q' u => ∃ x y w, Notes (regQ q f.srcB.toNat) x ∧
    ReadsAs f.type (rmodeOf f.var) x w ∧ u = t.write f.dst.toNat f.type w ∧
    Adds x (termVal f.type (srcW xs 0)) y ∧ OnlyQ q f.srcB.toNat y q') ∧
  GivesAbacus .qrnd ruleQrnd (fun f t _ q q' u => ∃ x w, Notes (regQ q f.srcA.toNat) x ∧
    ReadsAs f.type (rmodeOf f.var) x w ∧ u = t.write f.dst.toNat f.type w ∧ OnlyQ q f.srcA.toNat x q') ∧
  GivesAbacus .qmov ruleQmov (fun f t _ q q' u => u = t ∧ ∃ x, Notes (regQ q f.srcA.toNat) x ∧
    regQ q' f.srcA.toNat = x ∧ regQ q' f.dst.toNat = x ∧
    ∀ m, m ≠ f.srcA.toNat → m ≠ f.dst.toNat → regQ q' m = regQ q m) ∧
  GivesAbacus .qmovSeg ruleQmovSeg (fun f t _ q q' u => ∃ x, Notes (regQ q f.srcA.toNat) x ∧
    u = t.write f.dst.toNat .raw ((BitVec.ofNat 656 x.val).extractLsb' (32 * f.srcB.toNat) 32) ∧
    OnlyQ q f.srcA.toNat x q') ∧
  GivesAbacus .qflag ruleQflag (fun f t _ q q' u => ∃ x, Notes (regQ q f.srcA.toNat) x ∧
    OnlyQ q f.srcA.toNat x q' ∧ ∃ w : Word, u = t.write f.dst.toNat .u32 w ∧
      w.toNat = x.ovf.toNat + 2 * x.pinf.toNat + 4 * x.ninf.toNat + 8 * x.nan.toNat)) ∧
  (∀ (q : Abacus) (xs ys : List (FVal ⊕ Nat × Word)), xs.Perm ys →
    xs.foldl (fun (q : Abacus) x => x.elim q.addTerm fun y => q.addSeg y.1 y.2) q =
      ys.foldl (fun (q : Abacus) x => x.elim q.addTerm fun y => q.addSeg y.1 y.2) q)

/-! ## Class 0x0 and class 0xC -/

/-- BRA, BRC, BRX, CALL, CALLX, RET (R171, R188, R362): a lane that is not taken goes on; a lane whose target passes
its checks stands at the target, in its block; BRC and BRX push the block's reconvergence point, taken or not; CALL
and CALLX write the end of the block to their link pair. -/
def Obligations.Branches : Prop :=
  ∀ (mk : FmtB → Instr) (reg push link : Bool), (mk, reg, push, link) ∈ ([(.bra, false, false, false),
      (.brc, false, true, false), (.brx, true, true, false), (.call, false, false, true), (.callx, true, false, true),
      (.ret, true, false, false)] : List ((FmtB → Instr) × Bool × Bool × Bool)) →
    ∀ (f : FmtB) (s s1 : State) (c k : Nat) (t : Thread) (xs : List (List Reg)) (p : Option DWord),
      Single s c k t → p = (if push then t.point else none) → PointOk s c (launchPart s t.seq) p s1 →
      t.sources (if reg then [.regs f.target [.addrLo, .addrHi] f.trap 0] else []) = .ok xs →
      (t.guard f.guard = false → ∃ st, Pushed t.rstk p st ∧
        exec (mk f) s = .next (s1.setThread c k ({ t with rstk := st }.advance s1.clock false))) ∧
      (t.guard f.guard = true → t.dstReady f.dst.toNat (if link then 2 else 0) = .ok () → ∀ a w s2,
        a = (if reg then srcPair xs 0 else t.pc + 8 * f.disp.signExtend 64) →
        checkTarget s1 c (launchPart s t.seq) a = .ok w s2 → ∃ st u, Pushed t.rstk p st ∧
          u = (if link then t.writePair f.dst.toNat .addrLo .addrHi t.blockEnd else t) ∧
          exec (mk f) s = .next (s2.setThread c k
            { u.issued s2.clock with rstk := st, pc := a, blk := a, hdr := w, entered := true }))

/-- NOP, YIELD, PAUSE (R169, R365): each goes on at its lanes and changes nothing else of the module; YIELD leaves
READY for the next clock, PAUSE demotes the thread for 256 clocks. EXIT and KILL (R176, R364): the thread is gone and
its slot free; its lane has left every convergence register of its row; its unreported failed posted writes are
records against the launch; KILL alone sets the launch's killed flag; no other thread of any core, no memory, no
access and no engine changes. Stated where another thread of the row lives and no register of the core becomes
complete. -/
def Obligations.PacingAndEnds : Prop :=
  (∀ (f : FmtE) (s : State) (c k : Nat) (t : Thread), Single s c k t →
    exec (.nop f) s = .next (s.setThread c k (t.advance s.clock false)) ∧
    (t.guard f.guard = true →
      exec (.yield f) s = .next (s.setThread c k { t.advance s.clock false with status := .yielded (s.clock + 2) }) ∧
      exec (.pause f) s = .next (s.setThread c k { t.advance s.clock false with demotedUntil := s.clock + 256 })) ∧
    (t.guard f.guard = false →
      exec (.yield f) s = .next (s.setThread c k (t.advance s.clock false)) ∧
      exec (.pause f) s = .next (s.setThread c k (t.advance s.clock false)))) ∧
  (∀ (killed : Bool) (i : Instr) (g : Guard) (s : State) (c k : Nat) (t : Thread) (r : Row) (l : Launch),
    (∃ f : FmtE, i = .exit f ∧ g = f.guard ∧ killed = false) ∨ (∃ f : FmtS, i = .kill f ∧ g = f.guard ∧ killed = true) →
    Single s c k t → t.guard g = true → rowAt s c (k / 32) = some r → tabFind s.launches t.seq = some l →
    (∃ e ∈ (s.core c).threads, e.1 ≠ k ∧ e.1 / 32 = k / 32) →
    (∀ e ∈ (s.core c).rows, ∀ v ∈ e.2.cv, v.2.complete = false) →
    (∀ v v', v ∈ r.cv → Cleared (k % 32) v.2 v' → v'.complete = false) →
    ∃ t', exec i s = .next t' ∧
      t' = { s with cores := t'.cores, launches := t'.launches, parts := t'.parts, demands := t'.demands,
                    nextId := t'.nextId } ∧
      t'.thread c k = none ∧ (∀ x, x ≠ k → t'.thread c x = s.thread c x) ∧ (∀ d, d ≠ c → t'.core d = s.core d) ∧
      t'.core c = { s.core c with threads := (t'.core c).threads, rows := (t'.core c).rows } ∧
      (∃ r', rowAt t' c (k / 32) = some r' ∧ ∀ cv, Cleared (k % 32) (r.reg cv) (r'.reg cv)) ∧
      (t'.launches = if killed then tabPut s.launches t.seq { l with killed := true } else s.launches) ∧
      (t.posted = [] → t'.parts = s.parts) ∧
      (t.posted ≠ [] → ∃ id, (t'.part l.part).batches = (s.part l.part).batches ++
        [⟨id, t.posted.map fun p => launchRec c t.seq p.code p.detail p.access p.addr⟩]))

/-- SIGN, CVDECL, CVCLR (R173, R367): the declared lanes that have not signed; the mask and the live lanes of the
row; the register cleared; and RENDEZVOUS, for CVDECL and CVCLR, where signatures are pending. CVWAIT, BARA, BARW and
BAR at the last signer (R174, R367, R369): CVWAIT does nothing beyond its firing; BARA arrives, BARW passes a phase
that has completed, and BAR, as the last row of its node to arrive, completes the phase and passes it; in each case
every signer goes on and the register is re-armed. -/
def Obligations.Convergence : Prop :=
  (∀ (f : FmtE) (s : State) (c k : Nat) (t : Thread) (r : Row), Single s c k t → t.guard f.guard = true →
    rowAt s c (k / 32) = some r →
    (t.dstReady f.dst.toNat 1 = .ok () → exec (.sign f) s = .next (s.setThread c k
      ((t.write f.dst.toNat .u32 ((r.reg f.cv.toNat).decl &&& ~~~(r.reg f.cv.toNat).signed)).advance s.clock false))) ∧
    (∀ xs, t.sources (eSrcs ruleCvdecl f) = .ok xs → (r.reg f.cv.toNat).signed = 0 → ∃ t' m,
      exec (.cvdecl f) s = .next t' ∧ (∀ j < 32, m.getLsbD j =
        ((srcW xs 0).getLsbD j && (s.core c).threads.any fun e => e.1 == 32 * (k / 32) + j)) ∧
      t' = (modRow s c (k / 32) fun x => x.setReg f.cv.toNat { CvReg.zero with decl := m }).setThread c k
        (t.advance s.clock f.lit.isSome)) ∧
    ((r.reg f.cv.toNat).signed = 0 → exec (.cvclr f) s = .next
      ((modRow s c (k / 32) fun x => x.setReg f.cv.toNat CvReg.zero).setThread c k (t.advance s.clock false))) ∧
    ((r.reg f.cv.toNat).signed ≠ 0 → FaultsWith (.cvclr f) s c k 0x07 ∧
      ∀ xs, t.sources (eSrcs ruleCvdecl f) = .ok xs → FaultsWith (.cvdecl f) s c k 0x07)) ∧
  (∀ (f : FmtE) (s : State) (c k : Nat) (t : Thread) (r : Row) (l : Launch) (b : Barrier),
    LastSigner s c k f.cv.toNat t r → tabFind s.launches r.seq = some l → b = barrierOf s r f.unit.toNat →
    (∃ t', exec (.cvwait f) s = .next t' ∧ FiredFrame s t' c (k / 32) f.cv.toNat r ∧ t'.clusters = s.clusters ∧
      AllGoOn s t' c k (r.reg f.cv.toNat).decl false) ∧
    (1 ≤ f.unit.toNat → f.unit.toNat ≤ launchTop s r.seq → levelDomain s r.seq f.unit.toNat ≠ 0 →
      (∀ e ∈ maskKeys (k / 32) (r.reg f.cv.toNat).decl, ∀ u, s.thread c e = some u → Quiet s u) →
      (r.reg f.cv.toNat).arrived = false →
      (rowFlag s ⟨c, k / 32, f.cv.toNat⟩ f.unit.toNat = BarFlag.zero → ∃ t' r' b',
        exec (.bara f) s = .next t' ∧ AllGoOn s t' c k (r.reg f.cv.toNat).decl false ∧
        rowAt t' c (k / 32) = some r' ∧ r'.reg f.cv.toNat = { CvReg.zero with decl := (r.reg f.cv.toNat).decl } ∧
        tabGet BarFlag.zero r'.bar f.unit.toNat = ⟨true, false, b.phase⟩ ∧ b' = barrierOf t' r f.unit.toNat ∧
        b' = (if b.arrivals + 1 = rowsOf s r.seq b.level b.node then { b with arrivals := 0, phase := b.phase + 1 }
          else { b with arrivals := b.arrivals + 1 }) ∧
        t'.hbm = s.hbm ∧ t'.accesses = s.accesses ∧ t'.clusters = s.clusters) ∧
      (rowFlag s ⟨c, k / 32, f.cv.toNat⟩ f.unit.toNat = BarFlag.zero →
        b.arrivals + 1 = rowsOf s r.seq b.level b.node → ∃ t' r',
        exec (.bar f) s = .next t' ∧ AllGoOn s t' c k (r.reg f.cv.toNat).decl false ∧
        rowAt t' c (k / 32) = some r' ∧ r'.reg f.cv.toNat = { CvReg.zero with decl := (r.reg f.cv.toNat).decl } ∧
        tabGet BarFlag.zero r'.bar f.unit.toNat = BarFlag.zero ∧
        barrierOf t' r f.unit.toNat = { b with arrivals := 0, phase := b.phase + 1 }) ∧
      ((rowFlag s ⟨c, k / 32, f.cv.toNat⟩ f.unit.toNat).arrived = true →
        (rowFlag s ⟨c, k / 32, f.cv.toNat⟩ f.unit.toNat).phase < b.phase → ∃ t' r',
        exec (.barw f) s = .next t' ∧ AllGoOn s t' c k (r.reg f.cv.toNat).decl false ∧
        rowAt t' c (k / 32) = some r' ∧ r'.reg f.cv.toNat = { CvReg.zero with decl := (r.reg f.cv.toNat).decl } ∧
        tabGet BarFlag.zero r'.bar f.unit.toNat = BarFlag.zero ∧ t'.launches = s.launches)))

/-- LAUNCH, EPUSH and EPOP (R371 to R373): a record read at a 256-byte local address goes to the router, which the
lane awaits; a token is placed with its codes at the end of an edge with room; the token that spawned the gang is
written with its codes, and its slot is freed by the gang's first pop alone: the edge loses its first token, if a
gang has been admitted with it, and the gang has popped. -/
def Obligations.LaunchesAndEdges : Prop :=
  ∀ (f : FmtE) (s : State) (c k : Nat) (t : Thread), Single s c k t → t.guard f.guard = true → Quiet s t →
    (∀ xs r s1, t.sources (eSrcs ruleLaunch f) = .ok xs → t.dstReady f.dst.toNat 1 = .ok () →
      (srcPair xs 0).toNat % 256 = 0 → isGlobal (srcPair xs 0) = false →
      readRecord s c (launchPart s t.seq) (srcPair xs 0) = (.ok r, s1) →
      exec (.launch f) s = .next (blockThread
        ({ s1 with routerQ := s1.routerQ ++
            [(⟨launchPart s t.seq, r, launchQueue s t.seq, .thread c k t.uid, none⟩ : RouterItem)] }.setThread c k (t.spun s.clock)) c k
        (.router f.dst.toNat f.lit.isSome))) ∧
    (∀ xs d p x, t.sources (eSrcs ruleEpush f) = .ok xs → d = edgeDesc (launchRecord s t.seq) f.unit.toNat →
      p = launchPart s t.seq → x = (s.part p).edge d.id → d.valid = true → d.out = true → x.state ≠ 4 →
      x.tokens.length < x.cap → ∃ t', exec (.epush f) s = .next t' ∧
        t'.thread c k = some (t.advance s.clock f.lit.isSome) ∧ (∀ j, j ≠ k → t'.thread c j = s.thread c j) ∧
        ((t'.part p).edge d.id).tokens.map (fun y => (y.lo, y.hi)) =
          x.tokens.map (fun y => (y.lo, y.hi)) ++
            [(⟨(srcReg xs 0 0).word, (srcReg xs 0 0).code⟩, ⟨(srcReg xs 0 1).word, (srcReg xs 0 1).code⟩)] ∧
        t' = { s with cores := t'.cores, parts := t'.parts, launches := t'.launches, nextId := t'.nextId }) ∧
    (∀ d g e lo hi, t.dstReady f.dst.toNat 2 = .ok () → d = edgeDesc (launchRecord s t.seq) f.unit.toNat →
      topGangOf s c k t = some g → g.token = some (e, lo, hi) → d.valid = true → d.out = false → d.id = e →
      Datum.okay lo = true → Datum.okay hi = true → ∃ t', exec (.epop f) s = .next t' ∧
        t'.thread c k = some (((t.fill f.dst.toNat .raw lo).fill (f.dst.toNat + 1) .raw hi).advance s.clock false) ∧
        (g.popped = true → t' = s.setThread c k
          (((t.fill f.dst.toNat .raw lo).fill (f.dst.toNat + 1) .raw hi).advance s.clock false)) ∧
        (g.popped = false → t' = { s with cores := t'.cores, parts := t'.parts, launches := t'.launches, nextId := t'.nextId } ∧
          (∀ j, j ≠ k → t'.thread c j = s.thread c j) ∧ (∀ j, j ≠ c → t'.core j = s.core j) ∧
          (∃ g', topGangOf t' c k t = some g' ∧ g'.popped = true) ∧
          ∀ tk rest, ((s.part (launchPart s t.seq)).edge e).tokens = tk :: rest → tk.admitted = true →
            ((t'.part (launchPart s t.seq)).edge e).tokens.map (fun y => (y.lo, y.hi)) = rest.map fun y => (y.lo, y.hi)))

/-- TRAP and BRK, the entry into the handler, and ERET (R375, R376, R412): the thread takes TRAP or BREAKPOINT with
the code as its detail; its handler is entered with %epc at the word behind, %eblk at the block and the in-handler
bit set; ERET goes back to %epc within %eblk, or branches to a %epc that SWRITE has written. -/
def Obligations.TrapsAndReturns : Prop :=
  ∀ (f : FmtS) (s : State) (c k : Nat) (t : Thread), Single s c k t → t.guard f.guard = true →
    (∀ mk code, (mk, code) ∈ ([(.trap, 0x40), (.brk, 0x41)] : List ((FmtS → Instr) × BitVec 8)) →
      t.inHandler = false → launchPolicy s t.seq = 0 → launchHandler s t.seq ≠ 0 → openVerdict s t.uid = false →
      (∀ d ∈ s.demands, d.inst ≠ s.nextId) → ∃ u,
        exec (mk f) s = .next (s.setThread c k u) ∧
        u = { t.spun s.clock with status := .trapping, waited := false, bundle := none, frec := u.frec,
                                  trapinfo := f.imm8.setWidth 64 <<< 8 ||| code.setWidth 64 } ∧
        ∀ w s1, (s.core c).issues = true → checkTarget ((s.setThread c k u).setThread c k
            { u with epc := t.pc + 8, eblk := t.blk, ehdr := t.hdr, inHandler := true, epcWritten := false }) c
            (launchPart s t.seq) (launchHandler s t.seq) = .ok w s1 →
          exec (.handlerEntry c k) (s.setThread c k u) = .next (s1.setThread c k
            { u with epc := t.pc + 8, eblk := t.blk, ehdr := t.hdr, inHandler := true, epcWritten := false,
                     pc := launchHandler s t.seq, blk := launchHandler s t.seq, hdr := w, entered := true,
                     status := .ready, since := s.clock })) ∧
    (t.inHandler = true → t.epcWritten = false → ∃ u, exec (.eret f) s = .next (s.setThread c k u) ∧
      u = { t.issued s.clock with inHandler := false, pc := t.epc, blk := t.eblk, hdr := t.ehdr, entered := u.entered }) ∧
    (t.inHandler = true → t.epcWritten = true → ∀ w s1, checkTarget s c (launchPart s t.seq) t.epc = .ok w s1 →
      exec (.eret f) s = .next (s1.setThread c k
        { t.issued s.clock with inHandler := false, pc := t.epc, blk := t.epc, hdr := w, entered := true })) ∧
    (t.inHandler = false → FaultsWith (.eret f) s c k 0x01)

/-- SREAD, SWRITE, CLOCK, PMARK (R377, R378, Tables 8.15 and 16.6): each special register as the tables give it, with
its tags; %pred and, in a handler, %epc written, %epc with its low bits cleared and its mark set; any other SWRITE
raises ILLEGAL_OP; the clock count; the core's marker and its count. -/
def Obligations.SpecialRegisters : Prop :=
  ∀ (f : FmtS) (s : State) (c k : Nat) (t : Thread), Single s c k t → t.guard f.guard = true →
    (∀ ws, SpecialIs s c k t f.sel.toNat ws → t.dstReady f.dst.toNat ws.length = .ok () →
      exec (.sread f) s = .next (s.setThread c k ((t.writeAll f.dst.toNat ws).advance s.clock false))) ∧
    (∀ xs, t.sources [.regs f.srcA (List.replicate ((selWords f.sel.toNat).getD 1) .raw) f.trap 0] = .ok xs →
      (f.sel = 0x110 → exec (.swrite f) s = .next (s.setThread c k
        ({ t with preds := (srcW xs 0).extractLsb' 0 7 }.advance s.clock false))) ∧
      (f.sel = 0x100 → t.inHandler = true → exec (.swrite f) s = .next (s.setThread c k
        ({ t with epc := (srcPair xs 0) >>> 3 <<< 3, epcWritten := true }.advance s.clock false))) ∧
      (f.sel ≠ 0x110 → (f.sel ≠ 0x100 ∨ t.inHandler = false) →
        FaultsWith (.swrite f) s c k 0x01)) ∧
    (t.dstReady f.dst.toNat 2 = .ok () → exec (.clock f) s = .next (s.setThread c k
      ((t.writePair f.dst.toNat .u32 .u32 (BitVec.ofNat 64 s.clock)).advance s.clock false))) ∧
    exec (.pmark f) s = .next
      ((s.modCore c fun x => { x with pmark := f.imm8, pmarkCount := x.pmarkCount + 1 }).setThread c k
        (t.advance s.clock false))

/-! ## Classes 0x7 to 0xB -/

/-- LD, LDA and LDX (R219, R220): the words that cover the effective address fill the destination registers with
their codes, sub-words extended, from the L1 for LD and LDA of an RC or UN page that it holds, and else from the home
slice, in three steps: issue, after which the thread has gone on with its destination empty, the slice, the reply.
LDA then empties the L1 at .cl and wider. Memory stays as it is. -/
def Obligations.Loads : Prop :=
  ∀ (mk : FmtM → Instr) (ldx : Bool) (acq : FmtM → Scope), (mk, ldx, acq) ∈ ([(.ld, false, fun _ => .th),
      (.lda, false, FmtM.scope), (.ldx, true, fun _ => .th)] : List ((FmtM → Instr) × Bool × (FmtM → Scope))) →
    ∀ (f : FmtM) (s : State) (c k dpa : Nat) (t : Thread) (xs : List (List Reg)) (ea : DWord) (l : Leaf),
      WellFormed (mk f) → Single s c k t → t.guard f.guard = true → t.sources (mAddrSrcs true f) = .ok xs →
      t.dstReady f.dst.toNat (mWords f.size) = .ok () → ea = eaOf f xs 0 → ea.toNat % mBytes f = 0 → Alone s →
      Mapped s c (launchPart s t.seq) ea .load f.order l dpa →
      (∀ y ws, ldx = false → l.cls ≠ .so → l1Find s c (.local, dpa / 64, l.slot) = some y →
        ws = (y.drop (dpa / 4 % 16)).take (mWords f.size) → y.length = 16 → ws.all Datum.okay = true →
        ∃ t' u, exec (mk f) s = .next t' ∧ LoadsAs f ea ws t u ∧
          t'.thread c k = some (u.advance s.clock f.lit.isSome) ∧ OnlyThread s t' c k ∧
          t' = { s with cores := t'.cores, nextId := t'.nextId } ∧
          (t'.core c).l1 = if 2 ≤ scopeNum (acq f) then [] else (s.core c).l1) ∧
      (∀ y ws, (ldx = false → l.cls ≠ .so → l1Find s c (.local, dpa / 64, l.slot) = none) →
        l2Hit s dpa l.slot = some y → ws = (y.words.drop (dpa / 4 % 16)).take (mWords f.size) →
        y.words.length = 16 → ws.all Datum.okay = true →
        ∃ s1 s2 t' u, exec (mk f) s = .next s1 ∧
          (∃ v, s1.thread c k = some v ∧ v = { t.advance s.clock f.lit.isSome with regs := v.regs } ∧
            ∀ i < mWords f.size, f.dst.toNat + i ≠ 255 → (v.reg (f.dst.toNat + i)).full = false ∧
              (v.reg (f.dst.toNat + i)).pending = true) ∧
          exec (.sliceRequest (s.nextId + 1)) s1 = .next s2 ∧ exec (.loadFill (s.nextId + 1) []) s2 = .next t' ∧
          LoadsAs f ea ws t u ∧ t'.thread c k = some (u.advance s.clock f.lit.isSome) ∧ OnlyThread s t' c k ∧
          t' = { s with cores := t'.cores, nextId := t'.nextId } ∧
          (ldx = true ∨ l.cls = .so → (t'.core c).l1 = if 2 ≤ scopeNum (acq f) then [] else (s.core c).l1) ∧
          (ldx = false → l.cls ≠ .so → (s.core c).split < 8 → l1Find t' c (.local, dpa / 64, l.slot) =
            if 2 ≤ scopeNum (acq f) then none else some y.words))

/-- ST, STL and STX (R222, R223): the bytes of the data registers are at the effective address, words with their
codes, and no other byte of memory changes, under any key slot; the thread goes on at issue; the L1 copy of ST and
STL takes the words, that of STX is discarded. Stated with nothing in flight and no failed posted write, so that
STL's release is passed at once. -/
def Obligations.Stores : Prop :=
  ∀ (mk : FmtM → Instr) (stx : Bool), (mk, stx) ∈ ([(.st, false), (.stl, false), (.stx, true)] :
      List ((FmtM → Instr) × Bool)) →
    ∀ (f : FmtM) (s : State) (c k dpa : Nat) (t : Thread) (xs : List (List Reg)) (ea : DWord) (l : Leaf) (y : L2Sector),
      WellFormed (mk f) → Single s c k t → t.guard f.guard = true →
      t.sources (mDataSrc f (mWords f.size) :: mAddrSrcs true f) = .ok xs → ea = eaOf f xs 1 →
      ea.toNat % mBytes f = 0 → Alone s → t.posted = [] →
      Mapped s c (launchPart s t.seq) ea .store f.order l dpa → l2Hit s dpa l.slot = some y → y.words.length = 16 →
      readOnly s dpa = false →
      ∃ s1 t' z, exec (mk f) s = .next s1 ∧
        s1.thread c k = some (t.advance s.clock f.lit.isSome) ∧ exec (.sliceRequest (s.nextId + 1)) s1 = .next t' ∧
        t' = { s with cores := t'.cores, l2 := t'.l2, nextId := t'.nextId } ∧
        t'.thread c k = some (t.advance s.clock f.lit.isSome) ∧ OnlyThread s t' c k ∧
        Stored s t' l.slot dpa (mBytes f) (srcData xs 0) ∧
        l2Hit t' dpa l.slot = some z ∧ z.dirty = true ∧
        (f.size ≠ 3 → (z.words.drop (dpa / 4 % 16)).take (mWords f.size) = srcData xs 0) ∧
        (f.size = 3 → (∀ d ∈ srcData xs 0, Datum.okay d = true) →
          (∀ d, y.words[dpa / 4 % 16]? = some d → Datum.okay d = true) →
          ∀ d, z.words[dpa / 4 % 16]? = some d → Datum.okay d = true) ∧
        (l.cls ≠ .so → ∀ x, l1Find s c (.local, dpa / 64, l.slot) = some x → x.length = 16 →
          if stx then l1Find t' c (.local, dpa / 64, l.slot) = none
          else ∃ x', l1Find t' c (.local, dpa / 64, l.slot) = some x' ∧
            (f.size ≠ 3 → (x'.drop (dpa / 4 % 16)).take (mWords f.size) = srcData xs 0))

/-- LDS and STS (R136, R219, R222): the words of the gang's allocation at the offset fill the registers; the data are
merged there, and no other word of the scratchpad changes. -/
def Obligations.Scratchpad : Prop :=
  ∀ (f : FmtM) (s : State) (c k off : Nat) (t : Thread) (xs : List (List Reg)) (g : CoreGang) (n : Nat),
    Single s c k t → t.guard f.guard = true → gangOf s c k = some g → n = mWords f.size → g.base % 256 = 0 →
    off + mBytes f ≤ g.size → off % mBytes f = 0 →
    (WellFormed (.lds f) → t.sources (mAddrSrcs false f) = .ok xs → t.dstReady f.dst.toNat n = .ok () →
      openAcquire s t.uid = none →
      off = (srcW xs 0 + (f.disp.signExtend 32 + srcW xs 1) * BitVec.ofNat 32 (mBytes f)).toNat →
      (scratchWords (s.core c) (g.base + off) n).all Datum.okay = true → f.nrp = 7 → ∃ u,
      exec (.lds f) s = .next (s.setThread c k (u.advance s.clock f.lit.isSome)) ∧
      LoadsAs f (BitVec.ofNat 64 off) (scratchWords (s.core c) (g.base + off) n) t u) ∧
    (WellFormed (.sts f) → t.sources (mDataSrc f n :: mAddrSrcs false f) = .ok xs →
      off = (srcW xs 1 + (f.disp.signExtend 32 + srcW xs 2) * BitVec.ofNat 32 (mBytes f)).toNat → ∃ t',
      exec (.sts f) s = .next t' ∧ t' = { s with cores := t'.cores } ∧ OnlyThread s t' c k ∧
      (t'.core c).l1 = (s.core c).l1 ∧ t'.thread c k = some (t.advance s.clock f.lit.isSome) ∧
      (∀ a, a / 4 < (g.base + off) / 4 ∨ (g.base + off) / 4 + n ≤ a / 4 →
        scratchWord (t'.core c) a = scratchWord (s.core c) a) ∧
      (∀ i < mBytes f, byteOf (scratchWord (t'.core c) (g.base + off + i)).word ((g.base + off + i) % 4) =
        byteOf (((srcData xs 0)[i / 4]?).getD zeroDatum).word (i % 4)) ∧
      (f.size = 3 → ∀ i < 4, i < off % 4 ∨ off % 4 + mBytes f ≤ i →
        byteOf (scratchWord (t'.core c) (g.base + off)).word i = byteOf (scratchWord (s.core c) (g.base + off)).word i) ∧
      (f.size ≠ 3 → ∀ i < n, (srcData xs 0)[i]? = some (scratchWord (t'.core c) (g.base + off + 4 * i))))

/-- Global addresses at their source (R66 to R71, R78, R92, R93, R109, Table 3.5): the checks of steps 2 to 6 in
their order. A multicast address takes only stores; without xl_global every access raises PROTECT; a rank that the
table does not give raises RANK_INVALID, and one of a dead position PEER_DEAD; a region that is not valid raises
XLATE, and one that the offset or the access exceeds PROTECT. An LD that fails a step raises its code with the
address, as a load, and its destinations are left empty. A load, store or atomic of main memory or the scratchpad
whose address, local or global, is no multiple of its size raises ALIGN with the address, and what it would fill is
left empty (R164, R217, R404; for ATOM and CAS, log entry 34; what waits for the verdicts of earlier accesses, log
entry 12). -/
def Obligations.GlobalAddresses : Prop :=
  (∀ (s : State) (p rank region off : Nat) (k : AKind) (o : OrderReq) (r : DWord), r = tabGet 0 (s.part p).regions region →
    ((s.part p).xlGlobal = false →
      sourceCheck s p (.unicast rank region off) k o = .error (⟨0x11, 3, false, 0⟩, false)) ∧
    ((s.part p).xlGlobal = true →
      (resolveRank s p rank = .invalid →
        sourceCheck s p (.unicast rank region off) k o = .error (⟨0x21, 4, false, 0⟩, false)) ∧
      (∀ h, resolveRank s p rank = .dead h →
        sourceCheck s p (.unicast rank region off) k o = .error (⟨0x20, 4, false, 0⟩, false)) ∧
      (∀ hid prof d, (resolveRank s p rank = .pod hid prof ∧ d = .pod (hid % 16)) ∨
          (resolveRank s p rank = .remote hid prof ∧ d = .remote hid prof) ∨
          (resolveRank s p rank = .loc hid prof ∧ d = .self) →
        (r.getLsbD 0 = false →
          sourceCheck s p (.unicast rank region off) k o = .error (⟨0x10, 5, false, 0⟩, false)) ∧
        (r.getLsbD 0 = true → 2 ^ ((r.extractLsb' 5 6).toNat + 12) ≤ off ∨
            ((k = .store ∨ k = .atomic) ∧ r.getLsbD 3 = false) ∨ orderOk o (regionClass r.toNat) = false →
          sourceCheck s p (.unicast rank region off) k o = .error (⟨0x11, 6, false, 0⟩, false)) ∧
        (r.getLsbD 0 = true → off < 2 ^ ((r.extractLsb' 5 6).toNat + 12) →
          (k = .store ∨ k = .atomic → r.getLsbD 3 = true) → orderOk o (regionClass r.toNat) = true →
          sourceCheck s p (.unicast rank region off) k o = .ok ⟨d, region, off, regionClass r.toNat, routeOf s p (resolveRank s p rank)⟩)))) ∧
  (∀ (s : State) (p g region off : Nat) (k : AKind) (o : OrderReq), k ≠ .store →
    sourceCheck s p (.multicast g region off) k o = .error (⟨0x11, 2, false, 0⟩, false)) ∧
  (∀ (f : FmtM) (s : State) (c k : Nat) (t : Thread) (xs : List (List Reg)) (ea : DWord) (a : Addr), WellFormed (.ld f) →
    Single s c k t → t.guard f.guard = true → t.sources (mAddrSrcs true f) = .ok xs →
    t.dstReady f.dst.toNat (mWords f.size) = .ok () → ea = eaOf f xs 0 → a = addrOf ea → (∀ va, a ≠ .local va) →
    openVerdict s t.uid = false → ea.toNat % mBytes f = 0 → ∀ e : XFail,
    sourceCheck s (launchPart s t.seq) a .load f.order = .error (e, false) →
    FaultsEmptied (.ld f) s c k t ⟨e.code, 0, 0, some ea, false, none, false⟩ f.dst.toNat (mWords f.size)) ∧
  ∀ (f : FmtM) (s : State) (c k n : Nat) (t : Thread) (xs : List (List Reg)), n = mWords f.size → Single s c k t →
    t.guard f.guard = true → openVerdict s t.uid = false →
    (∀ i ∈ [Instr.ld f, .lda f, .ldx f], WellFormed i → t.sources (mAddrSrcs true f) = .ok xs →
      t.dstReady f.dst.toNat n = .ok () → (eaOf f xs 0).toNat % mBytes f ≠ 0 →
      FaultsEmptied i s c k t ⟨0x08, 0, 0, some (eaOf f xs 0), false, none, false⟩ f.dst.toNat n) ∧
    (∀ i ∈ [Instr.st f, .stl f, .stx f], WellFormed i → t.sources (mDataSrc f n :: mAddrSrcs true f) = .ok xs →
      (eaOf f xs 1).toNat % mBytes f ≠ 0 →
      FaultsHeld i s c k ⟨0x08, 0, 1, some (eaOf f xs 1), false, none, false⟩) ∧
    (∀ e ∈ [(Instr.atom f, n, n), (.cas f, 2 * n, n), (.red f, n, 0)], WellFormed e.1 →
      t.sources (mDataSrc f e.2.1 :: mAddrSrcs true f) = .ok xs → t.dstReady f.dst.toNat e.2.2 = .ok () →
      (eaOf f xs 1).toNat % (4 * n) ≠ 0 →
      FaultsEmptied e.1 s c k t ⟨0x08, 0, 2, some (eaOf f xs 1), false, none, false⟩ f.dst.toNat e.2.2) ∧
    ∀ off : Nat,
      (WellFormed (.lds f) → t.sources (mAddrSrcs false f) = .ok xs → t.dstReady f.dst.toNat n = .ok () →
        off = (srcW xs 0 + (f.disp.signExtend 32 + srcW xs 1) * BitVec.ofNat 32 (mBytes f)).toNat → off % mBytes f ≠ 0 →
        ∃ u, exec (.lds f) s = .next (takeLanes (s.setThread c k u) c s.nextId
          [(k, ⟨0x08, 0, 0, some (BitVec.ofNat 64 off), false, none, false⟩)]) ∧ Emptied t u f.dst.toNat n) ∧
      (WellFormed (.sts f) → t.sources (mDataSrc f n :: mAddrSrcs false f) = .ok xs →
        off = (srcW xs 1 + (f.disp.signExtend 32 + srcW xs 2) * BitVec.ofNat 32 (mBytes f)).toNat → off % mBytes f ≠ 0 →
        exec (.sts f) s = .next (takeLanes s c s.nextId
          [(k, ⟨0x08, 0, 1, some (BitVec.ofNat 64 off), false, none, false⟩)]))

/-- PREF, CINV and CWB (R225, R140): the thread goes on at issue; PREF never faults, whatever the address, and
changes no memory; CINV discards the line's sectors from the core's L1, and, at the slice, from the L2; CWB leaves a
clean line as it is. Stated of CINV and CWB where nothing of the line is dirty; the seal of a dirty tile is
SealKeepsWords. PROBE and PGREQ (R226, R227): the word of Table 9.3 for an address whose leaf grants a load fills the
register; a page request is a record of kind REQUEST with the granule, the lane and code XLATE, for which the thread
waits until the batch is written, and then goes on; a global address raises PROTECT. -/
def Obligations.MaintenanceAndProbes : Prop :=
  (∀ (f : FmtM) (s : State) (c k : Nat) (t : Thread) (xs : List (List Reg)) (ea : DWord),
    Single s c k t → t.guard f.guard = true → t.sources (mAddrSrcs true f) = .ok xs → ea = eaOf f xs 0 → Alone s →
    (∃ t', exec (.pref f) s = .next t' ∧ t'.thread c k = some (t.advance s.clock f.lit.isSome) ∧
      (∀ x, x ≠ k → t'.thread c x = s.thread c x) ∧ t'.hbm = s.hbm ∧ t'.hbmSide = s.hbmSide ∧ t'.l2 = s.l2 ∧
      t'.demands = s.demands ∧ t'.parts = s.parts) ∧
    (∀ (l : Leaf) (dpa : Nat), Mapped s c (launchPart s t.seq) ea .load f.order l dpa →
      (∀ j < 2, ∀ x, l2Hit s (dpa / 128 * 128 + 64 * j) l.slot = some x → x.dirty = false) →
      (∃ s1 t', exec (.cinv f) s = .next s1 ∧ s1.thread c k = some (t.advance s.clock f.lit.isSome) ∧
        exec (.sliceRequest (s.nextId + 1)) s1 = .next t' ∧ OnlyThread s t' c k ∧
        t' = { s with cores := t'.cores, l2 := t'.l2, l2Tags := t'.l2Tags, nextId := t'.nextId } ∧
        t'.thread c k = some (t.advance s.clock f.lit.isSome) ∧
        (∀ j < 2, l1Find t' c (.local, dpa / 128 * 2 + j, l.slot) = none ∧
          l2Hit t' (dpa / 128 * 128 + 64 * j) l.slot = none) ∧
        ∀ a x, a / 128 ≠ dpa / 128 → l2Hit t' a x = l2Hit s a x) ∧
      (∃ s1, exec (.cwb f) s = .next s1 ∧ s1.thread c k = some (t.advance s.clock f.lit.isSome) ∧
        exec (.sliceRequest (s.nextId + 1)) s1 = .next
          { s.setThread c k (t.advance s.clock f.lit.isSome) with nextId := s.nextId + 2 }))) ∧
  (∀ (f : FmtM) (s : State) (c k : Nat) (t : Thread) (xs : List (List Reg)) (ea : DWord) (p : Nat),
    Single s c k t → t.guard f.guard = true → t.sources (mAddrSrcs true f) = .ok xs → ea = eaOf f xs 0 → Alone s →
    p = launchPart s t.seq →
    (∀ (l : Leaf) (dpa : Nat), t.dstReady f.dst.toNat 1 = .ok () → Mapped s c p ea .load f.order l dpa → l.size < 16 →
      ∃ s1 u w, exec (.probe f) s = .next s1 ∧
        exec (.loadFill (s.nextId + 1) []) s1 = .next { s.setThread c k u with nextId := s.nextId + 2 } ∧
        u = { t.advance s.clock f.lit.isSome with regs := u.regs } ∧ Filled .u32 f.dst.toNat 1 [⟨w, lcc w⟩] t u ∧
        w.toNat = 2 ^ 17 * l.size + 2 ^ 15 * (if l.cls = .so then 0 else if l.cls = .rc then 1 else 2) +
          2 ^ 13 * l.x.toNat + 2 ^ 12 * l.at_.toNat + 2 ^ 11 * l.wr.toNat + 2 ^ 10 * l.rd.toNat) ∧
    (t.waited = false → ea.toNat < 2 ^ 57 → ∃ t' r,
      exec (.pgreq f) s = .next t' ∧ t'.thread c k = some { t.spun s.clock with status := .blocked (.queueRoom s.nextId) } ∧
      (t'.part p).batches = (s.part p).batches ++ [⟨s.nextId, [r]⟩] ∧
      t' = { s with cores := t'.cores, parts := t'.parts, nextId := t'.nextId } ∧
      r.kind = 2 ∧ r.req = true ∧ r.code = 0x10 ∧ r.addr.toNat = ea.toNat / 4096 * 4096 ∧ r.lanes = 1#32 <<< (k % 32) ∧
      r.seq = t.seq ∧ r.pc = t.pc ∧ r.die = c / 64 ∧ r.cluster = c / 4 % 16 ∧ r.core = c % 4) ∧
    (t.waited = true → exec (.pgreq f) s = .next (s.setThread c k (t.proceed s.clock f.lit.isSome))) ∧
    (t.waited = false → ea.getLsbD 63 = true → addrOf ea ≠ .bad →
      exec (.pgreq f) s = .next (takeLanes s c s.nextId [(k, ⟨0x11, 0, 0, some ea, false, none, false⟩)])))

/-- ATOM, CAS and RED (R296 to R300): at the home slice the words at the address become what Table 13.2 gives, with
codes of their own, and nothing else in memory changes; ATOM and CAS fill their registers with the old words, and
then act as an acquire at their scope; the L1 copy is discarded. -/
def Obligations.Atomics : Prop :=
  ∀ (mk : FmtM → Instr) (op : FmtM → AtomOp) (ret : Bool), (mk, op, ret) ∈ ([(.atom, atomOf, true),
      (.cas, fun _ => .cas, true), (.red, atomOf, false)] : List ((FmtM → Instr) × (FmtM → AtomOp) × Bool)) →
    ∀ (f : FmtM) (s : State) (c k dpa n : Nat) (t : Thread) (xs : List (List Reg)) (ea : DWord) (l : Leaf)
        (y : L2Sector) (old : List Datum),
      WellFormed (mk f) → Single s c k t → t.guard f.guard = true → n = mWords f.size →
      t.sources (mDataSrc f (if op f = .cas then 2 * n else n) :: mAddrSrcs true f) = .ok xs →
      t.dstReady f.dst.toNat (if ret then n else 0) = .ok () → ea = eaOf f xs 1 → ea.toNat % (4 * n) = 0 →
      Alone s → t.posted = [] → Mapped s c (launchPart s t.seq) ea .atomic f.order l dpa →
      l2Hit s dpa l.slot = some y → y.words.length = 16 → readOnly s dpa = false →
      old = (y.words.drop (dpa / 4 % 16)).take n → old.all Datum.okay = true →
      ∃ s1 s2 z res, exec (mk f) s = .next s1 ∧ exec (.sliceRequest (s.nextId + 1)) s1 = .next s2 ∧
        l2Hit s2 dpa l.slot = some z ∧ res = (z.words.drop (dpa / 4 % 16)).take n ∧
        AtomicIs (op f) f.type old ((srcData xs 0).take n) ((srcData xs 0).drop n) res ∧
        Stored s s2 l.slot dpa (4 * n) res ∧ (l.cls ≠ .so → l1Find s2 c (.local, dpa / 64, l.slot) = none) ∧
        (ret = false → s2.thread c k = some (t.advance s.clock f.lit.isSome) ∧
          s2 = { s with cores := s2.cores, l2 := s2.l2, nextId := s2.nextId } ∧ OnlyThread s s2 c k) ∧
        (ret = true → ∃ t' u, exec (.atomicReply (s.nextId + 1)) s2 = .next t' ∧
          t' = { s with cores := t'.cores, l2 := s2.l2, nextId := t'.nextId } ∧ OnlyThread s t' c k ∧
          u = { t with regs := u.regs } ∧ Filled f.type f.dst.toNat n old t u ∧
          t'.thread c k = some (u.advance s.clock f.lit.isSome) ∧
          (2 ≤ scopeNum f.scope → (t'.core c).l1 = []))

/-- LCWAIT and TOWAIT (R304 to R306): the thread goes on with its predicate set where the counter is reached, LCWAIT
as an acquire at .sy; else it waits, and goes on when the counter is reached, or with the predicate clear when the
timeout has passed. A wait that a change of the counter has met is over, whatever the counter does later (log entry
53). A counter that is not the partition's raises PROTECT. LCREAD, which answers at once (log entry 56), LCADD and
FENCE (R302, R307, R308): the counter's count and pending as Table 4.14 lays them out; the count plus the signed
value modulo 2^48, with the gates that wait on the counter and are reached ready to fire; and, with nothing of the
thread in flight, a FENCE that passes at once, emptying the L1 at .cl and wider unless it is a release alone. -/
def Obligations.CountersAndFences : Prop :=
  (∀ (mk : FmtE → Instr) (takeoffs : Bool), (mk, takeoffs) ∈ ([(.lcwait, false), (.towait, true)] :
      List ((FmtE → Instr) × Bool)) →
    ∀ (f : FmtE) (s : State) (c k i h w : Nat) (count : BitVec 48) (owned : Bool) (t : Thread)
        (xs : List (List Reg)) (hit : BitVec 48 → Prop),
      Single s c k t → t.guard f.guard = true → t.sources (eSrcs (ruleCntWait f) f) = .ok xs →
      i = (srcW xs 0).toNat → w = (srcW xs 1).toNat → h = (srcPair xs 2).toNat % 2 ^ 48 →
      owned = (if takeoffs then decide (i < 4096) && lcOwned s (launchPart s t.seq) (32 * (c / 64) + i / 128)
        else decide (i < 16384) && lcOwned s (launchPart s t.seq) (i / 64)) →
      count = (if takeoffs then takeoff s (c / 64) i else (landing s i).count) →
      (∀ x, hit x ↔ (x - BitVec.ofNat 48 h).toNat < 2 ^ 47) →
      (owned = false → openVerdict s t.uid = false →
        exec (mk f) s = .next (takeLanes s c s.nextId [(k, ⟨0x11, 0, 0, none, false, none, true⟩)])) ∧
      (owned = true → hit count → ∃ t', exec (mk f) s = .next t' ∧
        t' = { s with cores := t'.cores, accesses := t'.accesses } ∧
        t'.thread c k = some ((t.setPred f.dst.toNat true).advance s.clock f.lit.isSome) ∧ OnlyThread s t' c k ∧
        Acquired s t' c (!takeoffs)) ∧
      (owned = true → ¬ hit count → ∃ b : Bool → Block,
        (∀ x, b x = .counter takeoffs i h (if w = 0 then none else some (s.clock + w)) f.dst.toNat f.lit.isSome x) ∧
        exec (mk f) s = .next (s.setThread c k { t.spun s.clock with status := .blocked (b false) }) ∧
        ∀ s1 u, s1.thread c k = some u →
          (∀ x, u.status = .blocked (b x) →
            (takeoffs = false → ∀ z : Int, hit ((landing s1 i).count + BitVec.ofInt 48 z) →
              (addLanding s1 i z).thread c k = some { u with status := .blocked (b true) }) ∧
            (takeoffs = true → ∀ n, hit (takeoff s1 (c / 64) i + BitVec.ofNat 48 n) →
              (addTakeoff s1 (c / 64) i n).thread c k = some { u with status := .blocked (b true) })) ∧
          (u.status = .blocked (b true) → ∃ t', exec (.counterReached c k) s1 = .next t' ∧
            t' = { s1 with cores := t'.cores, accesses := t'.accesses } ∧
            t'.thread c k = some ((u.setPred f.dst.toNat true).proceed s1.clock f.lit.isSome) ∧
            OnlyThread s1 t' c k ∧ Acquired s1 t' c (!takeoffs)) ∧
          (u.status = .blocked (b false) → (s1.core c).issues = true →
            (w ≠ 0 → s.clock + w ≤ s1.clock → exec (.counterWaitTimeout c k) s1 =
              .next (s1.setThread c k ((u.setPred f.dst.toNat false).proceed s1.clock f.lit.isSome))) ∧
            (w = 0 ∨ s1.clock < s.clock + w → exec (.counterWaitTimeout c k) s1 = .next s1)))) ∧
  ((∀ (f : FmtE) (s : State) (c k i : Nat) (t : Thread) (xs : List (List Reg)),
    Single s c k t → t.guard f.guard = true → i = (srcW xs 0).toNat → i < 16384 →
    lcOwned s (launchPart s t.seq) (i / 64) = true →
    (t.sources (eSrcs (ruleLcread f) f) = .ok xs → t.dstReady f.dst.toNat 2 = .ok () →
      exec (.lcread f) s = .next (s.setThread c k ((t.writePair f.dst.toNat .u32 .u32
        ((landing s i).count ++ (landing s i).pending)).advance s.clock f.lit.isSome))) ∧
    (t.sources (eSrcs (ruleLcadd f) f) = .ok xs → Quiet s t → ∃ t', exec (.lcadd f) s = .next t' ∧
      t' = { s with cores := t'.cores, dies := t'.dies, landing := t'.landing } ∧ OnlyReady s t' i ∧
      OnlyMarked (s.setThread c k (t.advance s.clock f.lit.isSome)) t' ∧
      (landing t' i).count = (landing s i).count + (srcW xs 1).signExtend 48 ∧
      (landing t' i).pending = (landing s i).pending ∧ ∀ j, j ≠ i → landing t' j = landing s j)) ∧
  ∀ (f : FmtM) (s : State) (c k : Nat) (t : Thread), Single s c k t → t.guard f.guard = true → Quiet s t →
    ∃ t', exec (.fence f) s = .next t' ∧ t' = { s with cores := t'.cores, accesses := t'.accesses } ∧
      OnlyThread s t' c k ∧ t'.thread c k = some (t.advance s.clock false) ∧
      Acquired s t' c (decide (f.fn ≠ 2 ∧ 2 ≤ scopeNum f.scope)))

/-- COPY and COPYX (R143, R147, R231): on a channel that is IDLE or STOPPED and for which no thread waits, the
transfer of the operands starts and takes its map, and the thread goes on; a BUSY channel blocks the thread, a FROZEN
one raises FROZEN, operands beyond Table 6.2 raise ILLEGAL_OP and a held map MAP_BUSY. Stated of a thread with
nothing in flight, whose operands' scopes need no table walk. CHAIN (R150, R232): the null record leaves the channel
IDLE; a record that is not aligned stops it with ALIGN; a record that the engine does not own leaves it IDLE at that
record; one that it owns, well formed and without a held map or a takeoff counter, starts its transfer. -/
def Obligations.Copies : Prop :=
  (∀ (mk : FmtE → Instr) (rule : FmtE → ERule) (tr : FmtE → List (List Reg) → Transfer), (mk, rule, tr) ∈
      ([(.copy, ruleCopy, copySpec), (.copyx, ruleCopyx, copyxSpec)] :
        List ((FmtE → Instr) × (FmtE → ERule) × (FmtE → List (List Reg) → Transfer))) →
    ∀ (f : FmtE) (s : State) (c k : Nat) (t : Thread) (xs : List (List Reg)) (x : Transfer),
      WellFormed (mk f) → Single s c k t → t.guard f.guard = true → t.sources (eSrcs (rule f) f) = .ok xs →
      x = tr f xs → t.status = .ready → NoLine s c f.unit.toNat →
      ((chanOf s c f).state = 1 → ∃ n t', exec (mk f) s = .next t' ∧
        t' = { s.setThread c k { t with status := .blocked (.channel f.unit.toNat n none) } with nextId := t'.nextId }) ∧
      ((chanOf s c f).state = 3 → FaultsWith (mk f) s c k 0x50) ∧
      ((chanOf s c f).state = 0 ∨ (chanOf s c f).state = 2 →
        (¬ WithinLimits x → FaultsWith (mk f) s c k 0x01) ∧
        (WithinLimits x → (∃ m, x.map = some m ∧ ((s.core c).map m).held = true) → FaultsWith (mk f) s c k 0x31) ∧
        (WithinLimits x → (∀ m, x.map = some m → ((s.core c).map m).held = false) → Quiet s t →
          Known s c (launchPart s t.seq) x.srcSp .load x.src → Known s c (launchPart s t.seq) x.dstSp .store x.dst → ∃ t',
          exec (mk f) s = .next t' ∧ Started s t' c k (4 * (c % 4) + f.unit.toNat) t f.lit.isSome x none ∧
          (t'.core c).rk = (s.core c).rk ∧
          (∀ m, x.map = some m → (t'.core c).map m =
            ⟨2 ^ 128 - 2 ^ ((x.rows * x.rowBytes + 511) / 512), true, 0, !x.dstSp⟩) ∧
          ∀ m, x.map ≠ some m → (t'.core c).map m = (s.core c).map m))) ∧
  (∀ (f : FmtE) (s : State) (c k : Nat) (t : Thread) (xs : List (List Reg)) (head : DWord) (x0 : Channel),
    Single s c k t → t.guard f.guard = true → t.sources (eSrcs (ruleChain f) f) = .ok xs → head = srcPair xs 0 →
    f.unit.toNat < 4 → NoLine s c f.unit.toNat → (chanOf s c f).state = 0 ∨ (chanOf s c f).state = 2 → Quiet s t →
    x0 = { chanOf s c f with state := 0, resume := false, code := 0, row := 0, head := 0, faddr := 0, work := none } →
    (head = 0 → ∃ t', exec (.chain f) s = .next t' ∧ chanOf t' c f = x0 ∧
      t'.thread c k = some (t.advance s.clock f.lit.isSome) ∧
      t' = { s with cores := t'.cores, clusters := t'.clusters, nextId := t'.nextId }) ∧
    (head ≠ 0 → head.toNat % 64 ≠ 0 → ∃ t', exec (.chain f) s = .next t' ∧
      chanOf t' c f = { x0 with state := 2, code := 0x08, head := head, faddr := head } ∧
      t'.thread c k = some (t.advance s.clock f.lit.isSome) ∧
      t' = { s with cores := t'.cores, clusters := t'.clusters, nextId := t'.nextId }) ∧
    (∀ (l : Leaf) (dpa : Nat) (y : L2Sector) (r : BitVec 512), head ≠ 0 → head.toNat % 64 = 0 → head.toNat < 2 ^ 57 →
      (s.part (launchPart s t.seq)).xlEnable = true →
      cachedLeaf s (clusterPlace (c / 4)) (launchPart s t.seq) head.toNat = some l →
      leafFail s (launchPart s t.seq) l .load .page none = none → l.host = false → l.wr = true →
      l.vbase % 4096 = 0 → l.base % 4096 = 0 → dpa = l.base + (head.toNat - l.vbase) → l2Hit s dpa l.slot = some y →
      y.words.length = 16 → y.words.all Datum.okay = true → r.toNat = wordsVal y.words →
      (r.getLsbD 63 = false → ∃ t', exec (.chain f) s = .next t' ∧ chanOf t' c f = { x0 with head := head } ∧
        t'.thread c k = some (t.advance s.clock f.lit.isSome) ∧
        t' = { s with cores := t'.cores, clusters := t'.clusters, nextId := t'.nextId }) ∧
      (r.getLsbD 63 = true → recMalformed r.toNat = false → r.getLsbD 384 = false →
        (r.getLsbD 23 = true → ((s.core c).map (r.extractLsb' 24 4).toNat).held = false) → ∃ t' w tr,
        exec (.chain f) s = .next t' ∧ t'.thread c k = some (t.advance s.clock f.lit.isSome) ∧
        t' = { s with cores := t'.cores, clusters := t'.clusters, nextId := t'.nextId } ∧
        chanOf t' c f = { x0 with state := 1, work := some w } ∧ w.chain = some head ∧
        w.next = r.extractLsb' 64 64 ∧ w.tr = some tr ∧ tr.src = r.extractLsb' 128 64 ∧
        tr.dst = r.extractLsb' 192 64 ∧ tr.rows = (r.extractLsb' 372 12).toNat + 1 ∧
        tr.rowBytes = 4 * ((r.extractLsb' 358 14).toNat + 1) ∧ tr.srcStride = (r.extractLsb' 256 32).toInt ∧
        tr.dstStride = (r.extractLsb' 288 32).toInt ∧ tr.srcSp = r.getLsbD 29 ∧ tr.dstSp = r.getLsbD 28 ∧
        tr.kind = (r.extractLsb' 30 2).toNat ∧ tr.toc = none)))

/-- CHSTAT, CMTEST, CMCLR and CMWAIT (R233 to R236, Table 6.7): the channel's status, head and fault address; a
quarter of a map and its status word; a map set to all ones, or MAP_BUSY while it is held; and a wait that ends when
every masked bit is 1, with an acquire, raises the map's code where a bit is 0 on a map that is not held, and waits
otherwise. RKINIT, RKACQ, RKWAIT, RKREL and RKCOMMIT (R153, R237 to R239): a rink of FREE stages within the
allocation; the stage at the producer index, from FREE to ACQUIRED; the stage at the consumer index, from FULL to
CONSUMING, or the copy's code; a stage back to FREE; and an ACQUIRED stage made FULL, or INFLIGHT with a copy into
it. -/
def Obligations.ChannelsMapsAndRinks : Prop :=
  (∀ (f : FmtE) (s : State) (c k : Nat) (t : Thread) (x : Channel) (m : ChunkMap),
    Single s c k t → t.guard f.guard = true → x = chanOf s c f → m = (s.core c).map f.unit.toNat →
    (t.dstReady f.dst.toNat 2 = .ok () → x.state < 4 → ∃ d : DWord, exec (.chstat f) s = .next (s.setThread c k
      ((t.writePair f.dst.toNat (if f.fn = 0 then .u32 else if f.fn = 1 then .addrLo else .raw)
        (if f.fn = 0 then .u32 else if f.fn = 1 then .addrHi else .raw) d).advance s.clock false)) ∧
      (f.fn = 0 → d.toNat = 2 ^ 62 * x.state + 2 ^ 61 * x.resume.toNat + 2 ^ 48 * x.code.toNat +
        2 ^ 36 * (x.row % 4096) + x.records.toNat) ∧
      (f.fn = 1 → d = x.head) ∧ (f.fn = 2 → d = x.faddr)) ∧
    (t.dstReady f.dst.toNat 1 = .ok () → WellFormed (.cmtest f) → exec (.cmtest f) s = .next (s.setThread c k
      ((t.write f.dst.toNat .u32 (if f.fn = 0 then (BitVec.ofNat 128 m.bits).extractLsb' (32 * f.var.toNat) 32
        else BitVec.ofBool m.held ++ (0 : BitVec 23) ++ m.code)).advance s.clock false))) ∧
    (m.held = true → FaultsWith (.cmclr f) s c k 0x31) ∧
    (m.held = false → ∃ t', exec (.cmclr f) s = .next t' ∧ t' = { s with cores := t'.cores } ∧
      t'.thread c k = some (t.advance s.clock false) ∧ (∀ j, j ≠ k → t'.thread c j = s.thread c j) ∧
      t'.core c = { s.core c with threads := (t'.core c).threads, cm := (t'.core c).cm } ∧
      (t'.core c).map f.unit.toNat = ⟨2 ^ 128 - 1, false, 0, false⟩ ∧
      ∀ j, j ≠ f.unit.toNat → (t'.core c).map j = (s.core c).map j) ∧
    (∀ (xs : List (List Reg)) (all : Bool), t.sources (eSrcs (ruleCmwait f) f) = .ok xs →
      (all = true ↔ ∀ i < 128, (if f.fn.getLsbD 0 then true
        else decide (32 * f.var.toNat ≤ i) && (srcW xs 0).getLsbD (i - 32 * f.var.toNat)) = true →
          m.bits.testBit i = true) →
      (all = true → ∃ t', exec (.cmwait f) s = .next t' ∧ t' = { s with cores := t'.cores, accesses := t'.accesses } ∧
        OnlyThread s t' c k ∧ t'.thread c k = some (t.advance s.clock f.lit.isSome) ∧ Acquired s t' c m.mem) ∧
      (all = false → m.held = false → m.code ≠ 0 → FaultsWith (.cmwait f) s c k m.code) ∧
      (all = false → m.held = true → ∃ n, exec (.cmwait f) s =
        .next (s.setThread c k { t with status := .blocked (.mapBits f.unit.toNat n) })))) ∧
  (∀ (f : FmtE) (s : State) (c k : Nat) (t : Thread) (xs : List (List Reg)) (g : CoreGang),
    Single s c k t → t.guard f.guard = true → gangOf s c k = some g →
    (∀ base size n, t.sources (eSrcs (ruleRkinit f) f) = .ok xs → base = (srcW xs 0).toNat → size = (srcW xs 1).toNat →
      n = (srcW xs 2).toNat →
      (base % 512 ≠ 0 → FaultsWith (.rkinit f) s c k 0x08) ∧
      (base % 512 = 0 → ¬(512 ≤ size ∧ size ≤ 65536 ∧ size % 512 = 0 ∧ 2 ≤ n ∧ n ≤ 16) →
        FaultsWith (.rkinit f) s c k 0x01) ∧
      (base % 512 = 0 → 512 ≤ size ∧ size ≤ 65536 ∧ size % 512 = 0 ∧ 2 ≤ n ∧ n ≤ 16 →
        (g.size < base + n * size → FaultsWith (.rkinit f) s c k 0x11) ∧
        (base + n * size ≤ g.size →
          (∀ r, tabFind (s.core c).rk f.unit.toNat = some r → ∀ e ∈ r.stages, e.2 ≠ .acquired ∧ e.2 ≠ .inflight ∧
            e.2 ≠ .consuming) → ∃ t', exec (.rkinit f) s = .next t' ∧ t' = { s with cores := t'.cores } ∧
          t'.core c = { s.core c with threads := (t'.core c).threads, rk := (t'.core c).rk } ∧
          t'.thread c k = some (t.advance s.clock f.lit.isSome) ∧ (∀ j, j ≠ k → t'.thread c j = s.thread c j) ∧
          tabFind (t'.core c).rk f.unit.toNat = some ⟨base, size, n, 0, 0, [], []⟩))) ∧
    (∀ (r : Rink), tabFind (s.core c).rk f.unit.toNat = some r → t.dstReady f.dst.toNat 2 = .ok () →
      (r.stage r.producer = .free → ∃ t' r', exec (.rkacq f) s = .next t' ∧ t' = { s with cores := t'.cores } ∧
        tabFind (t'.core c).rk f.unit.toNat = some r' ∧ r' = { r with
          stages := r'.stages, producer := (r.producer + 1) % r.count } ∧ r'.stage r.producer = .acquired ∧
        (∀ i, i ≠ r.producer → r'.stage i = r.stage i) ∧ t'.thread c k = some
          (((t.write f.dst.toNat .u32 (BitVec.ofNat 32 r.producer)).write (f.dst.toNat + 1) .u32
            (BitVec.ofNat 32 (r.base + r.producer * r.size))).advance s.clock false)) ∧
      (r.stage r.producer ≠ .free → exec (.rkacq f) s =
        .next (s.setThread c k { t with status := .blocked (.rinkFree f.unit.toNat) })) ∧
      (r.stage r.consumer = .full → ∃ t' r', exec (.rkwait f) s = .next t' ∧ t' = { s with cores := t'.cores } ∧
        tabFind (t'.core c).rk f.unit.toNat = some r' ∧ r' = { r with
          stages := r'.stages, consumer := (r.consumer + 1) % r.count } ∧ r'.stage r.consumer = .consuming ∧
        (∀ i, i ≠ r.consumer → r'.stage i = r.stage i) ∧ t'.thread c k = some
          (((t.write f.dst.toNat .u32 (BitVec.ofNat 32 r.consumer)).write (f.dst.toNat + 1) .u32
            (BitVec.ofNat 32 (r.base + r.consumer * r.size))).advance s.clock false)) ∧
      (∀ code, r.stage r.consumer = .faulted code → FaultsWith (.rkwait f) s c k code) ∧
      ((∀ code, r.stage r.consumer ≠ .faulted code) → r.stage r.consumer ≠ .full → exec (.rkwait f) s =
        .next (s.setThread c k { t with status := .blocked (.rinkFull f.unit.toNat) }))) ∧
    (∀ (r : Rink) (i : Nat), t.sources (eSrcs (ruleRkrel f) f) = .ok xs → i = (srcW xs 0).toNat →
      tabFind (s.core c).rk f.unit.toNat = some r → i < r.count →
      (r.stage i = .consuming ∨ (∃ code, r.stage i = .faulted code) ∧ i = r.consumer) → ∃ t' r',
      exec (.rkrel f) s = .next t' ∧ t' = { s with cores := t'.cores } ∧
      t'.thread c k = some (t.advance s.clock f.lit.isSome) ∧ tabFind (t'.core c).rk f.unit.toNat = some r' ∧
      r'.stage i = .free ∧ (∀ j, j ≠ i → r'.stage j = r.stage j) ∧ r' = { r with
        stages := r'.stages, consumer := if r.stage i = .consuming then r.consumer else (r.consumer + 1) % r.count }) ∧
    (∀ (r : Rink) (i n : Nat), t.sources (eSrcs (ruleRkcommit f) f) = .ok xs → WellFormed (.rkcommit f) →
      i = (srcW xs 0).toNat → n = (srcW xs 2).toNat → tabFind (s.core c).rk (f.unit.toNat % 8) = some r → i < r.count →
      r.stage i = .acquired → n ≤ r.size → Quiet s t →
      (n = 0 → ∃ t' r', exec (.rkcommit f) s = .next t' ∧ t' = { s with cores := t'.cores } ∧
        t'.thread c k = some (t.advance s.clock f.lit.isSome) ∧
        tabFind (t'.core c).rk (f.unit.toNat % 8) = some r' ∧ r'.stage i = .full ∧
        ∀ j, j ≠ i → r'.stage j = r.stage j) ∧
      (∀ x : Transfer, x = { copySpec f xs with
          dst := BitVec.ofNat 64 (r.base + i * r.size), dstSp := true, map := none } → n ≠ 0 → n % 4 = 0 → n ≤ 65536 →
        NoLine s c (f.unit.toNat / 8) →
        (chan s (c / 4) (4 * (c % 4) + f.unit.toNat / 8)).state = 0 ∨
          (chan s (c / 4) (4 * (c % 4) + f.unit.toNat / 8)).state = 2 →
        Known s c (launchPart s t.seq) x.srcSp .load x.src → 4 ≤ n → ∃ t' r', exec (.rkcommit f) s = .next t' ∧
        Started s t' c k (4 * (c % 4) + f.unit.toNat / 8) t f.lit.isSome x (some (f.unit.toNat % 8, i)) ∧
        tabFind (t'.core c).rk (f.unit.toNat % 8) = some r' ∧ r'.stage i = .inflight ∧
        (∀ j, j ≠ i → r'.stage j = r.stage j) ∧
        tabGet ChunkMap.clear r'.maps i = ⟨2 ^ 128 - 2 ^ ((n + 511) / 512), true, 0, false⟩)))

/-- TACQ and TREL at the last signer (R285, R286): the set takes a free bib once the clock of its firing is over (log
entry 38), and a tile that another launch used is zero; a bib that the set already holds stays as it is; a bib whose
queue is empty is returned with the tile's elements as they are and its code field clear. Every signer goes on. -/
def Obligations.Bibs : Prop :=
  ∀ (f : FmtE) (s : State) (c k : Nat) (t : Thread) (r : Row) (x : Tile),
    LastSigner s c k f.cv.toNat t r → setB r f.cv.toNat k t f.guard ≠ [] → x = tileOf s (c / 4) f.unit.toNat →
    (∀ i < 4, ∀ e ∈ (s.core (4 * (c / 4) + i)).rows, ∀ v ∈ e.2.cv, v.2.fired = none) →
    (x.held = false → c < 512 → k < 512 → ∃ s1, exec (.tacq f) s = .next s1 ∧ s1 = { s with cores := s1.cores } ∧
      ∀ s2, s2 = { s1 with clock := s2.clock } → s.clock < s2.clock → ∃ t' x',
      exec (.firedRendezvousProceed c (k / 32) f.cv.toNat) s2 = .next t' ∧ FiredFrame s2 t' c (k / 32) f.cv.toNat r ∧
      (∀ e ∈ maskKeys (k / 32) (r.reg f.cv.toNat).decl, ∀ u, s.thread c e = some u →
        t'.thread c e = some ((if e = k then u.spun s.clock else u).proceed s2.clock false)) ∧
      OnlyTile s t' (c / 4) f.unit.toNat ∧ x' = tileOf t' (c / 4) f.unit.toNat ∧
      x' = { x with
        elems := if x.lastSeq = some r.seq then x.elems else [], tag := if x.lastSeq = some r.seq then x.tag else .f32
        code := if x.lastSeq = some r.seq then x.code else 0, held := true, core := c % 4, row := k / 32
        cv := f.cv.toNat, lastSeq := some r.seq }) ∧
    (Holds s c k f → ∃ t', exec (.tacq f) s = .next t' ∧ FiredFrame s t' c (k / 32) f.cv.toNat r ∧
      AllGoOn s t' c k (r.reg f.cv.toNat).decl false ∧ t'.clusters = s.clusters) ∧
    (Holds s c k f → x.queue = [] → ∃ t' x', exec (.trel f) s = .next t' ∧ FiredFrame s t' c (k / 32) f.cv.toNat r ∧
      AllGoOn s t' c k (r.reg f.cv.toNat).decl false ∧ OnlyTile s t' (c / 4) f.unit.toNat ∧
      x' = tileOf t' (c / 4) f.unit.toNat ∧ x'.held = false ∧ x'.code = 0 ∧ x'.elems = x.elems ∧
      x'.tag = x.tag ∧ x'.lastSeq = x.lastSeq ∧ x'.queue = [])

/-- MMA and MMAX at the last signer (R184, R287): one request joins the tile's queue, with the fragments, the scale
register of MMAX, and the lanes of B and what their registers hold; each register that the pass reads is lent once
for each use of it; every signer goes on. -/
def Obligations.MatrixRequests : Prop :=
  ∀ (mk : FmtE → Instr) (rule : FmtE → ERule) (scaled : Bool), (mk, rule, scaled) ∈
      ([(.mma, ruleMma, false), (.mmax, ruleMmax, true)] : List ((FmtE → Instr) × (FmtE → ERule) × Bool)) →
    ∀ (f : FmtE) (s : State) (c k : Nat) (t : Thread) (r : Row) (x : Tile) (th : Nat → Thread) (xs : List (List Reg))
        (B rs : List Nat),
      WellFormed (mk f) → LastSigner s c k f.cv.toNat t r → B = setB r f.cv.toNat k t f.guard → B ≠ [] →
      (∀ j < 32, (r.reg f.cv.toNat).decl.getLsbD j = true →
        s.thread c (32 * (k / 32) + j) = some (th (32 * (k / 32) + j))) →
      (∀ j < 32, (r.reg f.cv.toNat).gmask.getLsbD j = true → (r.reg f.cv.toNat).signed.getLsbD j = true) →
      (t.guard f.guard = true → t.sources (eSrcs (rule f) f) = .ok xs) →
      x = tileOf s (c / 4) f.unit.toNat → Holds s c k f → (x.tag = .f32 ∨ x.tag = .raw) → x.code = 0 →
      passCount s (c / 4) < 16 → x.queue.length < 255 →
      (∀ i < 4, ∀ e ∈ (s.core (4 * (c / 4) + i)).rows, ∀ v ∈ e.2.cv, v.2.fired = none) →
      rs = (List.range 4).map (f.srcA.toNat + ·) ++ (List.range 4).map (f.srcB.toNat + ·) ++
        (if scaled then [f.srcC.toNat] else []) →
      ∃ t' id p, exec (mk f) s = .next t' ∧ FiredFrame s t' c (k / 32) f.cv.toNat r ∧
        OnlyTile s t' (c / 4) f.unit.toNat ∧ tileOf t' (c / 4) f.unit.toNat = { x with
          queue := x.queue ++ [⟨id, c, k / 32, f.cv.toNat, .pass p⟩] } ∧
        p.a = f.srcA.toNat ∧ p.b = f.srcB.toNat ∧ p.scale = (if scaled then some f.srcC.toNat else none) ∧
        p.z = f.fn.getLsbD 0 ∧ p.type = f.type ∧ p.entered = s.clock ∧ p.inTable = true ∧
        p.lanes.map (fun e => (e.key, e.uid)) = B.map (fun e => (e, (th e).uid)) ∧
        (∀ e ∈ p.lanes, e.words = rs.map fun i => ⟨((th e.key).reg i).word, ((th e.key).reg i).code⟩) ∧
        (∀ e ∈ maskKeys (k / 32) (r.reg f.cv.toNat).decl, e ∉ B →
          t'.thread c e = some (goneOn k e (th e) s.clock false)) ∧
        ∀ e ∈ B, ∃ u : Thread, t'.thread c e = some (goneOn k e u s.clock false) ∧ u = { th e with regs := u.regs } ∧
          ∀ i, i ≠ 255 → u.reg i = { (th e).reg i with lent := ((th e).reg i).lent + rs.count i }

/-- TZERO, TWRITE, TREAD and TCVT (R279, R283, R284, R288, R289): each enters its operation, and at the head of the
queue it zeroes the tile, writes the lane's eight elements, fills eight registers from them, or writes their
conversions. A lane whose set does not hold the bib, free or another's, raises BIBLESS. MWAIT and MSTAT (R290): MWAIT
of a tile, or of every tile that the set holds, raises BIBLESS where the set does not hold the tile, holds the thread
while a tile has operations, and then goes on, or raises the code field of the lowest tile whose code is not 0; a
thread that has waited makes no check of the bib again. MSTAT gives the control word of Table 7.9 and the number of
operations in the queue. -/
def Obligations.Tiles : Prop :=
  (∀ (f : FmtE) (s : State) (c k : Nat) (t : Thread) (x : Tile),
    Single s c k t → t.guard f.guard = true → x = tileOf s (c / 4) f.unit.toNat →
    (¬ Holds s c k f → FaultsWith (.tzero f) s c k 0x06 ∧ FaultsHeld (.tread f) s c k (codeOnly 0x06) ∧
      FaultsHeld (.tcvt f) s c k (codeOnly 0x06) ∧
      ∀ xs, t.sources (eSrcs (ruleTwrite f) f) = .ok xs → FaultsWith (.twrite f) s c k 0x06) ∧
    (Holds s c k f → x.queue = [] →
      (∃ s1 t', exec (.tzero f) s = .next s1 ∧ s1.thread c k = some (t.advance s.clock false) ∧
        exec (.tileOpApply (c / 4) f.unit.toNat) s1 = .next t' ∧ t'.cores = s1.cores ∧
        OnlyTile s t' (c / 4) f.unit.toNat ∧
        tileOf t' (c / 4) f.unit.toNat = { x with elems := [], tag := .f32, code := 0 }) ∧
      (∀ xs, t.sources (eSrcs (ruleTwrite f) f) = .ok xs → x.code = 0 → ∃ s1 t' x', exec (.twrite f) s = .next s1 ∧
        s1.thread c k = some (t.advance s.clock false) ∧ exec (.tileOpApply (c / 4) f.unit.toNat) s1 = .next t' ∧
        t'.cores = s1.cores ∧ OnlyTile s t' (c / 4) f.unit.toNat ∧ x' = tileOf t' (c / 4) f.unit.toNat ∧
        x' = { x with elems := x'.elems, tag := .f32 } ∧ ∀ i, tabGet zeroDatum x'.elems i =
          if i / 8 = k % 32 then ((srcData xs 0)[i % 8]?).getD zeroDatum else tabGet zeroDatum x.elems i) ∧
      ((x.tag = .f32 ∨ x.tag = .raw) → x.code = 0 → t.waited = false → (∀ d ∈ s.demands, d.inst ≠ s.nextId) →
        (∀ i < 8, Datum.okay (tabGet zeroDatum x.elems (8 * (k % 32) + i)) = true) →
        (t.dstReady f.dst.toNat 8 = .ok () → ∃ (s1 t' : State) (u : Thread), exec (.tread f) s = .next s1 ∧
          (∃ v, s1.thread c k = some v ∧ v.pc = t.pc ∧ v.status = .blocked (.tileOps [s.nextId + 1])) ∧
          exec (.tileOpApply (c / 4) f.unit.toNat) s1 = .next t' ∧ tileOf t' (c / 4) f.unit.toNat = x ∧
          OnlyTile s t' (c / 4) f.unit.toNat ∧ t'.thread c k = some (u.advance s.clock false) ∧
          u = { t with regs := u.regs } ∧ Filled .f32 f.dst.toNat 8
            ((List.range 8).map fun i => tabGet zeroDatum x.elems (8 * (k % 32) + i)) t u) ∧
        (t.dstReady f.dst.toNat (8 / tagElems f.type) = .ok () → WellFormed (.tcvt f) →
          ∃ (s1 t' : State) (u : Thread), exec (.tcvt f) s = .next s1 ∧
          exec (.tileOpApply (c / 4) f.unit.toNat) s1 = .next t' ∧ tileOf t' (c / 4) f.unit.toNat = x ∧
          OnlyTile s t' (c / 4) f.unit.toNat ∧ t'.thread c k = some (u.advance s.clock false) ∧
          u = { t with regs := u.regs } ∧
          (∀ j, j < f.dst.toNat ∨ f.dst.toNat + 8 / tagElems f.type ≤ j → u.reg j = t.reg j) ∧
          ∀ j < 8 / tagElems f.type, f.dst.toNat + j ≠ 255 → ∃ w : Word, u.reg (f.dst.toNat + j) =
              { t.reg (f.dst.toNat + j) with word := w, code := lcc w, tag := f.type, full := true, pending := false } ∧
            ∀ q < tagElems f.type, ∀ d, ffmtOf f.type = some d → elem f.type w q = roundTo d (.mode (rmodeOf f.var))
              (f.fn.getLsbD 0) (decodeF fmtF32
                (tabGet zeroDatum x.elems (8 * (k % 32) + tagElems f.type * j + q)).word.toNat))))) ∧
  (∀ (f : FmtE) (s : State) (c k : Nat) (t : Thread) (x : Tile) (ts : List Nat) (ours : Prop),
    Single s c k t → t.guard f.guard = true → x = tileOf s (c / 4) f.unit.toNat →
    ts = (if f.fn.getLsbD 0 then heldTiles s (laneSet c k f) else [f.unit.toNat]) →
    (ours ↔ declared s c k f.cv.toNat = true ∧ ∀ i ∈ ts, (tileOf s (c / 4) i).heldBy (laneSet c k f) = true) →
    (t.waited = false → ¬ ours → FaultsWith (.mwait f) s c k 0x06) ∧
    (t.waited = true ∨ (ours ∧ ∀ i ∈ ts, (tileOf s (c / 4) i).queue = []) →
      ((∀ i ∈ ts, (tileOf s (c / 4) i).code = 0) →
        exec (.mwait f) s = .next (s.setThread c k (t.goOn s.clock false))) ∧
      ∀ us i vs, ts = us ++ i :: vs → (∀ j ∈ us, (tileOf s (c / 4) j).code = 0) → (tileOf s (c / 4) i).code ≠ 0 →
        FaultsWith (.mwait f) s c k (tileOf s (c / 4) i).code) ∧
    (t.waited = false → ours → (∃ i ∈ ts, (tileOf s (c / 4) i).queue ≠ []) → exec (.mwait f) s =
      .next (s.setThread c k { t.spun s.clock with
        status := .blocked (.tileOps (ts.map fun i => (tileOf s (c / 4) i).queue.map TileOp.id).flatten) })) ∧
    (t.dstReady f.dst.toNat 2 = .ok () → x.core < 4 → x.row < 16 → x.cv < 4 → ∃ w : Word, exec (.mstat f) s =
        .next (s.setThread c k (((t.write f.dst.toNat .u32 w).write (f.dst.toNat + 1) .u32
          (BitVec.ofNat 32 x.queue.length)).advance s.clock false)) ∧
      w.toNat = 2 ^ 31 * x.held.toNat + 2 ^ 29 * x.core + 2 ^ 25 * x.row + 2 ^ 23 * x.cv + 2 ^ 15 * x.code.toNat +
        2 ^ 11 * tagNum x.tag))

/-- A pass, from its grant to its end 32 clocks later (R181, R185, R279, R281, R287): the arbiter's one request is
granted and its registers are returned, also in what the open accesses of their threads keep; with every input and
every element that it reads in order, each element (m, n) becomes the exact sum of the products that are not omitted,
and of the old element unless .z, rounded once; with one that mismatches, nothing is written and the code field is
DATUM. -/
def Obligations.MatrixPasses : Prop :=
  ∀ (s : State) (cl i : Nat) (x : Tile) (o : TileOp) (p : Pass) (ins : Nat → Option (List Datum)) (good : Prop),
    (s.cluster cl).tiles = [(i, x)] → (s.cluster cl).running = none → x.queue = [o] → o.kind = .pass p →
    p.inTable = true → o.core / 4 = cl → (s.core o.core).halting = false → x.held = true → x.core = o.core % 4 → x.code = 0 →
    (tabFind (s.core o.core).rows x.row).isSome = true → p.lanes.length ≤ 32 → (p.lanes.map PassLane.key).Nodup →
    (∀ e ∈ p.lanes, e.key / 32 = o.row) →
    ins = (fun l => (p.lanes.find? fun e => e.key % 32 == l).map fun e => match s.thread o.core e.key with
      | some u => if u.uid = e.uid then p.regs.map fun r => ⟨(u.reg r).word, (u.reg r).code⟩ else e.words
      | none => e.words) →
    (good ↔ (∀ e ∈ p.lanes, ∀ ds, ins (e.key % 32) = some ds → ds.all Datum.okay = true) ∧
      (p.z = false → ∀ e ∈ x.elems, Datum.okay e.2 = true)) →
    ∃ s1, exec (.matrixGrant cl) s = .next s1 ∧ exec (.passComplete cl) s1 = .next s1 ∧
      s1 = { s with cores := s1.cores, clusters := s1.clusters, accesses := s1.accesses } ∧
      s1.accesses.map (fun a => { a with before := none }) = s.accesses.map (fun a => { a with before := none }) ∧
      (∀ e ∈ p.lanes, ∀ u, s.thread o.core e.key = some u → u.uid = e.uid → ∃ v, s1.thread o.core e.key = some v ∧
        v = { u with regs := v.regs } ∧
        ∀ r, r ≠ 255 → v.reg r = { u.reg r with lent := (u.reg r).lent - p.regs.count r }) ∧
      ∀ s2, s2 = { s1 with clock := s2.clock } → s.clock + 32 ≤ s2.clock → ∃ t' x',
      exec (.passComplete cl) s2 = .next t' ∧ t' = { s2 with clusters := t'.clusters } ∧
      x' = tileOf t' cl i ∧ (t'.cluster cl).running = none ∧ x'.queue = [] ∧
      (¬ good → x' = { x with code := 0x18, queue := [] }) ∧
      (good → x' = { x with elems := x'.elems, tag := .f32, queue := [] } ∧ ∀ m < 16, ∀ n < 16, ∃ w : Word,
        tabGet zeroDatum x'.elems (8 * (16 * (n / 8) + m) + n % 8) = ⟨w, lcc w⟩ ∧
        SumRounds fmtF32 .rne ((List.range (8 * tagElems p.type)).filterMap (passTerm p ins m n) ++
          if p.z then [] else [f32Val (tabGet zeroDatum x.elems (8 * (16 * (n / 8) + m) + n % 8)).word]) w.toNat)

/-- GPOST (R310, Table 13.6): a request joins the engine's line, where it is served once the clock of its arrival is
over (log entry 37); an entry that the engine refuses gives its code and has no other effect but that the member
takes no report back for it; one for which the member has to take its report back stays in the line; one that the
engine accepts takes a free slot, ARMED with its threshold, adds its expectation to its counter's pending field, and
gives the handle. An offset that is not aligned raises ALIGN. GCANCEL, GSTAT, GJOIN, GLEAVE, GVER and RANKQ (R311 to
R314): the gate word of a handle, of which one that names no gate reads 0; an ARMED gate that nothing follows becomes
CANCELLED and gives its expectation back; a request to join or leave opens the group's round, whose version it is
told; the version and count of a group; the words of Table 13.8. A group from 65536 up raises ILLEGAL_OP (log entry
58), and a handle of another partition reads as FREE (log entry 59). -/
def Obligations.GatesAndGroups : Prop :=
  (∀ (f : FmtE) (s : State) (c k off p d : Nat) (t : Thread) (xs : List (List Reg)) (g : CoreGang) (r : BitVec 512)
      (e : Gate),
    Single s c k t → t.guard f.guard = true → t.sources (eSrcs (ruleGpost f) f) = .ok xs →
    t.dstReady f.dst.toNat 1 = .ok () → off = (srcW xs 0).toNat → d = c / 64 → p = launchPart s t.seq →
    gangOf s c k = some g →
    (off % 64 ≠ 0 → FaultsWith (.gpost f) s c k 0x08) ∧
    (off % 64 = 0 → off + 64 ≤ g.size → Quiet s t →
      (scratchWords (s.core c) (g.base + off) 16).all Datum.okay = true →
      r.toNat = wordsVal (scratchWords (s.core c) (g.base + off) 16) → gateMalformed r.toNat = false →
      e = gateOf r.toNat →
      (gatePlace t = none → exec (.gpost f) s = .next { s.setThread c k
        { t.spun s.clock with status := .blocked (.gateSlot s.clock t.seq s.nextId) } with nextId := s.nextId + 1 }) ∧
      ∀ at_ q o, gatePlace t = some (at_, q, o) → at_ < s.clock →
      (∀ y ∈ s.cores, ∀ u ∈ y.2.threads, u.2.uid ≠ t.uid → gatePlace u.2 = none) →
      (∀ code, gateRefusal s d p e = some code → freeGate s d ≠ none → exec (.gpost f) s =
        .next ((retracted s p e.group).setThread c k
          ((t.write f.dst.toNat .u32 ((0x800000#24 ++ code : BitVec 32))).proceed s.clock f.lit.isSome))) ∧
      (gateRefusal s d p e = none → freeGate s d ≠ none → mustRetract s p e = true →
        (∀ j x, groupSlot s p e.group = some (j, x) → x.coord ≠ selfRank s p) → exec (.gpost f) s = .next
        ((retract s p e).setThread c k { t with status := .blocked (.gateSlot at_ q o) })) ∧
      (∀ i, gateRefusal s d p e = none → mustRetract s p e = false → i < 4096 → (gate s d i).state = 0 → (∀ j < i, (gate s d j).state ≠ 0) → ∃ t' y,
        exec (.gpost f) s = .next t' ∧ y = gate t' d i ∧ t'.thread c k = some ((t.write f.dst.toNat .u32
          (BitVec.ofNat 32 (((gate s d i).seq + 1) % 4096 * 4096 + i))).proceed s.clock f.lit.isSome) ∧
        y.state = 1 ∧ y.seq = ((gate s d i).seq + 1) % 4096 ∧ y.gate = some e ∧ y.part = p ∧ y.launch = t.seq ∧
        y.keySlot = launchSlot s t.seq ∧ y.fail = none ∧
        y.h = (if r.getLsbD 18 then ((landing s e.lc).count.toNat + (r.extractLsb' 256 16).toNat) % 2 ^ 48
          else (r.extractLsb' 272 48).toNat) ∧
        (∀ j, j ≠ i → gate t' d j = { gate s d j with ready := (gate t' d j).ready }) ∧
        ((∀ j x, groupSlot s p e.group = some (j, x) → x.retracting = false) → t' = { s with
          cores := t'.cores, dies := t'.dies, landing := t'.landing }) ∧
        (∀ j, landing t' j = if r.getLsbD 15 ∧ j = e.lc then
          { landing s j with pending := (landing s j).pending + r.extractLsb' 256 16 } else landing s j)))) ∧
  (∀ (f : FmtE) (s : State) (c k p d : Nat) (t : Thread) (xs : List (List Reg)),
    Single s c k t → t.guard f.guard = true → d = c / 64 → p = launchPart s t.seq →
    (t.sources (eSrcs (ruleHandle f) f) = .ok xs → t.dstReady f.dst.toNat 1 = .ok () →
      ∀ (i : Nat) (g : GateSlot) (named : Prop), i = (srcW xs 0).toNat % 4096 → g = gate s d i →
      (named ↔ g.seq = ((srcW xs 0).extractLsb' 12 12).toNat ∧ g.part = p ∧ g.state ≠ 0) → g.state < 6 →
      (¬ named → exec (.gstat f) s = .next (s.setThread c k ((t.write f.dst.toNat .u32 0).advance s.clock false)) ∧
        exec (.gcancel f) s = .next (s.setThread c k ((t.write f.dst.toNat .u32 0).advance s.clock false))) ∧
      (named → exec (.gstat f) s = .next (s.setThread c k ((t.write f.dst.toNat .u32
        (BitVec.ofNat 3 g.state ++ (0 : BitVec 5) ++ (if g.state = 4 then g.code else 0) ++ (0 : BitVec 16))).advance
          s.clock false))) ∧
      (named → ∀ e, g.state = 1 → g.gate = some e → followers s p e = [] → e.rel = false → ∃ t',
        exec (.gcancel f) s = .next t' ∧ (gate t' d i).state = 5 ∧ (∀ j, j ≠ i → gate t' d j = gate s d j) ∧
        t'.thread c k = some ((t.write f.dst.toNat .u32 0xA0000000).advance s.clock false) ∧
        (∀ j, landing t' j = if e.armEn = true ∧ j = e.lc then
          { landing s j with pending := (landing s j).pending - BitVec.ofNat 16 e.expect } else landing s j) ∧
        t' = { s with cores := t'.cores, dies := t'.dies, landing := t'.landing, nextId := t'.nextId })) ∧
    (t.sources (eSrcs (ruleGroup f) f) = .ok xs → t.dstReady f.dst.toNat 2 = .ok () →
      (65536 ≤ (srcW xs 0).toNat → FaultsWith (.gjoin f) s c k 0x01 ∧ FaultsWith (.gleave f) s c k 0x01 ∧
        FaultsWith (.gver f) s c k 0x01) ∧
      ((srcW xs 0).toNat < 65536 →
        (groupSlot s p (srcW xs 0).toNat = none →
          exec (.gjoin f) s = .next (s.setThread c k
            ((t.writeAll f.dst.toNat [(.u32, 0x11), (.u32, 0)]).advance s.clock f.lit.isSome)) ∧
          exec (.gleave f) s = .next (s.setThread c k
            ((t.writeAll f.dst.toNat [(.u32, 0x11), (.u32, 0)]).advance s.clock f.lit.isSome)) ∧
          exec (.gver f) s = .next (s.setThread c k
            ((t.writeAll f.dst.toNat [(.u32, 0), (.u32, 0)]).advance s.clock f.lit.isSome))) ∧
        (∀ i g, groupSlot s p (srcW xs 0).toNat = some (i, g) →
          exec (.gver f) s = .next (s.setThread c k ((t.writeAll f.dst.toNat [(.u32, BitVec.ofNat 32 g.version),
            (.u32, BitVec.ofNat 32 (2 ^ 31 + g.count))]).advance s.clock f.lit.isSome)) ∧
          ∀ mk join, (mk, join) ∈ ([(.gjoin, true), (.gleave, false)] : List ((FmtE → Instr) × Bool)) →
            g.round = 0 → g.requests = [] → g.coord = selfRank s p →
            (g.members.contains (selfRank s p) = join → exec (mk f) s = .next (s.setThread c k
              ((t.writeAll f.dst.toNat [(.u32, 0x2B), (.u32, 0)]).advance s.clock f.lit.isSome))) ∧
            (g.members.contains (selfRank s p) ≠ join → ∃ t', exec (mk f) s = .next t' ∧
              t' = { s with cores := t'.cores, parts := t'.parts } ∧
              (∃ x v, x = (t'.part p).group i ∧ v = (if g.version = 0xFFFFFFFF then 1 else g.version + 1) ∧
                x = { g with round := 1, target := x.target, targetVer := v, requests := [], reported := [], acked := [],
                             asked := some v, restarted := false } ∧
                ∀ r, r ∈ x.target ↔ (if r = selfRank s p then join = true else r ∈ g.members) ∧ r ∉ g.dead) ∧
              (t'.part p) = { s.part p with groups := (t'.part p).groups } ∧
              t'.thread c k = some ((t.writeAll f.dst.toNat [(.u32, 0), (.u32,
                BitVec.ofNat 32 (if g.version = 0xFFFFFFFF then 1 else g.version + 1))]).advance s.clock
                  f.lit.isSome)))) ∧
      (∃ a b, exec (.rankq f) s = .next (s.setThread c k
          ((t.writeAll f.dst.toNat [(.u32, a), (.u32, b)]).advance s.clock f.lit.isSome)) ∧
        (resolveRank s p (srcW xs 0).toNat = .invalid → a = 0x21000000 ∧ b = 0) ∧
        (resolveRank s p (srcW xs 0).toNat = .dead none → a = 3 ∧ b = 0) ∧
        ∀ hid prof cls, prof < 8 → (resolveRank s p (srcW xs 0).toNat, cls) ∈ [(.loc hid prof, 0), (.pod hid prof, 1),
          (.remote hid prof, 2), (.dead (some (hid, prof)), 3)] →
          a = BitVec.ofNat 32 (hid % 16 * 256 + prof * 4 + cls) ∧ b = BitVec.ofNat 32 hid)))

/-! ## Events of cores, engines and memory -/

/-- RECONVERGENCE_TIMEOUT, DEMOTION_EXPIRE and FIRED_RENDEZVOUS_PROCEED (R169, R172, R175): a thread that has been in
RECONV for 1,024 clocks is READY again, and not before; a demotion ends when its clock has come; and a fired TACQ
that waited takes its tile once the clock of its firing is over (log entry 38), the tile is free and no other
register of the cluster has fired before it. Only what a wait waits for ends it (log entry 53). -/
def Obligations.WaitsEnd : Prop :=
  (∀ (s : State) (c k : Nat) (t : Thread), s.thread c k = some t →
    (∀ p since, t.status = .reconv p since →
      (since + 1024 ≤ s.clock → exec (.reconvergenceTimeout c k) s =
        .next (s.setThread c k { t with status := .ready, since := s.clock })) ∧
      (s.clock < since + 1024 → exec (.reconvergenceTimeout c k) s = .next s)) ∧
    (t.demotedUntil ≤ s.clock → exec (.demotionExpire c k) s = .next (s.setThread c k { t with demotedUntil := 0 })) ∧
    (s.clock < t.demotedUntil → exec (.demotionExpire c k) s = .next s)) ∧
  ∀ (s : State) (c row cv o : Nat) (f : FmtE) (r : Row) (x : Tile), (s.core c).halting = false →
    o / 32768 < s.clock → rowAt s c row = some r → (r.reg cv).fired = some o → (r.reg cv).instr = some (.tacq f) →
    (r.reg cv).gmask ≠ 0 → (r.reg cv).signed = (r.reg cv).decl →
    (∀ j < 32, (r.reg cv).decl.getLsbD j = true → (s.thread c (32 * row + j)).isSome = true) →
    (∀ e ∈ (s.core c).rows, ∀ v ∈ e.2.cv, v.2.complete = false) →
    (∀ i < 4, ∀ e ∈ (s.core (4 * (c / 4) + i)).rows, ∀ v ∈ e.2.cv, ∀ o', v.2.fired = some o' → o ≤ o') →
    x = tileOf s (c / 4) f.unit.toNat → x.held = false → ∃ t' x', exec (.firedRendezvousProceed c row cv) s = .next t' ∧
      FiredFrame s t' c row cv r ∧ OnlyTile s t' (c / 4) f.unit.toNat ∧
      (∀ e ∈ maskKeys row (r.reg cv).decl, ∀ u, s.thread c e = some u →
        t'.thread c e = some (u.proceed s.clock false)) ∧
      x' = tileOf t' (c / 4) f.unit.toNat ∧ x'.held = true ∧ x'.core = c % 4 ∧ x'.row = row ∧ x'.cv = cv ∧
      (x.lastSeq ≠ some r.seq → x'.elems = [] ∧ x'.tag = .f32 ∧ x'.code = 0)

/-- CHUNK_LAND and TRANSFER_END (R145, R147, R151): a chunk of a transfer of one row within scratchpad moves its
words with their codes, and its map bit rises, with no other word changed; a transfer whose chunks have all landed
leaves its channel IDLE and its map free with code 0; one that has failed, and that is not to be reported, leaves the
channel STOPPED with the code, the row and the address, and its map free with the code. FILL and REFETCH (R26, R48):
the lines of the tile that the L2 then holds have the words that main memory holds under the key slot, but for the
sectors held dirty; the fill is over, and the access that waited goes to its slice; a load's reply that mismatches in
a clean copy discards a clean copy in the L2 and goes to its home once more, and only once. A dirty copy in the L2
stays, and serves (log entry 14). Stated of one access in flight, and of a fill for which no line of another tile has
to leave its set and way. -/
def Obligations.CopiesAndFillsEnd : Prop :=
  (∀ (s : State) (cl ch : Nat) (x : Channel) (w : Work) (tr : Transfer) (m : Nat), x = chan s cl ch →
    x.work = some w → w.tr = some tr → tr.map = some m → w.rink = none → w.chain = none → x.state = 1 →
    awaits s (fun o => o.ofWork w.id) = false →
    (∀ (i src dst n : Nat), tr.kind = 0 → tr.srcSp = true → tr.dstSp = true → tr.rows = 1 → tr.rowBytes % 4 = 0 →
      tr.srcStride % 4 = 0 → tr.dstStride % 4 = 0 → tr.src.toNat % 4 = 0 → tr.dst.toNat % 4 = 0 → w.base % 4 = 0 →
      tr.src.toNat + tr.rowBytes ≤ w.size → tr.dst.toNat + tr.rowBytes ≤ w.size → w.size ≤ 2 ^ 20 →
      (tr.src.toNat + tr.rowBytes ≤ tr.dst.toNat ∨ tr.dst.toNat + tr.rowBytes ≤ tr.src.toNat) →
      512 * i < tr.rowBytes → i ∉ w.issued → i ∉ w.landed → i ∉ w.failed → w.fault = none → podRoom s 256 = true →
      w.buf = [] → src = (w.base + tr.src.toNat) / 4 + 128 * i → dst = (w.base + tr.dst.toNat) / 4 + 128 * i →
      n = min 128 (tr.rowBytes / 4 - 128 * i) → ∃ t' y w', exec (.chunkLand cl ch i) s = .next t' ∧
        t' = { s with cores := t'.cores, clusters := t'.clusters } ∧
        (∀ j < n, tabGet zeroDatum (t'.core (chanCore cl ch)).scratch (dst + j) =
          tabGet zeroDatum (s.core (chanCore cl ch)).scratch (src + j)) ∧
        (∀ j, j < dst ∨ dst + n ≤ j → tabGet zeroDatum (t'.core (chanCore cl ch)).scratch j =
          tabGet zeroDatum (s.core (chanCore cl ch)).scratch j) ∧
        (t'.core (chanCore cl ch)).map m =
          { (s.core (chanCore cl ch)).map m with bits := ((s.core (chanCore cl ch)).map m).bits ||| 2 ^ i } ∧
        (∀ j, j ≠ m → (t'.core (chanCore cl ch)).map j = (s.core (chanCore cl ch)).map j) ∧
        (t'.core (chanCore cl ch)).threads = (s.core (chanCore cl ch)).threads ∧
        (∀ c, c ≠ chanCore cl ch → t'.core c = s.core c) ∧
        y = chan t' cl ch ∧ y = { x with work := some w' } ∧ w' = { w with issued := i :: w.issued, landed := i :: w.landed } ∧
        ∀ j, j ≠ ch → chan t' cl j = chan s cl j) ∧
    (∀ e, w.fault = e → (e = none → w.landed.length = tr.chunks) →
      (∀ z, e = some z → z.freezing = false ∧ z.report = false) → ∃ t', exec (.transferEnd cl ch) s = .next t' ∧
        t' = { s with cores := t'.cores, clusters := t'.clusters } ∧
        (e = none → chan t' cl ch = { x with state := 0, head := 0, work := none }) ∧
        (∀ z, e = some z → chan t' cl ch =
          { x with state := 2, resume := false, code := z.code, row := z.row, head := 0, faddr := z.addr, work := none }) ∧
        (t'.core (chanCore cl ch)).map m = { (s.core (chanCore cl ch)).map m with
          held := false, code := (e.map WorkFault.code).getD 0 } ∧
        (t'.core (chanCore cl ch)).scratch = (s.core (chanCore cl ch)).scratch ∧
        (t'.core (chanCore cl ch)).threads = (s.core (chanCore cl ch)).threads)) ∧
  (∀ (s : State) (a : Access) (dpa slot : Nat), s.accesses = [a] → a.place = some (dpa, slot) →
    (∀ (tile way : Nat) (f : Fill) (ws : List Datum) (s1 : State), a.stage = .fill → tile = dpa / 1024 → s.fills = [f] →
      f.tile = tile → f.slot = slot → f.failed = none → f.mask.getLsbD way = true →
      (∀ i < 8, tabFind s.l2Tags (8 * tile + i) = none → victimOf s (8 * tile + i) way = none) →
      readTile s (1024 * tile) slot = .ok (ws, s1) → ∃ t', exec (.fill tile way) s = .next t' ∧
      t' = { s1 with l2 := t'.l2, l2Tags := t'.l2Tags, fills := [], accesses := [{ a with stage := .slice }] } ∧
      s1 = { s with dies := s1.dies, hbm := s1.hbm, hbmSide := s1.hbmSide } ∧
      (∀ i < 16, ∀ x, l2Hit t' (1024 * tile + 64 * i) slot = some x →
        (∀ y, l2Hit s (1024 * tile + 64 * i) slot = some y → y.dirty = true → x = y) ∧
        ((∀ y, l2Hit s (1024 * tile + 64 * i) slot = some y → y.dirty = false) →
          x = ⟨(ws.drop (16 * i)).take 16, false⟩)) ∧
      (∀ j < 8, (∀ i < 8, i ≠ j → (tabFind s.l2Tags (8 * tile + i)).isSome = true) →
        tabFind s.l2Tags (8 * tile + j) = none → tabFind t'.l2Tags (8 * tile + j) = some ⟨slot, way⟩ ∧
        ∀ i < 2, (l2Hit t' (1024 * tile + 128 * j + 64 * i) slot).isSome = true) ∧
      (∀ i, i / 8 ≠ tile → tabFind t'.l2Tags i = tabFind s.l2Tags i) ∧
      ∀ i, i / 16 ≠ tile → tabFind t'.l2 i = tabFind s.l2 i) ∧
    (∀ ws clean, a.stage = .reply ws clean → a.kind.isLoad = true →
      ((∃ d ∈ a.pick ws, Datum.okay d = false) → clean = true → a.refetched = false → ∃ t',
        exec (.refetch a.id) s = .next t' ∧ t' = { s with
          l2 := t'.l2, l2Tags := t'.l2Tags, accesses := [{ a with refetched := true, stage := .slice }] } ∧
        (∀ x, l2Hit s dpa slot = some x → if x.dirty = true then t'.l2 = s.l2 else l2Hit t' dpa slot = none) ∧
        ∀ q y, q / 64 ≠ dpa / 64 → l2Hit t' q y = l2Hit s q y) ∧
      ((∀ d ∈ a.pick ws, Datum.okay d = true) ∨ clean = false ∨ a.refetched = true →
        exec (.refetch a.id) s = .next s)))

/-- SEAL and METADATA_WRITEBACK (R40 to R46, R51, R129): a dirty tile that is sealed reads back from main memory as
the words that the L2 holds, under the next minor, and its sectors are clean; a clean line of a tile leaves the L2
alone and silently; a changed version block that is written back reads back through the tree as it was, under the
next counter of its parent. The tag of the sealed image is taken not to be, by coincidence, the tag of a zero tile. -/
def Obligations.SealKeepsWords : Prop :=
  (∀ (s : State) (tile slot dpa m : Nat) (ws : List Datum) (vb : MUnit) (ch : Bool) (ct : List Byte), dpa = 1024 * tile →
    backed dpa = true → binding s dpa = false → tabSorted s.l2 = true →
    (∀ i < 8, ∃ y, tabFind s.l2Tags (8 * tile + i) = some y ∧ y.slot = slot) →
    (∀ i < 16, ∃ x, tabFind s.l2 (16 * tile + i) = some x ∧ x.words.length = 16 ∧
      x.words = (ws.drop (16 * i)).take 16) → ws.length = 256 →
    (∃ i < 16, ∃ x, tabFind s.l2 (16 * tile + i) = some x ∧ x.dirty = true) →
    (∀ blocks, (cachedOf s (dieOf dpa) blocks).length ≤ if blocks then 4096 else 1024) → cachedUnit s (dieOf dpa) 1 (groupOf dpa) = some ⟨vb, ch⟩ → vb.bound = true → vb.slot = slot →
    m = tabGet 0 vb.ctr (tileIn dpa) → m < 65535 → vb.major < 2 ^ 48 - 1 →
    ct = gcmCrypt (s.key slot).key (tileIv dpa vb.major (m + 1) 0) (imageData ws ++ imageSide ws) →
    (ws ≠ zeroWords →
      dataTag (s.key slot).key dpa vb.major (m + 1) ct ≠ zeroTag (s.key slot).key dpa vb.major (m + 1)) → ∃ t',
    exec (.seal tile 0) s = .next t' ∧
    t' = { s with dies := t'.dies, hbm := t'.hbm, hbmSide := t'.hbmSide, l2 := t'.l2 } ∧
    (∃ s1, readTile t' dpa slot = .ok (ws, s1)) ∧
    (∀ i < 16, ∀ x, tabFind s.l2 (16 * tile + i) = some x →
      tabFind t'.l2 (16 * tile + i) = some { x with dirty := false }) ∧
    (∀ i, i / 16 ≠ tile → tabFind t'.l2 i = tabFind s.l2 i) ∧
    cachedUnit t' (dieOf dpa) 1 (groupOf dpa) =
      some ⟨{ vb with ctr := tabSet 0 vb.ctr (tileIn dpa) (m + 1) }, true⟩) ∧
  (∀ (s : State) (tile i : Nat), i < 8 → binding s (1024 * tile) = false → lineDirty s (8 * tile + i) = false →
    (tabFind s.l2Tags (8 * tile + i)).isSome = true → exec (.seal tile (1 <<< i)) s = .next { s with
      l2 := tabDel (tabDel s.l2 (16 * tile + 2 * i)) (16 * tile + 2 * i + 1)
      l2Tags := tabDel s.l2Tags (8 * tile + i) }) ∧
  (∀ (s : State) (d n : Nat) (u p : MUnit) (ch : Bool), n < 2064384 → cachedUnit s d 1 n = some ⟨u, true⟩ →
    (∀ blocks, (cachedOf s d blocks).length ≤ if blocks then 4096 else 1024) →
    cachedUnit s d 2 (n / 64) = some ⟨p, ch⟩ → tabGet 0 p.ctr (n % 64) < 65535 → (∃ x, u = unitOfBits x) → ∃ t',
    exec (.metadataWriteback d (unitIndex 1 n)) s = .next t' ∧
    t' = { s with dies := t'.dies, hbm := t'.hbm, hbmSide := t'.hbmSide } ∧ cachedUnit t' d 1 n = none ∧
    cachedUnit t' d 2 (n / 64) = some ⟨{ p with ctr := tabSet 0 p.ctr (n % 64) (tabGet 0 p.ctr (n % 64) + 1) }, true⟩ ∧
    ∃ s1, getUnit 4 t' d 1 n = .ok (u, s1)) ∧
  ∀ (s : State) (d n : Nat) (u : MUnit), n < 2064384 → cachedUnit s d 1 n = some ⟨u, false⟩ →
    (∀ blocks, (cachedOf s d blocks).length ≤ if blocks then 4096 else 1024) → exec (.metadataWriteback d (unitIndex 1 n)) s =
      .next (s.setDie d { s.die d with vcache := tabDel (s.die d).vcache (unitIndex 1 n) })

/-- TRANSLATION_WALK (R72, R74, R80, R86): the walk reads the entry that the table of level 0 holds for the address.
A well-formed leaf that grants the load is cached at the core and its cluster, and the load goes to its home slice at
the leaf's address. Where the entry is absent, a load parks its thread on a record of kind DEMAND with code XLATE,
and a .nr load fills its registers with zeros and clears its predicate. Stated of one load in flight, which its
thread has issued at `t0` and gone on from, with the tables of levels 4 to 1 in the walk cache, and of no other
request in line for a walk. -/
def Obligations.WalksTranslate : Prop :=
  ∀ (s : State) (a : Access) (t0 t : Thread) (t1 w n : Nat) (y : L2Sector) (lo hi : Datum) (e : DWord)
      (dst bytes nrp : Nat) (type : Tag) (ldx : Bool) (acq : Scope),
    s.accesses = [a] → s.demands = [] → s.walks = [] → a.stage = .walk → a.dest = none → a.kind = .load dst bytes type ldx acq nrp →
    s.thread a.core a.key = some t → t.uid = a.uid → a.before = some t0 → t0.uid = a.uid → a.holds = false →
    (s.core a.core).l1 = [] → binding s w = false →
    (s.part a.part).xlEnable = true →
    (∀ lv, 1 ≤ lv → lv ≤ 4 → (walkHit s (a.core / 64) a.part lv a.lva).isSome = true) →
    walkHit s (a.core / 64) a.part 1 a.lva = some t1 → w = t1 + 8 * (a.lva / 4096 % 512) →
    l2Hit s w ((s.part a.part).xlRoot.toNat % 256) = some y → (y.words.drop (w / 4 % 16)).take 2 = [lo, hi] →
    Datum.okay lo = true → Datum.okay hi = true → e = hi.word ++ lo.word → n = (bytes + 3) / 4 →
    (∀ l : Leaf, LeafEntry a.part a.lva e l → leafFail s a.part l .load a.order none = none → l.host = false →
      ∃ t' b, exec (.translationWalk a.id) s = .next t' ∧
        t' = { s with cores := t'.cores, clusters := t'.clusters, accesses := [b] } ∧
        b = { a with cls := l.cls, sector := b.sector, stage := .slice, leaf := some (l.vbase, l.size)
                     place := some (l.base + (a.lva - l.vbase), l.slot) } ∧
        cachedLeaf t' (corePlace a.core) a.part a.lva = some l ∧
        cachedLeaf t' (clusterPlace (a.core / 4)) a.part a.lva = some l ∧
        t'.core a.core = { s.core a.core with tlb := (t'.core a.core).tlb } ∧
        (∀ c, c ≠ a.core → t'.core c = s.core c) ∧
        ∀ c, t'.cluster c = { s.cluster c with tlb := (t'.cluster c).tlb }) ∧
    (e.getLsbD 0 = false → nrp = 7 → ∃ t' u r, exec (.translationWalk a.id) s = .next t' ∧ t'.accesses = [] ∧
      t'.demands = [] ∧ t'.thread a.core a.key = some u ∧ u.status = .parked none ∧ u.pc = t0.pc ∧
      (∀ i < n, dst + i ≠ 255 → (u.reg (dst + i)).full = false ∧ (u.reg (dst + i)).pending = false) ∧
      (t'.part (launchPart s t0.seq)).batches = (s.part (launchPart s t0.seq)).batches ++ [⟨s.nextId, [r]⟩] ∧
      r.kind = 0 ∧ r.code = 0x10 ∧ r.access = 0 ∧ r.lanes = 1#32 <<< (a.key % 32) ∧ r.pc = t0.pc ∧ r.addr = a.ea ∧
      r.seq = t0.seq ∧ r.uids = [t0.uid]) ∧
    (e.getLsbD 0 = false → nrp < 7 → ∃ t' u, exec (.translationWalk a.id) s = .next t' ∧
      t' = { s with cores := t'.cores, accesses := [] } ∧ t'.thread a.core a.key = some u ∧
      Filled type dst n (List.replicate n zeroDatum) t u ∧ u.pred nrp = false ∧
      u = { t with regs := u.regs, preds := u.preds } ∧ ∀ x, x ≠ a.key → t'.thread a.core x = s.thread a.core x)

/-- XL_INVAL and SHOOTDOWN_COMPLETE (R83): a write with a reserved bit or size sets bad_write; one during a shootdown
sets inval_err; another discards every cached translation and table of the partition that meets the range, and no
other, makes the walks that have ended within the range be made again, and keeps the accesses that are still to be
performed through it; in plain PCIe mode, where a host write has been posted through the range and nothing flushes it
yet, it keeps a zero-length read too (log entry 52); busy clears once none of them is left, and not before.
PL_LIMIT_WRITE, XL_REGION_WRITE and SOFT_ERROR (R20, R70, R139): a limit register takes a permitted value and keeps
its own otherwise; a region entry takes a permitted value, and another sets bad_write; a soft error flips one bit of
one stored word or code (log entry 89), a register's also in what the thread's open accesses keep of it, and nothing
else. -/
def Obligations.ShootdownsAndLimits : Prop :=
  (∀ (s : State) (p : Nat) (x : Part), x = s.part p →
    (∀ (v : DWord) (pf0 : Bool) (n lo : Nat) (flush : Prop), Reaches s p pf0 → n = (v.extractLsb' 0 6).toNat →
      lo = (v.extractLsb' 0 57).toNat / 2 ^ (n + 12) * 2 ^ (n + 12) →
      (flush ↔ (∃ b m, ((p, b, m), none) ∈ s.hostPosts ∧ lo < b + 2 ^ (m + 12) ∧ b < lo + 2 ^ (n + 12)) ∨
        (s.cxl = false ∧ ∃ a ∈ s.accesses, a.part = p ∧ hostPost a = true ∧ ∃ b m, a.leaf = some (b, m) ∧
          lo < b + 2 ^ (m + 12) ∧ b < lo + 2 ^ (n + 12))) →
      (v.extractLsb' 57 7 ≠ 0 ∨ v.extractLsb' 6 6 ≠ 0 ∨ 45 < n →
        exec (.xlInval p v pf0) s = .next (s.setPart p { x with badWrite := true })) ∧
      (v.extractLsb' 57 7 = 0 → v.extractLsb' 6 6 = 0 → n ≤ 45 → x.shoot.isSome = true →
        exec (.xlInval p v pf0) s = .next (s.setPart p { x with invalErr := true })) ∧
      (v.extractLsb' 57 7 = 0 → v.extractLsb' 6 6 = 0 → n ≤ 45 → x.shoot = none → ∃ t' d,
        exec (.xlInval p v pf0) s = .next t' ∧
        t' = { s with cores := t'.cores, clusters := t'.clusters, dies := t'.dies, parts := t'.parts
                      walks := t'.walks, hostReqs := t'.hostReqs, hostPosts := t'.hostPosts, hostOut := t'.hostOut
                      nextId := t'.nextId } ∧
        (¬ flush → t'.hostReqs = s.hostReqs ∧ t'.hostPosts = s.hostPosts ∧ t'.hostOut = s.hostOut) ∧
        (flush → ∃ r, t'.hostReqs = s.hostReqs ++ [r] ∧ r.id ∈ d.waits ∧ r.words = 0 ∧
          ∀ v, (v, none) ∉ t'.hostPosts) ∧
        (∀ b m i, ((p, b, m), some i) ∈ s.hostPosts → lo < b + 2 ^ (m + 12) → b < lo + 2 ^ (n + 12) → i ∈ d.waits) ∧
        t'.walks = s.walks.map (fun w => if w.part = p ∧ lo < 4096 * w.page + 4096 ∧ 4096 * w.page < lo + 2 ^ (n + 12)
          then { w with result := none } else w) ∧
        t'.part p = { x with shoot := some d } ∧ (∀ q, q ≠ p → t'.part q = s.part q) ∧
        d.lo = lo ∧ d.hi = lo + 2 ^ (n + 12) ∧
        (∀ a ∈ s.accesses, a.part = p → a.translated = true → ∀ b m, a.leaf = some (b, m) → lo < b + 2 ^ (m + 12) →
          b < lo + 2 ^ (n + 12) → a.id ∈ d.waits) ∧
        (∀ c, t'.core c = { s.core c with tlb := (t'.core c).tlb } ∧
          ∀ l, l ∈ (t'.core c).tlb ↔ l ∈ (s.core c).tlb ∧
            ¬ (l.part = p ∧ lo < l.vbase + 2 ^ (l.size + 12) ∧ l.vbase < lo + 2 ^ (n + 12))) ∧
        (∀ c, t'.cluster c = { s.cluster c with tlb := (t'.cluster c).tlb } ∧
          ∀ l, l ∈ (t'.cluster c).tlb ↔ l ∈ (s.cluster c).tlb ∧
            ¬ (l.part = p ∧ lo < l.vbase + 2 ^ (l.size + 12) ∧ l.vbase < lo + 2 ^ (n + 12))) ∧
        ∀ i, t'.die i = { s.die i with walkCache := (t'.die i).walkCache } ∧
          ∀ e, e ∈ (t'.die i).walkCache ↔ e ∈ (s.die i).walkCache ∧
            ¬ (e.part = p ∧ lo < (e.vbase + 1) * 2 ^ levelShift e.level ∧
              e.vbase * 2 ^ levelShift e.level < lo + 2 ^ (n + 12)))) ∧
    ∀ d, x.shoot = some d →
      ((∀ i ∈ d.waits, (∀ a ∈ s.accesses, a.id = i → a.translated = false) ∧ ∀ r ∈ s.hostReqs, r.id ≠ i) →
        exec (.shootdownComplete p) s = .next (s.setPart p { x with shoot := none })) ∧
      ((∃ i ∈ d.waits, ∃ a ∈ s.accesses, a.id = i ∧ a.translated = true) →
        exec (.shootdownComplete p) s = .next s)) ∧
  ((∀ (s : State) (p : Nat) (v : DWord) (ok : Prop), s.up = true → p < 16 →
    ok = (v.extractLsb' 4 3 ≠ 0 ∧ v.extractLsb' 24 24 ≠ 0 ∧ v.extractLsb' 48 16 = 0 ∧ v.extractLsb' 7 17 = 0 ∧
      v.extractLsb' 0 4 = 0) →
    (ok → exec (.plLimitWrite p v) s = .next (s.setPart p { s.part p with
      l2Ways := v.extractLsb' 24 24, spMax := (v.extractLsb' 4 3).toNat })) ∧
    (¬ ok → exec (.plLimitWrite p v) s = .next s)) ∧
  (∀ (s : State) (p i : Nat) (v : DWord) (pf0 : Bool) (ok : Prop), Reaches s p pf0 → i < 64 →
    ok = ((v.extractLsb' 5 6).toNat ≤ 27 ∧ v.extractLsb' 1 2 ≠ 3 ∧ v.extractLsb' 57 7 = 0 ∧ v.getLsbD 11 = false ∧
      (v.extractLsb' 12 45).toNat * 4096 + 2 ^ ((v.extractLsb' 5 6).toNat + 12) ≤ 2 ^ 57) →
    (ok → exec (.xlRegionWrite p i v pf0) s =
      .next (s.setPart p { s.part p with regions := tabSet 0 (s.part p).regions i v })) ∧
    (¬ ok → exec (.xlRegionWrite p i v pf0) s = .next (s.setPart p { s.part p with badWrite := true }))) ∧
  ∀ (s : State) (n : Nat), n < 36 →
    (∀ (c k v : Nat) (t : Thread), v < 255 → s.thread c k = some t → ∃ (u : Thread) (as : List Access), exec (.softError (.reg c k v) n) s =
      .next { s.setThread c k u with accesses := as } ∧ as.length = s.accesses.length ∧
      (∀ (i : Nat) (a b : Access), s.accesses[i]? = some a → as[i]? = some b →
        (a.uid ≠ t.uid ∨ a.before = none → b = a) ∧
        (∀ x : Thread, a.uid = t.uid → a.before = some x → ∃ y : Thread, b = { a with before := some y } ∧
          y = { x with regs := y.regs } ∧ Flipped n ⟨(x.reg v).word, (x.reg v).code⟩ ⟨(y.reg v).word, (y.reg v).code⟩)) ∧
      u = { t with regs := u.regs } ∧ (∀ j, j ≠ v → u.reg j = t.reg j) ∧
      u.reg v = { t.reg v with word := (u.reg v).word, code := (u.reg v).code } ∧
      Flipped n ⟨(t.reg v).word, (t.reg v).code⟩ ⟨(u.reg v).word, (u.reg v).code⟩) ∧
    (∀ c w : Nat, ∃ x, exec (.softError (.scratch c w) n) s = .next (s.setCore c { s.core c with scratch := x }) ∧
      Flipped n (tabGet zeroDatum (s.core c).scratch w) (tabGet zeroDatum x w) ∧
      ∀ j, j ≠ w → tabGet zeroDatum x j = tabGet zeroDatum (s.core c).scratch j) ∧
    (∀ (c i w : Nat) (y : L1Line) (ws : List Datum) (d : Datum), (s.core c).l1[i / 2]? = some y →
      tabFind y.secs (i % 2) = some ws → ws[w]? = some d → ∃ x y' ws' d',
      exec (.softError (.l1 c i w) n) s = .next (s.setCore c { s.core c with l1 := x }) ∧
      (∀ j, j ≠ i / 2 → x[j]? = (s.core c).l1[j]?) ∧ x[i / 2]? = some y' ∧ y' = { y with secs := y'.secs } ∧
      (∀ j, j ≠ i % 2 → tabFind y'.secs j = tabFind y.secs j) ∧ tabFind y'.secs (i % 2) = some ws' ∧
      (∀ j, j ≠ w → ws'[j]? = ws[j]?) ∧ ws'[w]? = some d' ∧ Flipped n d d') ∧
    (∀ (w : Nat) (y : L2Sector) (d : Datum), tabFind s.l2 (w / 16) = some y → y.words[w % 16]? = some d → ∃ y' d',
      exec (.softError (.l2 w) n) s = .next { s with l2 := tabPut s.l2 (w / 16) y' } ∧
      y' = { y with words := y'.words } ∧ (∀ j, j ≠ w % 16 → y'.words[j]? = y.words[j]?) ∧
      y'.words[w % 16]? = some d' ∧ Flipped n d d') ∧
    (∀ cl i e : Nat, ∃ t' y, exec (.softError (.tile cl i e) n) s = .next t' ∧
      t' = { s with clusters := t'.clusters } ∧ y = tileOf t' cl i ∧ y = { tileOf s cl i with elems := y.elems } ∧
      Flipped n (tabGet zeroDatum (tileOf s cl i).elems e) (tabGet zeroDatum y.elems e) ∧
      (∀ j, j ≠ e → tabGet zeroDatum y.elems j = tabGet zeroDatum (tileOf s cl i).elems j) ∧
      ∀ j, j ≠ i → tileOf t' cl j = tileOf s cl j) ∧
    (∀ b : Nat, n < 8 → b < 2 ^ 40 → ∃ x, exec (.softError (.hbm b) n) s = .next { s with hbm := x } ∧
      tabGet 0 x b = tabGet 0 s.hbm b ^^^ (1#8 <<< n) ∧ ∀ a, a ≠ b → tabGet 0 x a = tabGet 0 s.hbm a) ∧
    ∀ b : Nat, n < 8 → b < 2 ^ 37 → ∃ x, exec (.softError (.hbmSide b) n) s = .next { s with hbmSide := x } ∧
      tabGet 0 x b = tabGet 0 s.hbmSide b ^^^ (1#8 <<< n) ∧ ∀ a, a ≠ b → tabGet 0 x a = tabGet 0 s.hbmSide a)

/-! ## Events of the fabrics and the collective engines -/

/-- What a port does with a message (R97, R98, R100): a link that is UP sends it where its channel has a free credit
and no earlier message of the channel is held, of 256 credits each (log entry 30); the credit is then taken, and the
message stays in the replay buffer. A link that is in SPARE or RETRAIN, or lacks a credit, holds it; one that is OFF,
in TRAIN or DOWN loses it. The states of a pod link (R98 to R101, Tables 4.8 and 4.9): arming, training and its end,
a miswire, the limits of training and of silence, flits, heartbeats, the spare lane and retraining. A link that comes
UP makes an OFF peer ALIVE; one that goes DOWN leaves a peer that is ALIVE, or still OFF (log entry 63), to its first
relay, or, where there is none, DEAD, and trains again where it is armed; the map and the notices follow (R102 to
R105). What a flit carries is the model's (log entry 29), as are the first sequence number and the heartbeat's period
(log entry 71) and the moment at which miswire clears (log entry 104). The failures of one flit are counted, and the
message that a flit ends is delivered where it holds, in its place. PEER_REVIVE, DEATH_NOTICE, LINK_STATE_NOTICE and
TRAVERSE_FORWARD (R102 to R104, R106): DEAD positions that are named move to OFF, and no others; a death notice of
another position makes it DEAD and is forwarded, once; a notice of a link of others is applied to the map and
forwarded, once; a relay puts what it forwards, a request or an answer and unchanged, on VC1 of the link to the
position that it is addressed to, where that is UP, SPARE or RETRAIN, and discards anything else, a VC1 arrival too.
How many notices are remembered and what a relay's count rises by is the model's (log entry 71). -/
def Obligations.LinksAndPeers : Prop :=
  (∀ (s : State) (k vc ch : Nat) (m : PodMsg) (l : Link), l = s.link k → vc < 3 →
    ch = (if vc = 2 then 4 else 2 * vc + if msgAnswers m = true then 1 else 0) →
    (l.state = 2 → tabGet 0 l.used ch < 256 → (∀ e ∈ l.queue, e.1 ≠ ch) → ∃ u,
      podPut s k vc m = { s with links := (podPut s k vc m).links, podOut := s.podOut ++ [⟨k, vc, m⟩] } ∧
      LinkIs s (podPut s k vc m) k { l with buffer := l.buffer ++ [(ch, m)], used := u } ∧
      tabGet 0 u ch = tabGet 0 l.used ch + 1 ∧ ∀ j, j ≠ ch → tabGet 0 u j = tabGet 0 l.used j) ∧
    (l.state ∈ [2, 3, 4] → l.state ≠ 2 ∨ 256 ≤ tabGet 0 l.used ch ∨ (∃ e ∈ l.queue, e.1 = ch) →
      podPut s k vc m = { s with links := (podPut s k vc m).links } ∧
      LinkIs s (podPut s k vc m) k { l with queue := l.queue ++ [(ch, m)] }) ∧
    (l.state ∉ [2, 3, 4] → podPut s k vc m = s)) ∧
  (∀ (s : State) (k p : Nat) (l : Link) (x : Peer), k < 15 → s.pos < 16 → l = s.link k → p = (s.pos + k + 1) % 16 →
    x = s.peer p →
    (∃ t', exec (.linkArm k) s = .next t' ∧ t' = { s with links := t'.links } ∧ LinkIs s t' k
      (if l.state = 0 ∨ l.state = 5 then { l with state := 1, arm := false, trainSince := s.time, lastRx := s.time }
       else { l with arm := true })) ∧
    (l.state = 1 → x.state = 0 → Calm s → ∃ t', exec (.linkTrained k p) s = .next t' ∧
      t' = { s with links := t'.links, peers := t'.peers, linkMap := t'.linkMap
                    noticeSeq := (s.noticeSeq + 1) % 2 ^ 16, podOut := t'.podOut } ∧
      PeerIs s t' p { x with state := 1, relay := none, nextSeq := 0, unacked := [], rx := ⟨[], 0, 0⟩ } ∧
      MapIs s t' (linkEnds s.pos p) true ∧
      LinkThenSent s t' k { l with state := 2, lastRx := s.time, miswire := false, lost := false, inRow := 0, outRow := 0
                                   rxSeq := 0, queue := [], buffer := [], used := [] }
        (vcmAll t' none (.notice s.pos s.noticeSeq (min s.pos p) (max s.pos p) true))) ∧
    (∀ (i : Instr) (up : Bool) (l1 : Link) (ms : List PodOut), Calm s → up = decide (l.state ∈ [2, 3, 4]) →
      (i = .linkSilenceTimeout k ∧ up = true ∧ l.lastRx + 10 ^ 10 ≤ s.time ∧ l1 = l) ∨
        (i = .linkTrainTimeout k ∧ l.state = 1 ∧ l.trainSince + 10 ^ 12 ≤ s.time ∧ l1 = l) ∨
        (l.state = 1 ∧ l1 = { l with miswire := true } ∧ ∃ far, far ≠ p ∧ i = .linkTrained k far) →
      ms = (if up = true then vcmAll s (some k) (.notice s.pos s.noticeSeq (min s.pos p) (max s.pos p) false)
        else []) → ∃ t', exec i s = .next t' ∧
      t' = { s with links := t'.links, peers := t'.peers, linkMap := t'.linkMap, dies := t'.dies, podOut := t'.podOut
                    noticeSeq := if up = true then (s.noticeSeq + 1) % 2 ^ 16 else s.noticeSeq } ∧
      (if up = true then MapIs s t' (linkEnds s.pos p) false else t'.linkMap = s.linkMap) ∧
      (x.state = 3 → t'.peers = s.peers ∧ DropsStaged s t' none ∧ LinkThenSent s t' k (lostLink s l1) ms) ∧
      ∀ y, (x.state = 1 ∧ y = x) ∨
          (x.state = 0 ∧ y = { x with relay := none, nextSeq := 0, unacked := [], rx := ⟨[], 0, 0⟩ }) →
        ((∀ m, ¬ Relay s p m) → y.unacked = [] → PeerIs s t' p { y with state := 3, relay := none } ∧
          DropsStaged s t' (some p) ∧
          LinkThenSent s t' k (lostLink s l1) (ms ++ vcmAll s (some k) (.death p))) ∧
        ∀ n m, n < 15 → m = (p + n + 1) % 16 → Relay s p m → (∀ j < n, ¬ Relay s p ((p + j + 1) % 16)) →
          PeerIs s t' p { y with state := 2, relay := some m } ∧ DropsStaged s t' none ∧
          LinkThenSent s t' k (lostLink s l1) (ms ++ y.unacked.map fun z => ⟨(m + 15 - s.pos) % 16, 0, txMsg p z⟩)) ∧
    (l.state ≠ 1 ∨ s.time < l.trainSince + 10 ^ 12 → exec (.linkTrainTimeout k) s = .next s) ∧
    (l.state ∉ [2, 3, 4] ∨ s.time < l.lastRx + 10 ^ 10 → exec (.linkSilenceTimeout k) s = .next s) ∧
    (l.state ∈ [2, 3, 4] → (∀ n a b cs e row, row = (if n = l.rxSeq then l.inRow + 1 else l.inRow) →
        exec (.flitReceive k ⟨false, n, a, b, cs, e⟩) s = .next (s.setLink k { l with
          lastRx := s.time, replays := l.replays + 1, inRow := row
          state := if l.state = 2 ∧ 8 ≤ row then 4 else l.state })) ∧
      (∀ n a b cs e, exec (.flitReceive k ⟨true, n, a, b, cs, some e⟩) s =
        happens s (if n = l.rxSeq then deliverMsg (flitLink s k ⟨true, n, a, b, cs, none⟩) k e.1 e.2
          else flitLink s k ⟨true, n, a, b, cs, none⟩)) ∧
      (l.queue = [] → ∀ n a cs l1, l1 = { l with
          lastRx := s.time, inRow := if n = l.rxSeq then 0 else l.inRow
          rxSeq := if n = l.rxSeq then n + 1 else l.rxSeq, buffer := l.buffer.drop a
          outRow := if a = 0 then l.outRow else 0 } →
        (∃ t' u, exec (.flitReceive k ⟨true, n, a, false, cs, none⟩) s = .next t' ∧ t' = { s with links := t'.links } ∧
          LinkIs s t' k { l1 with used := u } ∧ ∀ ch, tabGet 0 u ch = tabGet 0 l.used ch - cs.count ch) ∧
        (l.state = 2 → l1.outRow < 7 → ∃ t' u, exec (.flitReceive k ⟨true, n, a, true, cs, none⟩) s = .next t' ∧
          t' = { s with links := t'.links, podOut := s.podOut ++ l1.buffer.map fun e => ⟨k, e.1 / 2, e.2⟩ } ∧
          LinkIs s t' k { l1 with
            used := u, outRow := l1.outRow + 1, replays := l.replays + BitVec.ofNat 32 l1.buffer.length } ∧
          ∀ ch, tabGet 0 u ch = tabGet 0 l.used ch - cs.count ch) ∧
        (l.state = 2 → 7 ≤ l1.outRow → ∃ t' u, exec (.flitReceive k ⟨true, n, a, true, cs, none⟩) s = .next t' ∧
          t' = { s with links := t'.links } ∧ LinkIs s t' k { l1 with used := u, outRow := l1.outRow + 1, state := 4 }))) ∧
    (l.state ∈ [1, 2, 3, 4] → exec (.heartbeat k) s =
      .next { s.setLink k { l with lastBeat := s.time } with podOut := s.podOut ++ [⟨k, 2, .heartbeat⟩] }) ∧
    (∀ lane, l.state = 2 → lane < 8 → exec (.laneSpare k lane) s = .next (s.setLink k
      (if l.spared = 15 then { l with state := 3, spared := lane } else { l with state := 4, lost := true }))) ∧
    (l.state = 4 → l.lost = true → exec (.retrainComplete k) s = .next s) ∧
    ∀ i : Instr, Calm s → (∀ ch, tabGet 0 l.used ch + l.queue.length ≤ 256) →
      (i = .spareComplete k ∧ l.state = 3) ∨ (i = .retrainComplete k ∧ l.state = 4 ∧ l.lost = false) → ∃ t' u,
      exec i s = .next t' ∧ (x.state ≠ 0 → t'.peers = s.peers) ∧
      (x.state = 0 → PeerIs s t' p { x with state := 1, relay := none, nextSeq := 0, unacked := [], rx := ⟨[], 0, 0⟩ }) ∧
      t' = { s with links := t'.links, peers := t'.peers, podOut := s.podOut ++ (l.buffer ++ l.queue).map fun e => ⟨k, e.1 / 2, e.2⟩ } ∧
      LinkIs s t' k { l with state := 2, inRow := 0, outRow := 0, queue := [], buffer := l.buffer ++ l.queue, used := u
                             replays := l.replays + BitVec.ofNat 32 l.buffer.length } ∧
      ∀ ch, tabGet 0 u ch = tabGet 0 l.used ch + (l.queue.map Prod.fst).count ch) ∧
  (∀ (s : State),
    (∀ bits : BitVec 16, s.up = true → ∃ t', exec (.peerRevive bits) s = .next t' ∧ t' = { s with peers := t'.peers } ∧
      ∀ q, t'.peer q = if q < 16 ∧ bits.getLsbD q = true ∧ (s.peer q).state = 3 then { s.peer q with state := 0 }
        else s.peer q) ∧
    (∀ k q : Nat, q ≠ s.pos → (s.peer q).state ≠ 3 → (s.peer q).unacked = [] → Calm s → ∃ t',
      exec (.deathNotice k q) s = .next t' ∧
      t' = { s with peers := t'.peers, links := t'.links, dies := t'.dies, podOut := t'.podOut } ∧
      PeerIs s t' q { s.peer q with state := 3, relay := none } ∧ DropsStaged s t' (some q) ∧
      Sent s t' (vcmAll s (some k) (.death q))) ∧
    (∀ k q : Nat, (s.peer q).state = 3 ∨ q = s.pos → exec (.deathNotice k q) s = .next s) ∧
    (∀ (k o n a b : Nat) (up : Bool), o ≠ s.pos → n ∉ (s.peer o).noticeSeen → a ≠ s.pos → b ≠ s.pos → Calm s → ∃ t' x,
      exec (.linkStateNotice k o n a b up) s = .next t' ∧
      t' = { s with peers := t'.peers, links := t'.links, linkMap := t'.linkMap, podOut := t'.podOut } ∧
      MapIs s t' (linkEnds a b) up ∧ PeerIs s t' o { s.peer o with noticeSeen := x } ∧ n ∈ x ∧
      Sent s t' (vcmAll s (some k) (.notice o n a b up))) ∧
    (∀ (k o n a b : Nat) (up : Bool), n ∈ (s.peer o).noticeSeen ∨ o = s.pos →
      exec (.linkStateNotice k o n a b up) s = .next s) ∧
    ∀ (k src : Nat) (m : PodMsg),
      (podTarget m = some ((s.pos + k + 1) % 16) → k < 15 → (s.link k).state ∈ [2, 3, 4] → ∃ t', exec (.traverseForward k ⟨src, m⟩) s = .next t' ∧
        t' = { s with links := t'.links, podOut := t'.podOut, freeCount := s.freeCount + 1, relayCount := t'.relayCount } ∧
        Sent s t' [⟨k, 1, .relayed src m⟩]) ∧
      (podTarget m ≠ some ((s.pos + k + 1) % 16) ∨ 15 ≤ k ∨ (s.link k).state ∉ [2, 3, 4] →
        exec (.traverseForward k ⟨src, m⟩) s = .next s) ∧
      (∀ n, podTarget (.relayed n m) = none))

/-- Writes of other modules (R107, R109, R110, R112, R114, R117, R120, R121): a write that arrives from a pod peer,
as a copy of a multicast, or as a packet of the remote fabric puts its words at the address that the region gives,
adds the sectors that it counts, of those that it touches, to the landing counter that it names where its class is
UN, and is acknowledged; a transaction or request that was performed before is only answered again, for 2 ms on the
remote fabric (log entry 72); one older than the window is discarded (log entry 32); an SO transaction out of its
order and an ROD packet out of its place are not taken (log entry 72), nothing is taken from a DEAD position, and a
copy for a group that this module does not deliver is refused and counted. Signals and reduction chunks (R107, R110,
R346, R349, R350, R353): a signal is a sequenced transaction of its position; one of a position that is ALIVE, under
its group where it is multicast, adds its signed value to the landing counter that it names, unless its generation is
not the leaf's, and is answered; one that came before is only answered again; one of a DEAD position does nothing. A
chunk, once all of its words have come, whose pieces are staged until then (log entry 42), is combined element by
element with the words at its place, sets its bit of the apply map, adds its sector to the counter that it names, and
is acknowledged; a chunk whose bit is set changes no memory; one whose collective was aborted is refused; one without
an entry of the apply map waits. -/
def Obligations.WritesAndSignalsArrive : Prop :=
  (∀ (s : State) (r : FabReq) (ws : List Datum) (l : Leaf) (va dpa : Nat) (y : L2Sector) (lc : Option Nat), s.binds = [] →
    s.waiting = [] → r.op = .write ws → r.keygen = 0 → HomeLeaf s r .store (some r.cls) l va dpa →
    HeldRun s l.slot dpa ws.length y → lc = (if r.cls = .un then r.lc else none) →
    (∀ i, lc = some i → landingOk s r.part i = true) →
    (∀ (src port place id : Nat) (rod : Option (Nat × Nat)) (o : RemoteFrom), o = ⟨src, port, place, id⟩ →
      ((∀ e ∈ s.remoteRx, e.from_ = o → e.at_ + 2 * 10 ^ 12 ≤ s.time) →
        (∀ d ∈ s.dies, d.2.staged = []) →
        ((∀ n first, rod = some (n, first) → n = max (tabGet 0 s.rodRx src) first) → ∃ t',
          exec (.remotePacketReceive src port ⟨place, id, rod, r⟩) s = .next t' ∧
          t' = { s with l2 := t'.l2, landing := t'.landing, cores := t'.cores, dies := t'.dies
                        remoteRx := t'.remoteRx, rodRx := t'.rodRx
                        remoteOut := s.remoteOut ++ [.answer src port id .ack] } ∧ OnlyMarked s t' ∧
          RunIs s t' dpa ws y ∧ Landed s t' lc (min r.count 1) ∧ Readied s t' lc ∧ ⟨o, .ack, s.time⟩ ∈ t'.remoteRx ∧
          (rod = none → t'.rodRx = s.rodRx) ∧ ∀ n first, rod = some (n, first) → tabGet 0 t'.rodRx src = n + 1 ∧
            ∀ q, q ≠ src → tabGet 0 t'.rodRx q = tabGet 0 s.rodRx q) ∧
        (∀ n first, rod = some (n, first) → n ≠ max (tabGet 0 s.rodRx src) first →
          exec (.remotePacketReceive src port ⟨place, id, rod, r⟩) s = .next s)) ∧
      (∀ e ∈ s.remoteRx, e.from_ = o → s.time < e.at_ + 2 * 10 ^ 12 →
        (∀ z ∈ s.remoteRx, z.from_ = o → z = e) → exec (.remotePacketReceive src port ⟨place, id, rod, r⟩) s =
          .next { s with remoteOut := s.remoteOut ++ [.answer src port id e.reply] })) ∧
    ∀ (src n g : Nat) (x : Peer), src < 16 → src ≠ s.pos → x = s.peer src →
      (∀ e : Instr, e = .podTransactionReceive src n r ∨
          (e = .multicastCopyReceive src n g r ∧ (tabGet 0 s.mcGroup g).getLsbD 31 = true ∧
            ((tabGet 0 s.mcGroup g).extractLsb' 27 4).toNat = r.part ∧ (tabGet 0 s.mcGroup g).getLsbD 15 = true) →
        (x.state = 1 → (∀ z ∈ x.rx.seen, z.1 ≠ n) → seqSpan n x.rx.top ≤ 4096 ∨ 2 ^ 23 ≤ seqSpan n x.rx.top →
          (r.cls = .so → n = x.rx.soNext) → ∃ t' rx, exec e s = .next t' ∧
          t' = { s with l2 := t'.l2, landing := t'.landing, cores := t'.cores, dies := t'.dies, peers := t'.peers
                        links := t'.links, podOut := t'.podOut } ∧ OnlyMarked s t' ∧ Readied s t' lc ∧
          Sent s t' [⟨(src + 15 - s.pos) % 16, 0, .answer src n .ack⟩] ∧ RunIs s t' dpa ws y ∧
          Landed s t' lc (min r.count 1) ∧ PeerIs s t' src { x with rx := rx } ∧ ∀ z, z ∈ rx.seen ↔
            (z = (n, some .ack) ∨ z ∈ x.rx.seen) ∧ seqSpan z.1 rx.top ≤ 4096) ∧
        (x.state = 1 → ∀ a, (n, a) ∈ x.rx.seen → (∀ z ∈ x.rx.seen, z.1 = n → z.2 = a) →
          seqSpan n x.rx.top ≤ 4096 → (a = none → exec e s = .next s) ∧ ∀ b, a = some b → ∃ t', exec e s = .next t' ∧
            t' = { s with links := t'.links, podOut := t'.podOut } ∧
            Sent s t' [⟨(src + 15 - s.pos) % 16, 0, .answer src n b⟩]) ∧
        ((∀ z ∈ x.rx.seen, z.1 ≠ n) → r.cls = .so → n ≠ x.rx.soNext → exec e s = .next s) ∧
        (4096 < seqSpan n x.rx.top ∧ seqSpan n x.rx.top < 2 ^ 23 → exec e s = .next s) ∧
        (x.state = 3 → exec e s = .next s)) ∧
      (x.state = 1 → (tabGet 0 s.mcGroup g).getLsbD 31 = false ∨ (tabGet 0 s.mcGroup g).getLsbD 15 = false ∨
          ((tabGet 0 s.mcGroup g).extractLsb' 27 4).toNat ≠ r.part →
        (∀ z ∈ x.rx.seen, z.1 ≠ n) → seqSpan n x.rx.top ≤ 4096 → r.cls ≠ .so → ∃ t' rx,
        exec (.multicastCopyReceive src n g r) s = .next t' ∧ t' = { s with
          peers := t'.peers, mcdropCount := s.mcdropCount + 1, links := t'.links, podOut := t'.podOut } ∧
        PeerIs s t' src { x with rx := rx } ∧
        Sent s t' [⟨(src + 15 - s.pos) % 16, 0, .answer src n (.refused 0x11 false)⟩])) ∧
  ((∀ (s : State) (r : FabReq) (src n : Nat) (v : BitVec 32) (i : Nat) (l : Leaf) (va dpa : Nat) (x : Peer)
      (group : Option Nat), r.op = .signal v →
    r.lc = some i → HomeLeaf s r .load none l va dpa → src < 16 → src ≠ s.pos → x = s.peer src →
    (∀ g, group = some g → (tabGet 0 s.mcGroup g).getLsbD 31 = true ∧
      ((tabGet 0 s.mcGroup g).extractLsb' 27 4).toNat = r.part ∧ (tabGet 0 s.mcGroup g).getLsbD 15 = true) →
    (x.state = 1 → (∀ z ∈ x.rx.seen, z.1 ≠ n) → seqSpan n x.rx.top ≤ 4096 ∨ 2 ^ 23 ≤ seqSpan n x.rx.top →
      (r.cls = .so → n = x.rx.soNext) → ∃ t' rx a, exec (.signalReceive src n ⟨group, r⟩) s = .next t' ∧
      t' = { s with landing := t'.landing, cores := t'.cores, dies := t'.dies, peers := t'.peers, links := t'.links
                    podOut := t'.podOut } ∧
      Sent s t' [⟨(src + 15 - s.pos) % 16, 0, .answer src n a⟩] ∧ PeerIs s t' src { x with rx := rx } ∧
      (∀ z, z ∈ rx.seen ↔ (z = (n, some a) ∨ z ∈ x.rx.seen) ∧ seqSpan z.1 rx.top ≤ 4096) ∧
      (r.keygen = (s.key l.slot).gen → landingOk s r.part i = true → a = .ack ∧ OnlyMarked s t' ∧
        Landed s t' (some i) v.toInt ∧ Readied s t' (some i)) ∧
      (r.keygen ≠ (s.key l.slot).gen → a = .refused 0x29 false ∧ t'.cores = s.cores ∧ t'.landing = s.landing ∧
        t'.dies = s.dies)) ∧
    (x.state = 1 → ∀ a, (n, some a) ∈ x.rx.seen → (∀ z ∈ x.rx.seen, z.1 = n → z.2 = some a) →
      seqSpan n x.rx.top ≤ 4096 → ∃ t', exec (.signalReceive src n ⟨group, r⟩) s = .next t' ∧
      t' = { s with links := t'.links, podOut := t'.podOut } ∧
      Sent s t' [⟨(src + 15 - s.pos) % 16, 0, .answer src n a⟩]) ∧
    (x.state = 3 → exec (.signalReceive src n ⟨group, r⟩) s = .next s)) ∧
  ∀ (s : State) (r : FabReq) (die d g coll src n i total q id : Nat) (op : AtomOp) (fmt : Tag) (ws : List Datum) (l : Leaf)
      (va dpa : Nat) (y : L2Sector) (c : RedCtx) (e : ApplyMap), s.binds = [] →
    r.op = .reduce g coll src n i 0 total op fmt ws → (fmt = .i32 ∨ fmt = .f32) → r.cls = .un →
    HomeLeaf s r .atomic (some .un) l va dpa → HeldRun s l.slot dpa ws.length y → findCtx s r.part g coll = some (d, c) →
    (s.die die).staged = [⟨.pod q id, r⟩] → (s.peer q).state = 1 →
    (ws.length < total → exec (.reduceChunkApply die 0) s = .next s) ∧
    (ws.length = total → ∃ t' rx z, exec (.reduceChunkApply die 0) s = .next t' ∧
      (∀ b, (t'.die b).staged = if b = die then [] else (s.die b).staged) ∧ PeerIs s t' q { s.peer q with rx := rx } ∧
      Sent s t' [⟨(q + 15 - s.pos) % 16, 0, .answer q id z⟩] ∧
      (c.aborted = true → z = .refused 0x29 false ∧
        t' = { s with peers := t'.peers, links := t'.links, podOut := t'.podOut, dies := t'.dies }) ∧
      (c.aborted = false → r.keygen = (s.key l.slot).gen →
        ((c.maps.find? fun m => m.src == src && m.seq == n) = some e ∨
          ((∀ m ∈ c.maps, m.src ≠ src ∨ m.seq ≠ n) ∧ e = ⟨src, n, 0⟩ ∧ c.maps.length < 256)) →
        (e.bits.testBit i = true → z = .ack ∧
          t' = { s with peers := t'.peers, links := t'.links, podOut := t'.podOut, dies := t'.dies }) ∧
        (e.bits.testBit i = false → ws.all Datum.okay = true →
          ((y.words.drop (dpa / 4 % 16)).take ws.length).all Datum.okay = true →
          (∀ j, r.lc = some j → landingOk s r.part j = true) → z = .ack ∧ ∃ ds,
          t' = { s with l2 := t'.l2, landing := t'.landing, cores := t'.cores, dies := t'.dies, peers := t'.peers
                        links := t'.links, podOut := t'.podOut } ∧ OnlyMarked s t' ∧ RunIs s t' dpa ds y ∧
          ds.length = ws.length ∧ Landed s t' r.lc 1 ∧
          (∀ b j, gate t' b j = { gate s b j with ready := (gate t' b j).ready }) ∧
          (∀ j < ws.length, ∀ a b, y.words[dpa / 4 % 16 + j]? = some a → ws[j]? = some b → ∃ w,
            ds[j]? = some ⟨w, lcc w⟩ ∧ CombineIs op fmt a.word b.word w) ∧
          (t'.die d).ctxs = (s.die d).ctxs.map fun z =>
            if z.part = c.part ∧ z.group = c.group ∧ z.coll = c.coll then { c with
              maps := (c.maps.filter fun m => !(m.src == src && m.seq == n)) ++ [{ e with bits := e.bits + 2 ^ i }] }
            else z))) ∧
    (ws.length = total → c.aborted = false → r.keygen = (s.key l.slot).gen →
      (∀ m ∈ c.maps, m.src ≠ src ∨ m.seq ≠ n) → 256 ≤ c.maps.length → exec (.reduceChunkApply die 0) s = .next s))

/-- Answers, and their absence (R107, R112 to R116): the answer to a transaction or request ends it, and a load takes
its words; an answer to none, or a second one, changes nothing; a request held for 0.5 ms is sent outside its window;
one without an answer 1.5 ms after it was sent fails, a posted store's failure being kept by its thread with code
PEER_DEAD; and a request is sent again as it was. A request keeps the address and the entropy of its rank as it was
resolved (R94); a packet goes to that address, leaves by the port of its path, and carries that entropy and the
service of its class. Windows, which an answer raises by one up to 64, are the model's (log entry 11), as are replies
kept (log entry 72). -/
def Obligations.AnswersArrive : Prop :=
  (∀ (s : State) (src n : Nat) (x : PodTx) (p : Peer) (a : Access) (ws : List Datum) (clean : Bool), p = s.peer src →
    (∀ z ∈ p.unacked, z.seq = n → z = x) → s.accesses = [a] → a.stage = .pod src n →
    ((∀ z ∈ p.unacked, z.seq ≠ n) → ∀ r, exec (.podAckReceive src n r) s = .next s) ∧
    (x ∈ p.unacked → x.seq = n → x.owner = .access a.id → a.kind.isLoad = true → ∃ t',
      exec (.podAckReceive src n (.data ws clean)) s = .next t' ∧
      t' = { s with peers := t'.peers, accesses := [{ a with stage := .reply ws clean }] } ∧
      PeerIs s t' src { p with unacked := p.unacked.filter fun z => z.seq != n })) ∧
  (∀ (s : State) (p hid prof : Nat), ∃ w, routeOf s p (.remote hid prof) = w ∧ w.addr.toNat % 2 ^ 64 = hid % 2 ^ 32 ∧
    w.addr.toNat / 2 ^ 64 = rtWord s p 0x10 % 2 ^ 64 ∧ w.base = profileBase s p prof ∧
    ∀ (req : FabReq) (o : Owner), ∃ z ∈ (remoteSend s hid w req o).remotes, z.id = freeRid s ∧ z.place = s.nextId ∧
      z.hid = hid ∧ z.addr = w.addr ∧ z.entropy = (w.base + z.path) % 2 ^ 16 ∧ z.req = req ∧ z.owner = o ∧
      (req.cls = .so → z.path = 0)) ∧
  (∀ (s : State) (x : RemoteReq), ∃ rod svc, remotePacket s x =
      .packet x.addr (x.path % 4) x.place x.id x.path x.entropy svc rod x.req ∧
    (x.req.cls = .so → svc = .rod) ∧ (x.req.cls = .rc → svc = .rud) ∧
    (x.req.cls = .un → (svc = .rudi ↔ x.req.op = .probe ∨ ∃ m b, x.req.op = .read m b) ∧ svc ≠ .rod) ∧
    (rod = none ↔ x.rod = none)) ∧
  ∀ (s : State) (id : Nat) (x : RemoteReq),
    ((∀ z ∈ s.remotes, z.id ≠ id) → (∀ r, exec (.remoteReplyReceive id r) s = .next s) ∧
      exec (.remoteAckTimeout id) s = .next s ∧ exec (.packetRetransmission id) s = .next s ∧
      exec (.remoteForcedSend id) s = .next s) ∧
    (x ∈ s.remotes → x.id = id → (∀ z ∈ s.remotes, z.id = id → z = x) → x.path < 64 → x.rod = none → x.early = none →
      (∀ (a : Access) (ws : List Datum) (clean : Bool) (t0 : Nat), s.accesses = [a] → x.owner = .access a.id →
        a.kind.isLoad = true → x.sent = some t0 → (∀ z ∈ s.remotes, z.entry = x.entry → z.sent.isSome = true) →
        (∀ z ∈ s.remotes, z.hid = x.hid → z.early = none) → ∃ t',
        exec (.remoteReplyReceive id (.data ws clean)) s = .next t' ∧
        t' = { s with remotes := s.remotes.filter fun z => z.id != id
                      congestion := t'.congestion, accesses := [{ a with stage := .reply ws clean }] } ∧
        ((∃ z ∈ s.remotes, z.id ≠ id ∧ z.entry = x.entry) → pathState t' x.entry x.path =
          { pathState s x.entry x.path with
            busy := (pathState s x.entry x.path).busy - 1
            window := min 64 ((pathState s x.entry x.path).window + 1) })) ∧
      (x.sent = none → x.accepted + 5 * 10 ^ 11 ≤ s.time →
        (∀ z ∈ s.remotes, z.entry = x.entry → z.path = x.path → z.forced = false) → ∃ t',
        exec (.remoteForcedSend id) s = .next t' ∧
        t' = { s with
          remotes := s.remotes.map fun z => if z.id = id then { z with forced := true, sent := some s.time } else z
          congestion := t'.congestion, remoteOut := s.remoteOut ++ [remotePacket s x] } ∧
        pathState t' x.entry x.path =
          { pathState s x.entry x.path with busy := (pathState s x.entry x.path).busy + 1 }) ∧
      (x.sent.isSome = true ∨ s.time < x.accepted + 5 * 10 ^ 11 → exec (.remoteForcedSend id) s = .next s) ∧
      (x.sent.isSome = true → ∃ t', exec (.packetRetransmission id) s = .next t' ∧
        t' = { s with remoteOut := s.remoteOut ++ [remotePacket s x], congestion := t'.congestion }) ∧
      (x.sent = none → exec (.packetRetransmission id) s = .next s) ∧
      (∀ t0, x.sent = some t0 → s.time < t0 + 15 * 10 ^ 11 → exec (.remoteAckTimeout id) s = .next s) ∧
      ∀ (t0 : Nat) (a : Access) (t : Thread) (ds : List Datum) (b : Bool), x.sent = some t0 →
        t0 + 15 * 10 ^ 11 ≤ s.time → s.accesses = [a] → x.owner = .access a.id → a.kind = .store ds b →
        s.thread a.core a.key = some t → t.uid = a.uid →
        (∀ z ∈ s.remotes, z.entry = x.entry → z.sent.isSome = true) →
        (∀ z ∈ s.remotes, z.hid = x.hid → z.early = none) → ∃ t',
        exec (.remoteAckTimeout id) s = .next t' ∧ t'.accesses = [] ∧
        t'.remotes = (s.remotes.filter fun z => z.id != id) ∧
        t'.thread a.core a.key = some { t with posted := t.posted ++ [⟨a.ea, 0x20, 0, 1⟩] })

/-- The course of a gate (R344 to R347, R350, R351, R353, R416): an ARMED SIGNAL gate that a change of its counter
has made ready, or whose counter is reached with no gate of an older version live, becomes FIRING, gives its
expectation back, and sends its signal under the generation of its key slot; it waits otherwise. A FIRING gate whose
accesses are all answered becomes DONE, a reduction telling its home, or FAULTED with the code of the first that
failed, the engine freezing for its partition where the failure is a freezing PROTECT, which is recorded once; a
context is released by a gate that says so. A close notice frees one entry of the apply map. An abort faults every
gate of the collective that is not DONE with GEN_MISMATCH, and no other. Headcount rounds (R354 to R356, Tables 15.5
and 15.6): the coordinator of an IDLE group with requests is in COLLECT, fixes the target roster and takes the next
version, and then tells every other live member and every joiner to drain; requests that come meanwhile are kept for
the next round. A member that is told of a version that is not older than its own drains; it reports once no old gate
of its is live, and not before. The coordinator publishes once every live member has reported; a member that is told
the new version takes it, arms the gates that waited for it, is in PUBLISH and answers; the coordinator is IDLE again
once every live member has answered, and tells them so, which makes them IDLE (log entry 100). A member may take its
report back, upon which it is told to drain again (log entry 39); a member accepts a DRAIN of its current version,
and a round that a new coordinator has restarted takes the requests that come again (log entry 40); a joiner is told
no other version than its GJOIN gave (log entry 36). The slot is written only while its round is IDLE and none of its
gates is live. -/
def Obligations.GatesAndRoundsRun : Prop :=
  ((∀ (s : State) (d i : Nat) (g : GateSlot) (e : Gate), g = gate s d i → g.gate = some e →
    (∀ hid prof q, g.state = 1 → g.heldBack = false →
      g.ready = true ∨ ((e.armEn = true → ((landing s e.lc).count.toNat + 2 ^ 48 - g.h % 2 ^ 48) % 2 ^ 48 < 2 ^ 47) ∧
        ∀ z ∈ allGates s, ¬ OldGate z.2.2 g.part e.group e.ver) →
      g.part ∉ (s.die d).frozenParts → podRoom s 1 = true → e.kind = 2 →
      (∃ rank region offset, addrOf e.dst = .unicast rank region offset ∧ resolveRank s g.part rank = .pod hid prof) →
      (s.part g.part).xlGlobal = true → q = hid % 16 → ∃ t' x, exec (.gateFire d i) s = .next t' ∧
      t' = { s with dies := t'.dies, landing := t'.landing, peers := t'.peers, links := t'.links, podOut := t'.podOut } ∧
      gate t' d i = { g with state := 2, ready := false } ∧ (∀ j, j ≠ i → gate t' d j = gate s d j) ∧ Unexpected s t' e ∧
      PeerIs s t' q { s.peer q with
        nextSeq := ((s.peer q).nextSeq + 1) % 2 ^ 24, unacked := (s.peer q).unacked ++ [x] } ∧
      x.seq = (s.peer q).nextSeq ∧ x.mc = none ∧ x.owner = .gate d i g.seq 0 0 true ∧ x.req.part = g.part ∧
      x.req.op = .signal e.value ∧ x.req.lc = some e.dlc ∧ x.req.keygen = (s.key g.keySlot).gen ∧
      Sent s t' [⟨routePort s q, 0, .txn q x.seq x.req⟩]) ∧
    (g.state = 1 → g.heldBack = true ∨ (g.ready = false ∧ ((e.armEn = true ∧
        2 ^ 47 ≤ ((landing s e.lc).count.toNat + 2 ^ 48 - g.h % 2 ^ 48) % 2 ^ 48) ∨
        ∃ z ∈ allGates s, OldGate z.2.2 g.part e.group e.ver)) ∨ g.part ∈ (s.die d).frozenParts →
      exec (.gateFire d i) s = .next s) ∧
    (g.state = 2 → g.fail = none → gateAwaits s d i g = false → ∃ t',
      exec (.gateDone d i) s = .next t' ∧
      gate t' d i = { g with state := 3, code := 0, finished := s.nextId, ready := false, heldBack := false } ∧
      (∀ j, j ≠ i → gate t' d j = gate s d j) ∧
      (e.kind ≠ 1 → t' = { s with dies := t'.dies, nextId := s.nextId + 1 } ∧
        (e.rel = false → (t'.die d).ctxs = (s.die d).ctxs) ∧
        (e.rel = true → tabSorted s.dies = true → ∀ n, (t'.die n).ctxs = (s.die n).ctxs.filter fun c =>
          !(c.part == g.part && c.group == e.group && c.coll == e.coll))) ∧
      (∀ rank region offset, e.kind = 1 → addrOf e.dst = .unicast rank region offset → rank ≠ rtSelf s g.part →
        t' = { s with dies := t'.dies, links := t'.links, podOut := t'.podOut, remoteOut := t'.remoteOut
                      nextId := s.nextId + 1 } ∧
        Notified s t' g.part rank (.closeNotice (rtSelf s g.part) e.group e.coll (gateSeqNo d i g)))) ∧
    (gateAwaits s d i g = true → exec (.gateDone d i) s = .next s ∧ exec (.gateFault d i) s = .next s) ∧
    (∀ w, g.state = 2 → g.fail = some w → e.rel = false → gateAwaits s d i g = false → ∃ t',
      exec (.gateFault d i) s = .next t' ∧
      gate t' d i = { g with state := 4, code := w.code, finished := s.nextId, ready := false, heldBack := false } ∧
      (∀ j, j ≠ i → gate t' d j = gate s d j) ∧
      (w.freezing = false ∨ g.part ∈ (s.die d).frozenParts → t' = { s with dies := t'.dies, nextId := s.nextId + 1 } ∧
        (t'.die d).frozenParts = (s.die d).frozenParts) ∧
      (w.freezing = true → g.part ∉ (s.die d).frozenParts → t' = { s with dies := t'.dies, parts := t'.parts, nextId := s.nextId + 2 } ∧
        (∀ n, n ∈ (t'.die d).frozenParts ↔ n = g.part ∨ n ∈ (s.die d).frozenParts) ∧ ∃ r b,
        (t'.part g.part).batches = (s.part g.part).batches ++ [⟨b, [r]⟩] ∧ r.kind = 5 ∧ r.unit = 2 ∧ r.code = 0x11 ∧
        r.die = d ∧ r.seq = g.launch ∧ r.addr = w.addr))) ∧
  ∀ (s : State) (p g coll : Nat),
    (∀ (d src n : Nat) (c : RedCtx), findCtx s p g coll = some (d, c) → ∃ t',
      exec (.applyMapClose p g coll src n) s = .next t' ∧ t' = { s with dies := t'.dies } ∧
      (t'.die d).ctxs = (s.die d).ctxs.map fun z =>
        if z.part = p ∧ z.group = g ∧ z.coll = coll then
          { c with maps := c.maps.filter fun m => !(m.src == src && m.seq == n) } else z) ∧
    (∀ src n, findCtx s p g coll = none → exec (.applyMapClose p g coll src n) s = .next s) ∧
    (GatesListed s → ∃ t', exec (.abortNotice p g coll) s = .next t' ∧
      t' = { s with dies := t'.dies, landing := t'.landing, nextId := t'.nextId } ∧
      (∀ d i, (gate s d i).state ≠ 0 → (gate s d i).state ≠ 3 → (gate s d i).part = p →
        (∃ e, (gate s d i).gate = some e ∧ e.group = g ∧ e.coll = coll) → ∃ n, gate t' d i = { gate s d i with
          state := 4, code := 0x29, finished := n, ready := false, heldBack := false }) ∧
      (∀ d i, (gate s d i).state = 0 ∨ (gate s d i).state = 3 ∨ (gate s d i).part ≠ p ∨
          (∀ e, (gate s d i).gate = some e → e.group ≠ g ∨ e.coll ≠ coll) → gate t' d i = gate s d i) ∧
      ∀ d c, c ∈ (t'.die d).ctxs ↔ c ∈ (s.die d).ctxs ∧ ¬ (c.part = p ∧ c.group = g ∧ c.coll = coll))) ∧
  (∀ (s : State) (p i me : Nat) (g : GroupSlot), g = (s.part p).group i → me = rtSelf s p → g.valid = true →
    groupOwned s p g.group = true →
    (∀ reqs : List (Nat × Bool), g.coord = me →
      (g.round = 0 → g.requests ++ reqs ≠ [] → ((g.requests ++ reqs).map Prod.fst).Nodup → ∃ t' target,
        exec (.headcountCollect p i reqs) s = .next t' ∧ t' = { s with parts := t'.parts } ∧
        (∀ r, r ∈ target ↔ r ∉ g.dead ∧
          ((r, true) ∈ g.requests ++ reqs ∨ (r ∈ g.members ∧ (r, false) ∉ g.requests ++ reqs))) ∧
        GroupIs s t' p i { g with
          round := 1, target := target, targetVer := if g.version = 2 ^ 32 - 1 then 1 else g.version + 1
          requests := [], reported := [], acked := [], restarted := false }) ∧
      (g.round = 1 → g.restarted = true → reqs ≠ [] → (reqs.map Prod.fst).Nodup → ∃ t' target,
        exec (.headcountCollect p i reqs) s = .next t' ∧ t' = { s with parts := t'.parts } ∧
        (∀ r, r ∈ target ↔ r ∉ g.dead ∧ ((r, true) ∈ reqs ∨ (r ∈ g.target ∧ (r, false) ∉ reqs))) ∧
        GroupIs s t' p i { g with target := target }) ∧
      (g.round = 1 → g.restarted = false ∨ reqs = [] → (∃ q ∈ g.members, q ∉ g.dead ∧ q ∉ g.reported) → ∃ t',
        exec (.headcountCollect p i reqs) s = .next t' ∧
        t' = { s with parts := t'.parts, links := t'.links, podOut := t'.podOut, remoteOut := t'.remoteOut } ∧
        GroupIs s t' p i { g with round := 2, requests := g.requests ++ reqs, restarted := false } ∧
        ∀ r, r ≠ me → (r ∈ g.members ∧ r ∉ g.dead) ∨ (r ∈ g.target ∧ r ∉ g.members) →
          Notified s t' p r (.drain r g.group g.targetVer g.target)) ∧
      (2 ≤ g.round → ∃ t', exec (.headcountCollect p i reqs) s = .next t' ∧ t' = { s with parts := t'.parts } ∧
        GroupIs s t' p i { g with requests := g.requests ++ reqs })) ∧
    (∀ reqs, g.coord ≠ me → exec (.headcountCollect p i reqs) s = .next s) ∧
    (∀ (ver : Nat) (roster : List Nat) (other : Prop),
      (other ↔ me ∈ roster ∧ me ∉ g.members ∧ ∃ v, g.asked = some v ∧ v ≠ ver) →
      (¬ Older ver g.version → ¬ other → ∃ t' reqs, exec (.drainReceive p i ver roster) s = .next t' ∧
        t' = { s with parts := t'.parts } ∧
        GroupIs s t' p i
          { g with round := 2, target := roster, targetVer := ver, reported := [], requests := reqs } ∧
        ∀ r b, (r, b) ∈ reqs ↔ (r, b) ∈ g.requests ∧ ((r ∈ roster) ↔ b = false)) ∧
      (Older ver g.version ∨ other → exec (.drainReceive p i ver roster) s = .next s)) ∧
    (g.round = 2 → g.coord ≠ me → me ∈ g.members → me ∉ g.reported →
      ((∀ z ∈ allGates s, ¬ OldGate z.2.2 p g.group g.targetVer) → g.retracting = false ∨ postWaits s p = false → ∃ t',
        exec (.drainReport p i ⟨me, true⟩) s = .next t' ∧
        t' = { s with parts := t'.parts, links := t'.links, podOut := t'.podOut, remoteOut := t'.remoteOut } ∧
        GroupIs s t' p i { g with reported := me :: g.reported, retracting := false } ∧
        Notified s t' p g.coord (.drainReport me g.group true)) ∧
      ((∃ z ∈ allGates s, OldGate z.2.2 p g.group g.targetVer) ∨ (g.retracting = true ∧ postWaits s p = true) →
        exec (.drainReport p i ⟨me, true⟩) s = .next s)) ∧
    (∀ r, g.round = 2 → g.coord = me → r ≠ me →
      (r ∉ g.reported → (∃ q ∈ g.members, q ∉ g.dead ∧ q ≠ r ∧ q ∉ g.reported) → ∃ t',
        exec (.drainReport p i ⟨r, true⟩) s = .next t' ∧ t' = { s with parts := t'.parts } ∧
        GroupIs s t' p i { g with reported := r :: g.reported }) ∧
      (∃ t', exec (.drainReport p i ⟨r, false⟩) s = .next t' ∧
        t' = { s with parts := t'.parts, links := t'.links, podOut := t'.podOut, remoteOut := t'.remoteOut } ∧
        GroupIs s t' p i { g with reported := g.reported.filter fun q => q != r } ∧
        Notified s t' p r (.drain r g.group g.targetVer g.target)) ∧
      (s.binds = [] → s.accesses = [] → s.walks = [] → (∀ q ∈ g.members, q ∉ g.dead → q = r ∨ q ∈ g.reported) → ∃ t' g',
        exec (.drainReport p i ⟨r, true⟩) s = .next t' ∧ g' = (t'.part p).group i ∧ g'.round = 3 ∧
        g'.version = g.targetVer ∧ g'.members = g.target ∧ g'.count = g.target.length ∧ g'.acked = [me] ∧
        ∀ q ∈ g.members ++ g.target, q ≠ me → Notified s t' p q (.publish q g.group g.targetVer g.target))) ∧
    (∀ (ver : Nat) (roster : List Nat) (other : Prop), g.coord ≠ me →
      (other ↔ me ∈ roster ∧ me ∉ g.members ∧ ∃ v, g.asked = some v ∧ v ≠ ver) →
      (s.binds = [] → s.accesses = [] → s.walks = [] → ¬ Older ver g.version → ¬ other → GatesListed s → ∃ t' g',
        exec (.publishReceive p i ver roster) s = .next t' ∧ g' = (t'.part p).group i ∧ g'.round = 3 ∧
        g'.version = ver ∧ g'.members = roster ∧ g'.count = roster.length ∧
        (∀ d n, gate t' d n =
          { gate s d n with ready := (gate t' d n).ready, heldBack := (gate t' d n).heldBack }) ∧
        (∀ d n e, me ∈ roster → (gate s d n).part = p → (gate s d n).gate = some e → e.group = g.group → ¬ Older ver e.ver →
          (gate t' d n).heldBack = false) ∧
        Notified s t' p g.coord (.publishAck me g.group)) ∧
      (Older ver g.version ∨ other → exec (.publishReceive p i ver roster) s = .next s)) ∧
    (∀ r, g.round = 3 → g.coord = me →
      ((∃ q ∈ g.reported ++ g.members, q ∉ g.dead ∧ q ≠ r ∧ q ∉ g.acked) → ∃ t',
        exec (.publishAck p i r) s = .next t' ∧ t' = { s with parts := t'.parts } ∧
        GroupIs s t' p i { g with acked := r :: g.acked }) ∧
      ((∀ q ∈ g.reported ++ g.members, q ∉ g.dead → q = r ∨ q ∈ g.acked) → ∃ t',
        exec (.publishAck p i r) s = .next t' ∧
        t' = { s with parts := t'.parts, links := t'.links, podOut := t'.podOut, remoteOut := t'.remoteOut } ∧
        GroupIs s t' p i { g with round := 0, reported := [], acked := [], target := [], targetVer := 0 } ∧
        ∀ q ∈ g.reported ++ g.members, q ≠ me → Notified s t' p q (.publishAck me g.group))) ∧
    (∀ r, g.round = 3 → g.coord ≠ me →
      (r = g.coord → ∃ t', exec (.publishAck p i r) s = .next t' ∧ t' = { s with parts := t'.parts } ∧
        GroupIs s t' p i { g with round := 0, reported := [], acked := [], target := [], targetVer := 0 }) ∧
      (r ≠ g.coord → exec (.publishAck p i r) s = .next s)) ∧
    ∀ (v : DWord) (pf0 : Bool), Reaches s p pf0 → i < 256 →
      (g.round = 0 → (∀ z ∈ allGates s, ¬ GateOfGroup z.2.2 p g.group) → ∃ t',
        exec (.groupSlotWrite p i 0 v pf0) s = .next t' ∧ t' = { s with parts := t'.parts } ∧
        GroupIs s t' p i { g with
          valid := v.getLsbD 63, group := (v.extractLsb' 17 16).toNat, coord := (v.extractLsb' 0 17).toNat }) ∧
      (g.round ≠ 0 ∨ (∃ z ∈ allGates s, GateOfGroup z.2.2 p g.group) →
        exec (.groupSlotWrite p i 0 v pf0) s = .next s))

/-! ## Events of the proctor and the host -/

/-- Commands of the proctor (R426, R427, Table 19.3): one of an opcode or from a function that the table does not
list, or with a reserved field set, completes with ILLEGAL_OP and nothing else; until the host has posted its entry,
and while the proctor is at another or a launch record is with the router, it waits, and before bring-up ends none is
taken up. The 128-byte descriptor of PART_CREATE and the nonce and the token of PF0 are read from the host first, and
the command waits for them (log entries 10, 106). GROUP_TABLE_SET, RANK_TABLE_LOAD and LAUNCH_QUEUE_ENTRY (R92, R108,
R426): an entry that is free or the partition's own takes the value, one of another partition is refused with
PROTECT, and a reserved value with ILLEGAL_OP; an image of which every word reads replaces the partition's table,
unless R92 refuses it (log entry 78); a launch entry that its ring holds hands its record to the router, an address
that is not aligned with the code ALIGN. ILLEGAL_OP for a group from 65536 up, and PROTECT for a value valid for
another partition, are the model's (log entry 75). -/
def Obligations.CommandsTaken : Prop :=
  ((∀ (mk : Cmd → Instr) (pf vf : Bool), (mk, pf, vf) ∈ ([(.bindFrame, true, true),
      (.unbindFrame, true, true), (.keyLoad, false, true), (.keyFree, false, true), ((.partCreate · .reads), true, false),
      (.partDestroy, true, false), (.rankTableLoad, false, true), (.freezeRelease, true, false),
      (.resetPartition, true, true), ((.attest · .reads), true, true), ((.lifecycle · .reads), true, false),
      (.powerCap, true, false), (.groupTableSet, false, true)] : List ((Cmd → Instr) × Bool × Bool)) →
    ∀ (s : State) (c : Cmd),
      (s.up = true → proctorAt s = false → c.fn ≤ 16 → posted s c.fn 0 = true →
        c.rsv ≠ 0 ∨ c.unlisted ≠ none ∨ (c.fn = 0 ∧ pf = false) ∨ (c.fn ≠ 0 ∧ vf = false) → Refuses (mk c) s c 0x01) ∧
      (s.up = true → c.fn ≤ 16 → posted s c.fn 0 = false ∨ (∃ x ∈ s.routerQ, x.ofHost = true) ∨ s.binds ≠ [] ∨ (∃ e ∈ s.unbinds, e.2 ≠ c) ∨ (∃ o, s.opnd = some o ∧ o.cmd ≠ c) →
        exec (mk c) s = .next { s with stalled := true }) ∧
      (s.up = false → exec (mk c) s = .next s)) ∧
  ∀ (s : State) (c : Cmd),
    (Takes s c true false → ∃ t, exec (.partCreate c .reads) s = .next t ∧
      ReadsOperand s t (.partCreate c .reads) c (operand c 1).toNat 128) ∧
    (Takes s c true true → c.fn = 0 → linesHeld s (operand c 1).toNat 8192 = false → ∃ t,
      exec (.attest c .reads) s = .next t ∧ ReadsOperand s t (.attest c .reads) c (operand c 0).toNat 64) ∧
    ∀ o, Resumes s c true false o → (∀ e, o.fail = some e → ∃ t, exec (.partCreate c .reads) s = .next t ∧
      Finished { s with opnd := none } t c.fn 0 c e c.dw)) ∧
  ((∀ (s : State) (c : Cmd) (p g : Nat) (v e : Word), Takes s c false true → p = c.fn - 1 → g = (operand c 0).toNat →
    operand c 1 = v.setWidth 64 → e = tabGet 0 s.mcGroup g →
    (65536 ≤ g ∨ v.extractLsb' 16 11 ≠ 0 → Refuses (.groupTableSet c) s c 0x01) ∧
    (g < 65536 → v.extractLsb' 16 11 = 0 →
      ((e.getLsbD 31 = true ∧ (e.extractLsb' 27 4).toNat ≠ p) ∨ (v.getLsbD 31 = true ∧ (v.extractLsb' 27 4).toNat ≠ p) →
        Refuses (.groupTableSet c) s c 0x11) ∧
      ((e.getLsbD 31 = true → (e.extractLsb' 27 4).toNat = p) → (v.getLsbD 31 = true → (v.extractLsb' 27 4).toNat = p) →
        ∃ t', exec (.groupTableSet c) s = .next t' ∧ Finished { s with mcGroup := t'.mcGroup } t' c.fn 0 c 0 c.dw ∧
        tabGet 0 t'.mcGroup g = v ∧ ∀ j, j ≠ g → tabGet 0 t'.mcGroup j = tabGet 0 s.mcGroup j))) ∧
  (∀ (s s0 s1 : State) (c : Cmd) (p va : Nat) (ws : List Datum) (img : Tab DWord), Takes s c false true → p = c.fn - 1 →
    addrOf (operand c 0) = .local va → va % 4 = 0 → hostParts p 4096 s va 4096 0 = ([], s0) →
    readOpnd s0 p (operand c 0) 4096 [] none = (.ok ws, s1) → img = imageOf 0 ws [] →
    (∀ e ∈ s1.parts, (s1.part e.1).groups = []) → s1.pos = s.pos → s1.stalled = s.stalled →
    (tableBad img s.pos = false → ∃ t' s2, exec (.rankTableLoad c) s = .next t' ∧ Finished s2 t' c.fn 0 c 0 c.dw ∧
      s2 = { s1 with parts := s2.parts } ∧ s2.part p = { s1.part p with rt := img } ∧
      ∀ q, q ≠ p → s2.part q = s1.part q) ∧
    (tableBad img s.pos = true ∨ (tabGet 0 img 0).toNat % 2 ^ 18 = 0 ∨
        (tabGet 0 img 0).toNat % 2 ^ 18 ≤ ((tabGet 0 img 1).extractLsb' 32 17).toNat ∨
        (tabGet 0 img 1).toNat % 16 ≠ s.pos →
      ∃ t', exec (.rankTableLoad c) s = .next t' ∧ Finished s1 t' c.fn 0 c 0x01 c.dw)) ∧
  ∀ (s : State) (c : Cmd) (q p : Nat) (a : DWord), s.up = true → proctorAt s = false → 1 ≤ c.fn → c.fn ≤ 16 → q < 8 →
    posted s c.fn (q + 1) = true →
    p = c.fn - 1 → a = operand c 0 →
    (c.rsv ≠ 0 ∨ c.unlisted ≠ none → ∃ t', exec (.launchQueueEntry c q) s = .next t' ∧ Finished s t' c.fn (q + 1) c 0x01 c.dw) ∧
    (c.rsv = 0 → c.unlisted = none → a.toNat % 256 ≠ 0 → exec (.launchQueueEntry c q) s =
      .next { s with routerQ := s.routerQ ++ [⟨p, 0, none, .host c.fn (q + 1) c, some 0x08⟩] }) ∧
    (∀ r s1, c.rsv = 0 → c.unlisted = none → a.toNat % 256 = 0 → readRecordAt s (diePlace 0) p a = (.ok r, s1) → s1.stalled = s.stalled →
      exec (.launchQueueEntry c q) s =
        .next { s1 with routerQ := s1.routerQ ++ [⟨p, r, none, .host c.fn (q + 1) c, none⟩] }))

/-- BIND_FRAME, BIND_FRAME_PROCEED and UNBIND_FRAME (R57, R58): a backed, unbound frame and a loaded slot that the
function owns are bound at the major above the slot's floor, which rises to it; afterwards every tile of the frame
reads as zeros, and no copy of the frame is cached; a bound frame is refused with PROTECT, and a slot whose floor is
spent with VERSION. A frame that is unbound loses its binding and its cached copies, none being written back. Both
wait for the fills of the frame. KEY_LOAD and KEY_FREE (R39, R60, R422, R425): with an established session, a slot
that the partition owns takes a key drawn on die (log entry 5), or one that unwraps under the session key, under the
next generation, its data key being the hash of key, salt, slot and generation, in the model's byte order (log entry
15); its floor is 0, or 1 where a frame is bound to it, whose group is then sealed anew under major 1, with minors 1
for the tiles that have been written, and is writable. Without a session (log entry 74), with operands that Table
19.3 does not give, for a slot of another, with a generation that does not lie ahead, or with a key that does not
unwrap (log entry 74), the load is refused. A loaded slot without a bound frame or a live launch is emptied, and its
cached lines, here clean ones, are dropped; one with a bound frame or a live launch is not. -/
def Obligations.FramesAndKeys : Prop :=
  (∀ (s : State) (c : Cmd) (frame slot dpa : Nat) (vb : MUnit) (ch : Bool), Takes s c true true → CacheRoom s →
    frame = (operand c 0).toNat → dpa = frame * 2 ^ 16 → backed dpa = true →
    cachedUnit s (dieOf dpa) 1 (groupOf dpa) = some ⟨vb, ch⟩ →
    (slot = (operand c 1).toNat → slot < 256 → (c.fn = 0 ∨ (s.key slot).owner = some (c.fn - 1)) →
      (s.key slot).loaded = true → isLost s dpa = false →
      (vb.bound = true → Refuses (.bindFrame c) s c 0x11) ∧
      (vb.bound = false → (s.key slot).floor = 2 ^ 48 - 1 → Refuses (.bindFrame c) s c 0x1A) ∧
      (vb.bound = false → (s.key slot).floor < 2 ^ 48 - 1 →
        exec (.bindFrame c) s = .next { s with binds := [(frame, c)] } ∧
        ((∀ f ∈ s.fills, f.tile / 64 ≠ frame) → ∃ t',
          exec (.bindFrameProceed frame) { s with binds := [(frame, c)] } = .next t' ∧ t'.binds = [] ∧
          cachedUnit t' (dieOf dpa) 1 (groupOf dpa) =
            some ⟨⟨false, true, slot, (s.key slot).floor + 1, []⟩, true⟩ ∧
          t'.key slot = { s.key slot with floor := (s.key slot).floor + 1 } ∧
          (∀ j, j ≠ slot → t'.key j = s.key j) ∧ FrameGone s t' frame ∧
          (∀ i < 64, ∃ s1, readTile t' (dpa + 1024 * i) slot = .ok (zeroWords, s1)) ∧
          t'.hbm = s.hbm ∧ t'.hbmSide = s.hbmSide ∧
          t'.hostOut = s.hostOut ++ completed s c 0 c.dw) ∧
        ((∃ f ∈ s.fills, f.tile / 64 = frame) →
          exec (.bindFrameProceed frame) { s with binds := [(frame, c)] } = .next { s with binds := [(frame, c)] }))) ∧
    (vb.bound = false → Refuses (.unbindFrame c) s c 0x11) ∧
    (vb.bound = true → vb.slot < 256 → (c.fn = 0 ∨ (s.key vb.slot).owner = some (c.fn - 1)) →
      ((∃ f ∈ s.fills, f.tile / 64 = frame) →
        exec (.unbindFrame c) s = .next { s with unbinds := [(frame, c)] } ∧
        exec (.unbindFrame c) { s with unbinds := [(frame, c)] } = .next { s with unbinds := [(frame, c)] }) ∧
      ∀ s0 : State, (s0 = s ∨ s0 = { s with unbinds := [(frame, c)] }) → (∀ f ∈ s.fills, f.tile / 64 ≠ frame) → ∃ t',
      exec (.unbindFrame c) s0 = .next t' ∧ FrameGone s t' frame ∧ t'.hbm = s.hbm ∧ t'.hbmSide = s.hbmSide ∧
      t'.unbinds = [] ∧ cachedUnit t' (dieOf dpa) 1 (groupOf dpa) = some ⟨{ vb with bound := false }, true⟩ ∧
      t'.hostOut = s.hostOut ++ completed s c 0 c.dw)) ∧
  (∀ (s : State) (c : Cmd) (slot req p : Nat), Takes s c false true → p = c.fn - 1 →
    (slot = (operand c 0).toNat % 256 → req = (operand c 0).toNat / 2 ^ 16 % 2 ^ 16 →
      ((s.fn c.fn).spdmKey = none ∨ (operand c 0).toNat ≠ slot + req * 2 ^ 16 ∨ 1 < (operand c 1).toNat ∨
        (operand c 1 = 0 ∧ ∃ d ∈ c.dw.drop 2, d ≠ 0) → Refuses (.keyLoad c) s c 0x01) ∧
      (∀ k0, (s.fn c.fn).spdmKey = some k0 → s.lifeCycle = .deployed → (operand c 0).toNat = slot + req * 2 ^ 16 →
        (operand c 1 = 0 ∧ ∀ d ∈ c.dw.drop 2, d = 0) ∨ operand c 1 = 1 →
        ((s.key slot).owner ≠ some p → Refuses (.keyLoad c) s c 0x11) ∧
        ((s.key slot).owner = some p → req ≠ 0 →
          ((req + 2 ^ 16 - (s.key slot).gen % 2 ^ 16) % 2 ^ 16 = 0 ∨
            32767 < (req + 2 ^ 16 - (s.key slot).gen % 2 ^ 16) % 2 ^ 16) → Refuses (.keyLoad c) s c 0x11) ∧
        ((s.key slot).owner = some p → operand c 1 = 1 → keyUnwrap k0 (((c.dw.drop 2).take 5).map swap64) = none →
          Refuses (.keyLoad c) s c 0x11) ∧
        (∀ (g n : Nat) (key new : BitVec 256), (s.key slot).owner = some p → c.dw ≠ [] →
          (operand c 1 = 0 ∧ n = 1 ∧ key = (Config.freeBits s.freeCount).extractLsb' 0 256) ∨
            (operand c 1 = 1 ∧ n = 0 ∧ keyUnwrap k0 (((c.dw.drop 2).take 5).map swap64) = some key) →
          (req = 0 ∧ g = (if ((s.key slot).gen + 1) % 2 ^ 16 = 0 then 1 else ((s.key slot).gen + 1) % 2 ^ 16) ∨
            req ≠ 0 ∧ g = req ∧ 1 ≤ (req + 2 ^ 16 - (s.key slot).gen % 2 ^ 16) % 2 ^ 16 ∧
              (req + 2 ^ 16 - (s.key slot).gen % 2 ^ 16) % 2 ^ 16 ≤ 32767) →
          new = (sha3 (bytesBE 32 key.toNat ++
            bytesBE 32 ((Config.freeBits (s.freeCount + n)).extractLsb' 0 256).toNat ++ bytesLE 1 slot ++
            bytesLE 2 g)).extractLsb' 256 256 →
          ((∀ d < 8, boundGroups s d slot = []) → ∃ t' h, exec (.keyLoad c) s = .next t' ∧ t' = { s with
              keys := t'.keys, fns := t'.fns, freeCount := s.freeCount + n + 1, hostOut := t'.hostOut } ∧
            t'.key slot = { s.key slot with loaded := true, floor := 0, gen := g, key := new } ∧
            (∀ j, j ≠ slot → t'.key j = s.key j) ∧ t'.hostOut = s.hostOut ++ completed s c 0 (c.dw.set 0 h)) ∧
          ∀ (d q : Nat) (vb : MUnit) (ch : Bool), d < 8 → q < 2064384 → boundGroups s d slot = [q] →
            (∀ e < 8, e ≠ d → boundGroups s e slot = []) → CacheRoom s → cachedUnit s d 1 q = some ⟨vb, ch⟩ →
            vb.bound = true → vb.slot = slot → ∃ t' h nb, exec (.keyLoad c) s = .next t' ∧
            t'.key slot = { s.key slot with loaded := true, floor := 1, gen := g, key := new } ∧
            (∀ j, j ≠ slot → t'.key j = s.key j) ∧ cachedUnit t' d 1 q = some ⟨nb, true⟩ ∧
            nb = { vb with ronly := false, major := 1, ctr := nb.ctr } ∧
            (∀ i < 64, tabGet 0 nb.ctr i = if tabGet 0 vb.ctr i = 0 then 0 else 1) ∧
            t'.hostOut = s.hostOut ++ completed s c 0 (c.dw.set 0 h)))) ∧
    (slot = (operand c 0).toNat → slot < 256 → (s.key slot).owner = some p → (s.key slot).loaded = true →
      ((∀ d < 8, boundGroups s d slot = []) → (∀ e ∈ s.launches, e.2.keySlot = slot → e.2.live = false) →
        tabSorted s.l2Tags = true → tabSorted s.l2 = true →
        (∀ e ∈ s.l2Tags, e.2.slot = slot → lineDirty s e.1 = false) → ∃ t', exec (.keyFree c) s = .next t' ∧
        t' = { s with keys := t'.keys, fns := t'.fns, cores := t'.cores, accesses := t'.accesses, l2 := t'.l2
                      l2Tags := t'.l2Tags, hostOut := t'.hostOut } ∧
        (∀ i, tabFind t'.l2Tags i = (tabFind s.l2Tags i).filter fun y => y.slot != slot) ∧
        (∀ i, tabFind t'.l2 i =
          if (tabFind s.l2Tags (i / 2)).any (fun y => y.slot == slot) then none else tabFind s.l2 i) ∧
        t'.accesses = (s.accesses.map fun a => { a with sector := a.sector.filter fun x => x.2.2 != slot }) ∧
        t'.key slot = { s.key slot with loaded := false, key := 0 } ∧ (∀ j, j ≠ slot → t'.key j = s.key j) ∧
        (∀ n x, x ∈ (t'.core n).l1 ↔ x ∈ (s.core n).l1 ∧ x.slot ≠ slot) ∧
        t'.hostOut = s.hostOut ++ completed s c 0 c.dw) ∧
      ((∃ d < 8, boundGroups s d slot ≠ []) ∨ (∃ e ∈ s.launches, e.2.keySlot = slot ∧ e.2.live = true) →
        Refuses (.keyFree c) s c 0x11)))

/-- PART_CREATE, PART_DESTROY and RESET_PARTITION (R427): with its descriptor read and in DEPLOYED, a partition that
does not exist takes key slots, clusters and counter blocks that no other holds; one that exists, or a resource of
another, is refused with PROTECT. A destroyed partition's launches are torn down, its slots are erased, and its
grants, counters and groups are free; a reset one's launches are torn down and it keeps its resources. FREEZE_RELEASE
(R416, Table 18.7): a frozen channel is STOPPED, a frozen collective engine serves the partition again, a frozen
function is served again, and a frozen core issues again; where the named unit is not frozen the command is refused
with PROTECT. -/
def Obligations.PartitionsAndFreezes : Prop :=
  ((∀ (s : State) (c : Cmd) (o : OpndRead) (desc : List Byte) (p keys cls blocks : Nat), Resumes s c true false o →
    o.fail = none → desc = operandBytes o (operand c 1).toNat 128 →
    p = (operand c 0).toNat → keys = ofBytesLE (desc.take 32) → cls = ofBytesLE ((desc.drop 32).take 16) →
    blocks = ofBytesLE ((desc.drop 48).take 32) →
    ((∃ b ∈ desc.drop 80, b ≠ 0) → Denies (.partCreate c .reads) s c 0x01) ∧
    ((∀ b ∈ desc.drop 80, b = 0) →
      (16 ≤ p ∨ (s.part p).exists_ = true ∨ s.lifeCycle ≠ .deployed → Denies (.partCreate c .reads) s c 0x11) ∧
      (p < 16 → (s.part p).exists_ = false → s.lifeCycle = .deployed →
        ((∃ q < 16, q ≠ p ∧ ((∃ k, (s.part q).keymask.getLsbD k = true ∧ keys.testBit k = true) ∨
            ∃ k, (s.part q).clusters.getLsbD k = true ∧ cls.testBit k = true)) ∨
          (∃ j < 256, blocks.testBit j = true ∧ (tabGet 0 s.lcOwner j).getLsbD 4 = true ∧
            ((tabGet 0 s.lcOwner j).extractLsb' 0 4).toNat ≠ p) → Denies (.partCreate c .reads) s c 0x11) ∧
        ((∀ q < 16, q ≠ p → (∀ k, (s.part q).keymask.getLsbD k = true → keys.testBit k = false) ∧
            ∀ k, (s.part q).clusters.getLsbD k = true → cls.testBit k = false) →
          (∀ j < 256, blocks.testBit j = true → (tabGet 0 s.lcOwner j).getLsbD 4 = true →
            ((tabGet 0 s.lcOwner j).extractLsb' 0 4).toNat = p) → ∃ t',
          exec (.partCreate c .reads) s = .next t' ∧ t' = { s with
            opnd := none, parts := t'.parts, keys := t'.keys, lcOwner := t'.lcOwner, fns := t'.fns, hostOut := t'.hostOut } ∧
          t'.part p = { s.part p with
            exists_ := true, keymask := BitVec.ofNat 256 keys, clusters := BitVec.ofNat 128 cls
            descriptor := BitVec.ofNat 1024 (ofBytesLE desc) } ∧
          (∀ q, q ≠ p → t'.part q = s.part q) ∧
          (∀ k < 256, t'.key k = if keys.testBit k then { s.key k with owner := some p } else s.key k) ∧
          (∀ j < 256, tabGet 0 t'.lcOwner j =
            if blocks.testBit j then BitVec.ofNat 5 (16 + p) else tabGet 0 s.lcOwner j) ∧
          t'.hostOut = s.hostOut ++ completed s c 0 c.dw)))) ∧
  (∀ (s : State) (c : Cmd) (p : Nat), Takes s c true false → p = (operand c 0).toNat →
    (16 ≤ p ∨ (s.part p).exists_ = false → Refuses (.partDestroy c) s c 0x11) ∧
    (p < 16 → (s.part p).exists_ = true → ∃ t', exec (.partDestroy c) s = .next t' ∧ AllTorn s t' p ∧
      (t'.part p).exists_ = false ∧ (t'.part p).keymask = 0 ∧ (t'.part p).clusters = 0 ∧ (t'.part p).descriptor = 0 ∧
      (∀ k < 256, (s.key k).owner = some p →
        (t'.key k).owner = none ∧ (t'.key k).loaded = false ∧ (t'.key k).key = 0) ∧
      t'.lcOwner = (s.lcOwner.filter fun e => (e.2.extractLsb' 0 4).toNat != p) ∧
      t'.mcGroup = (s.mcGroup.filter fun e => (e.2.extractLsb' 27 4).toNat != p))) ∧
  ∀ (s : State) (c : Cmd) (p : Nat), Takes s c true true → p = (operand c 0).toNat →
    (16 ≤ p ∨ (s.part p).exists_ = false ∨ (c.fn ≠ 0 ∧ p ≠ c.fn - 1) → Refuses (.resetPartition c) s c 0x11) ∧
    (p < 16 → (s.part p).exists_ = true → (c.fn = 0 ∨ p = c.fn - 1) → ∃ t', exec (.resetPartition c) s = .next t' ∧
      AllTorn s t' p ∧ (t'.part p).exists_ = true ∧ (t'.part p).keymask = (s.part p).keymask ∧
      (t'.part p).clusters = (s.part p).clusters ∧ t'.keys = s.keys ∧ t'.lcOwner = s.lcOwner ∧ t'.mcGroup = s.mcGroup ∧
      ∃ x, t'.hostOut = x ++ completed s c 0 c.dw)) ∧
  (∀ (s : State) (c : Cmd) (v : BitVec 21) (d cl k u p ch : Nat), Takes s c true false → operand c 0 = v.setWidth 64 →
    d = (v.extractLsb' 0 3).toNat → cl = (v.extractLsb' 3 4).toNat → k = (v.extractLsb' 7 2).toNat →
    u = (v.extractLsb' 9 4).toNat → p = (v.extractLsb' 13 4).toNat → ch = (v.extractLsb' 17 4).toNat →
    (u = 1 → (chan s (16 * d + cl) ch).state = 3 → ∃ t', exec (.freezeRelease c) s = .next t' ∧
      Finished { s with clusters := t'.clusters } t' c.fn 0 c 0 c.dw ∧
      chan t' (16 * d + cl) ch = { chan s (16 * d + cl) ch with state := 2 }) ∧
    (u = 1 → (chan s (16 * d + cl) ch).state ≠ 3 → Refuses (.freezeRelease c) s c 0x11) ∧
    (u = 2 → p ∈ (s.die d).frozenParts → ∃ t', exec (.freezeRelease c) s = .next t' ∧
      Finished { s with dies := t'.dies } t' c.fn 0 c 0 c.dw ∧
      (t'.die d).frozenParts = (s.die d).frozenParts.filter fun q => q != p) ∧
    (u = 2 → p ∉ (s.die d).frozenParts → Refuses (.freezeRelease c) s c 0x11) ∧
    (u = 3 → d = 0 → cl = 0 → k = 0 → ch = 0 →
      ((s.part p).vfFrozen = true → ∃ t', exec (.freezeRelease c) s = .next t' ∧
        Finished { s with parts := t'.parts } t' c.fn 0 c 0 c.dw ∧ t'.part p = { s.part p with vfFrozen := false }) ∧
      ((s.part p).vfFrozen = false → Refuses (.freezeRelease c) s c 0x11)) ∧
    (u = 0 → ch = 0 → (s.core (64 * d + 4 * cl + k)).frozen = none → Refuses (.freezeRelease c) s c 0x11) ∧
    (∀ f n, u = 0 → ch = 0 → n = 64 * d + 4 * cl + k → (s.core n).frozen = some f → f.uids = [] → s.demands = [] →
      (∀ e ∈ (s.core n).rows, ∀ x ∈ e.2.cv, x.2.complete = false) → ∃ t', exec (.freezeRelease c) s = .next t' ∧
      t'.core n = { s.core n with frozen := none } ∧
      t'.hostOut = s.hostOut ++ completed s c 0 c.dw) ∧
    (4 ≤ u → Refuses (.freezeRelease c) s c 0x11))

/-- ATTEST and LIFECYCLE (R428, R429, R437): a report of 8,192 bytes holds the life-cycle state, the function, the
nonce, the sixteen measurements and the signature over what precedes it (the signature, the measurements' layout and
the token are opaque, log entry 10), and is written to host memory for PF0 and to the partition's memory for a VF; a
transition that R437 permits is made where its token, read from the host, verifies for the message of the last nonce
(log entry 77), and leaves the module wiped, with a new seed where PROVISIONED is entered, its command completing
once the wipe has ended (R63); another, or a token that does not verify, is refused with PROTECT. -/
def Obligations.ReportsAndLives : Prop :=
  (∀ (s : State) (fn : Nat) (nonce : List Byte), fn < 17 → nonce.length = 64 → ∃ r, r = attestReport s fn nonce ∧
    r.length = 8192 ∧ r[0]? = some (BitVec.ofNat 8 (lifeNum s.lifeCycle)) ∧ r[1]? = some 1 ∧
    r[2]? = some (BitVec.ofNat 8 fn) ∧ (r.drop 64).take 64 = nonce ∧
    (∀ i < 16, (r.drop (128 + 64 * i)).take 64 = bytesBE 64 (measurement s fn i).toNat) ∧
    (r.drop 1152).take 4627 = ((Config.mlDsaSign s.identitySeed (r.take 1152)) ++ List.replicate 4627 0).take 4627) ∧
  (∀ (s : State) (c : Cmd) (o : OpndRead) (nonce : List Byte), Resumes s c true true o → c.fn = 0 →
    linesHeld s (operand c 1).toNat 8192 = false → nonce = operandBytes o (operand c 0).toNat 64 →
    (∀ e, o.fail = some e → Denies (.attest c .reads) s c e) ∧
    (o.fail = none → ∃ t', exec (.attest c .reads) s = .next t' ∧ t' = { s with
      opnd := none, fns := t'.fns, attestNonce := some (BitVec.ofNat 512 (ofBytesLE nonce))
      hostOut := s.hostOut ++ [.write (operand c 1).toNat (attestReport s 0 nonce) false] ++ completed s c 0 c.dw })) ∧
  (∀ (s s0 s1 s2 : State) (c : Cmd) (p va : Nat) (ws : List Datum) (e : Option (BitVec 8)), Takes s c true true →
    c.fn ≠ 0 → p = c.fn - 1 → addrOf (operand c 0) = .local va → va % 4 = 0 →
    hostParts p 16 s va 16 0 = ([], s0) → readOpnd s0 p (operand c 0) 16 [] none = (.ok ws, s1) →
    writeOpnd s1 p (operand c 1) (bytesWords (attestReport s1 c.fn (wordBytes ws))) = (e, s2) →
    s2.stalled = s.stalled → ∃ t', exec (.attest c .reads) s = .next t' ∧
    (∀ x, e = some x → Finished s2 t' c.fn 0 c x c.dw) ∧
    (e = none → Finished { s2 with attestNonce := some (BitVec.ofNat 512 (ofBytesLE (wordBytes ws))) } t' c.fn 0 c 0
      c.dw)) ∧
  (∀ (s : State) (c : Cmd) (x : LifeCycle) (may : Prop), Takes s c true false → (operand c 0).toNat = lifeNum x →
    (may ↔ (s.lifeCycle, x) ∈ [(LifeCycle.manufacture, LifeCycle.provisioned), (.provisioned, .deployed),
        (.deployed, .provisioned), (.rma, .manufacture), (.manufacture, .rma), (.provisioned, .rma), (.deployed, .rma),
        (.rma, .rma)]) →
    (¬ may ∨ s.attestNonce = none → Refuses (.lifecycle c .reads) s c 0x11) ∧
    (may → s.attestNonce ≠ none → ∃ t', exec (.lifecycle c .reads) s = .next t' ∧
      ReadsOperand s t' (.lifecycle c .reads) c (operand c 1).toNat Config.tokenBytes)) ∧
  ∀ (s : State) (c : Cmd) (o : OpndRead) (token : List Byte) (x : LifeCycle) (n : BitVec 512),
    Resumes s c true false o → (operand c 0).toNat = lifeNum x → s.attestNonce = some n → o.fail = none →
    token = operandBytes o (operand c 1).toNat Config.tokenBytes →
    (∀ owner, (s.lifeCycle, x, owner) ∈ [(LifeCycle.manufacture, LifeCycle.provisioned, false),
        (.provisioned, .deployed, true), (.deployed, .provisioned, true), (.rma, .manufacture, false),
        (.manufacture, .rma, false), (.provisioned, .rma, false), (.deployed, .rma, false), (.rma, .rma, false)] → ∃ t',
      exec (.lifecycle c .reads) s = .next t' ∧
      (Config.tokenVerifies owner s.ownerHash (tokenMessage s (lifeNum x) n) token = false →
        Finished { s with opnd := none } t' c.fn 0 c 0x11 c.dw) ∧
      (Config.tokenVerifies owner s.ownerHash (tokenMessage s (lifeNum x) n) token = true → t'.lifeCycle = x ∧
        t'.hbm = [] ∧ t'.hbmSide = [] ∧ t'.l2 = [] ∧ t'.keys = [] ∧ t'.parts = [] ∧ t'.launches = [] ∧ t'.cores = [] ∧
        t'.up = false ∧ t'.hostOut = [] ∧ (∃ t2, exec .wipeComplete t' = .next t2 ∧ t2.up = true ∧
          t2.hostOut = completed s c 0 c.dw) ∧
        t'.identitySeed = (if x = .provisioned then (Config.freeBits s.freeCount).extractLsb' 0 256
          else s.identitySeed) ∧
        t'.ownerHash = if s.lifeCycle = .manufacture ∧ x = .provisioned then Config.tokenOwnerHash token
          else s.ownerHash))

/-- HOST_COMPLETION and HOST_COMPLETION_TIMEOUT (R29, R125): the words of a successful completion reach the load that
asked for them, each with the code of its word; a completion with UR or CA, or none within the time, raises HOST_UR
or HOST_CA at the load, whose thread is parked at it with the load's registers empty; a completion that nothing waits
for changes nothing. Stated of one access in flight, of a launch whose policy is PARK. The time is the one that
Device Control 2 names, 50 ms at its reset value, and none where the timeout is disabled (log entry 85). BAR2_READ
and BAR2_WRITE (R432, R434): a request of a function within its stream is translated as the partition's tables say, a
read answers the bytes that memory holds, and a write stores the bytes of a word that its byte enables name, under
the word's code where they name all four; where the translation fails a read completes as Unsupported Request, a
write is dropped, and the first error is kept with its code; the requests of a frozen function are dropped and logged
with FROZEN. That a request lies within one page of 4 KiB, and that a read of no bytes is translated and answered, is
the model's reading of the link (log entry 81). -/
def Obligations.HostRequests : Prop :=
  (∀ (s : State) (id : Nat) (q : HostReq) (a : Access) (t old : Thread) (dst bytes nrp : Nat) (type : Tag) (ldx : Bool)
      (acq : Scope), s.hostReqs = [q] → s.accesses = [a] → s.demands = [] → q.owner = .access a.id →
    a.kind = .load dst bytes type ldx acq nrp → s.thread a.core a.key = some t → t.uid = a.uid →
    old = a.before.getD t → old.uid = t.uid → old.seq = t.seq → launchPolicy s t.seq = 1 →
    (∀ st data, id ≠ q.id → exec (.hostCompletion id st data) s = .next s) ∧
    (∀ data, data.length = q.words → exec (.hostCompletion q.id .success data) s = .next { s with
      hostReqs := [], accesses := [{ a with stage := .reply (data.map fun w => ⟨w, lcc w⟩) true }]
      hostPosts := s.hostPosts.filter fun e => e.2 != some q.id }) ∧
    completionTime 0 = some (5 * 10 ^ 13) ∧
    (completionTime s.ctl2 = none → exec (.hostCompletionTimeout q.id) s = .next s) ∧
    (∀ lim, completionTime s.ctl2 = some lim → s.time < q.sent + lim →
      exec (.hostCompletionTimeout q.id) s = .next s) ∧
    ∀ (e : Instr) (code : BitVec 8), (e, code) ∈ [(.hostCompletion q.id .unsupported [], 0x22),
        (.hostCompletion q.id .abort [], 0x23), (.hostCompletionTimeout q.id, 0x23)] →
      (e = .hostCompletionTimeout q.id → ∃ lim, completionTime s.ctl2 = some lim ∧ q.sent + lim ≤ s.time) →
      ∃ t' u r, exec e s = .next t' ∧
      t'.hostReqs = [] ∧ t'.accesses = [] ∧ t'.thread a.core a.key = some u ∧ u.status = .parked none ∧ u.pc = old.pc ∧
      (∀ i < (bytes + 3) / 4, dst + i < 255 → (u.reg (dst + i)).full = false ∧ (u.reg (dst + i)).pending = false) ∧
      (t'.part (launchPart s t.seq)).batches = (s.part (launchPart s t.seq)).batches ++ [⟨s.nextId, [r]⟩] ∧
      r.kind = 1 ∧ r.code = code ∧ r.addr = a.ea ∧ r.pc = old.pc ∧ r.uids = [t.uid]) ∧
  (∀ (s : State) (p off len : Nat) (bs : List (Option Byte)), s.up = true → s.binds = [] → s.waiting = [] → p < 16 →
    off < 2 ^ 46 → off % 4096 + len ≤ 4096 → off + len ≤ 2 ^ 46 → bs.length = len →
    ((s.part p).vfFrozen = false → ((s.part p).tdi = .locked ∨ (s.part p).tdi = .run → (s.part p).ideSecure = true) →
      (∀ (l : Leaf) (dpa : Nat) (y : L2Sector), (s.part p).xlEnable = true → cachedLeaf s (diePlace 0) p off = some l →
        l.host = false → l.vbase % 4096 = 0 → l.base % 4096 = 0 → dpa = l.base + (off - l.vbase) →
        l2Hit s dpa l.slot = some y → y.words.length = 16 → dpa % 64 + len ≤ 64 →
        (leafFail s p l .load .page none = none → y.words.all Datum.okay = true → ∃ bytes : List Byte,
          exec (.bar2Read p off len true) s = .next { s with hostOut := s.hostOut ++ [.bar2 (some bytes) false] } ∧
          bytes.length = len ∧ ∀ i < len, bytes[i]? =
            some (byteOf ((y.words[(dpa % 64 + i) / 4]?).getD zeroDatum).word ((dpa + i) % 4))) ∧
        (leafFail s p l .store .page none = none → readOnly s dpa = false → dpa % 4 = 0 → len = 4 →
          (∃ x : Byte, some x ∈ bs) → ∃ (t' : State) (d old : Datum),
          exec (.bar2Write p off bs true) s = .next t' ∧ t' = { s with l2 := t'.l2 } ∧ RunIs s t' dpa [d] y ∧
          y.words[dpa % 64 / 4]? = some old ∧ (none ∉ bs ∨ Datum.okay old = true → d.code = lcc d.word) ∧
          ∀ i < 4, ∀ b, bs[i]? = some b → byteOf d.word i = b.getD (byteOf old.word i))) ∧
      ((s.part p).xlEnable = false → ∃ t1 t2,
        exec (.bar2Read p off len true) s = .next t1 ∧ Logged s t1 (1 + p) 0x10 (BitVec.ofNat 64 off) ∧
        t1 = { s with fns := t1.fns, hostOut := s.hostOut ++ [.bar2 none true] } ∧
        exec (.bar2Write p off bs true) s = .next t2 ∧ Logged s t2 (1 + p) 0x10 (BitVec.ofNat 64 off) ∧
        t2 = { s with fns := t2.fns })) ∧
    ((s.part p).vfFrozen = true → ∀ b, ∃ t1 t2,
      exec (.bar2Read p off len b) s = .next t1 ∧ Logged s t1 (1 + p) 0x50 (BitVec.ofNat 64 off) ∧
      t1 = { s with fns := t1.fns, hostOut := s.hostOut ++ [.bar2 none false] } ∧
      exec (.bar2Write p off bs b) s = .next t2 ∧ Logged s t2 (1 + p) 0x50 (BitVec.ofNat 64 off) ∧
      t2 = { s with fns := t2.fns }))

/-- Register writes (R4, R70 to R72, R426, R433, R434, Tables 3.8, 17.5, 18.4, 19.5): the registers of a partition's
blocks take the bits that they hold and keep the others 0, flags are cleared by writing 1, a queue's tail is what is
written, HX_ERR.valid is cleared by writing 1, its count being kept; nothing is written before bring-up ends. A read
answers what the register holds, and one of a frozen function is aborted and logged with FROZEN (R432). A
configuration request is answered with Request Retry Status until bring-up ends, PF0's Device Control 2 taking what
is written from then on (log entry 85), and nothing answers one without power (R438); a snooped ring write is counted
as an entry of its queue (log entry 102) and writes no register. That a register access comes with its function and
offset, a read as one without a value, is log entry 109. -/
def Obligations.RegistersWritten : Prop :=
  (∀ (s : State) (p : Nat) (v : DWord) (pf0 : Bool) (wr : Nat → Instr) (x : Part), Reaches s p pf0 → x = s.part p →
    (wr = fun off => .registerWrite (if pf0 then 0 else 1 + p)
      (if pf0 then 0x1000000 + 0x100000 * p + off else 0x400000 + off) (some v) true) →
    exec (wr 0) s = .next (s.setPart p { x with xlRoot := v &&& 0x000000FFFFFFF0FF }) ∧
    exec (wr 8) s = .next (s.setPart p { x with xlEnable := v.getLsbD 0, xlGlobal := v.getLsbD 1 }) ∧
    exec (wr 0x18) s = .next (s.setPart p { x with
      badWrite := x.badWrite && !v.getLsbD 2, invalErr := x.invalErr && !v.getLsbD 1 }) ∧
    (∀ q < 8, ∃ y, exec (wr (0x10000 + 8 * q)) s = .next (s.setPart p y) ∧
      y = { x with lqStop := y.lqStop, lqCeiling := y.lqCeiling } ∧
      (∀ j < 8, y.lqStop.getLsbD j = if j = q then v.getLsbD 3 else x.lqStop.getLsbD j) ∧
      ∀ j, tabGet 7 y.lqCeiling j = if j = q then (v.extractLsb' 0 3).toNat else tabGet 7 x.lqCeiling j) ∧
    exec (wr 0x20000) s = .next (s.setPart p { x with fqBase := v &&& 0x000000FFFFFE00FF }) ∧
    exec (wr 0x20028) s = .next (s.setPart p { x with
      writeFail := x.writeFail && !v.getLsbD 2, badResume := x.badResume && !v.getLsbD 1 }) ∧
    exec (wr 0x20040) s = .next (s.setPart p { x with svBase := v }) ∧
    exec (wr 0x20048) s = .next (s.setPart p { x with svSize := v })) ∧
  ∀ (s : State),
    (s.up = false → ∀ fn off v b, exec (.registerWrite fn off v b) s = .next s) ∧
    (∀ (fn q : Nat) (v : DWord), s.up = true → fn ≤ 16 → q < 9 → (fn = 0 → q = 0) →
      (∀ p, fn = 1 + p → (s.part p).vfFrozen = false ∧
        ((s.part p).tdi = .locked ∨ (s.part p).tdi = .run → (s.part p).ideSecure = true)) → ∃ t',
      exec (.qTail fn q v) s = .next t' ∧ t' = { s with fns := t'.fns } ∧ (∀ g, g ≠ fn → t'.fn g = s.fn g) ∧
      t'.fn fn = { s.fn fn with queues := (t'.fn fn).queues } ∧ ∀ j, tabGet HostQueue.zero (t'.fn fn).queues j =
        if j = q then { tabGet HostQueue.zero (s.fn fn).queues j with tail := v }
        else tabGet HostQueue.zero (s.fn fn).queues j) ∧
    (s.up = true → ∃ t', exec (.hxErrClear 0) s = .next t' ∧ t' = { s with fns := t'.fns } ∧
      t'.fn 0 = { s.fn 0 with errValid := false, errFunc := 0, errCode := 0, errAddr := 0 } ∧
      ∀ g, g ≠ 0 → t'.fn g = s.fn g) ∧
    (s.up = true → (∀ off b, exec (.registerWrite 0 off none b) s =
      .next { s with hostOut := s.hostOut ++ [.reg 0 off (some (regRead s 0 off))] }) ∧
      ∀ p off b, p < 16 →
        ((s.part p).vfFrozen = false → ((s.part p).tdi = .locked ∨ (s.part p).tdi = .run →
            b = true ∧ (s.part p).ideSecure = true) → exec (.registerWrite (1 + p) off none b) s =
          .next { s with hostOut := s.hostOut ++ [.reg (1 + p) off (some (regRead s (1 + p) off))] }) ∧
        ((s.part p).vfFrozen = true → ∃ t1, exec (.registerWrite (1 + p) off none b) s = .next t1 ∧
          Logged s t1 (1 + p) 0x50 0 ∧
          t1 = { s with fns := t1.fns, hostOut := s.hostOut ++ [.reg (1 + p) off none] })) ∧
    (∀ fn ctl2, fn ≤ 16 →
      (s.powered = true → exec (.configurationRequest ⟨fn, ctl2⟩) s = .next { s with
        hostOut := s.hostOut ++ [.config fn (!s.up && !s.selfTestFailed)]
        ctl2 := if fn = 0 ∧ (s.up = true ∨ s.selfTestFailed = true) then (ctl2.map fun v => v.extractLsb' 0 5).getD s.ctl2
          else s.ctl2 }) ∧
      (s.powered = false → exec (.configurationRequest ⟨fn, ctl2⟩) s = .next s)) ∧
    ∀ fn q,
      (s.up = true → s.cxl = true → fn ≤ 16 → q < 9 → ∃ t', exec (.ringSnoop fn q) s = .next t' ∧
        t' = { s with fns := t'.fns } ∧ (∀ g, g ≠ fn → t'.fn g = s.fn g) ∧
        t'.fn fn = { s.fn fn with queues := (t'.fn fn).queues } ∧ ∀ j, tabGet HostQueue.zero (t'.fn fn).queues j =
          if j = q then { tabGet HostQueue.zero (s.fn fn).queues j with
            seen := (tabGet HostQueue.zero (s.fn fn).queues j).seen + 1 }
          else tabGet HostQueue.zero (s.fn fn).queues j) ∧
      (s.up = false ∨ s.cxl = false → exec (.ringSnoop fn q) s = .next s)

/-- SPDM (R428): a request to a mailbox that is served joins the connection's messages and is answered, GET_VERSION
beginning a connection and GET_MEASUREMENTS returning the sixteen values; KEY_EXCHANGE keeps the key that it agrees
on until a FINISH that verifies makes it the session's, and END_SESSION ends the session; a mailbox that is not
served answers nothing. What an answer holds beyond this, the key, and whether a FINISH verifies are free (log entry
10); that each request is answered whatever came before it, that a KEY_EXCHANGE in a session changes nothing else and
that END_SESSION drops the key is log entry 84. TDIs (R430, R432): an unlocked interface is locked, a locked one
started, and any other than an unlocked one stopped, each other request being refused; data that fails its MAC takes
the interface to ERROR and tears its partition's launches down, its stream being insecure until a lock (log entry
80); a VF's reset does the same to its launches and leaves the interface unlocked. -/
def Obligations.SessionsAndInterfaces : Prop :=
  (∀ (s : State) (fn : Nat) (msg log : List Byte) (x : Fn) (out : List Byte → List HostOut), fn < 17 → x = s.fn fn →
    log = x.spdmLog ++ msg →
    (out = fun extra => s.hostOut ++ [.spdm fn (Config.spdmResponse Config.spdmAlgorithms fn log s.freeCount ++ extra)]) →
    (s.up = true → proctorAt s = false →
      (∀ mk : Nat → List Byte → Instr, mk ∈ [.getCapabilities, .negotiateAlgorithms, .getDigests, .getCertificate,
          .challenge] → exec (mk fn msg) s = .next { s.setFn fn { x with spdmLog := log } with
        freeCount := s.freeCount + 1, hostOut := out [] }) ∧
      exec (.getVersion fn msg) s = .next { s.setFn fn { x with spdmLog := msg } with
        freeCount := s.freeCount + 1
        hostOut := s.hostOut ++ [.spdm fn (Config.spdmResponse Config.spdmAlgorithms fn msg s.freeCount ++ [])] } ∧
      exec (.getMeasurements fn msg) s = .next { s.setFn fn { x with spdmLog := log } with
        freeCount := s.freeCount + 1
        hostOut := out ((List.range 16).map fun i => bytesBE 64 (measurement s fn i).toNat).flatten } ∧
      (∃ t', exec (.keyExchange fn msg) s = .next t' ∧
        t' = { s with fns := t'.fns, freeCount := s.freeCount + 1, hostOut := out [] } ∧
        t'.fn fn = { x with
          spdmLog := log
          spdmPending := if x.spdmKey = none then some (Config.spdmSessionKey Config.spdmAlgorithms s.freeCount log) else x.spdmPending } ∧
        ∀ g, g ≠ fn → t'.fn g = s.fn g) ∧
      (∃ t', exec (.finish fn msg) s = .next t' ∧
        t' = { s with fns := t'.fns, freeCount := s.freeCount + 1, hostOut := out [] } ∧
        t'.fn fn = { x with
          spdmLog := log, spdmPending := none
          spdmKey := if x.spdmKey = none ∧ Config.spdmFinishOk fn log = true then x.spdmPending else x.spdmKey } ∧
        ∀ g, g ≠ fn → t'.fn g = s.fn g) ∧
      (∃ t', exec (.endSession fn msg) s = .next t' ∧
        t' = { s with fns := t'.fns, freeCount := s.freeCount + 1, hostOut := out [] } ∧
        t'.fn fn = { x with spdmLog := log, spdmPending := none, spdmKey := none } ∧
        ∀ g, g ≠ fn → t'.fn g = s.fn g)) ∧
    (s.up = false → s.selfTestFailed = false ∨ fn ≠ 0 → ∀ mk : Nat → List Byte → Instr,
      mk ∈ [.getVersion, .getCapabilities, .negotiateAlgorithms, .getDigests, .getCertificate, .challenge,
        .getMeasurements, .keyExchange, .finish, .endSession] → exec (mk fn msg) s = .next s)) ∧
  (∀ (s : State) (p r : Nat) (x : Part) (say : Bool → List HostOut), p < 16 → x = s.part p →
    (say = fun ok => s.hostOut ++ [.tdisp p ok]) → s.up = true → proctorAt s = false →
    exec (.lockInterfaceRequest p r) s = .next (if x.tdi = .unlocked then
      { s.setPart p { x with tdi := .locked, ideSecure := true } with hostOut := say true }
      else { s with hostOut := say false }) ∧
    exec (.startInterfaceRequest p) s = .next (if x.tdi = .locked then
      { s.setPart p { x with tdi := .run } with hostOut := say true } else { s with hostOut := say false }) ∧
    exec (.stopInterfaceRequest p) s = .next (if x.tdi ≠ .unlocked then
      { s.setPart p { x with tdi := .unlocked } with hostOut := say true } else { s with hostOut := say false }) ∧
    (∃ t', exec (.ideMacFail [p]) s = .next t' ∧ AllTorn s t' p ∧ (t'.part p).tdi = .error ∧
      (t'.part p).ideSecure = false ∧ ∀ q, q ≠ p → (t'.part q).tdi = (s.part q).tdi) ∧
    ∃ t', exec (.vfFlr p) s = .next t' ∧ AllTorn s t' p ∧ (t'.part p).tdi = .unlocked ∧
      (t'.part p).keymask = x.keymask ∧ (t'.part p).exists_ = x.exists_ ∧ ∀ q, q ≠ p → (t'.part q).tdi = (s.part q).tdi)

/-- Power, clock and reset (R400, R431, R435, R436, R438, Tables 19.6 and 19.7): a cap within its range is taken and
another sets bad_write; a write that changes the lower of the two caps, or its window, is noted with its time, and
from 1 ms later on the average power stays at or below that cap; the clock moves by one step of 25 MHz within its
range, and from a thermal trip on it is held at 700 MHz until the sensors have cooled, as no cap does; PW_STATUS.trip
falls once no sensor is at the trip temperature or above; a core's flag follows its temperature; a bit of PW_STATUS
that rises is signalled by vector 3 of PF0 (log entry 108); a reset leaves nothing but the fuses, the position and
the link's mode coming with it (log entry 3), and nothing is answered until the wipe is complete; a self-test that
fails leaves the module down, logged at PF0; without power only the fuses (log entry 4) keep their state and none of
these happens. POWER_CAP is such a write (log entry 76). Which steps the clock takes, and when, is free (log entry
83). -/
def Obligations.PowerAndReset : Prop :=
  (∀ (s : State) (v : DWord) (w n : Nat), s.up = true → w = (v.extractLsb' 16 12).toNat → n = (v.extractLsb' 0 13).toNat →
    (2000 ≤ n → n ≤ 6400 → w ≠ 0 → ∀ b, ∃ t', exec (.pwCapWrite b v) s = .next t' ∧ CapIs s t' b w n) ∧
    (n < 2000 ∨ 6400 < n ∨ w = 0 → ∀ b, exec (.pwCapWrite b v) s = .next { s with
      badCap := true, hostOut := s.hostOut ++ if s.badCap then [] else [.msix 0 3] })) ∧
  (∀ (s : State) (c : Cmd) (w n : Nat), Takes s c true false → n = (operand c 0).toNat → w = (operand c 1).toNat → ∃ t1 t',
    exec (.powerCap c) s = .next t' ∧ Finished t1 t' c.fn 0 c 0 c.dw ∧
    (2000 ≤ n → n ≤ 6400 → w ≠ 0 → w ≤ 4095 → CapIs s t1 false w n) ∧
    (n < 2000 ∨ 6400 < n ∨ w = 0 ∨ 4095 < w → t1 = { s with
      badCap := true, hostOut := s.hostOut ++ if s.badCap then [] else [.msix 0 3] })) ∧
  (∀ (s : State) (up : Bool) (watts e hot m : Nat) (capped : Bool), s.powered = true → 700 ≤ s.mhz → s.mhz ≤ 2100 →
    m = (if s.tripHeld then s.mhz else if up then min 2100 (s.mhz + 25) else max 700 (s.mhz - 25)) →
    capped = (decide (m < 2100) && (s.capped || (!up && !s.tripHeld))) → ∃ wt,
      exec (.coreClockStep up watts ⟨e, hot⟩) s = .next { s with
        mhz := m, watts := wt, energy := s.energy + BitVec.ofNat 64 e, capped := capped
        trip := s.trip && decide (s.tripTemp ≤ hot)
        hostOut := s.hostOut ++ if capped && !s.capped then [.msix 0 3] else [] } ∧
      (s.capSince + 10 ^ 12 ≤ s.time → wt = min watts (min s.capHost.cap s.capBmc.cap)) ∧
      (s.time < s.capSince + 10 ^ 12 → wt = watts % 2 ^ 13)) ∧
  (∀ (s : State), s.powered = true →
    (∀ c temp, c < 512 → ∃ t1 : State, t1 = s.setCore c { s.core c with hot := decide (s.hotTemp ≤ temp) } ∧
      exec (.coreFlaggedHot c temp) s = .next { t1 with
        hostOut := s.hostOut ++ if (powerStatus t1).testBit 1 && !(powerStatus s).testBit 1 then [.msix 0 3] else [] }) ∧
    exec .thermalTrip s = .next { s with
      trip := true, tripHeld := true, mhz := 700, hostOut := s.hostOut ++ if s.trip then [] else [.msix 0 3] } ∧
    exec .thermalTripClear s = .next { s with trip := false, tripHeld := false }) ∧
  (∀ (s : State), s.powered = false → ∀ e : Instr, (∃ up w n, e = .coreClockStep up w n) ∨
    (∃ c temp, e = .coreFlaggedHot c temp) ∨ e = .thermalTrip ∨ e = .thermalTripClear → exec e s = .next s) ∧
  ∀ (s : State),
    (∀ pos cxl, ∃ t', exec (.moduleReset pos cxl true) s = .next t' ∧ Wiped s t' ∧ t'.selfTestFailed = false ∧
      t'.pos = pos % 16 ∧ t'.cxl = cxl ∧ t'.lifeCycle = s.lifeCycle ∧ t'.ownerHash = s.ownerHash ∧
      t'.identitySeed = s.identitySeed ∧ (∀ d < 8, (t'.die d).wiping = true) ∧
      ∃ t2, exec .wipeComplete t' = .next t2 ∧ t2 = { t' with up := true, dies := t2.dies } ∧
        ∀ d < 8, t2.die d = { t'.die d with wiping := false }) ∧
    (∀ pos cxl, ∃ t', exec (.moduleReset pos cxl false) s = .next t' ∧ Wiped s t' ∧ t'.selfTestFailed = true ∧
      (t'.fn 0).errValid = true ∧ (t'.fn 0).errCode = 0x18 ∧ exec .wipeComplete t' = .next t') ∧
    ∃ t', exec .powerRemoval s = .next t' ∧ Wiped s t' ∧ t'.powered = false ∧ t'.lifeCycle = s.lifeCycle ∧
      t'.ownerHash = s.ownerHash ∧ t'.identitySeed = s.identitySeed

/-! ## Faults, the router and context switches -/

/-- What a policy fault does (R404, R406, R407, R412, R418, Tables 18.1, 18.3 and 18.5): the thread keeps the record
of its own lane in %frec and what Table 18.3 says in %trapinfo. Under HANDLE it goes to the launch's handler; under
PARK, without a handler, or in one, it parks on a record of kind PARKED; under KILL it ends and the launch counts as
killed; under ABORT the launch is torn down and one LAUNCH record with the code is queued. What %frec has of a fault
without a record is log entry 48, and the pc and lanes of the record of an ABORT are log entry 51. -/
def Obligations.FaultsTaken : Prop :=
  ∀ (s : State) (c k n : Nat) (t : Thread) (i : FInfo) (l : Launch), s.thread c k = some t →
    tabFind s.launches t.seq = some l → s.demands = [] → (∀ a ∈ s.accesses, a.inst ≠ n) → i.page = none →
    (∀ e ∈ s.cores, ∀ y ∈ e.2.threads, y.2.heldIn n = false) →
    i.freezing = false → t.posted = [] → ∃ (w : DWord) (v : BitVec 256) (u : Thread),
    u = { t with frec := v, trapinfo := w, waited := false, bundle := none } ∧
    w.extractLsb' 0 8 = i.code ∧ w.extractLsb' 8 8 = i.detail ∧ (w.extractLsb' 16 2).toNat = i.access % 4 ∧
    w.getLsbD 18 = i.addr.isSome ∧ w.getLsbD 19 = i.posted ∧ w.extractLsb' 20 44 = 0 ∧
    (v.extractLsb' 232 3).toNat = 1 ∧ (v.extractLsb' 229 3).toNat = c / 64 % 8 ∧ (v.extractLsb' 225 4).toNat = c / 4 % 16 ∧
    (v.extractLsb' 223 2).toNat = c % 4 ∧ v.extractLsb' 211 8 = i.code ∧ v.extractLsb' 203 8 = i.detail ∧
    (v.extractLsb' 201 2).toNat = i.access % 4 ∧ v.extractLsb' 160 32 = 1#32 <<< (k % 32) ∧
    (v.extractLsb' 129 31).toNat = t.seq % 2 ^ 31 ∧ v.extractLsb' 64 64 = t.pc ∧ v.extractLsb' 0 64 = i.addr.getD 0 ∧
    (l.record.extractLsb' 334 2 = 0 → l.record.extractLsb' 64 64 ≠ 0 → t.inHandler = false →
      takeFaults s c n [(k, i)] = s.setThread c k { u with status := .trapping }) ∧
    (t.inHandler = true ∨ l.record.extractLsb' 334 2 = 1 ∨
        (l.record.extractLsb' 334 2 = 0 ∧ l.record.extractLsb' 64 64 = 0) → ∃ t' : State,
      takeFaults s c n [(k, i)] = t' ∧ t' = { s with cores := t'.cores, parts := t'.parts, nextId := s.nextId + 1 } ∧
      t'.thread c k = some { u with status := .parked none } ∧
      (∀ d j, (d, j) ≠ (c, k) → t'.thread d j = s.thread d j) ∧
      t'.part l.part = { s.part l.part with batches := (s.part l.part).batches ++ [⟨s.nextId, [{
        kind := 1, die := c / 64, cluster := c / 4 % 16, core := c % 4, unit := 0, code := i.code, detail := i.detail
        access := i.access, req := false, lanes := 1#32 <<< (k % 32), seq := t.seq, pc := t.pc, addr := i.addr.getD 0
        uids := [t.uid] }]⟩] } ∧
      ∀ q, q ≠ l.part → t'.part q = s.part q) ∧
    (l.record.extractLsb' 334 2 = 2 → t.inHandler = false → (∃ r, rowAt s c (k / 32) = some r) →
      (∃ e ∈ (s.core c).threads, e.1 ≠ k ∧ e.1 / 32 = k / 32) → ∃ t', takeFaults s c n [(k, i)] = t' ∧
      t' = { s with cores := t'.cores, launches := tabPut s.launches t.seq { l with killed := true } } ∧
      t'.thread c k = none ∧ ∀ d j, (d, j) ≠ (c, k) → t'.thread d j = s.thread d j) ∧
    (l.record.extractLsb' 334 2 = 3 → t.inHandler = false → l.torn = false → (s.core c).launch = some t.seq →
      ∃ (t' : State) (l' : Launch) (bs : List Batch) (id : Nat) (r : FRec), takeFaults s c n [(k, i)] = t' ∧
      (t'.core c).threads = [] ∧ (t'.core c).gangs = [] ∧ tabFind t'.launches t.seq = some l' ∧ l'.torn = true ∧
      l'.killed = l.killed ∧ (t'.part l.part).batches = bs ++ [⟨id, [r]⟩] ∧ r.kind = 4 ∧ r.code = i.code ∧ r.pc = 0 ∧
      r.seq = t.seq ∧ r.lanes = 0)

/-- FAULT_BATCH_WRITE and FQ_RESUME (R409 to R411): the oldest batch is written at the ring's place once it has room,
each record under a sequence that none has, with the phase of its place; its threads are parked on that sequence, and
vector 1 is signalled. Without room, or with the queue disabled, it waits; a write that fails disables the queue and
says so. REPLAY makes a parked thread READY, DELIVER hands its fault to its launch's policy, and KILL ends it; the
reserved action sets bad_resume. FQ_CONS is ignored where it would overfill the count, and FQ_CTL sets the enable
bit. A batch holds the faults of one instruction (log entry 47); that a delivered fault leaves %frec as it was is log
entry 49, and what a resume of a lane that waits for a release does is log entry 90. -/
def Obligations.FaultQueues : Prop :=
  ∀ (s : State) (p : Nat) (x : Part), x = s.part p →
    (∀ (r : FRec) (id : Nat) (bs : List Batch) (c k q dpa slot : Nat) (t : Thread) (y : L2Sector),
      x.batches = ⟨id, [r]⟩ :: bs → r.uids = [t.uid] → r.kind < 5 → s.thread c k = some t → t.status = .parked none →
      (∀ c' k' u, s.thread c' k' = some u → u.uid = t.uid → c' = c ∧ k' = k) →
      s.binds = [] → (∀ e ∈ s.launches, ∀ g ∈ e.2.gangs, g.context = []) → q = x.nextRseq → q < 2 ^ 20 → q ≠ 0 → q ∉ parkedSeqs s p →
      dpa = (x.fqBase.extractLsb' 17 23).toNat * 2 ^ 17 + 32 * (x.fqProd.toNat % 4096) →
      slot = (x.fqBase.extractLsb' 0 8).toNat → x.fqEnable = true →
      (x.fqProd.toNat + 8192 - x.fqCons.toNat) % 8192 < 4096 →
      (HeldRun s slot dpa 8 y → ∃ (t' : State) (w : BitVec 256) (u : Thread),
        exec (.faultBatchWrite p) s = .next t' ∧
        t' = { s with l2 := t'.l2, cores := t'.cores, parts := t'.parts, hostOut := s.hostOut ++ [.msix (1 + p) 1] } ∧
        RunIs s t' dpa ((List.range 8).map fun i => ⟨w.extractLsb' (32 * i) 32, lcc (w.extractLsb' (32 * i) 32)⟩) y ∧
        w.getLsbD 255 = !x.fqProd.getLsbD 12 ∧ (w.extractLsb' 235 20).toNat = q ∧ (w.extractLsb' 232 3).toNat = r.kind ∧
        (w.extractLsb' 229 3).toNat = r.die % 8 ∧ (w.extractLsb' 225 4).toNat = r.cluster % 16 ∧
        (w.extractLsb' 223 2).toNat = r.core % 4 ∧ (w.extractLsb' 219 4).toNat = r.unit % 16 ∧
        w.extractLsb' 211 8 = r.code ∧ w.extractLsb' 203 8 = r.detail ∧ (w.extractLsb' 201 2).toNat = r.access % 4 ∧
        w.getLsbD 200 = r.req ∧ w.extractLsb' 160 32 = r.lanes ∧ (w.extractLsb' 129 31).toNat = r.seq % 2 ^ 31 ∧
        w.extractLsb' 64 64 = r.pc ∧ w.extractLsb' 0 64 = r.addr ∧
        t'.part p = { x with batches := bs, fqProd := x.fqProd + 1, fqCount := x.fqCount + 1
                             nextRseq := (q + 1) % 2 ^ 20 } ∧ (∀ j, j ≠ p → t'.part j = s.part j) ∧
        t'.thread c k = some u ∧ u = { t with status := .parked (some q), frec := u.frec } ∧
        (u.frec.extractLsb' 235 20).toNat = q ∧ u.frec.extractLsb' 0 235 = t.frec.extractLsb' 0 235 ∧
        ∀ c' k', (c', k') ≠ (c, k) → t'.thread c' k' = s.thread c' k') ∧
      (∀ (e : BitVec 8) (s1 : State), s.binds = [] →
        homeWrite s dpa slot (recWords (recBits r (!x.fqProd.getLsbD 12) q)) x.l2Ways = .fail e s1 →
        exec (.faultBatchWrite p) s = .next { s1.setPart p { s1.part p with fqEnable := false, writeFail := true } with
          hostOut := s1.hostOut ++ [.msix (1 + p) 1] })) ∧
    (∀ b bs, x.batches = b :: bs →
      x.fqEnable = false ∨ 4096 < (x.fqProd.toNat + 8192 - x.fqCons.toNat) % 8192 + b.recs.length →
      exec (.faultBatchWrite p) s = .next s) ∧
    (x.batches = [] → exec (.faultBatchWrite p) s = .next s) ∧
    (Reaches s p false → ∀ q : Nat, q < 2 ^ 20 →
      exec (.resumeReserved p q) s = .next (s.setPart p { x with badResume := true }) ∧
      ∀ (c k : Nat) (t : Thread) (l : Launch) (row : Row), s.thread c k = some t → t.status = .parked (some q) →
        tabFind s.launches t.seq = some l → l.part = p → parkedKeys s p q (s.core c) = [k] →
        (∀ d, d ≠ c → parkedKeys s p q (s.core d) = []) → savedCores s p = [] → s.demands = [] →
        (∀ e ∈ (s.core c).rows, ∀ v ∈ e.2.cv, v.2.complete = false) →
        exec (.resumeReplay p q) s = .next ({ s with nextId := s.nextId + 1 }.setThread c k
          { t with status := .ready, since := s.clock, waited := false, bundle := none }) ∧
        (l.record.extractLsb' 334 2 = 0 → l.record.extractLsb' 64 64 ≠ 0 → t.inHandler = false →
          exec (.resumeDeliver p q) s = .next ({ s with nextId := s.nextId + 1 }.setThread c k
            { t with status := .trapping, since := s.clock })) ∧
        (rowAt s c (k / 32) = some row → t.posted = [] → (∃ e ∈ (s.core c).threads, e.1 ≠ k ∧ e.1 / 32 = k / 32) →
          (∀ v v', v ∈ row.cv → Cleared (k % 32) v.2 v' → v'.complete = false) → ∃ t',
          exec (.resumeKill p q) s = .next t' ∧
          t' = { s with cores := t'.cores, launches := t'.launches, nextId := s.nextId + 1 } ∧
          t'.thread c k = none ∧ (∀ j, j ≠ k → t'.thread c j = s.thread c j) ∧
          t'.launches = tabPut s.launches t.seq { l with killed := true })) ∧
    (Reaches s p false → ∀ v : DWord,
      (4096 < (x.fqProd.toNat + 8192 - (v.extractLsb' 0 13).toNat) % 8192 → exec (.fqCons p v) s = .next s) ∧
      ((x.fqProd.toNat + 8192 - (v.extractLsb' 0 13).toNat) % 8192 ≤ 4096 →
        exec (.fqCons p v) s = .next (s.setPart p { x with fqCons := v.extractLsb' 0 13 })) ∧
      exec (.fqCtl p v) s = .next (s.setPart p { x with fqEnable := v.getLsbD 0 }))

/-- The router (R382, R386, R388 to R390, R394): the oldest record is accepted as a launch under the next sequence
number, with all its gangs waiting, or is refused, the thread's register or the entry's second operand taking the
sequence number or the refusal; what R382 asks holds of every accepted record. The waiting gangs stand in the order
of R389, each once. The first that can be placed is, with threads READY at the entry in the lanes of a free row,
their indices those of their nodes. A gang whose threads have ended, with every access of them performed, is done and
its allocations are free (log entry 91); a launch that is over, and whose cores are scrubbed, leaves its completion
word. What counts as a malformed record, and with which code it is refused, is log entry 64, which of the cores that
qualify a gang takes log entry 65, and where on a core it takes its scratchpad log entry 101. -/
def Obligations.LaunchesRun : Prop :=
  (∀ (s s0 : State) (a : RouterItem) (xs : List RouterItem) (n : Nat), s.routerQ = a :: xs → s0 = { s with routerQ := xs } →
    n = a.record.toNat →
    (∀ (c k d : Nat) (t : Thread) (lit : Bool), a.fail = none → a.from_ = .thread c k t.uid → s.thread c k = some t →
      t.status = .blocked (.router d lit) →
      (∀ code, refusal s0 a.part n = some code → exec .launchRecordAccept s = .next (s0.setThread c k
        ((t.write d .u32 (0x80000000#32 + code.setWidth 32)).proceed s.clock lit))) ∧
      (refusal s0 a.part n = none → recEdges n = [] → ∃ l : Launch, exec .launchRecordAccept s =
          .next ({ s0 with nextSeq := s.nextSeq + 1, launches := tabPut s.launches s.nextSeq l }.setThread c k
            ((t.write d .u32 (BitVec.ofNat 32 (s.nextSeq % 2 ^ 31))).proceed s.clock lit)) ∧
        l.part = a.part ∧ l.record = a.record ∧ l.queue = a.queue.getD (a.record.extractLsb' 336 3).toNat ∧ l.keySlot = (a.record.extractLsb' 256 8).toNat ∧ l.completed = 0 ∧
        l.killed = false ∧ l.torn = false ∧ l.gangs.length = recExt n (recTop n) ∧
        ∀ (i : Nat) (g : TopGang), l.gangs[i]? = some g → g.idx = i ∧ g.state = .waiting ∧ g.since = s.clock)) ∧
    (∀ (fn q : Nat) (c : Cmd), a.from_ = .host fn q c →
      (∀ code, a.fail = some code → ∃ t', exec .launchRecordAccept s = .next t' ∧ Finished s0 t' fn q c code c.dw) ∧
      (∀ code, a.fail = none → refusal s0 a.part n = some code → ∃ t', exec .launchRecordAccept s = .next t' ∧
        Finished s0 t' fn q c code (c.dw.set 1 (0x80000000#64 + code.setWidth 64))) ∧
      (a.fail = none → refusal s0 a.part n = none → recEdges n = [] → ∃ (t' : State) (l : Launch), exec .launchRecordAccept s = .next t' ∧
        Finished { s0 with nextSeq := s.nextSeq + 1, launches := tabPut s.launches s.nextSeq l } t' fn q c 0
          (c.dw.set 1 (BitVec.ofNat 64 (s.nextSeq % 2 ^ 31)))))) ∧
  (∀ s : State, s.routerQ = [] → exec .launchRecordAccept s = .next s) ∧
  (∀ (s : State) (p : Nat) (r : BitVec 2048), refusal s p r.toNat = none →
    r.extractLsb' 0 3 = 0 ∧ r.extractLsb' 368 8 ≠ 0 ∧ r.extractLsb' 376 8 = 0 ∧ r.extractLsb' 343 3 ≠ 0 ∧
    (r.extractLsb' 346 19).toNat ≤ recSplit r.toNat * 65536 ∧ recSplit r.toNat ≤ (s.part p).spMax ∧
    (r.extractLsb' 268 4).toNat = p ∧ (r.extractLsb' 272 16).toNat = (s.key (r.extractLsb' 256 8).toNat).gen ∧
    ∀ k ≤ recTop r.toNat, recExt r.toNat k ≠ 0 ∧ recDomain r.toNat k ≤ 5) ∧
  (∀ (s : State) (p : Nat), (routerOrder s p).Perm (waiters s p) ∧ ∀ (i j : Nat) (a b : Waiter), i < j → (routerOrder s p)[i]? = some a →
    (routerOrder s p)[j]? = some b →
    (∀ n, b.launch.owed = some n → ∃ m, a.launch.owed = some m ∧ m ≤ n) ∧
    (a.launch.owed = none → b.drank ≤ a.drank ∧ (a.drank = b.drank → a.seq ≤ b.seq ∧
      (a.seq = b.seq → a.gang.idx ≤ b.gang.idx)))) ∧
  (∀ (s : State) (p : Nat) (cores : List Nat),
    (firstPlaceable s p cores (canRestore s p []) (routerOrder s p) = none →
      exec (.gangDispatch p cores) s = .next s) ∧
    ∀ (w : Waiter) (c : Nat) (x : Placed) (r b : Nat) (l : Launch) (g : TopGang),
      firstPlaceable s p cores (canRestore s p []) (routerOrder s p) = some (w, [x]) → x.core = c →
      tabFind s.launches w.seq = some l → l = w.launch → findGang s w.seq w.gang.idx = some g → g = w.gang →
      g.state = .waiting → r = l.record.toNat → b = baseLevel r → x.n ≤ 32 → rowHeld s c 0 = false →
      (s.core c).rows = [] → (s.core c).threads = [] → (s.core c).gangs = [] → ∃ t', exec (.gangDispatch p cores) s = .next t' ∧
        t' = { s with cores := t'.cores, launches := t'.launches, nextId := s.nextId + x.n + 1 } ∧
        (∀ d, d ≠ c → t'.core d = s.core d) ∧ (t'.core c).launch = some w.seq ∧ (t'.core c).split = recSplit r ∧
        (∀ i, 32 ≤ i ∨ x.n ≤ i → t'.thread c i = none) ∧
        (∀ i < x.n, ∃ u, t'.thread c i = some u ∧ u.uid = s.nextId + i ∧ u.seq = w.seq ∧ u.status = .ready ∧
          u.pc = l.record.extractLsb' 0 64 ∧ u.preds = 0 ∧ u.rstk = [] ∧ u.inHandler = false ∧
          (∀ j, (u.reg j).full = true ∧ (u.reg j).pending = false ∧ (2 ≤ j ∨ recRegs r < 2 → u.reg j = Reg.zero) ∧
            (2 ≤ recRegs r → j = 0 → (u.reg j).word = l.record.extractLsb' 128 32 ∧ (u.reg j).tag = .addrLo) ∧
            (2 ≤ recRegs r → j = 1 → (u.reg j).word = l.record.extractLsb' 160 32 ∧ (u.reg j).tag = .addrHi)) ∧
          (∀ j < 8, j + 1 = b → u.gid[j]? = some (if recDomain r (recTop r) = 0 then g.idx + i else x.first + i)) ∧
          ∀ j < 8, b ≤ j → u.gid[j]? = some (if b ≤ recTop r then ((x.ups[j - b]?).map Prod.fst).getD 0 else 0)) ∧
        findGang t' w.seq g.idx = some { g with
          state := .placed [c], since := s.clock, dispatched := s.nextId + x.n, carried := w.carried }) ∧
  (∀ (s : State) (seq top c : Nat) (g : TopGang) (l : Launch), tabFind s.launches seq = some l →
    findGang s seq top = some g → g.state = .placed [c] →
    ((∃ e ∈ (s.core c).rows, e.2.seq = seq ∧ e.2.top = top) → exec (.gangComplete seq top) s = .next s) ∧
    ((∀ e ∈ (s.core c).rows, e.2.seq ≠ seq ∨ e.2.top ≠ top) → chanBusy s c seq top = false → g.token = none →
      (∀ a ∈ s.accesses, a.seq ≠ seq ∨ a.top ≠ top) → ∃ (t' : State) (l' : Launch), exec (.gangComplete seq top) s = .next t' ∧
      t' = { s with cores := t'.cores, launches := t'.launches } ∧
      t'.core c = { s.core c with gangs := (s.core c).gangs.filter fun y => !(y.seq == seq && y.top == top) } ∧
      (∀ d, d ≠ c → t'.core d = s.core d) ∧ tabFind t'.launches seq = some l' ∧
      l' = { l with gangs := l'.gangs, completed := l.completed + 1 } ∧
      findGang t' seq top = some { g with state := .done })) ∧
  ∀ (s : State) (seq : Nat) (l : Launch) (done : DWord), tabFind s.launches seq = some l →
    done = l.record.extractLsb' 192 64 → (∀ a ∈ s.accesses, a.seq ≠ seq) →
    (launchOver s seq l = false ∨ (∃ e ∈ s.cores, e.2.launch = some seq) ∨ engineHeld s (diePlace 0) l.part done 2 = true → exec (.launchComplete seq) s = .next s) ∧
    (launchOver s seq l = true → (∀ e ∈ s.cores, e.2.launch ≠ some seq) →
      engineHeld s (diePlace 0) l.part done 2 = false →
      (done = 0 → ∃ t', exec (.launchComplete seq) s = .next t' ∧ t' = { s with
        parts := t'.parts, launches := tabDel s.launches seq, hostOut := s.hostOut ++ [.msix (1 + l.part) 2] }) ∧
      ∀ (va dpa : Nat) (f : Leaf) (y : L2Sector) (w : DWord), s.binds = [] → done ≠ 0 → addrOf done = .local va →
        (s.part l.part).xlEnable = true → cachedLeaf s (diePlace 0) l.part va = some f →
        leafFail s l.part f .store .page none = none → f.host = false → dpa = f.base + (va - f.vbase) →
        HeldRun s f.slot dpa 2 y → w.getLsbD 63 = true → w.getLsbD 62 = l.killed → w.getLsbD 61 = l.torn →
        (w.getLsbD 60 = true ↔ l.torn = false ∧ recInEdges l.record.toNat ≠ [] ∧
          l.completed < recExt l.record.toNat (recTop l.record.toNat)) → w.extractLsb' 56 4 = 0 →
        (w.extractLsb' 32 24).toNat = l.completed % 2 ^ 24 → w.getLsbD 31 = false →
        (w.extractLsb' 0 31).toNat = seq % 2 ^ 31 → ∃ t', exec (.launchComplete seq) s = .next t' ∧
          t' = { s with l2 := t'.l2, parts := t'.parts, launches := tabDel s.launches seq
                        hostOut := s.hostOut ++ [.msix (1 + l.part) 2] } ∧
          RunIs s t' dpa [⟨lo32 w, lcc (lo32 w)⟩, ⟨hi32 w, lcc (hi32 w)⟩] y)

/-- Where scheduling completes (R371 to R373, R382, R384 to R386, R394, R400): LAUNCH at a record that the L2 holds;
EPUSH on an edge with room; EPOP in a gang with a token; a record that keeps the rules of R382, of a thread and of
the host; the one waiting gang of a partition, of one slot row, at an idle core of its grant; a gang without threads,
channel work or accesses; a launch whose gangs are done; and the migration of a gang from a hot core to an idle one
of its die, in one step (log entry 68), by a save and a restore whose pool is laid out as log entry 66 says.
Malformed records are those of log entry 64, and the core comes with the event (log entry 65). -/
def Obligations.SchedulingCompletes : Prop :=
  (∀ (f : FmtE) (s : State) (c k p dpa : Nat) (t : Thread) (xs : List (List Reg)) (l : Leaf) (y : Nat → L2Sector),
    Single s c k t → t.guard f.guard = true → Quiet s t → s.binds = [] → t.sources (eSrcs ruleLaunch f) = .ok xs →
    t.dstReady f.dst.toNat 1 = .ok () → p = launchPart s t.seq → (srcPair xs 0).toNat % 256 = 0 →
    Mapped s c p (srcPair xs 0) .load .page l dpa →
    (∀ i < 4, l2Hit s (dpa + 64 * i) l.slot = some (y i) ∧ (y i).words.length = 16 ∧ (y i).words.all Datum.okay = true) →
    ∃ r : BitVec 2048, exec (.launch f) s = .next (blockThread ({ s with
        routerQ := s.routerQ ++ [(⟨p, r, launchQueue s t.seq, .thread c k t.uid, none⟩ : RouterItem)] }.setThread c k
          (t.spun s.clock)) c k (.router f.dst.toNat f.lit.isSome)) ∧
      ∀ i < 64, ∀ d, (y (i / 16)).words[i % 16]? = some d → r.extractLsb' (32 * i) 32 = d.word) ∧
  (∀ (f : FmtE) (s : State) (c k p : Nat) (t : Thread) (xs : List (List Reg)) (d : EdgeDesc) (x : Edge),
    Single s c k t → t.guard f.guard = true → Quiet s t → d = edgeDesc (launchRecord s t.seq) f.unit.toNat →
    p = launchPart s t.seq →
    (t.sources (eSrcs ruleEpush f) = .ok xs → x = (s.part p).edge d.id → d.valid = true → d.out = true → x.state ≠ 4 →
      x.tokens.length < x.cap → x.consumer = none → exec (.epush f) s = .next ((setEdge s p d.id { x with
        tokens := x.tokens ++ [{ lo := ⟨(srcReg xs 0 0).word, (srcReg xs 0 0).code⟩
                                 hi := ⟨(srcReg xs 0 1).word, (srcReg xs 0 1).code⟩, admitted := false }] }).setThread c k (t.advance s.clock f.lit.isSome))) ∧
    ∀ g lo hi, t.dstReady f.dst.toNat 2 = .ok () → topGangOf s c k t = some g → g.token = some (d.id, lo, hi) →
      d.valid = true → d.out = false → Datum.okay lo = true → Datum.okay hi = true → ∃ t', exec (.epop f) s = .next t' ∧
      t'.thread c k = some (((t.fill f.dst.toNat .raw lo).fill (f.dst.toNat + 1) .raw hi).advance s.clock false) ∧
      ∀ j, j ≠ k → t'.thread c j = s.thread c j) ∧
  (∀ (s s0 : State) (a : RouterItem) (xs : List RouterItem), s.routerQ = a :: xs → s0 = { s with routerQ := xs } →
    a.fail = none → RecordOk s0 a.part a.record → ∃ l : Launch, l.part = a.part ∧ l.record = a.record ∧
    (∀ (c k d : Nat) (t : Thread) (lit : Bool), a.from_ = .thread c k t.uid → s.thread c k = some t →
      t.status = .blocked (.router d lit) → exec .launchRecordAccept s =
        .next ({ s0 with nextSeq := s.nextSeq + 1, launches := tabPut s.launches s.nextSeq l }.setThread c k
          ((t.write d .u32 (BitVec.ofNat 32 (s.nextSeq % 2 ^ 31))).proceed s.clock lit))) ∧
    ∀ (fn q : Nat) (m : Cmd), a.from_ = .host fn q m → ∃ t', exec .launchRecordAccept s = .next t' ∧
      Finished { s0 with nextSeq := s.nextSeq + 1, launches := tabPut s.launches s.nextSeq l } t' fn q m 0
        (m.dw.set 1 (BitVec.ofNat 64 (s.nextSeq % 2 ^ 31)))) ∧
  (∀ (s : State) (p c seq n r : Nat) (l : Launch) (g : TopGang), s.launches = [(seq, l)] → l.part = p → l.torn = false →
    l.owed = none → l.gangs = [g] → g.state = .waiting → (s.part p).lqStop.getLsbD l.queue = false → r = l.record.toNat →
    recTop r = 1 → recDomain r 0 = 0 → recDomain r 1 = 1 → recFill r = false →
    n = (if g.idx + 1 = recExt r 1 ∧ recRem r 0 ≠ 0 then recRem r 0 else recExt r 0) → n ≤ 32 →
    recSpBytes r ≤ recSplit r * 65536 → (s.part p).clusters.getLsbD (c / 4) = true → (s.core c).launch = none →
    (s.core c).halting = false → (s.core c).frozen = none → (s.core c).gangs = [] → (s.core c).rows = [] →
    (s.core c).threads = [] → rowHeld s c 0 = false → ∃ t', exec (.gangDispatch p [c]) s = .next t' ∧
    (t'.core c).launch = some seq ∧ (∀ d, d ≠ c → t'.core d = s.core d) ∧
    (∀ i, n ≤ i → t'.thread c i = none) ∧
    (∀ i < n, ∃ u, t'.thread c i = some u ∧ u.seq = seq ∧ u.status = .ready ∧ u.pc = l.record.extractLsb' 0 64 ∧
      u.preds = 0 ∧ u.gid = [i, g.idx, 0, 0, 0, 0, 0, 0]) ∧
    ∃ g', findGang t' seq g.idx = some g' ∧ g'.state = .placed [c]) ∧
  (∀ (s : State) (seq top c : Nat) (g : TopGang) (l : Launch), tabFind s.launches seq = some l →
    findGang s seq top = some g → g.state = .placed [c] → g.token = none →
    (∀ e ∈ (s.core c).rows, e.2.seq ≠ seq ∨ e.2.top ≠ top) → (∀ e ∈ (s.cluster (c / 4)).chans, e.2.state ≠ 1) →
    (∀ a ∈ s.accesses, a.seq ≠ seq ∨ a.top ≠ top) → ∃ t', exec (.gangComplete seq top) s = .next t' ∧
    findGang t' seq top = some { g with state := .done } ∧
    (t'.core c).gangs = (s.core c).gangs.filter fun y => !(y.seq == seq && y.top == top)) ∧
  (∀ (s : State) (seq : Nat) (l : Launch), tabFind s.launches seq = some l → l.torn = false →
    (∀ g ∈ l.gangs, g.state = .done) → (∀ j < 8, (edgeDesc l.record.toNat j).valid = false) →
    (∀ e ∈ s.cores, e.2.launch ≠ some seq) → (∀ a ∈ s.accesses, a.seq ≠ seq) → l.record.extractLsb' 192 64 = 0 →
    s.cxl = false → ∃ t', exec (.launchComplete seq) s = .next t' ∧ t' = { s with
      parts := t'.parts, launches := tabDel s.launches seq, hostOut := s.hostOut ++ [.msix (1 + l.part) 2] }) ∧
  ∀ (s s0 s1 : State) (p c d seq top b n r0 r : Nat) (ls : Tab Nat) (l : Launch) (g : TopGang) (y : CoreGang) (row : Row),
    tabFind s.launches seq = some l → l.part = p → r = l.record.toNat → recTop r = 1 → recDomain r 0 = 0 →
    recDomain r 1 = 1 → recFill r = false → findGang s seq top = some g → g.state = .placed [c] → g.migrated = 0 →
    (s.core c).hot = true → (s.core c).gangs = [y] → y.seq = seq → y.top = top → y.since + 525000 ≤ s.clock →
    (s.core c).rows = [(r0, row)] → (∀ v ∈ row.cv, v.2.complete = false) → (s.core c).frozen = none →
    (∀ e ∈ (s.core c).threads, e.1 / 32 = r0 ∧ e.2.status = .ready) → ((s.core c).threads.map Prod.fst).Nodup →
    s.accesses = [] → s.routerQ = [] → s.demands = [] → (s.part p).batches = [] → (s.part p).resumes = [] →
    (s.cluster (c / 4)).chans = [] → (s.cluster (c / 4)).tiles = [] → (s.cluster (c / 4)).running = none →
    s.stalled = false → allLives (withdrawCore s c) [c] = (ls, s0) → s0.stalled = false →
    n = saveBytes s0 ⟨[(seq, top)], [c]⟩ (fun _ => liveOf ls) →
    (∀ e ∈ s.launches, ∀ z ∈ e.2.gangs, ∀ cs, z.state ≠ .halting cs) → (∀ e ∈ s.launches, e.2.owed = none) →
    poolFit s0 p n = some b →
    writePool p (launchSlot s seq) ((n + 63) / 64) (((s.part p).svBase.extractLsb' 0 57).toNat + b) s0 = (none, s1) →
    s1 = { s with clusters := s1.clusters, l2 := s1.l2, freeCount := s1.freeCount } →
    (∀ k, s1.cluster k = s.cluster k) → (s.part p).exists_ = true →
    (s.part p).clusters.getLsbD (d / 4) = true → d ≠ c → d / 64 = c / 64 → d / 4 ≠ c / 4 → (s.core d).hot = false →
    s.core d = { Core.empty with tlb := (s.core d).tlb } → (s.cluster (d / 4)).tiles = [] →
    (s.cluster (d / 4)).chans = [] → y.size ≤ recSplit r * 65536 → ∃ t',
    exec (.thermalMigrate c [d]) s = .next t' ∧ (t'.core c).gangs = [] ∧ (t'.core c).threads = [] ∧
    (∀ k u, s.thread c k = some u → ∃ v, t'.thread d (k % 32) = some v ∧ v.pc = u.pc ∧ v.preds = u.preds ∧
      v.status = .ready ∧ v.seq = u.seq ∧ ∀ i < liveOf ls u, v.reg i = { u.reg i with pending := false, lent := 0 }) ∧
    (t'.part p).migrateCount = (s.part p).migrateCount + 1 ∧
    ∃ g', findGang t' seq top = some g' ∧ g'.state = .placed [d] ∧ g'.migrated = s.clock

/-- Context switches (R397 to R400, R413 to R415, R424): the victims' cores halt, and their queued matrix requests
leave the reservation table, what they held being returned (R186); a saved gang's context is each thread with its
live registers, the others coming back as zero (R191; a thread whose header cannot be fetched is saved whole, log
entry 103), one that waited being READY and one with a load in flight standing at its oldest, and the core's
scratchpad, and its core is left with no tile; while a header's page walk is queued the save waits (R80); a restored
gang takes a free row of the core that receives it, its threads unchanged there, with its scratchpad at its new base.
The scrub of a core that holds no gang clears what the world left there and its L1 lines under the world's key slot;
a core that holds a gang or a tile, or with an access in flight, is not scrubbed (log entry 69). The save pool is
laid out as log entry 66 says, which cores receive a context is log entry 67, the cores to try come with the event
(log entry 65), and a wait that was saved begins anew (log entry 70). -/
def Obligations.ContextsMove : Prop :=
  (∀ (s : State) (p : Nat),
    (partHalting s p = true ∨ firstPreempting s p (routerOrder s p) = none → exec (.preempt p) s = .next s) ∧
    ∀ (g : Group), partHalting s p = false → firstPreempting s p (routerOrder s p) = some g → ∃ t',
      exec (.preempt p) s = .next t' ∧ t' = { s with
        cores := t'.cores, launches := t'.launches, clusters := t'.clusters, accesses := t'.accesses } ∧
      (∀ c, t'.core c = { s.core c with
        threads := (t'.core c).threads, halting := decide (c ∈ g.cores) || (s.core c).halting } ∧
        ∀ k u, s.thread c k = some u → ∃ v, t'.thread c k = some v ∧ v = { u with regs := v.regs } ∧
          ∀ j, v.reg j = { u.reg j with lent := (v.reg j).lent } ∧ (c ∉ g.cores → v.reg j = u.reg j)) ∧
      (∀ k, t'.cluster k = { s.cluster k with tiles := (t'.cluster k).tiles }) ∧
      (t'.accesses.map fun a => { a with before := none }) = (s.accesses.map fun a => { a with before := none }) ∧
      (∀ c ∈ g.cores, queuedPasses t' c = []) ∧
      ∀ x ∈ g.gangs, ∀ y cs, findGang s x.1 x.2 = some y → y.state = .placed cs →
        findGang t' x.1 x.2 = some { y with state := .halting cs }) ∧
  (∀ (s s0 s1 : State) (seq top p c b n : Nat) (ls : Tab Nat) (y : TopGang) (cs : List Nat), findGang s seq top = some y →
    p = launchPart s seq → closeGroup s 513 [(seq, top)] = ⟨[(seq, top)], [c]⟩ → unflushed s [c] = [] → s.stalled = false →
    allLives (withdrawCore s c) [c] = (ls, s0) → n = saveBytes s0 ⟨[(seq, top)], [c]⟩ (fun _ => liveOf ls) →
    (y.state = .placed cs → exec (.contextSave seq top) s = .next s) ∧
    (y.state = .halting cs →
      (saveReady s [c] = false → exec (.contextSave seq top) s = .next s) ∧
      (saveReady s [c] = true → s0.stalled = true →
        exec (.contextSave seq top) s = .next { s.keepWalks s0 with stalled := true }) ∧
      (saveReady s [c] = true → s0.stalled = false → poolFit s0 p n = none →
        exec (.contextSave seq top) s = .next s) ∧
      (saveReady s [c] = true → s0.stalled = false → poolFit s0 p n = some b →
        writePool p (launchSlot s0 seq) ((n + 63) / 64) (((s0.part p).svBase.extractLsb' 0 57).toNat + b) s0 = (none, s1) →
        s1.launches = s.launches → s1.stalled = false →
        ∃ (t' : State) (x : SavedCore) (m : Nat), exec (.contextSave seq top) s = .next t' ∧
        findGang t' seq top = some { y with state := .saved [x] b m, since := s1.clock } ∧ x.core = c ∧
        (∀ k u, s1.thread c k = some u → ∃ h v, (openStates s1 u = [] → h = u) ∧
          (∀ o os, openStates s1 u = o :: os → h.pc = o.pc ∧ h.regs = o.regs ∧ h.status = .ready) ∧
          tabFind x.threads k = some v ∧
          v = { h with regs := v.regs, status := v.status, waited := v.waited, bundle := none } ∧
          (∀ z, h.status = .blocked z → v.status = .ready ∧ v.waited = false) ∧
          ((∀ z, h.status ≠ .blocked z) → v.status = h.status ∧ v.waited = h.waited) ∧
          ∀ j, (j < liveOf ls u → v.reg j = { h.reg j with pending := false, lent := 0 }) ∧
            (liveOf ls u ≤ j → j ≠ 255 → v.reg j = Reg.zero)) ∧
        x.scratch = (s1.core c).scratch ∧ x.rows = (s1.core c).rows ∧ x.q = (s1.core c).q ∧ x.cm = (s1.core c).cm ∧
        x.rk = (s1.core c).rk ∧ t'.core c = (s1.core c).torn ∧ (∀ d, d ≠ c → t'.core d = s1.core d) ∧
        (∀ a, a ∈ t'.accesses ↔ a ∈ s1.accesses ∧ a.core ≠ c) ∧ coreTiles t' c = [] ∧
        (t'.part p).preemptCount = (s1.part p).preemptCount + 1))) ∧
  (∀ (s s1 : State) (seq top p c b n r0 : Nat) (w : Waiter) (x : SavedCore) (row : Row) (y : CoreGang) (l : Launch)
      (cores : List Nat), p = launchPart s seq →
    (firstPlaceable s p [] (canRestore s p []) (routerOrder s p) = none →
      exec (.restore seq top cores) s = .next s) ∧
    (firstPlaceable s p [] (canRestore s p []) (routerOrder s p) = some (w, []) → w.seq = seq → w.gang.idx = top →
      w.gang.state = .saved [x] b n → l = w.launch → tabFind s.launches seq = some l → findGang s seq top = some w.gang →
      restorePlan s p seq l.record.toNat [x] (tryOrder s p cores) = some [(x, c)] →
      readPool p (launchSlot s seq) ((n + 63) / 64) (((s.part p).svBase.extractLsb' 0 57).toNat + b) s = (none, s1) →
      s1.stalled = s.stalled → rowHeld s1 c 0 = false → s1.launches = s.launches → x.rows = [(r0, row)] → (∀ v ∈ row.cv, v.2.complete = false) →
      (∀ e ∈ x.threads, e.1 / 32 = r0) → (x.threads.map Prod.fst).Nodup → x.gangs = [y] → y.seq = seq → y.top = top →
      y.size ≤ recSplit l.record.toNat * 65536 → y.base % 4 = 0 → tabSorted x.scratch = true → x.batches = [] →
      x.demands = [] → x.tiles = [] → x.chans = [] → (s1.part p).resumes = [] → (s1.core c).rows = [] →
      (s1.core c).gangs = [] → (s1.core c).threads = [] → (s1.core c).scratch = [] →
      (∀ i < 4, chan s1 (c / 4) (4 * (c % 4) + i) = Channel.zero) → ∃ t', exec (.restore seq top cores) s = .next t' ∧
        (∀ k t, tabFind x.threads k = some t → t'.thread c (k % 32) = some { t with since := s1.clock }) ∧
        (t'.core c).launch = some seq ∧ (∀ d, d ≠ c → t'.core d = s1.core d) ∧
        (t'.core c).q = x.q ∧ (t'.core c).cm = x.cm ∧ (t'.core c).rk = x.rk ∧ (t'.core c).l1 = [] ∧
        (∀ i < y.size / 4, tabGet zeroDatum (t'.core c).scratch i = tabGet zeroDatum x.scratch (y.base / 4 + i)) ∧
        ∃ g', findGang t' seq top = some g' ∧ g' = { w.gang with
          state := .placed [c], carried := g'.carried, dispatched := g'.dispatched, since := s1.clock })) ∧
  (∀ (s : State) (core : Nat) (cores : List Nat), (s.core core).hot = false ∨ (s.core core).gangs = [] →
    exec (.thermalMigrate core cores) s = .next s) ∧
  ∀ (s : State) (c seq : Nat) (l : Launch), (s.core c).launch = some seq → tabFind s.launches seq = some l →
    ((s.core c).gangs ≠ [] ∨ (∃ a ∈ s.accesses, a.core = c) ∨ coreTiles s c ≠ [] → exec (.worldScrub c) s = .next s) ∧
    ((s.core c).gangs = [] → (∀ a ∈ s.accesses, a.core ≠ c) → coreTiles s c = [] → ∃ t', exec (.worldScrub c) s = .next t' ∧
      t' = { s with cores := t'.cores, clusters := t'.clusters } ∧
      t'.core c = { s.core c with
        threads := [], rows := [], q := [], cm := [], rk := [], scratch := [], launch := none, frozen := none
        halting := false, scrubDue := false, l1 := (t'.core c).l1 } ∧
      (∀ z, z ∈ (t'.core c).l1 ↔ z ∈ (s.core c).l1 ∧ z.slot ≠ l.keySlot) ∧ (∀ d, d ≠ c → t'.core d = s.core d) ∧
      ∀ k, t'.cluster k = { s.cluster k with chans := (t'.cluster k).chans } ∧
        ∀ i, chan t' k i = if k = c / 4 ∧ i / 4 = c % 4 then Channel.zero else chan s k i)

/-! ## Words, steps and reset -/

/-- Words that the spec writes out (R193 to R198, Tables 8.3 to 8.7): one of each format, and one that R204 refuses. -/
def Obligations.WordsDecode : Prop :=
  decode [0xA0F8002030005081] = .ok (.mma { plainE with srcA := 8, srcB := 12, unit := 5, type := .bf16x2, fn := 1 }, []) ∧
  decode [0x7178200BFC0BD000] =
    .ok (.stl { plainM with dst := 8, addr := 2, index := 255, disp := 2, order := .rc, scope := .pd }, []) ∧
  decode [0x9048200BFC038040] =
    .ok (.cas { plainM with guard := ⟨1, false⟩, dst := 8, addr := 2, index := 255, type := .u32 }, []) ∧
  decode [0x24382014181C0040] =
    .ok (.bil3 { plainA with dst := 8, srcA := 5, srcB := 6, srcC := 7, type := .u32 }, []) ∧
  decode [0x3018282C33FC002B] = .ok (.permxCv { plainA with
    guard := ⟨3, false⟩, dst := 10, srcA := 11, srcB := 12, srcC := 0xFF, type := .i32, var := 1, sat := true
    imm := true }, []) ∧
  decode [0x10381C1C00000024, 0x10000] =
    .ok (.iadd { plainA with dst := 7, srcA := 7, type := .i32, lit := some 0x10000 }, []) ∧
  decode [0x00F8400000000010] = .ok (.call { plainB with dst := 16, disp := 4 }, []) ∧
  decode [0xC078000000001C00] = .ok (.brk { plainS with imm8 := 7 }, []) ∧
  decode [0x4038101418020060] = .error .badField

/-- Decoding and encoding agree, for every instruction and every operand that its form admits (R193 to R202, R204):
the words of a well-formed instruction, whatever follows them, decode to that instruction and leave what follows; and
the words that decode to an instruction are that instruction's own, every bit of them, and the instruction is
well-formed. -/
def Obligations.DecodeEncode : Prop :=
  (∀ (i : Instr) (ws : List DWord), WellFormed i → isEvent i = false → decode (encode i ++ ws) = .ok (i, ws)) ∧
  ∀ (ws rest : List DWord) (i : Instr), decode ws = .ok (i, rest) →
    WellFormed i ∧ isEvent i = false ∧ encode i ++ rest = ws

/-- A step runs what it decodes (R167, R187, R193, R204): the word at the PC of the bundle that a core issues is
fetched, and its literal word behind it; what they decode to runs, as `exec` gives it, on the bundle's lanes. A word
that does not decode raises ILLEGAL_OP in every lane, one that its thread's block or launch does not permit in those
lanes, and one that cannot be fetched raises the failure of its fetch. A lane that its earlier accesses hold back
blocks, and the later ones behind it (R320, R404; log entry 12). A pipe issues one bundle in a clock. An event of the
agenda runs if it is well-formed; clocks of the agenda pass, but that a thread that has been READY for the bound of
R170 issues first; without power nothing but a power-on happens (R438); and with nothing to issue, an event that has
waited and need not wait longer comes about, else an event of the part's own, else a clock passes. After each, the
worlds that a tile engine has reported are torn down (R50; log entry 61), and an event that has to wait as a whole
waits. The agenda, and the order of what is ready at once, are the model's (log entries 1 and 88); lanes of one word
are checked one by one (log entry 54), and what becomes READY in a clock issues in a later one (log entry 55). -/
def Obligations.StepsRun : Prop :=
  (∀ (s s0 s1 x0 : State) (c p : Nat) (rest : List Act) (ks : List Nat) (k : Nat) (t : Thread), s.powered = true →
    s.agenda = .issue c p :: rest → s0 = prepare { s with agenda := rest } c → bundle s0 c p = ks → ks.head? = some k →
    s0.thread c k = some t →
    ((c, p) ∈ s.issued → step s = .next (serveReports s0)) ∧
    ((c, p) ∉ s.issued → x0 = { s0 with issued := (c, p) :: s.issued } →
    (∀ i, fetchAt (firstAcquire x0 c ks) c (launchPart s0 t.seq) t.pc = .fail i s1 →
      (s1.stalled = false → step s = .next (serveReports (faultBundle s1 c ks i))) ∧
      (s1.stalled = true → step s = .next (serveReports (x0.keepWalks s1)))) ∧
    ∀ (w : DWord), fetchAt (firstAcquire x0 c ks) c (launchPart s0 t.seq) t.pc = .ok w s1 →
      (∀ e, decodeWord w (some 0) = .error e → step s = .next (serveReports (faultBundle s1 c ks (fi 0x01)))) ∧
      ∀ (i0 i : Instr) (good : List Nat) (s2 s3 : State), decodeWord w (some 0) = .ok i0 →
        good = lanesOk s1 c i0 (hasLitBit w) ks →
        s2 = faultBundle s1 c (ks.filter fun j => !good.contains j) (fi 0x01) →
        (good = [] → step s = .next (serveReports s2)) ∧
        (good ≠ [] →
          (hasLitBit w = false ∧ decode [w] = .ok (i, []) ∧ s3 = s2) ∨
            (∃ l, hasLitBit w = true ∧ fetchAt s2 c (launchPart s0 t.seq) (t.pc + 8) = .ok l s3 ∧
              decode [w, l] = .ok (i, [])) →
          ((∀ j ∈ good, (s3.thread c j).bind (laneGate s3 i) = none) →
            step s = afterRun i [] (exec i { s3 with issue := ⟨c, good⟩ })) ∧
          ∀ (go behind : List Nat) (j : Nat) (u : Thread) (b : Block) (s4 : State), good = go ++ j :: behind →
            (∀ e ∈ go, (s3.thread c e).bind (laneGate s3 i) = none) → s3.thread c j = some u → laneGate s3 i u = some b →
            s4 = behind.foldl (fun st e => blockThread st c e (.lane j u.uid))
              (blockThread (nameBundle s3 c good) c j b) →
            (go = [] → step s = .next (serveReports s4)) ∧
            (go ≠ [] → step s = afterRun i [] (exec i { s4 with issue := ⟨c, go⟩ }))))) ∧
  (∀ (s : State) (i : Instr) (rest : List Act), s.powered = true → s.agenda = .event i :: rest →
    (isEvent i = true → WellFormed i → step s = afterRun i [] (exec i { s with agenda := rest })) ∧
    (isEvent i = false ∨ ¬ WellFormed i → step s = .next (serveReports { s with agenda := rest }))) ∧
  (∀ (s : State) (n : Nat) (rest : List Act), s.powered = true → s.agenda = .tick n :: rest → s.reports = [] →
    (n = 0 → step s = .next { s with agenda := rest }) ∧
    (0 < n → duePair s = none → ∀ m, m = min n (clocksFree s) → 0 < m ∧ step s = .next { s with
      agenda := if m < n then .tick (n - m) :: rest else rest, clock := s.clock + m
      time := s.time + m * (10 ^ 9 / s.mhz), turn := 0, issued := [], walks := s.walks.filter fun x => x.result.isNone }) ∧
    (0 < n → ∀ e, duePair s = some e → step s = step { s with agenda := .issue e.1 e.2 :: s.agenda })) ∧
  (∀ s : State, s.powered = true → s.agenda = [] → s.turn ≠ 0 → s.reports = [] → nextPair s = none →
    (∀ i ahead behind, takeWaiting s [] s.waiting = some (i, ahead, behind) →
      step s = afterRun i behind (exec i { s with waiting := ahead })) ∧
    (takeWaiting s [] s.waiting = none →
      (∀ i, ownEvent s = some i → step s = afterRun i [] (exec i s)) ∧
      (ownEvent s = none → step s = .next { s with
        clock := s.clock + 1, time := s.time + 10 ^ 9 / s.mhz, turn := 0, issued := []
        walks := s.walks.filter fun x => x.result.isNone }))) ∧
  (∀ s : State, s.powered = false → s.reports = [] → (s.agenda = [] → step s = .next s) ∧
    ∀ (a : Act) (rest : List Act), s.agenda = a :: rest →
      (∀ pos cxl ok, a = .event (.moduleReset pos cxl ok) →
        step s = afterRun (.moduleReset pos cxl ok) [] (exec (.moduleReset pos cxl ok) { s with agenda := rest })) ∧
      ((∀ pos cxl ok, a ≠ .event (.moduleReset pos cxl ok)) → step s = .next { s with agenda := rest })) ∧
  ∀ (s : State) (i : Instr) (behind : List Instr), s.reports = [] → afterRun i behind (.next s) = .next { s with
    stalled := false, waiting := s.waiting ++ (if s.stalled = true ∧ isEvent i = true then [i] else []) ++ behind }

/-- Every state goes on: no step faults or is refused, and what a step leaves has every report of a tile engine
served (R50; log entry 61). -/
def Obligations.EveryStepAnswers : Prop :=
  ∀ s : State, ∃ t, step s = .next t ∧ t.reports = []

/-- Every step keeps main memory in its canonical form (log entry 13): from every state whose lists of data bytes and
of side-band bytes have strictly rising addresses and no entry that holds 0, a step leaves lists that have them. That
the state after reset has them is a part of ResetState. -/
def Obligations.MemoryStaysCanonical : Prop :=
  ∀ s t : State, Memory.wf s = true → Steps s t → Memory.wf t = true

/-- The module after reset (R63, R64, R435, R438, Tables 5.3, 18.4, 19.6): no thread, no launch, nothing cached,
every key slot EMPTY with floor 0, every frame without a binding, every pod link OFF, the power block and the limits
of every partition at their reset values, and main memory in its canonical form, reading as zeros. That bring-up is
over is the model's choice (log entry 3), as are the life-cycle state in the fuses (log entry 4), the split of a core
without a launch (log entry 7) and the form in which main memory is listed (log entry 13). -/
def Obligations.ResetState : Prop :=
  State.reset.up = true ∧ State.reset.lifeCycle = .deployed ∧ (∀ c k, State.reset.thread c k = none) ∧
  State.reset.launches = [] ∧ State.reset.accesses = [] ∧ State.reset.l2 = [] ∧ State.reset.l2Tags = [] ∧
  State.reset.fills = [] ∧ State.reset.binds = [] ∧ State.reset.unbinds = [] ∧ State.reset.reports = [] ∧
  State.reset.waiting = [] ∧ State.reset.stalled = false ∧ State.reset.routerQ = [] ∧ State.reset.demands = [] ∧
  State.reset.remotes = [] ∧ State.reset.hostReqs = [] ∧ State.reset.podOut = [] ∧
  (∀ c, State.reset.core c = Core.empty) ∧
  (∀ k, (State.reset.key k).loaded = false ∧ (State.reset.key k).floor = 0) ∧
  (∀ k, (State.reset.link k).state = 0) ∧ (∀ p, (State.reset.peer p).state = 0) ∧
  (∀ p, (State.reset.part p).l2Ways = 0xFFFFFF ∧ (State.reset.part p).spMax = 6 ∧
    (State.reset.part p).exists_ = false ∧ (State.reset.part p).xlEnable = false ∧
    (State.reset.part p).fqEnable = false ∧ (State.reset.part p).fqProd = 0 ∧ (State.reset.part p).fqCons = 0) ∧
  State.reset.capHost = ⟨100, 6400⟩ ∧ State.reset.capBmc = ⟨100, 6400⟩ ∧ State.reset.mhz = 2100 ∧ State.reset.watts = 0 ∧
  State.reset.energy = 0 ∧ State.reset.tripTemp = 105 ∧ State.reset.trip = false ∧ State.reset.capped = false ∧
  Memory.wf State.reset = true ∧
  ∀ a n, hbmRead State.reset a n = List.replicate n 0
end

