-- ==== Sys2Proof/Laws/Tab.lean ====
section
/-! SUPPORT. Laws of sparse tables: a key reads as what was last put or set to it, whatever the table holds; every
operation keeps the canonical form. -/

namespace Sys2Proof.Machine

variable {α : Type}

@[simp] theorem tabGet_nil (d : α) (k : Nat) : tabGet d [] k = d := rfl
@[simp] theorem tabFind_nil (k : Nat) : tabFind ([] : Tab α) k = none := rfl

theorem tabGet_eq (d : α) (t : Tab α) (k : Nat) : tabGet d t k = (tabFind t k).getD d := by
  induction t with
  | nil => rfl
  | cons e t ih => simp only [tabGet, tabFind]; split <;> simp [ih]

/-- A key that was put is found with its value. -/
@[simp] theorem tabFind_put_same (t : Tab α) (k : Nat) (v : α) : tabFind (tabPut t k v) k = some v := by
  induction t with
  | nil => simp [tabPut, tabFind]
  | cons e t ih =>
    simp only [tabPut]
    split
    · simp [tabFind]
    · split
      · simp [tabFind]
      · rename_i h; simp [tabFind, ih, h]

theorem tabFind_put_other (t : Tab α) (k j : Nat) (v : α) (h : j ≠ k) : tabFind (tabPut t k v) j = tabFind t j := by
  induction t with
  | nil => simp [tabPut, tabFind, Ne.symm h]
  | cons e t ih =>
    simp only [tabPut]
    split
    · simp [tabFind, Ne.symm h]
    · split
      · rename_i h2; simp only [beq_iff_eq] at h2; simp [tabFind, h2, Ne.symm h]
      · simp [tabFind, ih]

/-- A key that was put reads as its value. -/
@[simp] theorem tabGet_put_same (d : α) (t : Tab α) (k : Nat) (v : α) : tabGet d (tabPut t k v) k = v := by
  simp [tabGet_eq]

theorem tabGet_put_other (d : α) (t : Tab α) (k j : Nat) (v : α) (h : j ≠ k) :
    tabGet d (tabPut t k v) j = tabGet d t j := by simp [tabGet_eq, tabFind_put_other t k j v h]

/-- The later of two puts to a key stands. -/
theorem tabPut_put (t : Tab α) (k : Nat) (v w : α) : tabPut (tabPut t k v) k w = tabPut t k w := by
  induction t with
  | nil => simp [tabPut]
  | cons e t ih =>
    simp only [tabPut]
    split
    · simp [tabPut]
    · split
      · simp [tabPut]
      · rename_i h1 h2; simp [tabPut, h1, h2, ih]

/-- A deleted key is not found. -/
@[simp] theorem tabFind_del_same (t : Tab α) (k : Nat) : tabFind (tabDel t k) k = none := by
  induction t with
  | nil => rfl
  | cons e t ih =>
    simp only [tabDel, List.filter_cons] at ih ⊢
    split
    · rename_i h; simp at h; simp [tabFind, h, ih]
    · exact ih

theorem tabFind_del_other (t : Tab α) (k j : Nat) (h : j ≠ k) : tabFind (tabDel t k) j = tabFind t j := by
  induction t with
  | nil => rfl
  | cons e t ih =>
    simp only [tabDel, List.filter_cons] at ih ⊢
    split
    · simp [tabFind, ih]
    · rename_i h2; simp at h2; simp [tabFind, ih, h2, Ne.symm h]

/-- A deleted key reads as the default. -/
@[simp] theorem tabGet_del_same (d : α) (t : Tab α) (k : Nat) : tabGet d (tabDel t k) k = d := by simp [tabGet_eq]

theorem tabGet_del_other (d : α) (t : Tab α) (k j : Nat) (h : j ≠ k) : tabGet d (tabDel t k) j = tabGet d t j := by
  simp [tabGet_eq, tabFind_del_other t k j h]

/-- A key that was set reads as its value. -/
@[simp] theorem tabGet_set_same [DecidableEq α] (d : α) (t : Tab α) (k : Nat) (v : α) :
    tabGet d (tabSet d t k v) k = v := by
  unfold tabSet
  split
  · rename_i hv; simp [hv]
  · simp

/-- Another key reads as before. -/
theorem tabGet_set_other [DecidableEq α] (d : α) (t : Tab α) (k j : Nat) (v : α) (h : j ≠ k) :
    tabGet d (tabSet d t k v) j = tabGet d t j := by
  unfold tabSet
  split
  · exact tabGet_del_other d t k j h
  · exact tabGet_put_other d t k j v h

theorem tabSet_put [DecidableEq α] (d : α) (t : Tab α) (k : Nat) (v : α) (h : v ≠ d) : tabSet d t k v = tabPut t k v := by
  simp [tabSet, h]

/-- A map that keeps the default changes what each key reads as. -/
theorem tabGet_map [DecidableEq α] (d : α) (f : α → α) (hf : f d = d) (t : Tab α) (k : Nat) :
    tabGet d (tabMap d f t) k = f (tabGet d t k) := by
  induction t with
  | nil => simp [tabMap, hf]
  | cons e t ih =>
    obtain ⟨j, v⟩ := e
    simp only [tabMap]
    by_cases hj : j = k
    · subst hj
      split
      · rename_i h; simp [tabGet, h]
      · simp [tabGet]
    · split
      · rw [tabGet_del_other _ _ _ _ (Ne.symm hj), ih]; simp [tabGet, hj]
      · simp [tabGet, hj, ih]

/-! ## The canonical form -/

@[simp] theorem tabSorted_nil : tabSorted ([] : Tab α) = true := rfl

theorem tabSorted_iff (t : Tab α) : tabSorted t = true ↔ t.Pairwise fun a b => a.1 < b.1 := by
  induction t with
  | nil => simp
  | cons e t ih =>
    cases t with
    | nil => simp [tabSorted]
    | cons x t =>
      simp only [tabSorted, Bool.and_eq_true, decide_eq_true_eq, ih, List.pairwise_cons]
      constructor
      · rintro ⟨h, hx, ht⟩
        refine ⟨fun y hy => ?_, hx, ht⟩
        rcases List.mem_cons.mp hy with rfl | hy
        · exact h
        · exact Nat.lt_trans h (hx y hy)
      · rintro ⟨h, hx, ht⟩
        exact ⟨h x List.mem_cons_self, hx, ht⟩

theorem mem_tabPut {t : Tab α} {k : Nat} {v : α} {e : Nat × α} (h : e ∈ tabPut t k v) : e = (k, v) ∨ e ∈ t := by
  induction t with
  | nil => simpa [tabPut] using h
  | cons x t ih =>
    obtain ⟨j, w⟩ := x
    simp only [tabPut] at h
    split at h
    · simpa using h
    · split at h
      · simp only [List.mem_cons] at h ⊢; tauto
      · simp only [List.mem_cons] at h ⊢
        rcases h with h | h
        · tauto
        · have := ih h; tauto

theorem mem_tabDel {t : Tab α} {k : Nat} {e : Nat × α} (h : e ∈ tabDel t k) : e ∈ t := List.mem_of_mem_filter h

theorem tabSorted_put (t : Tab α) (k : Nat) (v : α) (h : tabSorted t = true) : tabSorted (tabPut t k v) = true := by
  rw [tabSorted_iff] at h ⊢
  induction t with
  | nil => simp [tabPut]
  | cons e t ih =>
    obtain ⟨j, w⟩ := e
    simp only [List.pairwise_cons] at h
    simp only [tabPut]
    split
    · rename_i hk
      simp only [List.pairwise_cons, List.mem_cons]
      exact ⟨fun y hy => hy.elim (fun h => h ▸ hk) fun hy => Nat.lt_trans hk (h.1 y hy), h.1, h.2⟩
    · split
      · rename_i hk; simp only [beq_iff_eq] at hk; subst hk
        exact List.pairwise_cons.mpr h
      · rename_i h1 h2
        simp only [beq_iff_eq] at h2
        refine List.pairwise_cons.mpr ⟨fun y hy => ?_, ih h.2⟩
        rcases mem_tabPut hy with rfl | hy
        · simp only; omega
        · exact h.1 y hy

theorem tabSorted_del (t : Tab α) (k : Nat) (h : tabSorted t = true) : tabSorted (tabDel t k) = true := by
  rw [tabSorted_iff] at h ⊢
  exact h.filter _

theorem tabSorted_set [DecidableEq α] (d : α) (t : Tab α) (k : Nat) (v : α) (h : tabSorted t = true) :
    tabSorted (tabSet d t k v) = true := by
  unfold tabSet
  split
  · exact tabSorted_del t k h
  · exact tabSorted_put t k v h

/-- A write keeps the canonical form. -/
theorem tabWf_set [DecidableEq α] (d : α) (t : Tab α) (k : Nat) (v : α) (h : tabWf d t = true) :
    tabWf d (tabSet d t k v) = true := by
  simp only [tabWf, Bool.and_eq_true, List.all_eq_true] at h ⊢
  unfold tabSet
  split
  · exact ⟨tabSorted_del t k h.1, fun e he => h.2 e (mem_tabDel he)⟩
  · rename_i hv
    refine ⟨tabSorted_put t k v h.1, fun e he => ?_⟩
    rcases mem_tabPut he with rfl | he
    · simpa using hv
    · exact h.2 e he

end Sys2Proof.Machine
end

