-- ==== Sys2Proof/Laws/State.lean ====
section
/-! SUPPORT. Laws of the state's updates: what each leaves as it was, and what is read back. -/

namespace Sys2Proof.Machine.State

/-! `setCore` -/

@[simp] theorem setCore_agenda (s : State) (c : Nat) (x : Core) : (s.setCore c x).agenda = s.agenda := rfl
@[simp] theorem setCore_waiting (s : State) (c : Nat) (x : Core) : (s.setCore c x).waiting = s.waiting := rfl
@[simp] theorem setCore_walks (s : State) (c : Nat) (x : Core) : (s.setCore c x).walks = s.walks := rfl
@[simp] theorem setCore_turn (s : State) (c : Nat) (x : Core) : (s.setCore c x).turn = s.turn := rfl
@[simp] theorem setCore_issued (s : State) (c : Nat) (x : Core) : (s.setCore c x).issued = s.issued := rfl
@[simp] theorem setCore_issue (s : State) (c : Nat) (x : Core) : (s.setCore c x).issue = s.issue := rfl
@[simp] theorem setCore_freeCount (s : State) (c : Nat) (x : Core) : (s.setCore c x).freeCount = s.freeCount := rfl
@[simp] theorem setCore_nextId (s : State) (c : Nat) (x : Core) : (s.setCore c x).nextId = s.nextId := rfl
@[simp] theorem setCore_clock (s : State) (c : Nat) (x : Core) : (s.setCore c x).clock = s.clock := rfl
@[simp] theorem setCore_time (s : State) (c : Nat) (x : Core) : (s.setCore c x).time = s.time := rfl
@[simp] theorem setCore_powered (s : State) (c : Nat) (x : Core) : (s.setCore c x).powered = s.powered := rfl
@[simp] theorem setCore_up (s : State) (c : Nat) (x : Core) : (s.setCore c x).up = s.up := rfl
@[simp] theorem setCore_selfTestFailed (s : State) (c : Nat) (x : Core) : (s.setCore c x).selfTestFailed = s.selfTestFailed := rfl
@[simp] theorem setCore_lifeCycle (s : State) (c : Nat) (x : Core) : (s.setCore c x).lifeCycle = s.lifeCycle := rfl
@[simp] theorem setCore_ownerHash (s : State) (c : Nat) (x : Core) : (s.setCore c x).ownerHash = s.ownerHash := rfl
@[simp] theorem setCore_identitySeed (s : State) (c : Nat) (x : Core) : (s.setCore c x).identitySeed = s.identitySeed := rfl
@[simp] theorem setCore_handleDraw (s : State) (c : Nat) (x : Core) : (s.setCore c x).handleDraw = s.handleDraw := rfl
@[simp] theorem setCore_attestNonce (s : State) (c : Nat) (x : Core) : (s.setCore c x).attestNonce = s.attestNonce := rfl
@[simp] theorem setCore_ctl2 (s : State) (c : Nat) (x : Core) : (s.setCore c x).ctl2 = s.ctl2 := rfl
@[simp] theorem setCore_cxl (s : State) (c : Nat) (x : Core) : (s.setCore c x).cxl = s.cxl := rfl
@[simp] theorem setCore_pos (s : State) (c : Nat) (x : Core) : (s.setCore c x).pos = s.pos := rfl
@[simp] theorem setCore_clusters (s : State) (c : Nat) (x : Core) : (s.setCore c x).clusters = s.clusters := rfl
@[simp] theorem setCore_dies (s : State) (c : Nat) (x : Core) : (s.setCore c x).dies = s.dies := rfl
@[simp] theorem setCore_hbm (s : State) (c : Nat) (x : Core) : (s.setCore c x).hbm = s.hbm := rfl
@[simp] theorem setCore_hbmSide (s : State) (c : Nat) (x : Core) : (s.setCore c x).hbmSide = s.hbmSide := rfl
@[simp] theorem setCore_l2Tags (s : State) (c : Nat) (x : Core) : (s.setCore c x).l2Tags = s.l2Tags := rfl
@[simp] theorem setCore_l2 (s : State) (c : Nat) (x : Core) : (s.setCore c x).l2 = s.l2 := rfl
@[simp] theorem setCore_fills (s : State) (c : Nat) (x : Core) : (s.setCore c x).fills = s.fills := rfl
@[simp] theorem setCore_binds (s : State) (c : Nat) (x : Core) : (s.setCore c x).binds = s.binds := rfl
@[simp] theorem setCore_unbinds (s : State) (c : Nat) (x : Core) : (s.setCore c x).unbinds = s.unbinds := rfl
@[simp] theorem setCore_stalled (s : State) (c : Nat) (x : Core) : (s.setCore c x).stalled = s.stalled := rfl
@[simp] theorem setCore_reports (s : State) (c : Nat) (x : Core) : (s.setCore c x).reports = s.reports := rfl
@[simp] theorem setCore_opnd (s : State) (c : Nat) (x : Core) : (s.setCore c x).opnd = s.opnd := rfl
@[simp] theorem setCore_afterWipe (s : State) (c : Nat) (x : Core) : (s.setCore c x).afterWipe = s.afterWipe := rfl
@[simp] theorem setCore_keys (s : State) (c : Nat) (x : Core) : (s.setCore c x).keys = s.keys := rfl
@[simp] theorem setCore_parts (s : State) (c : Nat) (x : Core) : (s.setCore c x).parts = s.parts := rfl
@[simp] theorem setCore_fns (s : State) (c : Nat) (x : Core) : (s.setCore c x).fns = s.fns := rfl
@[simp] theorem setCore_landing (s : State) (c : Nat) (x : Core) : (s.setCore c x).landing = s.landing := rfl
@[simp] theorem setCore_lcOwner (s : State) (c : Nat) (x : Core) : (s.setCore c x).lcOwner = s.lcOwner := rfl
@[simp] theorem setCore_mcGroup (s : State) (c : Nat) (x : Core) : (s.setCore c x).mcGroup = s.mcGroup := rfl
@[simp] theorem setCore_launches (s : State) (c : Nat) (x : Core) : (s.setCore c x).launches = s.launches := rfl
@[simp] theorem setCore_nextSeq (s : State) (c : Nat) (x : Core) : (s.setCore c x).nextSeq = s.nextSeq := rfl
@[simp] theorem setCore_routerQ (s : State) (c : Nat) (x : Core) : (s.setCore c x).routerQ = s.routerQ := rfl
@[simp] theorem setCore_accesses (s : State) (c : Nat) (x : Core) : (s.setCore c x).accesses = s.accesses := rfl
@[simp] theorem setCore_demands (s : State) (c : Nat) (x : Core) : (s.setCore c x).demands = s.demands := rfl
@[simp] theorem setCore_peers (s : State) (c : Nat) (x : Core) : (s.setCore c x).peers = s.peers := rfl
@[simp] theorem setCore_links (s : State) (c : Nat) (x : Core) : (s.setCore c x).links = s.links := rfl
@[simp] theorem setCore_linkMap (s : State) (c : Nat) (x : Core) : (s.setCore c x).linkMap = s.linkMap := rfl
@[simp] theorem setCore_noticeSeq (s : State) (c : Nat) (x : Core) : (s.setCore c x).noticeSeq = s.noticeSeq := rfl
@[simp] theorem setCore_relayCount (s : State) (c : Nat) (x : Core) : (s.setCore c x).relayCount = s.relayCount := rfl
@[simp] theorem setCore_mcdropCount (s : State) (c : Nat) (x : Core) : (s.setCore c x).mcdropCount = s.mcdropCount := rfl
@[simp] theorem setCore_podOut (s : State) (c : Nat) (x : Core) : (s.setCore c x).podOut = s.podOut := rfl
@[simp] theorem setCore_remotes (s : State) (c : Nat) (x : Core) : (s.setCore c x).remotes = s.remotes := rfl
@[simp] theorem setCore_nextRid (s : State) (c : Nat) (x : Core) : (s.setCore c x).nextRid = s.nextRid := rfl
@[simp] theorem setCore_rodTx (s : State) (c : Nat) (x : Core) : (s.setCore c x).rodTx = s.rodTx := rfl
@[simp] theorem setCore_rodRx (s : State) (c : Nat) (x : Core) : (s.setCore c x).rodRx = s.rodRx := rfl
@[simp] theorem setCore_remoteRx (s : State) (c : Nat) (x : Core) : (s.setCore c x).remoteRx = s.remoteRx := rfl
@[simp] theorem setCore_congestion (s : State) (c : Nat) (x : Core) : (s.setCore c x).congestion = s.congestion := rfl
@[simp] theorem setCore_remoteOut (s : State) (c : Nat) (x : Core) : (s.setCore c x).remoteOut = s.remoteOut := rfl
@[simp] theorem setCore_hostReqs (s : State) (c : Nat) (x : Core) : (s.setCore c x).hostReqs = s.hostReqs := rfl
@[simp] theorem setCore_hostPosts (s : State) (c : Nat) (x : Core) : (s.setCore c x).hostPosts = s.hostPosts := rfl
@[simp] theorem setCore_hostOut (s : State) (c : Nat) (x : Core) : (s.setCore c x).hostOut = s.hostOut := rfl
@[simp] theorem setCore_capHost (s : State) (c : Nat) (x : Core) : (s.setCore c x).capHost = s.capHost := rfl
@[simp] theorem setCore_capBmc (s : State) (c : Nat) (x : Core) : (s.setCore c x).capBmc = s.capBmc := rfl
@[simp] theorem setCore_capSince (s : State) (c : Nat) (x : Core) : (s.setCore c x).capSince = s.capSince := rfl
@[simp] theorem setCore_mhz (s : State) (c : Nat) (x : Core) : (s.setCore c x).mhz = s.mhz := rfl
@[simp] theorem setCore_watts (s : State) (c : Nat) (x : Core) : (s.setCore c x).watts = s.watts := rfl
@[simp] theorem setCore_badCap (s : State) (c : Nat) (x : Core) : (s.setCore c x).badCap = s.badCap := rfl
@[simp] theorem setCore_trip (s : State) (c : Nat) (x : Core) : (s.setCore c x).trip = s.trip := rfl
@[simp] theorem setCore_tripHeld (s : State) (c : Nat) (x : Core) : (s.setCore c x).tripHeld = s.tripHeld := rfl
@[simp] theorem setCore_capped (s : State) (c : Nat) (x : Core) : (s.setCore c x).capped = s.capped := rfl
@[simp] theorem setCore_energy (s : State) (c : Nat) (x : Core) : (s.setCore c x).energy = s.energy := rfl
@[simp] theorem setCore_tripTemp (s : State) (c : Nat) (x : Core) : (s.setCore c x).tripTemp = s.tripTemp := rfl
@[simp] theorem setCore_hotTemp (s : State) (c : Nat) (x : Core) : (s.setCore c x).hotTemp = s.hotTemp := rfl

/-! `setCluster` -/

@[simp] theorem setCluster_agenda (s : State) (c : Nat) (x : Cluster) : (s.setCluster c x).agenda = s.agenda := rfl
@[simp] theorem setCluster_waiting (s : State) (c : Nat) (x : Cluster) : (s.setCluster c x).waiting = s.waiting := rfl
@[simp] theorem setCluster_walks (s : State) (c : Nat) (x : Cluster) : (s.setCluster c x).walks = s.walks := rfl
@[simp] theorem setCluster_turn (s : State) (c : Nat) (x : Cluster) : (s.setCluster c x).turn = s.turn := rfl
@[simp] theorem setCluster_issued (s : State) (c : Nat) (x : Cluster) : (s.setCluster c x).issued = s.issued := rfl
@[simp] theorem setCluster_issue (s : State) (c : Nat) (x : Cluster) : (s.setCluster c x).issue = s.issue := rfl
@[simp] theorem setCluster_freeCount (s : State) (c : Nat) (x : Cluster) : (s.setCluster c x).freeCount = s.freeCount := rfl
@[simp] theorem setCluster_nextId (s : State) (c : Nat) (x : Cluster) : (s.setCluster c x).nextId = s.nextId := rfl
@[simp] theorem setCluster_clock (s : State) (c : Nat) (x : Cluster) : (s.setCluster c x).clock = s.clock := rfl
@[simp] theorem setCluster_time (s : State) (c : Nat) (x : Cluster) : (s.setCluster c x).time = s.time := rfl
@[simp] theorem setCluster_powered (s : State) (c : Nat) (x : Cluster) : (s.setCluster c x).powered = s.powered := rfl
@[simp] theorem setCluster_up (s : State) (c : Nat) (x : Cluster) : (s.setCluster c x).up = s.up := rfl
@[simp] theorem setCluster_selfTestFailed (s : State) (c : Nat) (x : Cluster) : (s.setCluster c x).selfTestFailed = s.selfTestFailed := rfl
@[simp] theorem setCluster_lifeCycle (s : State) (c : Nat) (x : Cluster) : (s.setCluster c x).lifeCycle = s.lifeCycle := rfl
@[simp] theorem setCluster_ownerHash (s : State) (c : Nat) (x : Cluster) : (s.setCluster c x).ownerHash = s.ownerHash := rfl
@[simp] theorem setCluster_identitySeed (s : State) (c : Nat) (x : Cluster) : (s.setCluster c x).identitySeed = s.identitySeed := rfl
@[simp] theorem setCluster_handleDraw (s : State) (c : Nat) (x : Cluster) : (s.setCluster c x).handleDraw = s.handleDraw := rfl
@[simp] theorem setCluster_attestNonce (s : State) (c : Nat) (x : Cluster) : (s.setCluster c x).attestNonce = s.attestNonce := rfl
@[simp] theorem setCluster_ctl2 (s : State) (c : Nat) (x : Cluster) : (s.setCluster c x).ctl2 = s.ctl2 := rfl
@[simp] theorem setCluster_cxl (s : State) (c : Nat) (x : Cluster) : (s.setCluster c x).cxl = s.cxl := rfl
@[simp] theorem setCluster_pos (s : State) (c : Nat) (x : Cluster) : (s.setCluster c x).pos = s.pos := rfl
@[simp] theorem setCluster_cores (s : State) (c : Nat) (x : Cluster) : (s.setCluster c x).cores = s.cores := rfl
@[simp] theorem setCluster_dies (s : State) (c : Nat) (x : Cluster) : (s.setCluster c x).dies = s.dies := rfl
@[simp] theorem setCluster_hbm (s : State) (c : Nat) (x : Cluster) : (s.setCluster c x).hbm = s.hbm := rfl
@[simp] theorem setCluster_hbmSide (s : State) (c : Nat) (x : Cluster) : (s.setCluster c x).hbmSide = s.hbmSide := rfl
@[simp] theorem setCluster_l2Tags (s : State) (c : Nat) (x : Cluster) : (s.setCluster c x).l2Tags = s.l2Tags := rfl
@[simp] theorem setCluster_l2 (s : State) (c : Nat) (x : Cluster) : (s.setCluster c x).l2 = s.l2 := rfl
@[simp] theorem setCluster_fills (s : State) (c : Nat) (x : Cluster) : (s.setCluster c x).fills = s.fills := rfl
@[simp] theorem setCluster_binds (s : State) (c : Nat) (x : Cluster) : (s.setCluster c x).binds = s.binds := rfl
@[simp] theorem setCluster_unbinds (s : State) (c : Nat) (x : Cluster) : (s.setCluster c x).unbinds = s.unbinds := rfl
@[simp] theorem setCluster_stalled (s : State) (c : Nat) (x : Cluster) : (s.setCluster c x).stalled = s.stalled := rfl
@[simp] theorem setCluster_reports (s : State) (c : Nat) (x : Cluster) : (s.setCluster c x).reports = s.reports := rfl
@[simp] theorem setCluster_opnd (s : State) (c : Nat) (x : Cluster) : (s.setCluster c x).opnd = s.opnd := rfl
@[simp] theorem setCluster_afterWipe (s : State) (c : Nat) (x : Cluster) : (s.setCluster c x).afterWipe = s.afterWipe := rfl
@[simp] theorem setCluster_keys (s : State) (c : Nat) (x : Cluster) : (s.setCluster c x).keys = s.keys := rfl
@[simp] theorem setCluster_parts (s : State) (c : Nat) (x : Cluster) : (s.setCluster c x).parts = s.parts := rfl
@[simp] theorem setCluster_fns (s : State) (c : Nat) (x : Cluster) : (s.setCluster c x).fns = s.fns := rfl
@[simp] theorem setCluster_landing (s : State) (c : Nat) (x : Cluster) : (s.setCluster c x).landing = s.landing := rfl
@[simp] theorem setCluster_lcOwner (s : State) (c : Nat) (x : Cluster) : (s.setCluster c x).lcOwner = s.lcOwner := rfl
@[simp] theorem setCluster_mcGroup (s : State) (c : Nat) (x : Cluster) : (s.setCluster c x).mcGroup = s.mcGroup := rfl
@[simp] theorem setCluster_launches (s : State) (c : Nat) (x : Cluster) : (s.setCluster c x).launches = s.launches := rfl
@[simp] theorem setCluster_nextSeq (s : State) (c : Nat) (x : Cluster) : (s.setCluster c x).nextSeq = s.nextSeq := rfl
@[simp] theorem setCluster_routerQ (s : State) (c : Nat) (x : Cluster) : (s.setCluster c x).routerQ = s.routerQ := rfl
@[simp] theorem setCluster_accesses (s : State) (c : Nat) (x : Cluster) : (s.setCluster c x).accesses = s.accesses := rfl
@[simp] theorem setCluster_demands (s : State) (c : Nat) (x : Cluster) : (s.setCluster c x).demands = s.demands := rfl
@[simp] theorem setCluster_peers (s : State) (c : Nat) (x : Cluster) : (s.setCluster c x).peers = s.peers := rfl
@[simp] theorem setCluster_links (s : State) (c : Nat) (x : Cluster) : (s.setCluster c x).links = s.links := rfl
@[simp] theorem setCluster_linkMap (s : State) (c : Nat) (x : Cluster) : (s.setCluster c x).linkMap = s.linkMap := rfl
@[simp] theorem setCluster_noticeSeq (s : State) (c : Nat) (x : Cluster) : (s.setCluster c x).noticeSeq = s.noticeSeq := rfl
@[simp] theorem setCluster_relayCount (s : State) (c : Nat) (x : Cluster) : (s.setCluster c x).relayCount = s.relayCount := rfl
@[simp] theorem setCluster_mcdropCount (s : State) (c : Nat) (x : Cluster) : (s.setCluster c x).mcdropCount = s.mcdropCount := rfl
@[simp] theorem setCluster_podOut (s : State) (c : Nat) (x : Cluster) : (s.setCluster c x).podOut = s.podOut := rfl
@[simp] theorem setCluster_remotes (s : State) (c : Nat) (x : Cluster) : (s.setCluster c x).remotes = s.remotes := rfl
@[simp] theorem setCluster_nextRid (s : State) (c : Nat) (x : Cluster) : (s.setCluster c x).nextRid = s.nextRid := rfl
@[simp] theorem setCluster_rodTx (s : State) (c : Nat) (x : Cluster) : (s.setCluster c x).rodTx = s.rodTx := rfl
@[simp] theorem setCluster_rodRx (s : State) (c : Nat) (x : Cluster) : (s.setCluster c x).rodRx = s.rodRx := rfl
@[simp] theorem setCluster_remoteRx (s : State) (c : Nat) (x : Cluster) : (s.setCluster c x).remoteRx = s.remoteRx := rfl
@[simp] theorem setCluster_congestion (s : State) (c : Nat) (x : Cluster) : (s.setCluster c x).congestion = s.congestion := rfl
@[simp] theorem setCluster_remoteOut (s : State) (c : Nat) (x : Cluster) : (s.setCluster c x).remoteOut = s.remoteOut := rfl
@[simp] theorem setCluster_hostReqs (s : State) (c : Nat) (x : Cluster) : (s.setCluster c x).hostReqs = s.hostReqs := rfl
@[simp] theorem setCluster_hostPosts (s : State) (c : Nat) (x : Cluster) : (s.setCluster c x).hostPosts = s.hostPosts := rfl
@[simp] theorem setCluster_hostOut (s : State) (c : Nat) (x : Cluster) : (s.setCluster c x).hostOut = s.hostOut := rfl
@[simp] theorem setCluster_capHost (s : State) (c : Nat) (x : Cluster) : (s.setCluster c x).capHost = s.capHost := rfl
@[simp] theorem setCluster_capBmc (s : State) (c : Nat) (x : Cluster) : (s.setCluster c x).capBmc = s.capBmc := rfl
@[simp] theorem setCluster_capSince (s : State) (c : Nat) (x : Cluster) : (s.setCluster c x).capSince = s.capSince := rfl
@[simp] theorem setCluster_mhz (s : State) (c : Nat) (x : Cluster) : (s.setCluster c x).mhz = s.mhz := rfl
@[simp] theorem setCluster_watts (s : State) (c : Nat) (x : Cluster) : (s.setCluster c x).watts = s.watts := rfl
@[simp] theorem setCluster_badCap (s : State) (c : Nat) (x : Cluster) : (s.setCluster c x).badCap = s.badCap := rfl
@[simp] theorem setCluster_trip (s : State) (c : Nat) (x : Cluster) : (s.setCluster c x).trip = s.trip := rfl
@[simp] theorem setCluster_tripHeld (s : State) (c : Nat) (x : Cluster) : (s.setCluster c x).tripHeld = s.tripHeld := rfl
@[simp] theorem setCluster_capped (s : State) (c : Nat) (x : Cluster) : (s.setCluster c x).capped = s.capped := rfl
@[simp] theorem setCluster_energy (s : State) (c : Nat) (x : Cluster) : (s.setCluster c x).energy = s.energy := rfl
@[simp] theorem setCluster_tripTemp (s : State) (c : Nat) (x : Cluster) : (s.setCluster c x).tripTemp = s.tripTemp := rfl
@[simp] theorem setCluster_hotTemp (s : State) (c : Nat) (x : Cluster) : (s.setCluster c x).hotTemp = s.hotTemp := rfl

/-! `setDie` -/

@[simp] theorem setDie_agenda (s : State) (d : Nat) (x : Die) : (s.setDie d x).agenda = s.agenda := rfl
@[simp] theorem setDie_waiting (s : State) (d : Nat) (x : Die) : (s.setDie d x).waiting = s.waiting := rfl
@[simp] theorem setDie_walks (s : State) (d : Nat) (x : Die) : (s.setDie d x).walks = s.walks := rfl
@[simp] theorem setDie_turn (s : State) (d : Nat) (x : Die) : (s.setDie d x).turn = s.turn := rfl
@[simp] theorem setDie_issued (s : State) (d : Nat) (x : Die) : (s.setDie d x).issued = s.issued := rfl
@[simp] theorem setDie_issue (s : State) (d : Nat) (x : Die) : (s.setDie d x).issue = s.issue := rfl
@[simp] theorem setDie_freeCount (s : State) (d : Nat) (x : Die) : (s.setDie d x).freeCount = s.freeCount := rfl
@[simp] theorem setDie_nextId (s : State) (d : Nat) (x : Die) : (s.setDie d x).nextId = s.nextId := rfl
@[simp] theorem setDie_clock (s : State) (d : Nat) (x : Die) : (s.setDie d x).clock = s.clock := rfl
@[simp] theorem setDie_time (s : State) (d : Nat) (x : Die) : (s.setDie d x).time = s.time := rfl
@[simp] theorem setDie_powered (s : State) (d : Nat) (x : Die) : (s.setDie d x).powered = s.powered := rfl
@[simp] theorem setDie_up (s : State) (d : Nat) (x : Die) : (s.setDie d x).up = s.up := rfl
@[simp] theorem setDie_selfTestFailed (s : State) (d : Nat) (x : Die) : (s.setDie d x).selfTestFailed = s.selfTestFailed := rfl
@[simp] theorem setDie_lifeCycle (s : State) (d : Nat) (x : Die) : (s.setDie d x).lifeCycle = s.lifeCycle := rfl
@[simp] theorem setDie_ownerHash (s : State) (d : Nat) (x : Die) : (s.setDie d x).ownerHash = s.ownerHash := rfl
@[simp] theorem setDie_identitySeed (s : State) (d : Nat) (x : Die) : (s.setDie d x).identitySeed = s.identitySeed := rfl
@[simp] theorem setDie_handleDraw (s : State) (d : Nat) (x : Die) : (s.setDie d x).handleDraw = s.handleDraw := rfl
@[simp] theorem setDie_attestNonce (s : State) (d : Nat) (x : Die) : (s.setDie d x).attestNonce = s.attestNonce := rfl
@[simp] theorem setDie_ctl2 (s : State) (d : Nat) (x : Die) : (s.setDie d x).ctl2 = s.ctl2 := rfl
@[simp] theorem setDie_cxl (s : State) (d : Nat) (x : Die) : (s.setDie d x).cxl = s.cxl := rfl
@[simp] theorem setDie_pos (s : State) (d : Nat) (x : Die) : (s.setDie d x).pos = s.pos := rfl
@[simp] theorem setDie_cores (s : State) (d : Nat) (x : Die) : (s.setDie d x).cores = s.cores := rfl
@[simp] theorem setDie_clusters (s : State) (d : Nat) (x : Die) : (s.setDie d x).clusters = s.clusters := rfl
@[simp] theorem setDie_hbm (s : State) (d : Nat) (x : Die) : (s.setDie d x).hbm = s.hbm := rfl
@[simp] theorem setDie_hbmSide (s : State) (d : Nat) (x : Die) : (s.setDie d x).hbmSide = s.hbmSide := rfl
@[simp] theorem setDie_l2Tags (s : State) (d : Nat) (x : Die) : (s.setDie d x).l2Tags = s.l2Tags := rfl
@[simp] theorem setDie_l2 (s : State) (d : Nat) (x : Die) : (s.setDie d x).l2 = s.l2 := rfl
@[simp] theorem setDie_fills (s : State) (d : Nat) (x : Die) : (s.setDie d x).fills = s.fills := rfl
@[simp] theorem setDie_binds (s : State) (d : Nat) (x : Die) : (s.setDie d x).binds = s.binds := rfl
@[simp] theorem setDie_unbinds (s : State) (d : Nat) (x : Die) : (s.setDie d x).unbinds = s.unbinds := rfl
@[simp] theorem setDie_stalled (s : State) (d : Nat) (x : Die) : (s.setDie d x).stalled = s.stalled := rfl
@[simp] theorem setDie_reports (s : State) (d : Nat) (x : Die) : (s.setDie d x).reports = s.reports := rfl
@[simp] theorem setDie_opnd (s : State) (d : Nat) (x : Die) : (s.setDie d x).opnd = s.opnd := rfl
@[simp] theorem setDie_afterWipe (s : State) (d : Nat) (x : Die) : (s.setDie d x).afterWipe = s.afterWipe := rfl
@[simp] theorem setDie_keys (s : State) (d : Nat) (x : Die) : (s.setDie d x).keys = s.keys := rfl
@[simp] theorem setDie_parts (s : State) (d : Nat) (x : Die) : (s.setDie d x).parts = s.parts := rfl
@[simp] theorem setDie_fns (s : State) (d : Nat) (x : Die) : (s.setDie d x).fns = s.fns := rfl
@[simp] theorem setDie_landing (s : State) (d : Nat) (x : Die) : (s.setDie d x).landing = s.landing := rfl
@[simp] theorem setDie_lcOwner (s : State) (d : Nat) (x : Die) : (s.setDie d x).lcOwner = s.lcOwner := rfl
@[simp] theorem setDie_mcGroup (s : State) (d : Nat) (x : Die) : (s.setDie d x).mcGroup = s.mcGroup := rfl
@[simp] theorem setDie_launches (s : State) (d : Nat) (x : Die) : (s.setDie d x).launches = s.launches := rfl
@[simp] theorem setDie_nextSeq (s : State) (d : Nat) (x : Die) : (s.setDie d x).nextSeq = s.nextSeq := rfl
@[simp] theorem setDie_routerQ (s : State) (d : Nat) (x : Die) : (s.setDie d x).routerQ = s.routerQ := rfl
@[simp] theorem setDie_accesses (s : State) (d : Nat) (x : Die) : (s.setDie d x).accesses = s.accesses := rfl
@[simp] theorem setDie_demands (s : State) (d : Nat) (x : Die) : (s.setDie d x).demands = s.demands := rfl
@[simp] theorem setDie_peers (s : State) (d : Nat) (x : Die) : (s.setDie d x).peers = s.peers := rfl
@[simp] theorem setDie_links (s : State) (d : Nat) (x : Die) : (s.setDie d x).links = s.links := rfl
@[simp] theorem setDie_linkMap (s : State) (d : Nat) (x : Die) : (s.setDie d x).linkMap = s.linkMap := rfl
@[simp] theorem setDie_noticeSeq (s : State) (d : Nat) (x : Die) : (s.setDie d x).noticeSeq = s.noticeSeq := rfl
@[simp] theorem setDie_relayCount (s : State) (d : Nat) (x : Die) : (s.setDie d x).relayCount = s.relayCount := rfl
@[simp] theorem setDie_mcdropCount (s : State) (d : Nat) (x : Die) : (s.setDie d x).mcdropCount = s.mcdropCount := rfl
@[simp] theorem setDie_podOut (s : State) (d : Nat) (x : Die) : (s.setDie d x).podOut = s.podOut := rfl
@[simp] theorem setDie_remotes (s : State) (d : Nat) (x : Die) : (s.setDie d x).remotes = s.remotes := rfl
@[simp] theorem setDie_nextRid (s : State) (d : Nat) (x : Die) : (s.setDie d x).nextRid = s.nextRid := rfl
@[simp] theorem setDie_rodTx (s : State) (d : Nat) (x : Die) : (s.setDie d x).rodTx = s.rodTx := rfl
@[simp] theorem setDie_rodRx (s : State) (d : Nat) (x : Die) : (s.setDie d x).rodRx = s.rodRx := rfl
@[simp] theorem setDie_remoteRx (s : State) (d : Nat) (x : Die) : (s.setDie d x).remoteRx = s.remoteRx := rfl
@[simp] theorem setDie_congestion (s : State) (d : Nat) (x : Die) : (s.setDie d x).congestion = s.congestion := rfl
@[simp] theorem setDie_remoteOut (s : State) (d : Nat) (x : Die) : (s.setDie d x).remoteOut = s.remoteOut := rfl
@[simp] theorem setDie_hostReqs (s : State) (d : Nat) (x : Die) : (s.setDie d x).hostReqs = s.hostReqs := rfl
@[simp] theorem setDie_hostPosts (s : State) (d : Nat) (x : Die) : (s.setDie d x).hostPosts = s.hostPosts := rfl
@[simp] theorem setDie_hostOut (s : State) (d : Nat) (x : Die) : (s.setDie d x).hostOut = s.hostOut := rfl
@[simp] theorem setDie_capHost (s : State) (d : Nat) (x : Die) : (s.setDie d x).capHost = s.capHost := rfl
@[simp] theorem setDie_capBmc (s : State) (d : Nat) (x : Die) : (s.setDie d x).capBmc = s.capBmc := rfl
@[simp] theorem setDie_capSince (s : State) (d : Nat) (x : Die) : (s.setDie d x).capSince = s.capSince := rfl
@[simp] theorem setDie_mhz (s : State) (d : Nat) (x : Die) : (s.setDie d x).mhz = s.mhz := rfl
@[simp] theorem setDie_watts (s : State) (d : Nat) (x : Die) : (s.setDie d x).watts = s.watts := rfl
@[simp] theorem setDie_badCap (s : State) (d : Nat) (x : Die) : (s.setDie d x).badCap = s.badCap := rfl
@[simp] theorem setDie_trip (s : State) (d : Nat) (x : Die) : (s.setDie d x).trip = s.trip := rfl
@[simp] theorem setDie_tripHeld (s : State) (d : Nat) (x : Die) : (s.setDie d x).tripHeld = s.tripHeld := rfl
@[simp] theorem setDie_capped (s : State) (d : Nat) (x : Die) : (s.setDie d x).capped = s.capped := rfl
@[simp] theorem setDie_energy (s : State) (d : Nat) (x : Die) : (s.setDie d x).energy = s.energy := rfl
@[simp] theorem setDie_tripTemp (s : State) (d : Nat) (x : Die) : (s.setDie d x).tripTemp = s.tripTemp := rfl
@[simp] theorem setDie_hotTemp (s : State) (d : Nat) (x : Die) : (s.setDie d x).hotTemp = s.hotTemp := rfl

/-! `setPart` -/

@[simp] theorem setPart_agenda (s : State) (p : Nat) (x : Part) : (s.setPart p x).agenda = s.agenda := rfl
@[simp] theorem setPart_waiting (s : State) (p : Nat) (x : Part) : (s.setPart p x).waiting = s.waiting := rfl
@[simp] theorem setPart_walks (s : State) (p : Nat) (x : Part) : (s.setPart p x).walks = s.walks := rfl
@[simp] theorem setPart_turn (s : State) (p : Nat) (x : Part) : (s.setPart p x).turn = s.turn := rfl
@[simp] theorem setPart_issued (s : State) (p : Nat) (x : Part) : (s.setPart p x).issued = s.issued := rfl
@[simp] theorem setPart_issue (s : State) (p : Nat) (x : Part) : (s.setPart p x).issue = s.issue := rfl
@[simp] theorem setPart_freeCount (s : State) (p : Nat) (x : Part) : (s.setPart p x).freeCount = s.freeCount := rfl
@[simp] theorem setPart_nextId (s : State) (p : Nat) (x : Part) : (s.setPart p x).nextId = s.nextId := rfl
@[simp] theorem setPart_clock (s : State) (p : Nat) (x : Part) : (s.setPart p x).clock = s.clock := rfl
@[simp] theorem setPart_time (s : State) (p : Nat) (x : Part) : (s.setPart p x).time = s.time := rfl
@[simp] theorem setPart_powered (s : State) (p : Nat) (x : Part) : (s.setPart p x).powered = s.powered := rfl
@[simp] theorem setPart_up (s : State) (p : Nat) (x : Part) : (s.setPart p x).up = s.up := rfl
@[simp] theorem setPart_selfTestFailed (s : State) (p : Nat) (x : Part) : (s.setPart p x).selfTestFailed = s.selfTestFailed := rfl
@[simp] theorem setPart_lifeCycle (s : State) (p : Nat) (x : Part) : (s.setPart p x).lifeCycle = s.lifeCycle := rfl
@[simp] theorem setPart_ownerHash (s : State) (p : Nat) (x : Part) : (s.setPart p x).ownerHash = s.ownerHash := rfl
@[simp] theorem setPart_identitySeed (s : State) (p : Nat) (x : Part) : (s.setPart p x).identitySeed = s.identitySeed := rfl
@[simp] theorem setPart_handleDraw (s : State) (p : Nat) (x : Part) : (s.setPart p x).handleDraw = s.handleDraw := rfl
@[simp] theorem setPart_attestNonce (s : State) (p : Nat) (x : Part) : (s.setPart p x).attestNonce = s.attestNonce := rfl
@[simp] theorem setPart_ctl2 (s : State) (p : Nat) (x : Part) : (s.setPart p x).ctl2 = s.ctl2 := rfl
@[simp] theorem setPart_cxl (s : State) (p : Nat) (x : Part) : (s.setPart p x).cxl = s.cxl := rfl
@[simp] theorem setPart_pos (s : State) (p : Nat) (x : Part) : (s.setPart p x).pos = s.pos := rfl
@[simp] theorem setPart_cores (s : State) (p : Nat) (x : Part) : (s.setPart p x).cores = s.cores := rfl
@[simp] theorem setPart_clusters (s : State) (p : Nat) (x : Part) : (s.setPart p x).clusters = s.clusters := rfl
@[simp] theorem setPart_dies (s : State) (p : Nat) (x : Part) : (s.setPart p x).dies = s.dies := rfl
@[simp] theorem setPart_hbm (s : State) (p : Nat) (x : Part) : (s.setPart p x).hbm = s.hbm := rfl
@[simp] theorem setPart_hbmSide (s : State) (p : Nat) (x : Part) : (s.setPart p x).hbmSide = s.hbmSide := rfl
@[simp] theorem setPart_l2Tags (s : State) (p : Nat) (x : Part) : (s.setPart p x).l2Tags = s.l2Tags := rfl
@[simp] theorem setPart_l2 (s : State) (p : Nat) (x : Part) : (s.setPart p x).l2 = s.l2 := rfl
@[simp] theorem setPart_fills (s : State) (p : Nat) (x : Part) : (s.setPart p x).fills = s.fills := rfl
@[simp] theorem setPart_binds (s : State) (p : Nat) (x : Part) : (s.setPart p x).binds = s.binds := rfl
@[simp] theorem setPart_unbinds (s : State) (p : Nat) (x : Part) : (s.setPart p x).unbinds = s.unbinds := rfl
@[simp] theorem setPart_stalled (s : State) (p : Nat) (x : Part) : (s.setPart p x).stalled = s.stalled := rfl
@[simp] theorem setPart_reports (s : State) (p : Nat) (x : Part) : (s.setPart p x).reports = s.reports := rfl
@[simp] theorem setPart_opnd (s : State) (p : Nat) (x : Part) : (s.setPart p x).opnd = s.opnd := rfl
@[simp] theorem setPart_afterWipe (s : State) (p : Nat) (x : Part) : (s.setPart p x).afterWipe = s.afterWipe := rfl
@[simp] theorem setPart_keys (s : State) (p : Nat) (x : Part) : (s.setPart p x).keys = s.keys := rfl
@[simp] theorem setPart_fns (s : State) (p : Nat) (x : Part) : (s.setPart p x).fns = s.fns := rfl
@[simp] theorem setPart_landing (s : State) (p : Nat) (x : Part) : (s.setPart p x).landing = s.landing := rfl
@[simp] theorem setPart_lcOwner (s : State) (p : Nat) (x : Part) : (s.setPart p x).lcOwner = s.lcOwner := rfl
@[simp] theorem setPart_mcGroup (s : State) (p : Nat) (x : Part) : (s.setPart p x).mcGroup = s.mcGroup := rfl
@[simp] theorem setPart_launches (s : State) (p : Nat) (x : Part) : (s.setPart p x).launches = s.launches := rfl
@[simp] theorem setPart_nextSeq (s : State) (p : Nat) (x : Part) : (s.setPart p x).nextSeq = s.nextSeq := rfl
@[simp] theorem setPart_routerQ (s : State) (p : Nat) (x : Part) : (s.setPart p x).routerQ = s.routerQ := rfl
@[simp] theorem setPart_accesses (s : State) (p : Nat) (x : Part) : (s.setPart p x).accesses = s.accesses := rfl
@[simp] theorem setPart_demands (s : State) (p : Nat) (x : Part) : (s.setPart p x).demands = s.demands := rfl
@[simp] theorem setPart_peers (s : State) (p : Nat) (x : Part) : (s.setPart p x).peers = s.peers := rfl
@[simp] theorem setPart_links (s : State) (p : Nat) (x : Part) : (s.setPart p x).links = s.links := rfl
@[simp] theorem setPart_linkMap (s : State) (p : Nat) (x : Part) : (s.setPart p x).linkMap = s.linkMap := rfl
@[simp] theorem setPart_noticeSeq (s : State) (p : Nat) (x : Part) : (s.setPart p x).noticeSeq = s.noticeSeq := rfl
@[simp] theorem setPart_relayCount (s : State) (p : Nat) (x : Part) : (s.setPart p x).relayCount = s.relayCount := rfl
@[simp] theorem setPart_mcdropCount (s : State) (p : Nat) (x : Part) : (s.setPart p x).mcdropCount = s.mcdropCount := rfl
@[simp] theorem setPart_podOut (s : State) (p : Nat) (x : Part) : (s.setPart p x).podOut = s.podOut := rfl
@[simp] theorem setPart_remotes (s : State) (p : Nat) (x : Part) : (s.setPart p x).remotes = s.remotes := rfl
@[simp] theorem setPart_nextRid (s : State) (p : Nat) (x : Part) : (s.setPart p x).nextRid = s.nextRid := rfl
@[simp] theorem setPart_rodTx (s : State) (p : Nat) (x : Part) : (s.setPart p x).rodTx = s.rodTx := rfl
@[simp] theorem setPart_rodRx (s : State) (p : Nat) (x : Part) : (s.setPart p x).rodRx = s.rodRx := rfl
@[simp] theorem setPart_remoteRx (s : State) (p : Nat) (x : Part) : (s.setPart p x).remoteRx = s.remoteRx := rfl
@[simp] theorem setPart_congestion (s : State) (p : Nat) (x : Part) : (s.setPart p x).congestion = s.congestion := rfl
@[simp] theorem setPart_remoteOut (s : State) (p : Nat) (x : Part) : (s.setPart p x).remoteOut = s.remoteOut := rfl
@[simp] theorem setPart_hostReqs (s : State) (p : Nat) (x : Part) : (s.setPart p x).hostReqs = s.hostReqs := rfl
@[simp] theorem setPart_hostPosts (s : State) (p : Nat) (x : Part) : (s.setPart p x).hostPosts = s.hostPosts := rfl
@[simp] theorem setPart_hostOut (s : State) (p : Nat) (x : Part) : (s.setPart p x).hostOut = s.hostOut := rfl
@[simp] theorem setPart_capHost (s : State) (p : Nat) (x : Part) : (s.setPart p x).capHost = s.capHost := rfl
@[simp] theorem setPart_capBmc (s : State) (p : Nat) (x : Part) : (s.setPart p x).capBmc = s.capBmc := rfl
@[simp] theorem setPart_capSince (s : State) (p : Nat) (x : Part) : (s.setPart p x).capSince = s.capSince := rfl
@[simp] theorem setPart_mhz (s : State) (p : Nat) (x : Part) : (s.setPart p x).mhz = s.mhz := rfl
@[simp] theorem setPart_watts (s : State) (p : Nat) (x : Part) : (s.setPart p x).watts = s.watts := rfl
@[simp] theorem setPart_badCap (s : State) (p : Nat) (x : Part) : (s.setPart p x).badCap = s.badCap := rfl
@[simp] theorem setPart_trip (s : State) (p : Nat) (x : Part) : (s.setPart p x).trip = s.trip := rfl
@[simp] theorem setPart_tripHeld (s : State) (p : Nat) (x : Part) : (s.setPart p x).tripHeld = s.tripHeld := rfl
@[simp] theorem setPart_capped (s : State) (p : Nat) (x : Part) : (s.setPart p x).capped = s.capped := rfl
@[simp] theorem setPart_energy (s : State) (p : Nat) (x : Part) : (s.setPart p x).energy = s.energy := rfl
@[simp] theorem setPart_tripTemp (s : State) (p : Nat) (x : Part) : (s.setPart p x).tripTemp = s.tripTemp := rfl
@[simp] theorem setPart_hotTemp (s : State) (p : Nat) (x : Part) : (s.setPart p x).hotTemp = s.hotTemp := rfl

/-! `setFn` -/

@[simp] theorem setFn_agenda (s : State) (f : Nat) (x : Fn) : (s.setFn f x).agenda = s.agenda := rfl
@[simp] theorem setFn_waiting (s : State) (f : Nat) (x : Fn) : (s.setFn f x).waiting = s.waiting := rfl
@[simp] theorem setFn_walks (s : State) (f : Nat) (x : Fn) : (s.setFn f x).walks = s.walks := rfl
@[simp] theorem setFn_turn (s : State) (f : Nat) (x : Fn) : (s.setFn f x).turn = s.turn := rfl
@[simp] theorem setFn_issued (s : State) (f : Nat) (x : Fn) : (s.setFn f x).issued = s.issued := rfl
@[simp] theorem setFn_issue (s : State) (f : Nat) (x : Fn) : (s.setFn f x).issue = s.issue := rfl
@[simp] theorem setFn_freeCount (s : State) (f : Nat) (x : Fn) : (s.setFn f x).freeCount = s.freeCount := rfl
@[simp] theorem setFn_nextId (s : State) (f : Nat) (x : Fn) : (s.setFn f x).nextId = s.nextId := rfl
@[simp] theorem setFn_clock (s : State) (f : Nat) (x : Fn) : (s.setFn f x).clock = s.clock := rfl
@[simp] theorem setFn_time (s : State) (f : Nat) (x : Fn) : (s.setFn f x).time = s.time := rfl
@[simp] theorem setFn_powered (s : State) (f : Nat) (x : Fn) : (s.setFn f x).powered = s.powered := rfl
@[simp] theorem setFn_up (s : State) (f : Nat) (x : Fn) : (s.setFn f x).up = s.up := rfl
@[simp] theorem setFn_selfTestFailed (s : State) (f : Nat) (x : Fn) : (s.setFn f x).selfTestFailed = s.selfTestFailed := rfl
@[simp] theorem setFn_lifeCycle (s : State) (f : Nat) (x : Fn) : (s.setFn f x).lifeCycle = s.lifeCycle := rfl
@[simp] theorem setFn_ownerHash (s : State) (f : Nat) (x : Fn) : (s.setFn f x).ownerHash = s.ownerHash := rfl
@[simp] theorem setFn_identitySeed (s : State) (f : Nat) (x : Fn) : (s.setFn f x).identitySeed = s.identitySeed := rfl
@[simp] theorem setFn_handleDraw (s : State) (f : Nat) (x : Fn) : (s.setFn f x).handleDraw = s.handleDraw := rfl
@[simp] theorem setFn_attestNonce (s : State) (f : Nat) (x : Fn) : (s.setFn f x).attestNonce = s.attestNonce := rfl
@[simp] theorem setFn_ctl2 (s : State) (f : Nat) (x : Fn) : (s.setFn f x).ctl2 = s.ctl2 := rfl
@[simp] theorem setFn_cxl (s : State) (f : Nat) (x : Fn) : (s.setFn f x).cxl = s.cxl := rfl
@[simp] theorem setFn_pos (s : State) (f : Nat) (x : Fn) : (s.setFn f x).pos = s.pos := rfl
@[simp] theorem setFn_cores (s : State) (f : Nat) (x : Fn) : (s.setFn f x).cores = s.cores := rfl
@[simp] theorem setFn_clusters (s : State) (f : Nat) (x : Fn) : (s.setFn f x).clusters = s.clusters := rfl
@[simp] theorem setFn_dies (s : State) (f : Nat) (x : Fn) : (s.setFn f x).dies = s.dies := rfl
@[simp] theorem setFn_hbm (s : State) (f : Nat) (x : Fn) : (s.setFn f x).hbm = s.hbm := rfl
@[simp] theorem setFn_hbmSide (s : State) (f : Nat) (x : Fn) : (s.setFn f x).hbmSide = s.hbmSide := rfl
@[simp] theorem setFn_l2Tags (s : State) (f : Nat) (x : Fn) : (s.setFn f x).l2Tags = s.l2Tags := rfl
@[simp] theorem setFn_l2 (s : State) (f : Nat) (x : Fn) : (s.setFn f x).l2 = s.l2 := rfl
@[simp] theorem setFn_fills (s : State) (f : Nat) (x : Fn) : (s.setFn f x).fills = s.fills := rfl
@[simp] theorem setFn_binds (s : State) (f : Nat) (x : Fn) : (s.setFn f x).binds = s.binds := rfl
@[simp] theorem setFn_unbinds (s : State) (f : Nat) (x : Fn) : (s.setFn f x).unbinds = s.unbinds := rfl
@[simp] theorem setFn_stalled (s : State) (f : Nat) (x : Fn) : (s.setFn f x).stalled = s.stalled := rfl
@[simp] theorem setFn_reports (s : State) (f : Nat) (x : Fn) : (s.setFn f x).reports = s.reports := rfl
@[simp] theorem setFn_opnd (s : State) (f : Nat) (x : Fn) : (s.setFn f x).opnd = s.opnd := rfl
@[simp] theorem setFn_afterWipe (s : State) (f : Nat) (x : Fn) : (s.setFn f x).afterWipe = s.afterWipe := rfl
@[simp] theorem setFn_keys (s : State) (f : Nat) (x : Fn) : (s.setFn f x).keys = s.keys := rfl
@[simp] theorem setFn_parts (s : State) (f : Nat) (x : Fn) : (s.setFn f x).parts = s.parts := rfl
@[simp] theorem setFn_landing (s : State) (f : Nat) (x : Fn) : (s.setFn f x).landing = s.landing := rfl
@[simp] theorem setFn_lcOwner (s : State) (f : Nat) (x : Fn) : (s.setFn f x).lcOwner = s.lcOwner := rfl
@[simp] theorem setFn_mcGroup (s : State) (f : Nat) (x : Fn) : (s.setFn f x).mcGroup = s.mcGroup := rfl
@[simp] theorem setFn_launches (s : State) (f : Nat) (x : Fn) : (s.setFn f x).launches = s.launches := rfl
@[simp] theorem setFn_nextSeq (s : State) (f : Nat) (x : Fn) : (s.setFn f x).nextSeq = s.nextSeq := rfl
@[simp] theorem setFn_routerQ (s : State) (f : Nat) (x : Fn) : (s.setFn f x).routerQ = s.routerQ := rfl
@[simp] theorem setFn_accesses (s : State) (f : Nat) (x : Fn) : (s.setFn f x).accesses = s.accesses := rfl
@[simp] theorem setFn_demands (s : State) (f : Nat) (x : Fn) : (s.setFn f x).demands = s.demands := rfl
@[simp] theorem setFn_peers (s : State) (f : Nat) (x : Fn) : (s.setFn f x).peers = s.peers := rfl
@[simp] theorem setFn_links (s : State) (f : Nat) (x : Fn) : (s.setFn f x).links = s.links := rfl
@[simp] theorem setFn_linkMap (s : State) (f : Nat) (x : Fn) : (s.setFn f x).linkMap = s.linkMap := rfl
@[simp] theorem setFn_noticeSeq (s : State) (f : Nat) (x : Fn) : (s.setFn f x).noticeSeq = s.noticeSeq := rfl
@[simp] theorem setFn_relayCount (s : State) (f : Nat) (x : Fn) : (s.setFn f x).relayCount = s.relayCount := rfl
@[simp] theorem setFn_mcdropCount (s : State) (f : Nat) (x : Fn) : (s.setFn f x).mcdropCount = s.mcdropCount := rfl
@[simp] theorem setFn_podOut (s : State) (f : Nat) (x : Fn) : (s.setFn f x).podOut = s.podOut := rfl
@[simp] theorem setFn_remotes (s : State) (f : Nat) (x : Fn) : (s.setFn f x).remotes = s.remotes := rfl
@[simp] theorem setFn_nextRid (s : State) (f : Nat) (x : Fn) : (s.setFn f x).nextRid = s.nextRid := rfl
@[simp] theorem setFn_rodTx (s : State) (f : Nat) (x : Fn) : (s.setFn f x).rodTx = s.rodTx := rfl
@[simp] theorem setFn_rodRx (s : State) (f : Nat) (x : Fn) : (s.setFn f x).rodRx = s.rodRx := rfl
@[simp] theorem setFn_remoteRx (s : State) (f : Nat) (x : Fn) : (s.setFn f x).remoteRx = s.remoteRx := rfl
@[simp] theorem setFn_congestion (s : State) (f : Nat) (x : Fn) : (s.setFn f x).congestion = s.congestion := rfl
@[simp] theorem setFn_remoteOut (s : State) (f : Nat) (x : Fn) : (s.setFn f x).remoteOut = s.remoteOut := rfl
@[simp] theorem setFn_hostReqs (s : State) (f : Nat) (x : Fn) : (s.setFn f x).hostReqs = s.hostReqs := rfl
@[simp] theorem setFn_hostPosts (s : State) (f : Nat) (x : Fn) : (s.setFn f x).hostPosts = s.hostPosts := rfl
@[simp] theorem setFn_hostOut (s : State) (f : Nat) (x : Fn) : (s.setFn f x).hostOut = s.hostOut := rfl
@[simp] theorem setFn_capHost (s : State) (f : Nat) (x : Fn) : (s.setFn f x).capHost = s.capHost := rfl
@[simp] theorem setFn_capBmc (s : State) (f : Nat) (x : Fn) : (s.setFn f x).capBmc = s.capBmc := rfl
@[simp] theorem setFn_capSince (s : State) (f : Nat) (x : Fn) : (s.setFn f x).capSince = s.capSince := rfl
@[simp] theorem setFn_mhz (s : State) (f : Nat) (x : Fn) : (s.setFn f x).mhz = s.mhz := rfl
@[simp] theorem setFn_watts (s : State) (f : Nat) (x : Fn) : (s.setFn f x).watts = s.watts := rfl
@[simp] theorem setFn_badCap (s : State) (f : Nat) (x : Fn) : (s.setFn f x).badCap = s.badCap := rfl
@[simp] theorem setFn_trip (s : State) (f : Nat) (x : Fn) : (s.setFn f x).trip = s.trip := rfl
@[simp] theorem setFn_tripHeld (s : State) (f : Nat) (x : Fn) : (s.setFn f x).tripHeld = s.tripHeld := rfl
@[simp] theorem setFn_capped (s : State) (f : Nat) (x : Fn) : (s.setFn f x).capped = s.capped := rfl
@[simp] theorem setFn_energy (s : State) (f : Nat) (x : Fn) : (s.setFn f x).energy = s.energy := rfl
@[simp] theorem setFn_tripTemp (s : State) (f : Nat) (x : Fn) : (s.setFn f x).tripTemp = s.tripTemp := rfl
@[simp] theorem setFn_hotTemp (s : State) (f : Nat) (x : Fn) : (s.setFn f x).hotTemp = s.hotTemp := rfl

/-! `setKey` -/

@[simp] theorem setKey_agenda (s : State) (k : Nat) (x : KeySlot) : (s.setKey k x).agenda = s.agenda := rfl
@[simp] theorem setKey_waiting (s : State) (k : Nat) (x : KeySlot) : (s.setKey k x).waiting = s.waiting := rfl
@[simp] theorem setKey_walks (s : State) (k : Nat) (x : KeySlot) : (s.setKey k x).walks = s.walks := rfl
@[simp] theorem setKey_turn (s : State) (k : Nat) (x : KeySlot) : (s.setKey k x).turn = s.turn := rfl
@[simp] theorem setKey_issued (s : State) (k : Nat) (x : KeySlot) : (s.setKey k x).issued = s.issued := rfl
@[simp] theorem setKey_issue (s : State) (k : Nat) (x : KeySlot) : (s.setKey k x).issue = s.issue := rfl
@[simp] theorem setKey_freeCount (s : State) (k : Nat) (x : KeySlot) : (s.setKey k x).freeCount = s.freeCount := rfl
@[simp] theorem setKey_nextId (s : State) (k : Nat) (x : KeySlot) : (s.setKey k x).nextId = s.nextId := rfl
@[simp] theorem setKey_clock (s : State) (k : Nat) (x : KeySlot) : (s.setKey k x).clock = s.clock := rfl
@[simp] theorem setKey_time (s : State) (k : Nat) (x : KeySlot) : (s.setKey k x).time = s.time := rfl
@[simp] theorem setKey_powered (s : State) (k : Nat) (x : KeySlot) : (s.setKey k x).powered = s.powered := rfl
@[simp] theorem setKey_up (s : State) (k : Nat) (x : KeySlot) : (s.setKey k x).up = s.up := rfl
@[simp] theorem setKey_selfTestFailed (s : State) (k : Nat) (x : KeySlot) : (s.setKey k x).selfTestFailed = s.selfTestFailed := rfl
@[simp] theorem setKey_lifeCycle (s : State) (k : Nat) (x : KeySlot) : (s.setKey k x).lifeCycle = s.lifeCycle := rfl
@[simp] theorem setKey_ownerHash (s : State) (k : Nat) (x : KeySlot) : (s.setKey k x).ownerHash = s.ownerHash := rfl
@[simp] theorem setKey_identitySeed (s : State) (k : Nat) (x : KeySlot) : (s.setKey k x).identitySeed = s.identitySeed := rfl
@[simp] theorem setKey_handleDraw (s : State) (k : Nat) (x : KeySlot) : (s.setKey k x).handleDraw = s.handleDraw := rfl
@[simp] theorem setKey_attestNonce (s : State) (k : Nat) (x : KeySlot) : (s.setKey k x).attestNonce = s.attestNonce := rfl
@[simp] theorem setKey_ctl2 (s : State) (k : Nat) (x : KeySlot) : (s.setKey k x).ctl2 = s.ctl2 := rfl
@[simp] theorem setKey_cxl (s : State) (k : Nat) (x : KeySlot) : (s.setKey k x).cxl = s.cxl := rfl
@[simp] theorem setKey_pos (s : State) (k : Nat) (x : KeySlot) : (s.setKey k x).pos = s.pos := rfl
@[simp] theorem setKey_cores (s : State) (k : Nat) (x : KeySlot) : (s.setKey k x).cores = s.cores := rfl
@[simp] theorem setKey_clusters (s : State) (k : Nat) (x : KeySlot) : (s.setKey k x).clusters = s.clusters := rfl
@[simp] theorem setKey_dies (s : State) (k : Nat) (x : KeySlot) : (s.setKey k x).dies = s.dies := rfl
@[simp] theorem setKey_hbm (s : State) (k : Nat) (x : KeySlot) : (s.setKey k x).hbm = s.hbm := rfl
@[simp] theorem setKey_hbmSide (s : State) (k : Nat) (x : KeySlot) : (s.setKey k x).hbmSide = s.hbmSide := rfl
@[simp] theorem setKey_l2Tags (s : State) (k : Nat) (x : KeySlot) : (s.setKey k x).l2Tags = s.l2Tags := rfl
@[simp] theorem setKey_l2 (s : State) (k : Nat) (x : KeySlot) : (s.setKey k x).l2 = s.l2 := rfl
@[simp] theorem setKey_fills (s : State) (k : Nat) (x : KeySlot) : (s.setKey k x).fills = s.fills := rfl
@[simp] theorem setKey_binds (s : State) (k : Nat) (x : KeySlot) : (s.setKey k x).binds = s.binds := rfl
@[simp] theorem setKey_unbinds (s : State) (k : Nat) (x : KeySlot) : (s.setKey k x).unbinds = s.unbinds := rfl
@[simp] theorem setKey_stalled (s : State) (k : Nat) (x : KeySlot) : (s.setKey k x).stalled = s.stalled := rfl
@[simp] theorem setKey_reports (s : State) (k : Nat) (x : KeySlot) : (s.setKey k x).reports = s.reports := rfl
@[simp] theorem setKey_opnd (s : State) (k : Nat) (x : KeySlot) : (s.setKey k x).opnd = s.opnd := rfl
@[simp] theorem setKey_afterWipe (s : State) (k : Nat) (x : KeySlot) : (s.setKey k x).afterWipe = s.afterWipe := rfl
@[simp] theorem setKey_parts (s : State) (k : Nat) (x : KeySlot) : (s.setKey k x).parts = s.parts := rfl
@[simp] theorem setKey_fns (s : State) (k : Nat) (x : KeySlot) : (s.setKey k x).fns = s.fns := rfl
@[simp] theorem setKey_landing (s : State) (k : Nat) (x : KeySlot) : (s.setKey k x).landing = s.landing := rfl
@[simp] theorem setKey_lcOwner (s : State) (k : Nat) (x : KeySlot) : (s.setKey k x).lcOwner = s.lcOwner := rfl
@[simp] theorem setKey_mcGroup (s : State) (k : Nat) (x : KeySlot) : (s.setKey k x).mcGroup = s.mcGroup := rfl
@[simp] theorem setKey_launches (s : State) (k : Nat) (x : KeySlot) : (s.setKey k x).launches = s.launches := rfl
@[simp] theorem setKey_nextSeq (s : State) (k : Nat) (x : KeySlot) : (s.setKey k x).nextSeq = s.nextSeq := rfl
@[simp] theorem setKey_routerQ (s : State) (k : Nat) (x : KeySlot) : (s.setKey k x).routerQ = s.routerQ := rfl
@[simp] theorem setKey_accesses (s : State) (k : Nat) (x : KeySlot) : (s.setKey k x).accesses = s.accesses := rfl
@[simp] theorem setKey_demands (s : State) (k : Nat) (x : KeySlot) : (s.setKey k x).demands = s.demands := rfl
@[simp] theorem setKey_peers (s : State) (k : Nat) (x : KeySlot) : (s.setKey k x).peers = s.peers := rfl
@[simp] theorem setKey_links (s : State) (k : Nat) (x : KeySlot) : (s.setKey k x).links = s.links := rfl
@[simp] theorem setKey_linkMap (s : State) (k : Nat) (x : KeySlot) : (s.setKey k x).linkMap = s.linkMap := rfl
@[simp] theorem setKey_noticeSeq (s : State) (k : Nat) (x : KeySlot) : (s.setKey k x).noticeSeq = s.noticeSeq := rfl
@[simp] theorem setKey_relayCount (s : State) (k : Nat) (x : KeySlot) : (s.setKey k x).relayCount = s.relayCount := rfl
@[simp] theorem setKey_mcdropCount (s : State) (k : Nat) (x : KeySlot) : (s.setKey k x).mcdropCount = s.mcdropCount := rfl
@[simp] theorem setKey_podOut (s : State) (k : Nat) (x : KeySlot) : (s.setKey k x).podOut = s.podOut := rfl
@[simp] theorem setKey_remotes (s : State) (k : Nat) (x : KeySlot) : (s.setKey k x).remotes = s.remotes := rfl
@[simp] theorem setKey_nextRid (s : State) (k : Nat) (x : KeySlot) : (s.setKey k x).nextRid = s.nextRid := rfl
@[simp] theorem setKey_rodTx (s : State) (k : Nat) (x : KeySlot) : (s.setKey k x).rodTx = s.rodTx := rfl
@[simp] theorem setKey_rodRx (s : State) (k : Nat) (x : KeySlot) : (s.setKey k x).rodRx = s.rodRx := rfl
@[simp] theorem setKey_remoteRx (s : State) (k : Nat) (x : KeySlot) : (s.setKey k x).remoteRx = s.remoteRx := rfl
@[simp] theorem setKey_congestion (s : State) (k : Nat) (x : KeySlot) : (s.setKey k x).congestion = s.congestion := rfl
@[simp] theorem setKey_remoteOut (s : State) (k : Nat) (x : KeySlot) : (s.setKey k x).remoteOut = s.remoteOut := rfl
@[simp] theorem setKey_hostReqs (s : State) (k : Nat) (x : KeySlot) : (s.setKey k x).hostReqs = s.hostReqs := rfl
@[simp] theorem setKey_hostPosts (s : State) (k : Nat) (x : KeySlot) : (s.setKey k x).hostPosts = s.hostPosts := rfl
@[simp] theorem setKey_hostOut (s : State) (k : Nat) (x : KeySlot) : (s.setKey k x).hostOut = s.hostOut := rfl
@[simp] theorem setKey_capHost (s : State) (k : Nat) (x : KeySlot) : (s.setKey k x).capHost = s.capHost := rfl
@[simp] theorem setKey_capBmc (s : State) (k : Nat) (x : KeySlot) : (s.setKey k x).capBmc = s.capBmc := rfl
@[simp] theorem setKey_capSince (s : State) (k : Nat) (x : KeySlot) : (s.setKey k x).capSince = s.capSince := rfl
@[simp] theorem setKey_mhz (s : State) (k : Nat) (x : KeySlot) : (s.setKey k x).mhz = s.mhz := rfl
@[simp] theorem setKey_watts (s : State) (k : Nat) (x : KeySlot) : (s.setKey k x).watts = s.watts := rfl
@[simp] theorem setKey_badCap (s : State) (k : Nat) (x : KeySlot) : (s.setKey k x).badCap = s.badCap := rfl
@[simp] theorem setKey_trip (s : State) (k : Nat) (x : KeySlot) : (s.setKey k x).trip = s.trip := rfl
@[simp] theorem setKey_tripHeld (s : State) (k : Nat) (x : KeySlot) : (s.setKey k x).tripHeld = s.tripHeld := rfl
@[simp] theorem setKey_capped (s : State) (k : Nat) (x : KeySlot) : (s.setKey k x).capped = s.capped := rfl
@[simp] theorem setKey_energy (s : State) (k : Nat) (x : KeySlot) : (s.setKey k x).energy = s.energy := rfl
@[simp] theorem setKey_tripTemp (s : State) (k : Nat) (x : KeySlot) : (s.setKey k x).tripTemp = s.tripTemp := rfl
@[simp] theorem setKey_hotTemp (s : State) (k : Nat) (x : KeySlot) : (s.setKey k x).hotTemp = s.hotTemp := rfl

/-! `setPeer` -/

@[simp] theorem setPeer_agenda (s : State) (p : Nat) (x : Peer) : (s.setPeer p x).agenda = s.agenda := rfl
@[simp] theorem setPeer_waiting (s : State) (p : Nat) (x : Peer) : (s.setPeer p x).waiting = s.waiting := rfl
@[simp] theorem setPeer_walks (s : State) (p : Nat) (x : Peer) : (s.setPeer p x).walks = s.walks := rfl
@[simp] theorem setPeer_turn (s : State) (p : Nat) (x : Peer) : (s.setPeer p x).turn = s.turn := rfl
@[simp] theorem setPeer_issued (s : State) (p : Nat) (x : Peer) : (s.setPeer p x).issued = s.issued := rfl
@[simp] theorem setPeer_issue (s : State) (p : Nat) (x : Peer) : (s.setPeer p x).issue = s.issue := rfl
@[simp] theorem setPeer_freeCount (s : State) (p : Nat) (x : Peer) : (s.setPeer p x).freeCount = s.freeCount := rfl
@[simp] theorem setPeer_nextId (s : State) (p : Nat) (x : Peer) : (s.setPeer p x).nextId = s.nextId := rfl
@[simp] theorem setPeer_clock (s : State) (p : Nat) (x : Peer) : (s.setPeer p x).clock = s.clock := rfl
@[simp] theorem setPeer_time (s : State) (p : Nat) (x : Peer) : (s.setPeer p x).time = s.time := rfl
@[simp] theorem setPeer_powered (s : State) (p : Nat) (x : Peer) : (s.setPeer p x).powered = s.powered := rfl
@[simp] theorem setPeer_up (s : State) (p : Nat) (x : Peer) : (s.setPeer p x).up = s.up := rfl
@[simp] theorem setPeer_selfTestFailed (s : State) (p : Nat) (x : Peer) : (s.setPeer p x).selfTestFailed = s.selfTestFailed := rfl
@[simp] theorem setPeer_lifeCycle (s : State) (p : Nat) (x : Peer) : (s.setPeer p x).lifeCycle = s.lifeCycle := rfl
@[simp] theorem setPeer_ownerHash (s : State) (p : Nat) (x : Peer) : (s.setPeer p x).ownerHash = s.ownerHash := rfl
@[simp] theorem setPeer_identitySeed (s : State) (p : Nat) (x : Peer) : (s.setPeer p x).identitySeed = s.identitySeed := rfl
@[simp] theorem setPeer_handleDraw (s : State) (p : Nat) (x : Peer) : (s.setPeer p x).handleDraw = s.handleDraw := rfl
@[simp] theorem setPeer_attestNonce (s : State) (p : Nat) (x : Peer) : (s.setPeer p x).attestNonce = s.attestNonce := rfl
@[simp] theorem setPeer_ctl2 (s : State) (p : Nat) (x : Peer) : (s.setPeer p x).ctl2 = s.ctl2 := rfl
@[simp] theorem setPeer_cxl (s : State) (p : Nat) (x : Peer) : (s.setPeer p x).cxl = s.cxl := rfl
@[simp] theorem setPeer_pos (s : State) (p : Nat) (x : Peer) : (s.setPeer p x).pos = s.pos := rfl
@[simp] theorem setPeer_cores (s : State) (p : Nat) (x : Peer) : (s.setPeer p x).cores = s.cores := rfl
@[simp] theorem setPeer_clusters (s : State) (p : Nat) (x : Peer) : (s.setPeer p x).clusters = s.clusters := rfl
@[simp] theorem setPeer_dies (s : State) (p : Nat) (x : Peer) : (s.setPeer p x).dies = s.dies := rfl
@[simp] theorem setPeer_hbm (s : State) (p : Nat) (x : Peer) : (s.setPeer p x).hbm = s.hbm := rfl
@[simp] theorem setPeer_hbmSide (s : State) (p : Nat) (x : Peer) : (s.setPeer p x).hbmSide = s.hbmSide := rfl
@[simp] theorem setPeer_l2Tags (s : State) (p : Nat) (x : Peer) : (s.setPeer p x).l2Tags = s.l2Tags := rfl
@[simp] theorem setPeer_l2 (s : State) (p : Nat) (x : Peer) : (s.setPeer p x).l2 = s.l2 := rfl
@[simp] theorem setPeer_fills (s : State) (p : Nat) (x : Peer) : (s.setPeer p x).fills = s.fills := rfl
@[simp] theorem setPeer_binds (s : State) (p : Nat) (x : Peer) : (s.setPeer p x).binds = s.binds := rfl
@[simp] theorem setPeer_unbinds (s : State) (p : Nat) (x : Peer) : (s.setPeer p x).unbinds = s.unbinds := rfl
@[simp] theorem setPeer_stalled (s : State) (p : Nat) (x : Peer) : (s.setPeer p x).stalled = s.stalled := rfl
@[simp] theorem setPeer_reports (s : State) (p : Nat) (x : Peer) : (s.setPeer p x).reports = s.reports := rfl
@[simp] theorem setPeer_opnd (s : State) (p : Nat) (x : Peer) : (s.setPeer p x).opnd = s.opnd := rfl
@[simp] theorem setPeer_afterWipe (s : State) (p : Nat) (x : Peer) : (s.setPeer p x).afterWipe = s.afterWipe := rfl
@[simp] theorem setPeer_keys (s : State) (p : Nat) (x : Peer) : (s.setPeer p x).keys = s.keys := rfl
@[simp] theorem setPeer_parts (s : State) (p : Nat) (x : Peer) : (s.setPeer p x).parts = s.parts := rfl
@[simp] theorem setPeer_fns (s : State) (p : Nat) (x : Peer) : (s.setPeer p x).fns = s.fns := rfl
@[simp] theorem setPeer_landing (s : State) (p : Nat) (x : Peer) : (s.setPeer p x).landing = s.landing := rfl
@[simp] theorem setPeer_lcOwner (s : State) (p : Nat) (x : Peer) : (s.setPeer p x).lcOwner = s.lcOwner := rfl
@[simp] theorem setPeer_mcGroup (s : State) (p : Nat) (x : Peer) : (s.setPeer p x).mcGroup = s.mcGroup := rfl
@[simp] theorem setPeer_launches (s : State) (p : Nat) (x : Peer) : (s.setPeer p x).launches = s.launches := rfl
@[simp] theorem setPeer_nextSeq (s : State) (p : Nat) (x : Peer) : (s.setPeer p x).nextSeq = s.nextSeq := rfl
@[simp] theorem setPeer_routerQ (s : State) (p : Nat) (x : Peer) : (s.setPeer p x).routerQ = s.routerQ := rfl
@[simp] theorem setPeer_accesses (s : State) (p : Nat) (x : Peer) : (s.setPeer p x).accesses = s.accesses := rfl
@[simp] theorem setPeer_demands (s : State) (p : Nat) (x : Peer) : (s.setPeer p x).demands = s.demands := rfl
@[simp] theorem setPeer_links (s : State) (p : Nat) (x : Peer) : (s.setPeer p x).links = s.links := rfl
@[simp] theorem setPeer_linkMap (s : State) (p : Nat) (x : Peer) : (s.setPeer p x).linkMap = s.linkMap := rfl
@[simp] theorem setPeer_noticeSeq (s : State) (p : Nat) (x : Peer) : (s.setPeer p x).noticeSeq = s.noticeSeq := rfl
@[simp] theorem setPeer_relayCount (s : State) (p : Nat) (x : Peer) : (s.setPeer p x).relayCount = s.relayCount := rfl
@[simp] theorem setPeer_mcdropCount (s : State) (p : Nat) (x : Peer) : (s.setPeer p x).mcdropCount = s.mcdropCount := rfl
@[simp] theorem setPeer_podOut (s : State) (p : Nat) (x : Peer) : (s.setPeer p x).podOut = s.podOut := rfl
@[simp] theorem setPeer_remotes (s : State) (p : Nat) (x : Peer) : (s.setPeer p x).remotes = s.remotes := rfl
@[simp] theorem setPeer_nextRid (s : State) (p : Nat) (x : Peer) : (s.setPeer p x).nextRid = s.nextRid := rfl
@[simp] theorem setPeer_rodTx (s : State) (p : Nat) (x : Peer) : (s.setPeer p x).rodTx = s.rodTx := rfl
@[simp] theorem setPeer_rodRx (s : State) (p : Nat) (x : Peer) : (s.setPeer p x).rodRx = s.rodRx := rfl
@[simp] theorem setPeer_remoteRx (s : State) (p : Nat) (x : Peer) : (s.setPeer p x).remoteRx = s.remoteRx := rfl
@[simp] theorem setPeer_congestion (s : State) (p : Nat) (x : Peer) : (s.setPeer p x).congestion = s.congestion := rfl
@[simp] theorem setPeer_remoteOut (s : State) (p : Nat) (x : Peer) : (s.setPeer p x).remoteOut = s.remoteOut := rfl
@[simp] theorem setPeer_hostReqs (s : State) (p : Nat) (x : Peer) : (s.setPeer p x).hostReqs = s.hostReqs := rfl
@[simp] theorem setPeer_hostPosts (s : State) (p : Nat) (x : Peer) : (s.setPeer p x).hostPosts = s.hostPosts := rfl
@[simp] theorem setPeer_hostOut (s : State) (p : Nat) (x : Peer) : (s.setPeer p x).hostOut = s.hostOut := rfl
@[simp] theorem setPeer_capHost (s : State) (p : Nat) (x : Peer) : (s.setPeer p x).capHost = s.capHost := rfl
@[simp] theorem setPeer_capBmc (s : State) (p : Nat) (x : Peer) : (s.setPeer p x).capBmc = s.capBmc := rfl
@[simp] theorem setPeer_capSince (s : State) (p : Nat) (x : Peer) : (s.setPeer p x).capSince = s.capSince := rfl
@[simp] theorem setPeer_mhz (s : State) (p : Nat) (x : Peer) : (s.setPeer p x).mhz = s.mhz := rfl
@[simp] theorem setPeer_watts (s : State) (p : Nat) (x : Peer) : (s.setPeer p x).watts = s.watts := rfl
@[simp] theorem setPeer_badCap (s : State) (p : Nat) (x : Peer) : (s.setPeer p x).badCap = s.badCap := rfl
@[simp] theorem setPeer_trip (s : State) (p : Nat) (x : Peer) : (s.setPeer p x).trip = s.trip := rfl
@[simp] theorem setPeer_tripHeld (s : State) (p : Nat) (x : Peer) : (s.setPeer p x).tripHeld = s.tripHeld := rfl
@[simp] theorem setPeer_capped (s : State) (p : Nat) (x : Peer) : (s.setPeer p x).capped = s.capped := rfl
@[simp] theorem setPeer_energy (s : State) (p : Nat) (x : Peer) : (s.setPeer p x).energy = s.energy := rfl
@[simp] theorem setPeer_tripTemp (s : State) (p : Nat) (x : Peer) : (s.setPeer p x).tripTemp = s.tripTemp := rfl
@[simp] theorem setPeer_hotTemp (s : State) (p : Nat) (x : Peer) : (s.setPeer p x).hotTemp = s.hotTemp := rfl

/-! `setLink` -/

@[simp] theorem setLink_agenda (s : State) (k : Nat) (x : Link) : (s.setLink k x).agenda = s.agenda := rfl
@[simp] theorem setLink_waiting (s : State) (k : Nat) (x : Link) : (s.setLink k x).waiting = s.waiting := rfl
@[simp] theorem setLink_walks (s : State) (k : Nat) (x : Link) : (s.setLink k x).walks = s.walks := rfl
@[simp] theorem setLink_turn (s : State) (k : Nat) (x : Link) : (s.setLink k x).turn = s.turn := rfl
@[simp] theorem setLink_issued (s : State) (k : Nat) (x : Link) : (s.setLink k x).issued = s.issued := rfl
@[simp] theorem setLink_issue (s : State) (k : Nat) (x : Link) : (s.setLink k x).issue = s.issue := rfl
@[simp] theorem setLink_freeCount (s : State) (k : Nat) (x : Link) : (s.setLink k x).freeCount = s.freeCount := rfl
@[simp] theorem setLink_nextId (s : State) (k : Nat) (x : Link) : (s.setLink k x).nextId = s.nextId := rfl
@[simp] theorem setLink_clock (s : State) (k : Nat) (x : Link) : (s.setLink k x).clock = s.clock := rfl
@[simp] theorem setLink_time (s : State) (k : Nat) (x : Link) : (s.setLink k x).time = s.time := rfl
@[simp] theorem setLink_powered (s : State) (k : Nat) (x : Link) : (s.setLink k x).powered = s.powered := rfl
@[simp] theorem setLink_up (s : State) (k : Nat) (x : Link) : (s.setLink k x).up = s.up := rfl
@[simp] theorem setLink_selfTestFailed (s : State) (k : Nat) (x : Link) : (s.setLink k x).selfTestFailed = s.selfTestFailed := rfl
@[simp] theorem setLink_lifeCycle (s : State) (k : Nat) (x : Link) : (s.setLink k x).lifeCycle = s.lifeCycle := rfl
@[simp] theorem setLink_ownerHash (s : State) (k : Nat) (x : Link) : (s.setLink k x).ownerHash = s.ownerHash := rfl
@[simp] theorem setLink_identitySeed (s : State) (k : Nat) (x : Link) : (s.setLink k x).identitySeed = s.identitySeed := rfl
@[simp] theorem setLink_handleDraw (s : State) (k : Nat) (x : Link) : (s.setLink k x).handleDraw = s.handleDraw := rfl
@[simp] theorem setLink_attestNonce (s : State) (k : Nat) (x : Link) : (s.setLink k x).attestNonce = s.attestNonce := rfl
@[simp] theorem setLink_ctl2 (s : State) (k : Nat) (x : Link) : (s.setLink k x).ctl2 = s.ctl2 := rfl
@[simp] theorem setLink_cxl (s : State) (k : Nat) (x : Link) : (s.setLink k x).cxl = s.cxl := rfl
@[simp] theorem setLink_pos (s : State) (k : Nat) (x : Link) : (s.setLink k x).pos = s.pos := rfl
@[simp] theorem setLink_cores (s : State) (k : Nat) (x : Link) : (s.setLink k x).cores = s.cores := rfl
@[simp] theorem setLink_clusters (s : State) (k : Nat) (x : Link) : (s.setLink k x).clusters = s.clusters := rfl
@[simp] theorem setLink_dies (s : State) (k : Nat) (x : Link) : (s.setLink k x).dies = s.dies := rfl
@[simp] theorem setLink_hbm (s : State) (k : Nat) (x : Link) : (s.setLink k x).hbm = s.hbm := rfl
@[simp] theorem setLink_hbmSide (s : State) (k : Nat) (x : Link) : (s.setLink k x).hbmSide = s.hbmSide := rfl
@[simp] theorem setLink_l2Tags (s : State) (k : Nat) (x : Link) : (s.setLink k x).l2Tags = s.l2Tags := rfl
@[simp] theorem setLink_l2 (s : State) (k : Nat) (x : Link) : (s.setLink k x).l2 = s.l2 := rfl
@[simp] theorem setLink_fills (s : State) (k : Nat) (x : Link) : (s.setLink k x).fills = s.fills := rfl
@[simp] theorem setLink_binds (s : State) (k : Nat) (x : Link) : (s.setLink k x).binds = s.binds := rfl
@[simp] theorem setLink_unbinds (s : State) (k : Nat) (x : Link) : (s.setLink k x).unbinds = s.unbinds := rfl
@[simp] theorem setLink_stalled (s : State) (k : Nat) (x : Link) : (s.setLink k x).stalled = s.stalled := rfl
@[simp] theorem setLink_reports (s : State) (k : Nat) (x : Link) : (s.setLink k x).reports = s.reports := rfl
@[simp] theorem setLink_opnd (s : State) (k : Nat) (x : Link) : (s.setLink k x).opnd = s.opnd := rfl
@[simp] theorem setLink_afterWipe (s : State) (k : Nat) (x : Link) : (s.setLink k x).afterWipe = s.afterWipe := rfl
@[simp] theorem setLink_keys (s : State) (k : Nat) (x : Link) : (s.setLink k x).keys = s.keys := rfl
@[simp] theorem setLink_parts (s : State) (k : Nat) (x : Link) : (s.setLink k x).parts = s.parts := rfl
@[simp] theorem setLink_fns (s : State) (k : Nat) (x : Link) : (s.setLink k x).fns = s.fns := rfl
@[simp] theorem setLink_landing (s : State) (k : Nat) (x : Link) : (s.setLink k x).landing = s.landing := rfl
@[simp] theorem setLink_lcOwner (s : State) (k : Nat) (x : Link) : (s.setLink k x).lcOwner = s.lcOwner := rfl
@[simp] theorem setLink_mcGroup (s : State) (k : Nat) (x : Link) : (s.setLink k x).mcGroup = s.mcGroup := rfl
@[simp] theorem setLink_launches (s : State) (k : Nat) (x : Link) : (s.setLink k x).launches = s.launches := rfl
@[simp] theorem setLink_nextSeq (s : State) (k : Nat) (x : Link) : (s.setLink k x).nextSeq = s.nextSeq := rfl
@[simp] theorem setLink_routerQ (s : State) (k : Nat) (x : Link) : (s.setLink k x).routerQ = s.routerQ := rfl
@[simp] theorem setLink_accesses (s : State) (k : Nat) (x : Link) : (s.setLink k x).accesses = s.accesses := rfl
@[simp] theorem setLink_demands (s : State) (k : Nat) (x : Link) : (s.setLink k x).demands = s.demands := rfl
@[simp] theorem setLink_peers (s : State) (k : Nat) (x : Link) : (s.setLink k x).peers = s.peers := rfl
@[simp] theorem setLink_linkMap (s : State) (k : Nat) (x : Link) : (s.setLink k x).linkMap = s.linkMap := rfl
@[simp] theorem setLink_noticeSeq (s : State) (k : Nat) (x : Link) : (s.setLink k x).noticeSeq = s.noticeSeq := rfl
@[simp] theorem setLink_relayCount (s : State) (k : Nat) (x : Link) : (s.setLink k x).relayCount = s.relayCount := rfl
@[simp] theorem setLink_mcdropCount (s : State) (k : Nat) (x : Link) : (s.setLink k x).mcdropCount = s.mcdropCount := rfl
@[simp] theorem setLink_podOut (s : State) (k : Nat) (x : Link) : (s.setLink k x).podOut = s.podOut := rfl
@[simp] theorem setLink_remotes (s : State) (k : Nat) (x : Link) : (s.setLink k x).remotes = s.remotes := rfl
@[simp] theorem setLink_nextRid (s : State) (k : Nat) (x : Link) : (s.setLink k x).nextRid = s.nextRid := rfl
@[simp] theorem setLink_rodTx (s : State) (k : Nat) (x : Link) : (s.setLink k x).rodTx = s.rodTx := rfl
@[simp] theorem setLink_rodRx (s : State) (k : Nat) (x : Link) : (s.setLink k x).rodRx = s.rodRx := rfl
@[simp] theorem setLink_remoteRx (s : State) (k : Nat) (x : Link) : (s.setLink k x).remoteRx = s.remoteRx := rfl
@[simp] theorem setLink_congestion (s : State) (k : Nat) (x : Link) : (s.setLink k x).congestion = s.congestion := rfl
@[simp] theorem setLink_remoteOut (s : State) (k : Nat) (x : Link) : (s.setLink k x).remoteOut = s.remoteOut := rfl
@[simp] theorem setLink_hostReqs (s : State) (k : Nat) (x : Link) : (s.setLink k x).hostReqs = s.hostReqs := rfl
@[simp] theorem setLink_hostPosts (s : State) (k : Nat) (x : Link) : (s.setLink k x).hostPosts = s.hostPosts := rfl
@[simp] theorem setLink_hostOut (s : State) (k : Nat) (x : Link) : (s.setLink k x).hostOut = s.hostOut := rfl
@[simp] theorem setLink_capHost (s : State) (k : Nat) (x : Link) : (s.setLink k x).capHost = s.capHost := rfl
@[simp] theorem setLink_capBmc (s : State) (k : Nat) (x : Link) : (s.setLink k x).capBmc = s.capBmc := rfl
@[simp] theorem setLink_capSince (s : State) (k : Nat) (x : Link) : (s.setLink k x).capSince = s.capSince := rfl
@[simp] theorem setLink_mhz (s : State) (k : Nat) (x : Link) : (s.setLink k x).mhz = s.mhz := rfl
@[simp] theorem setLink_watts (s : State) (k : Nat) (x : Link) : (s.setLink k x).watts = s.watts := rfl
@[simp] theorem setLink_badCap (s : State) (k : Nat) (x : Link) : (s.setLink k x).badCap = s.badCap := rfl
@[simp] theorem setLink_trip (s : State) (k : Nat) (x : Link) : (s.setLink k x).trip = s.trip := rfl
@[simp] theorem setLink_tripHeld (s : State) (k : Nat) (x : Link) : (s.setLink k x).tripHeld = s.tripHeld := rfl
@[simp] theorem setLink_capped (s : State) (k : Nat) (x : Link) : (s.setLink k x).capped = s.capped := rfl
@[simp] theorem setLink_energy (s : State) (k : Nat) (x : Link) : (s.setLink k x).energy = s.energy := rfl
@[simp] theorem setLink_tripTemp (s : State) (k : Nat) (x : Link) : (s.setLink k x).tripTemp = s.tripTemp := rfl
@[simp] theorem setLink_hotTemp (s : State) (k : Nat) (x : Link) : (s.setLink k x).hotTemp = s.hotTemp := rfl

/-! `setThread` -/

@[simp] theorem setThread_agenda (s : State) (c k : Nat) (t : Thread) : (s.setThread c k t).agenda = s.agenda := rfl
@[simp] theorem setThread_waiting (s : State) (c k : Nat) (t : Thread) : (s.setThread c k t).waiting = s.waiting := rfl
@[simp] theorem setThread_walks (s : State) (c k : Nat) (t : Thread) : (s.setThread c k t).walks = s.walks := rfl
@[simp] theorem setThread_turn (s : State) (c k : Nat) (t : Thread) : (s.setThread c k t).turn = s.turn := rfl
@[simp] theorem setThread_issued (s : State) (c k : Nat) (t : Thread) : (s.setThread c k t).issued = s.issued := rfl
@[simp] theorem setThread_issue (s : State) (c k : Nat) (t : Thread) : (s.setThread c k t).issue = s.issue := rfl
@[simp] theorem setThread_freeCount (s : State) (c k : Nat) (t : Thread) : (s.setThread c k t).freeCount = s.freeCount := rfl
@[simp] theorem setThread_nextId (s : State) (c k : Nat) (t : Thread) : (s.setThread c k t).nextId = s.nextId := rfl
@[simp] theorem setThread_clock (s : State) (c k : Nat) (t : Thread) : (s.setThread c k t).clock = s.clock := rfl
@[simp] theorem setThread_time (s : State) (c k : Nat) (t : Thread) : (s.setThread c k t).time = s.time := rfl
@[simp] theorem setThread_powered (s : State) (c k : Nat) (t : Thread) : (s.setThread c k t).powered = s.powered := rfl
@[simp] theorem setThread_up (s : State) (c k : Nat) (t : Thread) : (s.setThread c k t).up = s.up := rfl
@[simp] theorem setThread_selfTestFailed (s : State) (c k : Nat) (t : Thread) : (s.setThread c k t).selfTestFailed = s.selfTestFailed := rfl
@[simp] theorem setThread_lifeCycle (s : State) (c k : Nat) (t : Thread) : (s.setThread c k t).lifeCycle = s.lifeCycle := rfl
@[simp] theorem setThread_ownerHash (s : State) (c k : Nat) (t : Thread) : (s.setThread c k t).ownerHash = s.ownerHash := rfl
@[simp] theorem setThread_identitySeed (s : State) (c k : Nat) (t : Thread) : (s.setThread c k t).identitySeed = s.identitySeed := rfl
@[simp] theorem setThread_handleDraw (s : State) (c k : Nat) (t : Thread) : (s.setThread c k t).handleDraw = s.handleDraw := rfl
@[simp] theorem setThread_attestNonce (s : State) (c k : Nat) (t : Thread) : (s.setThread c k t).attestNonce = s.attestNonce := rfl
@[simp] theorem setThread_ctl2 (s : State) (c k : Nat) (t : Thread) : (s.setThread c k t).ctl2 = s.ctl2 := rfl
@[simp] theorem setThread_cxl (s : State) (c k : Nat) (t : Thread) : (s.setThread c k t).cxl = s.cxl := rfl
@[simp] theorem setThread_pos (s : State) (c k : Nat) (t : Thread) : (s.setThread c k t).pos = s.pos := rfl
@[simp] theorem setThread_clusters (s : State) (c k : Nat) (t : Thread) : (s.setThread c k t).clusters = s.clusters := rfl
@[simp] theorem setThread_dies (s : State) (c k : Nat) (t : Thread) : (s.setThread c k t).dies = s.dies := rfl
@[simp] theorem setThread_hbm (s : State) (c k : Nat) (t : Thread) : (s.setThread c k t).hbm = s.hbm := rfl
@[simp] theorem setThread_hbmSide (s : State) (c k : Nat) (t : Thread) : (s.setThread c k t).hbmSide = s.hbmSide := rfl
@[simp] theorem setThread_l2Tags (s : State) (c k : Nat) (t : Thread) : (s.setThread c k t).l2Tags = s.l2Tags := rfl
@[simp] theorem setThread_l2 (s : State) (c k : Nat) (t : Thread) : (s.setThread c k t).l2 = s.l2 := rfl
@[simp] theorem setThread_fills (s : State) (c k : Nat) (t : Thread) : (s.setThread c k t).fills = s.fills := rfl
@[simp] theorem setThread_binds (s : State) (c k : Nat) (t : Thread) : (s.setThread c k t).binds = s.binds := rfl
@[simp] theorem setThread_unbinds (s : State) (c k : Nat) (t : Thread) : (s.setThread c k t).unbinds = s.unbinds := rfl
@[simp] theorem setThread_stalled (s : State) (c k : Nat) (t : Thread) : (s.setThread c k t).stalled = s.stalled := rfl
@[simp] theorem setThread_reports (s : State) (c k : Nat) (t : Thread) : (s.setThread c k t).reports = s.reports := rfl
@[simp] theorem setThread_opnd (s : State) (c k : Nat) (t : Thread) : (s.setThread c k t).opnd = s.opnd := rfl
@[simp] theorem setThread_afterWipe (s : State) (c k : Nat) (t : Thread) : (s.setThread c k t).afterWipe = s.afterWipe := rfl
@[simp] theorem setThread_keys (s : State) (c k : Nat) (t : Thread) : (s.setThread c k t).keys = s.keys := rfl
@[simp] theorem setThread_parts (s : State) (c k : Nat) (t : Thread) : (s.setThread c k t).parts = s.parts := rfl
@[simp] theorem setThread_fns (s : State) (c k : Nat) (t : Thread) : (s.setThread c k t).fns = s.fns := rfl
@[simp] theorem setThread_landing (s : State) (c k : Nat) (t : Thread) : (s.setThread c k t).landing = s.landing := rfl
@[simp] theorem setThread_lcOwner (s : State) (c k : Nat) (t : Thread) : (s.setThread c k t).lcOwner = s.lcOwner := rfl
@[simp] theorem setThread_mcGroup (s : State) (c k : Nat) (t : Thread) : (s.setThread c k t).mcGroup = s.mcGroup := rfl
@[simp] theorem setThread_launches (s : State) (c k : Nat) (t : Thread) : (s.setThread c k t).launches = s.launches := rfl
@[simp] theorem setThread_nextSeq (s : State) (c k : Nat) (t : Thread) : (s.setThread c k t).nextSeq = s.nextSeq := rfl
@[simp] theorem setThread_routerQ (s : State) (c k : Nat) (t : Thread) : (s.setThread c k t).routerQ = s.routerQ := rfl
@[simp] theorem setThread_accesses (s : State) (c k : Nat) (t : Thread) : (s.setThread c k t).accesses = s.accesses := rfl
@[simp] theorem setThread_demands (s : State) (c k : Nat) (t : Thread) : (s.setThread c k t).demands = s.demands := rfl
@[simp] theorem setThread_peers (s : State) (c k : Nat) (t : Thread) : (s.setThread c k t).peers = s.peers := rfl
@[simp] theorem setThread_links (s : State) (c k : Nat) (t : Thread) : (s.setThread c k t).links = s.links := rfl
@[simp] theorem setThread_linkMap (s : State) (c k : Nat) (t : Thread) : (s.setThread c k t).linkMap = s.linkMap := rfl
@[simp] theorem setThread_noticeSeq (s : State) (c k : Nat) (t : Thread) : (s.setThread c k t).noticeSeq = s.noticeSeq := rfl
@[simp] theorem setThread_relayCount (s : State) (c k : Nat) (t : Thread) : (s.setThread c k t).relayCount = s.relayCount := rfl
@[simp] theorem setThread_mcdropCount (s : State) (c k : Nat) (t : Thread) : (s.setThread c k t).mcdropCount = s.mcdropCount := rfl
@[simp] theorem setThread_podOut (s : State) (c k : Nat) (t : Thread) : (s.setThread c k t).podOut = s.podOut := rfl
@[simp] theorem setThread_remotes (s : State) (c k : Nat) (t : Thread) : (s.setThread c k t).remotes = s.remotes := rfl
@[simp] theorem setThread_nextRid (s : State) (c k : Nat) (t : Thread) : (s.setThread c k t).nextRid = s.nextRid := rfl
@[simp] theorem setThread_rodTx (s : State) (c k : Nat) (t : Thread) : (s.setThread c k t).rodTx = s.rodTx := rfl
@[simp] theorem setThread_rodRx (s : State) (c k : Nat) (t : Thread) : (s.setThread c k t).rodRx = s.rodRx := rfl
@[simp] theorem setThread_remoteRx (s : State) (c k : Nat) (t : Thread) : (s.setThread c k t).remoteRx = s.remoteRx := rfl
@[simp] theorem setThread_congestion (s : State) (c k : Nat) (t : Thread) : (s.setThread c k t).congestion = s.congestion := rfl
@[simp] theorem setThread_remoteOut (s : State) (c k : Nat) (t : Thread) : (s.setThread c k t).remoteOut = s.remoteOut := rfl
@[simp] theorem setThread_hostReqs (s : State) (c k : Nat) (t : Thread) : (s.setThread c k t).hostReqs = s.hostReqs := rfl
@[simp] theorem setThread_hostPosts (s : State) (c k : Nat) (t : Thread) : (s.setThread c k t).hostPosts = s.hostPosts := rfl
@[simp] theorem setThread_hostOut (s : State) (c k : Nat) (t : Thread) : (s.setThread c k t).hostOut = s.hostOut := rfl
@[simp] theorem setThread_capHost (s : State) (c k : Nat) (t : Thread) : (s.setThread c k t).capHost = s.capHost := rfl
@[simp] theorem setThread_capBmc (s : State) (c k : Nat) (t : Thread) : (s.setThread c k t).capBmc = s.capBmc := rfl
@[simp] theorem setThread_capSince (s : State) (c k : Nat) (t : Thread) : (s.setThread c k t).capSince = s.capSince := rfl
@[simp] theorem setThread_mhz (s : State) (c k : Nat) (t : Thread) : (s.setThread c k t).mhz = s.mhz := rfl
@[simp] theorem setThread_watts (s : State) (c k : Nat) (t : Thread) : (s.setThread c k t).watts = s.watts := rfl
@[simp] theorem setThread_badCap (s : State) (c k : Nat) (t : Thread) : (s.setThread c k t).badCap = s.badCap := rfl
@[simp] theorem setThread_trip (s : State) (c k : Nat) (t : Thread) : (s.setThread c k t).trip = s.trip := rfl
@[simp] theorem setThread_tripHeld (s : State) (c k : Nat) (t : Thread) : (s.setThread c k t).tripHeld = s.tripHeld := rfl
@[simp] theorem setThread_capped (s : State) (c k : Nat) (t : Thread) : (s.setThread c k t).capped = s.capped := rfl
@[simp] theorem setThread_energy (s : State) (c k : Nat) (t : Thread) : (s.setThread c k t).energy = s.energy := rfl
@[simp] theorem setThread_tripTemp (s : State) (c k : Nat) (t : Thread) : (s.setThread c k t).tripTemp = s.tripTemp := rfl
@[simp] theorem setThread_hotTemp (s : State) (c k : Nat) (t : Thread) : (s.setThread c k t).hotTemp = s.hotTemp := rfl

/-! `delThread` -/

@[simp] theorem delThread_agenda (s : State) (c k : Nat) : (s.delThread c k).agenda = s.agenda := rfl
@[simp] theorem delThread_waiting (s : State) (c k : Nat) : (s.delThread c k).waiting = s.waiting := rfl
@[simp] theorem delThread_walks (s : State) (c k : Nat) : (s.delThread c k).walks = s.walks := rfl
@[simp] theorem delThread_turn (s : State) (c k : Nat) : (s.delThread c k).turn = s.turn := rfl
@[simp] theorem delThread_issued (s : State) (c k : Nat) : (s.delThread c k).issued = s.issued := rfl
@[simp] theorem delThread_issue (s : State) (c k : Nat) : (s.delThread c k).issue = s.issue := rfl
@[simp] theorem delThread_freeCount (s : State) (c k : Nat) : (s.delThread c k).freeCount = s.freeCount := rfl
@[simp] theorem delThread_nextId (s : State) (c k : Nat) : (s.delThread c k).nextId = s.nextId := rfl
@[simp] theorem delThread_clock (s : State) (c k : Nat) : (s.delThread c k).clock = s.clock := rfl
@[simp] theorem delThread_time (s : State) (c k : Nat) : (s.delThread c k).time = s.time := rfl
@[simp] theorem delThread_powered (s : State) (c k : Nat) : (s.delThread c k).powered = s.powered := rfl
@[simp] theorem delThread_up (s : State) (c k : Nat) : (s.delThread c k).up = s.up := rfl
@[simp] theorem delThread_selfTestFailed (s : State) (c k : Nat) : (s.delThread c k).selfTestFailed = s.selfTestFailed := rfl
@[simp] theorem delThread_lifeCycle (s : State) (c k : Nat) : (s.delThread c k).lifeCycle = s.lifeCycle := rfl
@[simp] theorem delThread_ownerHash (s : State) (c k : Nat) : (s.delThread c k).ownerHash = s.ownerHash := rfl
@[simp] theorem delThread_identitySeed (s : State) (c k : Nat) : (s.delThread c k).identitySeed = s.identitySeed := rfl
@[simp] theorem delThread_handleDraw (s : State) (c k : Nat) : (s.delThread c k).handleDraw = s.handleDraw := rfl
@[simp] theorem delThread_attestNonce (s : State) (c k : Nat) : (s.delThread c k).attestNonce = s.attestNonce := rfl
@[simp] theorem delThread_ctl2 (s : State) (c k : Nat) : (s.delThread c k).ctl2 = s.ctl2 := rfl
@[simp] theorem delThread_cxl (s : State) (c k : Nat) : (s.delThread c k).cxl = s.cxl := rfl
@[simp] theorem delThread_pos (s : State) (c k : Nat) : (s.delThread c k).pos = s.pos := rfl
@[simp] theorem delThread_clusters (s : State) (c k : Nat) : (s.delThread c k).clusters = s.clusters := rfl
@[simp] theorem delThread_dies (s : State) (c k : Nat) : (s.delThread c k).dies = s.dies := rfl
@[simp] theorem delThread_hbm (s : State) (c k : Nat) : (s.delThread c k).hbm = s.hbm := rfl
@[simp] theorem delThread_hbmSide (s : State) (c k : Nat) : (s.delThread c k).hbmSide = s.hbmSide := rfl
@[simp] theorem delThread_l2Tags (s : State) (c k : Nat) : (s.delThread c k).l2Tags = s.l2Tags := rfl
@[simp] theorem delThread_l2 (s : State) (c k : Nat) : (s.delThread c k).l2 = s.l2 := rfl
@[simp] theorem delThread_fills (s : State) (c k : Nat) : (s.delThread c k).fills = s.fills := rfl
@[simp] theorem delThread_binds (s : State) (c k : Nat) : (s.delThread c k).binds = s.binds := rfl
@[simp] theorem delThread_unbinds (s : State) (c k : Nat) : (s.delThread c k).unbinds = s.unbinds := rfl
@[simp] theorem delThread_stalled (s : State) (c k : Nat) : (s.delThread c k).stalled = s.stalled := rfl
@[simp] theorem delThread_reports (s : State) (c k : Nat) : (s.delThread c k).reports = s.reports := rfl
@[simp] theorem delThread_opnd (s : State) (c k : Nat) : (s.delThread c k).opnd = s.opnd := rfl
@[simp] theorem delThread_afterWipe (s : State) (c k : Nat) : (s.delThread c k).afterWipe = s.afterWipe := rfl
@[simp] theorem delThread_keys (s : State) (c k : Nat) : (s.delThread c k).keys = s.keys := rfl
@[simp] theorem delThread_parts (s : State) (c k : Nat) : (s.delThread c k).parts = s.parts := rfl
@[simp] theorem delThread_fns (s : State) (c k : Nat) : (s.delThread c k).fns = s.fns := rfl
@[simp] theorem delThread_landing (s : State) (c k : Nat) : (s.delThread c k).landing = s.landing := rfl
@[simp] theorem delThread_lcOwner (s : State) (c k : Nat) : (s.delThread c k).lcOwner = s.lcOwner := rfl
@[simp] theorem delThread_mcGroup (s : State) (c k : Nat) : (s.delThread c k).mcGroup = s.mcGroup := rfl
@[simp] theorem delThread_launches (s : State) (c k : Nat) : (s.delThread c k).launches = s.launches := rfl
@[simp] theorem delThread_nextSeq (s : State) (c k : Nat) : (s.delThread c k).nextSeq = s.nextSeq := rfl
@[simp] theorem delThread_routerQ (s : State) (c k : Nat) : (s.delThread c k).routerQ = s.routerQ := rfl
@[simp] theorem delThread_accesses (s : State) (c k : Nat) : (s.delThread c k).accesses = s.accesses := rfl
@[simp] theorem delThread_demands (s : State) (c k : Nat) : (s.delThread c k).demands = s.demands := rfl
@[simp] theorem delThread_peers (s : State) (c k : Nat) : (s.delThread c k).peers = s.peers := rfl
@[simp] theorem delThread_links (s : State) (c k : Nat) : (s.delThread c k).links = s.links := rfl
@[simp] theorem delThread_linkMap (s : State) (c k : Nat) : (s.delThread c k).linkMap = s.linkMap := rfl
@[simp] theorem delThread_noticeSeq (s : State) (c k : Nat) : (s.delThread c k).noticeSeq = s.noticeSeq := rfl
@[simp] theorem delThread_relayCount (s : State) (c k : Nat) : (s.delThread c k).relayCount = s.relayCount := rfl
@[simp] theorem delThread_mcdropCount (s : State) (c k : Nat) : (s.delThread c k).mcdropCount = s.mcdropCount := rfl
@[simp] theorem delThread_podOut (s : State) (c k : Nat) : (s.delThread c k).podOut = s.podOut := rfl
@[simp] theorem delThread_remotes (s : State) (c k : Nat) : (s.delThread c k).remotes = s.remotes := rfl
@[simp] theorem delThread_nextRid (s : State) (c k : Nat) : (s.delThread c k).nextRid = s.nextRid := rfl
@[simp] theorem delThread_rodTx (s : State) (c k : Nat) : (s.delThread c k).rodTx = s.rodTx := rfl
@[simp] theorem delThread_rodRx (s : State) (c k : Nat) : (s.delThread c k).rodRx = s.rodRx := rfl
@[simp] theorem delThread_remoteRx (s : State) (c k : Nat) : (s.delThread c k).remoteRx = s.remoteRx := rfl
@[simp] theorem delThread_congestion (s : State) (c k : Nat) : (s.delThread c k).congestion = s.congestion := rfl
@[simp] theorem delThread_remoteOut (s : State) (c k : Nat) : (s.delThread c k).remoteOut = s.remoteOut := rfl
@[simp] theorem delThread_hostReqs (s : State) (c k : Nat) : (s.delThread c k).hostReqs = s.hostReqs := rfl
@[simp] theorem delThread_hostPosts (s : State) (c k : Nat) : (s.delThread c k).hostPosts = s.hostPosts := rfl
@[simp] theorem delThread_hostOut (s : State) (c k : Nat) : (s.delThread c k).hostOut = s.hostOut := rfl
@[simp] theorem delThread_capHost (s : State) (c k : Nat) : (s.delThread c k).capHost = s.capHost := rfl
@[simp] theorem delThread_capBmc (s : State) (c k : Nat) : (s.delThread c k).capBmc = s.capBmc := rfl
@[simp] theorem delThread_capSince (s : State) (c k : Nat) : (s.delThread c k).capSince = s.capSince := rfl
@[simp] theorem delThread_mhz (s : State) (c k : Nat) : (s.delThread c k).mhz = s.mhz := rfl
@[simp] theorem delThread_watts (s : State) (c k : Nat) : (s.delThread c k).watts = s.watts := rfl
@[simp] theorem delThread_badCap (s : State) (c k : Nat) : (s.delThread c k).badCap = s.badCap := rfl
@[simp] theorem delThread_trip (s : State) (c k : Nat) : (s.delThread c k).trip = s.trip := rfl
@[simp] theorem delThread_tripHeld (s : State) (c k : Nat) : (s.delThread c k).tripHeld = s.tripHeld := rfl
@[simp] theorem delThread_capped (s : State) (c k : Nat) : (s.delThread c k).capped = s.capped := rfl
@[simp] theorem delThread_energy (s : State) (c k : Nat) : (s.delThread c k).energy = s.energy := rfl
@[simp] theorem delThread_tripTemp (s : State) (c k : Nat) : (s.delThread c k).tripTemp = s.tripTemp := rfl
@[simp] theorem delThread_hotTemp (s : State) (c k : Nat) : (s.delThread c k).hotTemp = s.hotTemp := rfl

@[simp] theorem setCore_cluster_eq (s : State) (c : Nat) (x : Core) (j : Nat) : (s.setCore c x).cluster j = s.cluster j := rfl
@[simp] theorem setCore_die_eq (s : State) (c : Nat) (x : Core) (j : Nat) : (s.setCore c x).die j = s.die j := rfl
@[simp] theorem setCore_part_eq (s : State) (c : Nat) (x : Core) (j : Nat) : (s.setCore c x).part j = s.part j := rfl
@[simp] theorem setCore_fn_eq (s : State) (c : Nat) (x : Core) (j : Nat) : (s.setCore c x).fn j = s.fn j := rfl
@[simp] theorem setCore_key_eq (s : State) (c : Nat) (x : Core) (j : Nat) : (s.setCore c x).key j = s.key j := rfl
@[simp] theorem setCore_peer_eq (s : State) (c : Nat) (x : Core) (j : Nat) : (s.setCore c x).peer j = s.peer j := rfl
@[simp] theorem setCore_link_eq (s : State) (c : Nat) (x : Core) (j : Nat) : (s.setCore c x).link j = s.link j := rfl
@[simp] theorem setCluster_core_eq (s : State) (c : Nat) (x : Cluster) (j : Nat) : (s.setCluster c x).core j = s.core j := rfl
@[simp] theorem setCluster_die_eq (s : State) (c : Nat) (x : Cluster) (j : Nat) : (s.setCluster c x).die j = s.die j := rfl
@[simp] theorem setCluster_part_eq (s : State) (c : Nat) (x : Cluster) (j : Nat) : (s.setCluster c x).part j = s.part j := rfl
@[simp] theorem setCluster_fn_eq (s : State) (c : Nat) (x : Cluster) (j : Nat) : (s.setCluster c x).fn j = s.fn j := rfl
@[simp] theorem setCluster_key_eq (s : State) (c : Nat) (x : Cluster) (j : Nat) : (s.setCluster c x).key j = s.key j := rfl
@[simp] theorem setCluster_peer_eq (s : State) (c : Nat) (x : Cluster) (j : Nat) : (s.setCluster c x).peer j = s.peer j := rfl
@[simp] theorem setCluster_link_eq (s : State) (c : Nat) (x : Cluster) (j : Nat) : (s.setCluster c x).link j = s.link j := rfl
@[simp] theorem setDie_core_eq (s : State) (d : Nat) (x : Die) (j : Nat) : (s.setDie d x).core j = s.core j := rfl
@[simp] theorem setDie_cluster_eq (s : State) (d : Nat) (x : Die) (j : Nat) : (s.setDie d x).cluster j = s.cluster j := rfl
@[simp] theorem setDie_part_eq (s : State) (d : Nat) (x : Die) (j : Nat) : (s.setDie d x).part j = s.part j := rfl
@[simp] theorem setDie_fn_eq (s : State) (d : Nat) (x : Die) (j : Nat) : (s.setDie d x).fn j = s.fn j := rfl
@[simp] theorem setDie_key_eq (s : State) (d : Nat) (x : Die) (j : Nat) : (s.setDie d x).key j = s.key j := rfl
@[simp] theorem setDie_peer_eq (s : State) (d : Nat) (x : Die) (j : Nat) : (s.setDie d x).peer j = s.peer j := rfl
@[simp] theorem setDie_link_eq (s : State) (d : Nat) (x : Die) (j : Nat) : (s.setDie d x).link j = s.link j := rfl
@[simp] theorem setPart_core_eq (s : State) (p : Nat) (x : Part) (j : Nat) : (s.setPart p x).core j = s.core j := rfl
@[simp] theorem setPart_cluster_eq (s : State) (p : Nat) (x : Part) (j : Nat) : (s.setPart p x).cluster j = s.cluster j := rfl
@[simp] theorem setPart_die_eq (s : State) (p : Nat) (x : Part) (j : Nat) : (s.setPart p x).die j = s.die j := rfl
@[simp] theorem setPart_fn_eq (s : State) (p : Nat) (x : Part) (j : Nat) : (s.setPart p x).fn j = s.fn j := rfl
@[simp] theorem setPart_key_eq (s : State) (p : Nat) (x : Part) (j : Nat) : (s.setPart p x).key j = s.key j := rfl
@[simp] theorem setPart_peer_eq (s : State) (p : Nat) (x : Part) (j : Nat) : (s.setPart p x).peer j = s.peer j := rfl
@[simp] theorem setPart_link_eq (s : State) (p : Nat) (x : Part) (j : Nat) : (s.setPart p x).link j = s.link j := rfl
@[simp] theorem setFn_core_eq (s : State) (f : Nat) (x : Fn) (j : Nat) : (s.setFn f x).core j = s.core j := rfl
@[simp] theorem setFn_cluster_eq (s : State) (f : Nat) (x : Fn) (j : Nat) : (s.setFn f x).cluster j = s.cluster j := rfl
@[simp] theorem setFn_die_eq (s : State) (f : Nat) (x : Fn) (j : Nat) : (s.setFn f x).die j = s.die j := rfl
@[simp] theorem setFn_part_eq (s : State) (f : Nat) (x : Fn) (j : Nat) : (s.setFn f x).part j = s.part j := rfl
@[simp] theorem setFn_key_eq (s : State) (f : Nat) (x : Fn) (j : Nat) : (s.setFn f x).key j = s.key j := rfl
@[simp] theorem setFn_peer_eq (s : State) (f : Nat) (x : Fn) (j : Nat) : (s.setFn f x).peer j = s.peer j := rfl
@[simp] theorem setFn_link_eq (s : State) (f : Nat) (x : Fn) (j : Nat) : (s.setFn f x).link j = s.link j := rfl
@[simp] theorem setKey_core_eq (s : State) (k : Nat) (x : KeySlot) (j : Nat) : (s.setKey k x).core j = s.core j := rfl
@[simp] theorem setKey_cluster_eq (s : State) (k : Nat) (x : KeySlot) (j : Nat) : (s.setKey k x).cluster j = s.cluster j := rfl
@[simp] theorem setKey_die_eq (s : State) (k : Nat) (x : KeySlot) (j : Nat) : (s.setKey k x).die j = s.die j := rfl
@[simp] theorem setKey_part_eq (s : State) (k : Nat) (x : KeySlot) (j : Nat) : (s.setKey k x).part j = s.part j := rfl
@[simp] theorem setKey_fn_eq (s : State) (k : Nat) (x : KeySlot) (j : Nat) : (s.setKey k x).fn j = s.fn j := rfl
@[simp] theorem setKey_peer_eq (s : State) (k : Nat) (x : KeySlot) (j : Nat) : (s.setKey k x).peer j = s.peer j := rfl
@[simp] theorem setKey_link_eq (s : State) (k : Nat) (x : KeySlot) (j : Nat) : (s.setKey k x).link j = s.link j := rfl
@[simp] theorem setPeer_core_eq (s : State) (p : Nat) (x : Peer) (j : Nat) : (s.setPeer p x).core j = s.core j := rfl
@[simp] theorem setPeer_cluster_eq (s : State) (p : Nat) (x : Peer) (j : Nat) : (s.setPeer p x).cluster j = s.cluster j := rfl
@[simp] theorem setPeer_die_eq (s : State) (p : Nat) (x : Peer) (j : Nat) : (s.setPeer p x).die j = s.die j := rfl
@[simp] theorem setPeer_part_eq (s : State) (p : Nat) (x : Peer) (j : Nat) : (s.setPeer p x).part j = s.part j := rfl
@[simp] theorem setPeer_fn_eq (s : State) (p : Nat) (x : Peer) (j : Nat) : (s.setPeer p x).fn j = s.fn j := rfl
@[simp] theorem setPeer_key_eq (s : State) (p : Nat) (x : Peer) (j : Nat) : (s.setPeer p x).key j = s.key j := rfl
@[simp] theorem setPeer_link_eq (s : State) (p : Nat) (x : Peer) (j : Nat) : (s.setPeer p x).link j = s.link j := rfl
@[simp] theorem setLink_core_eq (s : State) (k : Nat) (x : Link) (j : Nat) : (s.setLink k x).core j = s.core j := rfl
@[simp] theorem setLink_cluster_eq (s : State) (k : Nat) (x : Link) (j : Nat) : (s.setLink k x).cluster j = s.cluster j := rfl
@[simp] theorem setLink_die_eq (s : State) (k : Nat) (x : Link) (j : Nat) : (s.setLink k x).die j = s.die j := rfl
@[simp] theorem setLink_part_eq (s : State) (k : Nat) (x : Link) (j : Nat) : (s.setLink k x).part j = s.part j := rfl
@[simp] theorem setLink_fn_eq (s : State) (k : Nat) (x : Link) (j : Nat) : (s.setLink k x).fn j = s.fn j := rfl
@[simp] theorem setLink_key_eq (s : State) (k : Nat) (x : Link) (j : Nat) : (s.setLink k x).key j = s.key j := rfl
@[simp] theorem setLink_peer_eq (s : State) (k : Nat) (x : Link) (j : Nat) : (s.setLink k x).peer j = s.peer j := rfl
@[simp] theorem setThread_cluster_eq (s : State) (c k : Nat) (t : Thread) (j : Nat) : (s.setThread c k t).cluster j = s.cluster j := rfl
@[simp] theorem setThread_die_eq (s : State) (c k : Nat) (t : Thread) (j : Nat) : (s.setThread c k t).die j = s.die j := rfl
@[simp] theorem setThread_part_eq (s : State) (c k : Nat) (t : Thread) (j : Nat) : (s.setThread c k t).part j = s.part j := rfl
@[simp] theorem setThread_fn_eq (s : State) (c k : Nat) (t : Thread) (j : Nat) : (s.setThread c k t).fn j = s.fn j := rfl
@[simp] theorem setThread_key_eq (s : State) (c k : Nat) (t : Thread) (j : Nat) : (s.setThread c k t).key j = s.key j := rfl
@[simp] theorem setThread_peer_eq (s : State) (c k : Nat) (t : Thread) (j : Nat) : (s.setThread c k t).peer j = s.peer j := rfl
@[simp] theorem setThread_link_eq (s : State) (c k : Nat) (t : Thread) (j : Nat) : (s.setThread c k t).link j = s.link j := rfl
@[simp] theorem delThread_cluster_eq (s : State) (c k : Nat) (j : Nat) : (s.delThread c k).cluster j = s.cluster j := rfl
@[simp] theorem delThread_die_eq (s : State) (c k : Nat) (j : Nat) : (s.delThread c k).die j = s.die j := rfl
@[simp] theorem delThread_part_eq (s : State) (c k : Nat) (j : Nat) : (s.delThread c k).part j = s.part j := rfl
@[simp] theorem delThread_fn_eq (s : State) (c k : Nat) (j : Nat) : (s.delThread c k).fn j = s.fn j := rfl
@[simp] theorem delThread_key_eq (s : State) (c k : Nat) (j : Nat) : (s.delThread c k).key j = s.key j := rfl
@[simp] theorem delThread_peer_eq (s : State) (c k : Nat) (j : Nat) : (s.delThread c k).peer j = s.peer j := rfl
@[simp] theorem delThread_link_eq (s : State) (c k : Nat) (j : Nat) : (s.delThread c k).link j = s.link j := rfl

/-! ## Threads -/

theorem threads_ne_empty {x : Core} (h : x.threads ≠ []) : x ≠ Core.empty := by
  intro e; exact h (by rw [e]; rfl)

theorem tabPut_ne_nil {α : Type} (t : Tab α) (k : Nat) (v : α) : tabPut t k v ≠ [] := by
  cases t with
  | nil => simp [tabPut]
  | cons e t => obtain ⟨j, w⟩ := e; simp only [tabPut]; split <;> [simp; (split <;> simp)]

/-- A core with a thread is listed. -/
theorem core_setThread (s : State) (c k : Nat) (t : Thread) :
    (s.setThread c k t).core c = { s.core c with threads := tabPut (s.core c).threads k t } := by
  simp only [setThread, modCore, setCore, core]
  rw [tabSet_put _ _ _ _ (threads_ne_empty (tabPut_ne_nil _ _ _))]
  simp

theorem core_setThread_other (s : State) (c d k : Nat) (t : Thread) (h : d ≠ c) :
    (s.setThread c k t).core d = s.core d := by
  simp only [setThread, modCore, setCore, core]
  rw [tabSet_put _ _ _ _ (threads_ne_empty (tabPut_ne_nil _ _ _))]
  simp [tabGet_put_other _ _ _ _ _ h]

/-- A thread that was written is read back. -/
@[simp] theorem thread_setThread (s : State) (c k : Nat) (t : Thread) : (s.setThread c k t).thread c k = some t := by
  simp [thread, core_setThread]

/-- Every other thread is as before. -/
theorem thread_setThread_other (s : State) (c k d j : Nat) (t : Thread) (h : d ≠ c ∨ j ≠ k) :
    (s.setThread c k t).thread d j = s.thread d j := by
  by_cases hd : d = c
  · subst hd
    have hj : j ≠ k := by simpa using h
    simp [thread, core_setThread, tabFind_put_other _ _ _ _ hj]
  · simp [thread, core_setThread_other _ _ _ _ _ hd]

/-- What a thread's write leaves of its core. -/
theorem core_setThread_fields (s : State) (c k d : Nat) (t : Thread) :
    ((s.setThread c k t).core d).rows = (s.core d).rows ∧ ((s.setThread c k t).core d).q = (s.core d).q ∧
    ((s.setThread c k t).core d).cm = (s.core d).cm ∧ ((s.setThread c k t).core d).rk = (s.core d).rk ∧
    ((s.setThread c k t).core d).scratch = (s.core d).scratch ∧ ((s.setThread c k t).core d).l1 = (s.core d).l1 ∧
    ((s.setThread c k t).core d).frozen = (s.core d).frozen := by
  by_cases hd : d = c
  · subst hd; simp [core_setThread]
  · simp [core_setThread_other _ _ _ _ _ hd]

@[simp] theorem modThread_some (s : State) (c k : Nat) (f : Thread → Thread) (t : Thread) (h : s.thread c k = some t) :
    s.modThread c k f = s.setThread c k (f t) := by simp [modThread, h]

@[simp] theorem modThread_none (s : State) (c k : Nat) (f : Thread → Thread) (h : s.thread c k = none) :
    s.modThread c k f = s := by simp [modThread, h]

end Sys2Proof.Machine.State
end

