-- ==== Sys2Proof/Laws/Lanes.lean ====
section
/-! SUPPORT. Laws of bundles: what an instruction of a family does when each of its lanes completes. -/

namespace Sys2Proof.Machine

@[simp] theorem bundleFaults_nil (s : State) (c inst : Nat) : bundleFaults s c inst [] = s := rfl
@[simp] theorem takeLanes_nil (s : State) (c inst : Nat) : takeLanes s c inst [] = s := rfl

/-- Lanes that need no order keep no name of their bundle, and neither does a bundle of one lane. -/
@[simp] theorem markBundle_free (c n : Nat) (ks : List Nat) (s : State) : markBundle false c n ks s = s := rfl
@[simp] theorem markBundle_single (hold : Bool) (c n k : Nat) (s : State) : markBundle hold c n [k] s = s := by
  simp [markBundle]

/-- What has come about stands unless it has met something to wait for as a whole (R57, R80). -/
theorem happens_same {s t : State} (h : t.stalled = true → s.stalled = true) : happens s t = .next t := by
  unfold happens orWait
  split
  · rename_i hs
    simp only [Bool.and_eq_true, Bool.not_eq_true'] at hs
    simp [h hs.1] at hs
  · rfl

/-- Nothing else comes about where it has; but its page walks go on. -/
theorem happens_waits {s t : State} (h : t.stalled = true) (hs : s.stalled = false) :
    happens s t = .next { s.keepWalks t with stalled := true } := by simp [happens, orWait, h, hs]

/-- One lane that completes. -/
theorem runBundle_single {hold : Bool} {eff : State → Nat → Thread → LaneEff} {s s1 : State} {c k : Nat} {t : Thread}
    (hs : Single s c k t) (h : eff s k t = .done s1) : runBundle hold eff s = happens s s1 := by
  obtain ⟨hi, ht⟩ := hs
  simp [runBundle, hi, runLanes, ht, h]

/-- One lane that waits: its thread is blocked at the instruction. -/
theorem runBundle_single_block {hold : Bool} {eff : State → Nat → Thread → LaneEff} {s s1 : State} {c k : Nat}
    {t : Thread} {b : Block} (hs : Single s c k t) (h : eff s k t = .block b s1) :
    runBundle hold eff s = happens s (blockThread s1 c k b) := by
  obtain ⟨hi, ht⟩ := hs
  cases hold <;> simp [runBundle, hi, runLanes, ht, h]

/-- One lane that faults, with no earlier access of its thread open. -/
theorem runBundle_single_fault {hold : Bool} {eff : State → Nat → Thread → LaneEff} {s s1 : State} {c k : Nat}
    {t : Thread} {i : FInfo} (hs : Single s c k t) (h : eff s k t = .fault i s1) (ho : openVerdict s t.uid = false) :
    runBundle hold eff s = happens s (takeLanes s1 c s.nextId [(k, i)]) := by
  obtain ⟨hi, ht⟩ := hs
  simp [runBundle, hi, runLanes, ht, h, ho]

/-- A fault waits for the verdicts of the thread's earlier accesses (R404). -/
theorem runBundle_single_late {hold : Bool} {eff : State → Nat → Thread → LaneEff} {s s1 : State} {c k : Nat}
    {t : Thread} {i : FInfo} (hs : Single s c k t) (h : eff s k t = .fault i s1) (ho : openVerdict s t.uid = true) :
    runBundle hold eff s = happens s (blockThread s c k .verdict) := by
  obtain ⟨hi, ht⟩ := hs
  cases hold <;> simp [runBundle, hi, runLanes, ht, h, ho]

@[simp] theorem goAll_nil (s : State) (c : Nat) (lit : Bool) (g : Nat × Thread → Thread) : goAll s c lit [] g = s := rfl

/-- Lanes that act on their own threads alone, one after another. -/
theorem runLanes_local {hold : Bool} {c : Nat} {eff : State → Nat → Thread → LaneEff} {clk : Nat} {lit : Bool}
    {g : Nat × Thread → Thread} (us : List (Nat × Thread)) :
    ∀ st : State, st.clock = clk → (us.map Prod.fst).Nodup → (∀ e ∈ us, st.thread c e.1 = some e.2) →
    (∀ st' : State, st'.clock = clk → ∀ e ∈ us, eff st' e.1 e.2 = .done (st'.setThread c e.1 ((g e).advance clk lit))) →
    runLanes hold c eff (us.map Prod.fst) st =
      (us.foldl (fun st e => st.setThread c e.1 ((g e).advance clk lit)) st, []) := by
  induction us with
  | nil => intros; rfl
  | cons e us ih =>
    intro st hc hn ht he
    simp only [List.map_cons, List.nodup_cons] at hn
    simp only [List.map_cons, runLanes, ht e List.mem_cons_self, he st hc e List.mem_cons_self, List.foldl_cons]
    refine ih _ (by simpa using hc) hn.2 ?_ (fun st' h e' he' => he st' h e' (List.mem_cons_of_mem _ he'))
    intro e' he'
    rw [State.thread_setThread_other]
    · exact ht e' (List.mem_cons_of_mem _ he')
    · right
      intro h
      exact hn.1 (h ▸ List.mem_map_of_mem he')

@[simp] theorem goAll_stalled (s : State) (c : Nat) (lit : Bool) (us : List (Nat × Thread)) (g : Nat × Thread → Thread) :
    (goAll s c lit us g).stalled = s.stalled := by
  unfold goAll
  generalize s.clock = clk
  induction us generalizing s with
  | nil => rfl
  | cons e us ih => rw [List.foldl_cons, ih]; rfl

/-- In a list without repeated keys an entry is found under its key. -/
theorem find_of_nodup {us : List (Nat × Thread)} (hn : (us.map Prod.fst).Nodup) {e : Nat × Thread} (he : e ∈ us) :
    us.find? (fun x => x.1 == e.1) = some e := by
  induction us with
  | nil => cases he
  | cons a us ih =>
    simp only [List.map_cons, List.nodup_cons] at hn
    rcases List.mem_cons.mp he with rfl | he'
    · simp
    · have h : (a.1 == e.1) = false := by
        simp only [beq_eq_false_iff_ne]
        exact fun h => hn.1 (h ▸ List.mem_map_of_mem he')
      rw [List.find?_cons, h]
      exact ih hn.2 he'

/-- A lane-local instruction whose lanes all complete. -/
theorem runLocal_done {lit : Bool} {f : Thread → LaneOut} {s : State} {c : Nat} {us : List (Nat × Thread)}
    {u : Nat × Thread → Thread} (hb : Bundle s c us) (h : ∀ e ∈ us, f e.2 = .done (u e)) :
    runLocal lit f s = .next (goAll s c lit us u) := by
  obtain ⟨hi, hne, hn, ht⟩ := hb
  have hl : runLanes false c (localEff c lit f) (us.map Prod.fst) s =
      (us.foldl (fun st e => st.setThread c e.1 ((u e).advance s.clock lit)) s, []) :=
    runLanes_local us s rfl hn ht (fun st' hc e he => by simp [localEff, h e he, hc])
  cases us with
  | nil => exact absurd rfl hne
  | cons e us =>
    simp only [runLocal, runBundle, hi, List.map_cons] at hl ⊢
    rw [hl, takeLanes_nil]
    exact happens_same (t := goAll s c lit (e :: us) u) (by simp)

/-- A form of format A whose operands are ready. -/
theorem laneA_ready {r : ARule} {f : FmtA} {eff : Thread → List (List Reg) → Thread} {t : Thread}
    {xs : List (List Reg)} (h : AReady r f t xs) : laneA r f eff t = .done (eff t xs) := by
  obtain ⟨hg, hx, hd⟩ := h
  simp only [laneA, hg, hx, Got.bind, Got.map, Got.lane]
  cases hr : r.dst <;> simp_all

/-- A form of format A whose meaning is lane-local gives what its effect is related to. -/
theorem gives_of_local {mk : FmtA → Instr} {rule : FmtA → ARule} {eff : FmtA → Thread → List (List Reg) → Thread}
    {R : FmtA → Thread → List (List Reg) → Thread → Prop}
    (h : ∀ f s, exec (mk f) s = runLocal f.lit.isSome (laneA (rule f) f (eff f)) s)
    (hr : ∀ f t xs, WellFormed (mk f) → R f t xs (eff f t xs)) : Gives mk rule R := by
  intro f s c us xs hw hb ha
  have hn : (us.map Prod.fst).Nodup := hb.2.2.1
  refine ⟨fun k => match us.find? (fun e => e.1 == k) with
    | some e => eff f e.2 (xs e.1)
    | none => eff f (us.head hb.2.1).2 [], ?_, ?_⟩
  · intro e he
    simp only [find_of_nodup hn he]
    exact hr f e.2 (xs e.1) hw
  · rw [h]
    refine runLocal_done hb fun e he => ?_
    simp only [find_of_nodup hn he]
    exact laneA_ready (ha e he)

/-- A lane whose guard is false only advances. -/
theorem laneA_skip {r : ARule} {f : FmtA} {eff : Thread → List (List Reg) → Thread} {t : Thread}
    (h : t.guard f.guard = false) : laneA r f eff t = .done t := by simp [laneA, h]

end Sys2Proof.Machine
end

