-- ==== Sys2Proof/Laws/Threads.lean ====
section
/-! SUPPORT. Laws of a thread: registers and predicates read after a write, the checks of a source, the destination's
interlock, and what a fault of one lane leaves to its policy. -/

namespace Sys2Proof.Machine

/-! ## Registers and predicates -/

namespace Thread

@[simp] theorem reg_255 (t : Thread) : t.reg 255 = Reg.zero := rfl
@[simp] theorem setReg_255 (t : Thread) (x : Reg) : t.setReg 255 x = t := rfl

@[simp] theorem reg_setReg (t : Thread) (r : Nat) (x : Reg) (h : r ≠ 255) : (t.setReg r x).reg r = x := by
  simp [setReg, reg, h]

theorem reg_setReg_other (t : Thread) (r q : Nat) (x : Reg) (h : q ≠ r) : (t.setReg r x).reg q = t.reg q := by
  by_cases hr : r = 255
  · subst hr; rfl
  · by_cases hq : q = 255
    · subst hq; rfl
    · simp [setReg, reg, hr, hq, tabGet_set_other _ _ _ _ _ h]

/-- A thread's register write changes nothing else of it. -/
theorem setReg_frame (t : Thread) (r : Nat) (x : Reg) : t.setReg r x = { t with regs := (t.setReg r x).regs } := by
  by_cases hr : r = 255 <;> simp [setReg, hr]

@[simp] theorem reg_write (t : Thread) (r : Nat) (g : Tag) (w : Word) (h : r ≠ 255) : (t.write r g w).reg r =
    { t.reg r with word := w, code := lcc w, tag := g, full := true, pending := false } := by
  simp [write, modReg, h]

theorem reg_write_other (t : Thread) (r q : Nat) (g : Tag) (w : Word) (h : q ≠ r) :
    (t.write r g w).reg q = t.reg q := by simp [write, modReg, reg_setReg_other _ _ _ _ h]

@[simp] theorem reg_fill (t : Thread) (r : Nat) (g : Tag) (d : Datum) (h : r ≠ 255) : (t.fill r g d).reg r =
    { t.reg r with word := d.word, code := d.code, tag := g, full := true, pending := false } := by
  simp [fill, modReg, h]

theorem reg_fill_other (t : Thread) (r q : Nat) (g : Tag) (d : Datum) (h : q ≠ r) :
    (t.fill r g d).reg q = t.reg q := by simp [fill, modReg, reg_setReg_other _ _ _ _ h]

@[simp] theorem write_255 (t : Thread) (g : Tag) (w : Word) : t.write 255 g w = t := rfl
@[simp] theorem pred_7 (t : Thread) : t.pred 7 = true := rfl
@[simp] theorem setPred_7 (t : Thread) (v : Bool) : t.setPred 7 v = t := rfl

/-! ## Sources -/

@[simp] theorem sources_nil (t : Thread) : t.sources [] = .ok [] := rfl

theorem sources_cons_ok (t : Thread) (x : Src) (xs : List Src) (a : List Reg) (as : List (List Reg))
    (h : t.source x = .ok a) (hs : t.sources xs = .ok as) : t.sources (x :: xs) = .ok (a :: as) := by
  simp [sources, h, hs, Got.bind, Got.map]

/-- The first source that fails decides (R32). -/
theorem sources_cons_fault (t : Thread) (x : Src) (xs : List Src) (c : BitVec 8) (h : t.source x = .fault c) :
    t.sources (x :: xs) = .fault c := by simp [sources, h, Got.bind]

theorem sources_cons_block (t : Thread) (x : Src) (xs : List Src) (b : Block) (h : t.source x = .block b) :
    t.sources (x :: xs) = .block b := by simp [sources, h, Got.bind]

/-- A register passes the checks of R32 exactly when it is full, of the expected tag or untagged, and consistent. -/
theorem check_ok (t : Thread) (r : Nat) (e : Tag) (trap : Bool) : t.check r e trap = .ok (t.reg r) ↔
    (t.reg r).full = true ∧ ((t.reg r).tag = .raw ∨ e = .raw ∨ (t.reg r).tag = e) ∧
      (t.reg r).code = lcc (t.reg r).word := by
  unfold check
  by_cases hf : (t.reg r).full <;> by_cases h1 : (t.reg r).tag = .raw <;> by_cases h2 : e = .raw <;>
    by_cases h3 : (t.reg r).tag = e <;> by_cases h4 : (t.reg r).code = lcc (t.reg r).word <;>
    simp_all <;> (try split) <;> (try split) <;> simp_all

@[simp] theorem dstReady_zero (t : Thread) (r : Nat) : t.dstReady r 0 = .ok () := rfl

/-- One destination register is free to write unless a fill is pending there or it is lent (R165, R184). -/
theorem dstReady_one (t : Thread) (r : Nat) : t.dstReady r 1 = .ok () ↔
    (t.reg r).pending = false ∧ (t.reg r).lent = 0 := by
  unfold dstReady dstBlock dstBlock
  cases hp : (t.reg r).pending <;> by_cases hl : (t.reg r).lent = 0 <;> simp [hp, hl]

end Thread

/-! ## Writes of one thread -/

/-- The later of two writes of a thread stands. -/
theorem setThread_setThread (s : State) (c k : Nat) (t u : Thread) :
    (s.setThread c k t).setThread c k u = s.setThread c k u := by
  have h1 := State.core_setThread s c k t
  have hb : ∀ (x : Core) (v : Thread), { x with threads := tabPut x.threads k v } ≠ Core.empty := fun x v =>
    State.threads_ne_empty (State.tabPut_ne_nil _ _ _)
  simp only [State.setThread, State.modCore, State.setCore] at h1 ⊢
  rw [h1, tabSet_put _ _ _ _ (hb _ _), tabSet_put _ _ _ _ (hb _ _), tabSet_put _ _ _ _ (hb (s.core c) u), tabPut_put]
  simp [tabPut_put]

/-! ## Faults -/

/-- Nothing waits for a record: the settling of an instance leaves the module as it is. -/
theorem settleInst_nil (s : State) (n : Nat) (h : s.demands = []) : settleInst s n = s := by
  simp [settleInst, settleKind, h]

/-- A policy fault under HANDLE: the thread goes to its handler with its record in %frec and %trapinfo (R407, R412). -/
theorem takeFaults_handle (s : State) (c k n : Nat) (t : Thread) (i : FInfo) (h : s.thread c k = some t)
    (hd : s.demands = []) (hp : i.page = none) (hf : i.freezing = false) (hh : t.inHandler = false)
    (h0 : launchPolicy s t.seq = 0) (hv : launchHandler s t.seq ≠ 0) :
    takeFaults s c n [(k, i)] = s.setThread c k { t with
      frec := recBits (laneRec c k t i) false 0, trapinfo := trapInfo i, waited := false, bundle := none
      status := .trapping } := by
  have e1 : ∀ u : Thread, launchPolicy (s.setThread c k u) t.seq = 0 := fun _ => h0
  simp only [takeFaults, List.foldl_cons, List.foldl_nil, takeFault, h, hp, hf, policyFault, State.thread_setThread, hh,
    e1, Bool.false_or]
  simp only [setThread_setThread]
  rw [if_neg, if_pos (by rfl), settleInst_nil _ _ (by simpa using hd)]
  simpa [launchHandler, launchField] using hv

end Sys2Proof.Machine
end

