-- ==== Sys2Proof/Laws/Faults.lean ====
section
/-! SUPPORT. What taking a fault leaves as it was, whatever its policy (R404 to R418). -/

namespace Sys2Proof.Machine

/-- A fault reaches cores, clusters, launches, partitions, accesses and demands, and the next name; all the rest of the
module is as before. -/
structure FaultFrame (s t : State) : Prop where
  rest : t = { s with cores := t.cores, clusters := t.clusters, launches := t.launches, parts := t.parts
                      accesses := t.accesses, demands := t.demands, nextId := t.nextId }

namespace FaultFrame

theorem refl (s : State) : FaultFrame s s := ⟨rfl⟩

theorem trans {s t u : State} (h : FaultFrame s t) (g : FaultFrame t u) : FaultFrame s u := by
  obtain ⟨h⟩ := h
  obtain ⟨g⟩ := g
  constructor
  rw [g, h]

theorem stalled {s t : State} (h : FaultFrame s t) : t.stalled = s.stalled := by rw [h.rest]
theorem reports {s t : State} (h : FaultFrame s t) : t.reports = s.reports := by rw [h.rest]
theorem hbm {s t : State} (h : FaultFrame s t) : t.hbm = s.hbm := by rw [h.rest]
theorem hbmSide {s t : State} (h : FaultFrame s t) : t.hbmSide = s.hbmSide := by rw [h.rest]
theorem l2 {s t : State} (h : FaultFrame s t) : t.l2 = s.l2 := by rw [h.rest]
theorem clock {s t : State} (h : FaultFrame s t) : t.clock = s.clock := by rw [h.rest]

/-- A fold of operations, each of which stays within the frame. -/
theorem foldl {α : Type} (f : State → α → State) (hf : ∀ s a, FaultFrame s (f s a)) (xs : List α) (s : State) :
    FaultFrame s (xs.foldl f s) := by
  induction xs generalizing s with
  | nil => exact refl s
  | cons a xs ih => exact (hf s a).trans (ih _)

theorem setThread (s : State) (c k : Nat) (t : Thread) : FaultFrame s (s.setThread c k t) := ⟨rfl⟩
theorem delThread (s : State) (c k : Nat) : FaultFrame s (s.delThread c k) := ⟨rfl⟩
theorem modCore (s : State) (c : Nat) (f : Core → Core) : FaultFrame s (s.modCore c f) := ⟨rfl⟩
theorem setPart (s : State) (p : Nat) (x : Part) : FaultFrame s (s.setPart p x) := ⟨rfl⟩
theorem setCluster (s : State) (c : Nat) (x : Cluster) : FaultFrame s (s.setCluster c x) := ⟨rfl⟩

theorem modThread (s : State) (c k : Nat) (f : Thread → Thread) : FaultFrame s (s.modThread c k f) := by
  unfold State.modThread
  split
  · exact setThread ..
  · exact refl s

theorem modLaunch (s : State) (seq : Nat) (f : Launch → Launch) : FaultFrame s (modLaunch s seq f) := by
  unfold Sys2Proof.Machine.modLaunch
  split
  · exact ⟨rfl⟩
  · exact refl s

theorem blockThread (s : State) (c k : Nat) (b : Block) : FaultFrame s (blockThread s c k b) := modThread ..

theorem pushBatch (s : State) (p : Nat) (rs : List FRec) : FaultFrame s (pushBatch s p rs) := by
  unfold Sys2Proof.Machine.pushBatch
  split
  · exact refl s
  · exact ⟨rfl⟩

theorem settleKind (s : State) (n k : Nat) (w : Bool) : FaultFrame s (settleKind s n k w) := by
  unfold Sys2Proof.Machine.settleKind
  dsimp only
  split
  · exact refl s
  · split
    · exact refl s
    · exact trans (t := { s with demands := s.demands.filter fun x => !(x.inst == n && x.record.kind == k) }) ⟨rfl⟩
        (pushBatch ..)

theorem settleInst (s : State) (n : Nat) : FaultFrame s (settleInst s n) :=
  ((settleKind ..).trans (settleKind ..)).trans (settleKind ..)

theorem parkOn (s : State) (c k n p : Nat) (r : FRec) : FaultFrame s (parkOn s c k n p r) := by
  unfold Sys2Proof.Machine.parkOn
  split
  · exact refl s
  · exact ⟨rfl⟩

theorem checkBarriers (s : State) (q : Nat) : FaultFrame s (checkBarriers s q) := modLaunch ..
theorem leaveBarriers (s : State) (r : Row) : FaultFrame s (leaveBarriers s r) := modLaunch ..
theorem settleTiles (s : State) (c : Nat) : FaultFrame s (settleTiles s c) := setCluster ..
theorem reportPosted (s : State) (c : Nat) (t : Thread) : FaultFrame s (reportPosted s c t) := pushBatch ..

theorem endRow (s : State) (c n : Nat) (r : Row) : FaultFrame s (endRow s c n r) :=
  (((leaveBarriers ..).trans (modCore ..)).trans (checkBarriers ..)).trans (settleTiles ..)

/-- The end of a thread stays within the frame. -/
theorem endThread (s : State) (c k : Nat) (b : Bool) : FaultFrame s (endThread s c k b) := by
  unfold Sys2Proof.Machine.endThread
  split
  · exact refl s
  · rename_i t _
    have h1 : FaultFrame s ((Sys2Proof.Machine.reportPosted s c t).delThread c k) :=
      (reportPosted ..).trans (delThread ..)
    have h2 : ∀ u, FaultFrame s u → FaultFrame s (match tabFind (u.core c).rows (k / 32) with
        | none => u
        | some r =>
          let r' := r.without (k % 32)
          if (u.core c).threads.any fun e => e.1 / 32 == k / 32 then
            u.modCore c fun x => { x with rows := tabPut x.rows (k / 32) r' }
          else Sys2Proof.Machine.endRow u c (k / 32) r') := by
      intro u hu
      split
      · exact hu
      · dsimp only
        split
        · exact hu.trans (modCore ..)
        · exact hu.trans (endRow ..)
    cases b
    · exact h2 _ (h1.trans ⟨rfl⟩)
    · exact h2 _ ((h1.trans (modLaunch ..)).trans ⟨rfl⟩)

theorem fillTable (n : Nat) (s : State) (c : Nat) : FaultFrame s (fillTable n s c) := by
  induction n generalizing s with
  | zero => exact refl s
  | succ n ih =>
    unfold Sys2Proof.Machine.fillTable
    split
    · exact refl s
    · split
      · exact refl s
      · exact (setCluster ..).trans (ih ..)

theorem dropCore (s : State) (c : Nat) : FaultFrame s (dropCore s c) := (setCluster ..).trans (fillTable ..)
theorem setCore (s : State) (c : Nat) (x : Core) : FaultFrame s (s.setCore c x) := ⟨rfl⟩

theorem endSaved (s : State) (g : TopGang) : FaultFrame s (endSaved s g) :=
  FaultFrame.foldl (fun st (x : SavedCore) => x.threads.foldl (fun st (t : Nat × Thread) => Sys2Proof.Machine.reportPosted st x.core t.2) st)
    (fun st x => FaultFrame.foldl _ (fun st t => reportPosted st x.core t.2) x.threads st) g.context s

theorem tearCores (q : Nat) (cs : List (Nat × Core)) (s : State) : FaultFrame s (tearCores q cs s) := by
  induction cs generalizing s with
  | nil => exact refl s
  | cons e cs ih =>
    unfold Sys2Proof.Machine.tearCores
    dsimp only
    split
    · refine trans (FaultFrame.foldl _ (fun st x => reportPosted st e.1 x.2) e.2.threads s) (trans ?_ (ih _))
      exact (setCore ..).trans (dropCore ..)
    · exact ih s

/-- The teardown of a launch stays within the frame. -/
theorem teardown (s : State) (q : Nat) : FaultFrame s (teardown s q) := by
  unfold Sys2Proof.Machine.teardown
  split
  · exact refl s
  · split
    · exact refl s
    · rename_i l _ _
      have h : FaultFrame s (l.gangs.foldl Sys2Proof.Machine.endSaved (Sys2Proof.Machine.tearCores q s.cores s)) :=
        (tearCores ..).trans (FaultFrame.foldl _ (fun _ _ => endSaved ..) _ _)
      exact ((h.trans (modLaunch ..)).trans ⟨rfl⟩).trans (setPart ..)

theorem policyFault (s : State) (c k n : Nat) (r : FRec) : FaultFrame s (policyFault s c k n r) := by
  unfold Sys2Proof.Machine.policyFault
  split
  · exact refl s
  · dsimp only
    split
    · exact parkOn ..
    · split
      · exact setThread ..
      · split
        · exact endThread ..
        · exact (teardown ..).trans (pushBatch ..)

theorem takeFault (s : State) (c k n : Nat) (i : FInfo) : FaultFrame s (takeFault s c k n i) := by
  unfold Sys2Proof.Machine.takeFault
  split
  · exact refl s
  · dsimp only
    split
    · exact (setThread ..).trans (parkOn ..)
    · exact ((setThread ..).trans (parkOn ..)).trans (modCore ..)
    · exact (setThread ..).trans (policyFault ..)

theorem takeFaults (s : State) (c n : Nat) (fs : List (Nat × FInfo)) : FaultFrame s (takeFaults s c n fs) :=
  (FaultFrame.foldl (fun st e => Sys2Proof.Machine.takeFault st c e.1 n e.2) (fun _ _ => takeFault ..) fs s).trans
    (settleInst ..)

/-- The faults of an instruction's lanes stay within the frame. -/
theorem takeLanes (s : State) (c n : Nat) (fs : List (Nat × FInfo)) : FaultFrame s (takeLanes s c n fs) := by
  unfold Sys2Proof.Machine.takeLanes
  refine trans (FaultFrame.foldl (fun st e => st.modThread c e.1 fun t => t.spun st.clock)
    (fun _ _ => modThread ..) fs s) ?_
  unfold Sys2Proof.Machine.bundleFaults
  split
  · exact refl _
  · exact takeFaults ..

end FaultFrame

/-- An instruction that faults in its one lane takes the fault (R404). -/
theorem runBundle_faults {hold : Bool} {eff : State → Nat → Thread → LaneEff} {s s1 : State} {c k : Nat} {t : Thread}
    {i : FInfo} (hs : Single s c k t) (h : eff s k t = .fault i s1) (ho : openVerdict s t.uid = false)
    (h1 : s1.stalled = s.stalled) : runBundle hold eff s = .next (takeLanes s1 c s.nextId [(k, i)]) := by
  rw [runBundle_single_fault hs h ho]
  exact happens_same fun hx => by rw [← h1, ← (FaultFrame.takeLanes s1 c s.nextId [(k, i)]).stalled]; exact hx

end Sys2Proof.Machine
end

