-- ==== Sys2Proof/Laws/Memory.lean ====
section
/-! SUPPORT. Laws of main memory: bytes that were written are read back, others are as before, and every operation keeps
the canonical form, which the module has after reset. -/

namespace Sys2Proof.Machine

/-! ## Cells -/

theorem cellsSet_wf (t : List Host.Cell) (a : Nat) (bs : List Byte) (h : tabWf 0 t = true) :
    tabWf 0 (cellsSet t a bs) = true := by
  induction bs generalizing t a with
  | nil => exact h
  | cons b bs ih => exact ih _ _ (tabWf_set 0 t a b h)

/-- A byte outside the written ones is as before. -/
theorem cellsSet_other (t : List Host.Cell) (a : Nat) (bs : List Byte) (k : Nat) (h : k < a ∨ a + bs.length ≤ k) :
    tabGet 0 (cellsSet t a bs) k = tabGet 0 t k := by
  induction bs generalizing t a with
  | nil => rfl
  | cons b bs ih =>
    simp only [List.length_cons] at h
    rw [cellsSet, ih _ _ (by omega), tabGet_set_other _ _ _ _ _ (by omega)]

/-- A byte that was written reads as written. -/
theorem cellsSet_get (t : List Host.Cell) (a : Nat) (bs : List Byte) (i : Nat) (h : i < bs.length) :
    tabGet 0 (cellsSet t a bs) (a + i) = bs[i] := by
  induction bs generalizing t a i with
  | nil => simp at h
  | cons b bs ih =>
    cases i with
    | zero => rw [cellsSet, cellsSet_other _ _ _ _ (by omega)]; simp
    | succ i =>
      rw [cellsSet, show a + (i + 1) = a + 1 + i by omega]
      exact ih _ _ _ (by simpa using h)

/-! ## Main memory -/

/-- What was written is read back. -/
theorem hbmRead_write (s : State) (a : Nat) (bs : List Byte) : hbmRead (hbmWrite s a bs) a bs.length = bs := by
  apply List.ext_getElem
  · simp [hbmRead]
  · intro i h1 h2
    simp only [hbmRead, hbmWrite, List.getElem_map, List.getElem_range]
    exact cellsSet_get _ _ _ _ h2

theorem sideRead_write (s : State) (a : Nat) (bs : List Byte) : sideRead (sideWrite s a bs) a bs.length = bs := by
  apply List.ext_getElem
  · simp [sideRead]
  · intro i h1 h2
    simp only [sideRead, sideWrite, List.getElem_map, List.getElem_range]
    exact cellsSet_get _ _ _ _ h2

/-- A run of bytes that does not meet the written ones is as before. -/
theorem hbmRead_write_other (s : State) (a b n : Nat) (bs : List Byte) (h : b + n ≤ a ∨ a + bs.length ≤ b) :
    hbmRead (hbmWrite s a bs) b n = hbmRead s b n := by
  apply List.ext_getElem
  · simp [hbmRead]
  · intro i h1 h2
    simp only [hbmRead, List.length_map, List.length_range] at h1
    simp only [hbmRead, hbmWrite, List.getElem_map, List.getElem_range]
    exact cellsSet_other _ _ _ _ (by omega)

theorem sideRead_write_other (s : State) (a b n : Nat) (bs : List Byte) (h : b + n ≤ a ∨ a + bs.length ≤ b) :
    sideRead (sideWrite s a bs) b n = sideRead s b n := by
  apply List.ext_getElem
  · simp [sideRead]
  · intro i h1 h2
    simp only [sideRead, List.length_map, List.length_range] at h1
    simp only [sideRead, sideWrite, List.getElem_map, List.getElem_range]
    exact cellsSet_other _ _ _ _ (by omega)

@[simp] theorem sideRead_hbmWrite (s : State) (a b n : Nat) (bs : List Byte) :
    sideRead (hbmWrite s a bs) b n = sideRead s b n := rfl
@[simp] theorem hbmRead_sideWrite (s : State) (a b n : Nat) (bs : List Byte) :
    hbmRead (sideWrite s a bs) b n = hbmRead s b n := rfl

/-- A write to main memory changes nothing else. -/
theorem hbmWrite_frame (s : State) (a : Nat) (bs : List Byte) :
    hbmWrite s a bs = { s with hbm := (hbmWrite s a bs).hbm } := rfl
theorem sideWrite_frame (s : State) (a : Nat) (bs : List Byte) :
    sideWrite s a bs = { s with hbmSide := (sideWrite s a bs).hbmSide } := rfl

/-! ## The canonical form -/

theorem hbmWrite_wf (s : State) (a : Nat) (bs : List Byte) (h : Memory.wf s = true) :
    Memory.wf (hbmWrite s a bs) = true := by
  simp only [Memory.wf, Bool.and_eq_true] at h ⊢
  exact ⟨cellsSet_wf _ _ _ h.1, h.2⟩

theorem sideWrite_wf (s : State) (a : Nat) (bs : List Byte) (h : Memory.wf s = true) :
    Memory.wf (sideWrite s a bs) = true := by
  simp only [Memory.wf, Bool.and_eq_true] at h ⊢
  exact ⟨h.1, cellsSet_wf _ _ _ h.2⟩

/-- A flipped bit of main memory (SOFT_ERROR) keeps the form. -/
theorem hbm_flip_wf (s : State) (b : Nat) (x : Byte) (h : Memory.wf s = true) :
    Memory.wf { s with hbm := tabSet 0 s.hbm b x } = true := by
  simp only [Memory.wf, Bool.and_eq_true] at h ⊢
  exact ⟨tabWf_set 0 _ _ _ h.1, h.2⟩

theorem side_flip_wf (s : State) (b : Nat) (x : Byte) (h : Memory.wf s = true) :
    Memory.wf { s with hbmSide := tabSet 0 s.hbmSide b x } = true := by
  simp only [Memory.wf, Bool.and_eq_true] at h ⊢
  exact ⟨h.1, tabWf_set 0 _ _ _ h.2⟩

/-- The wipe of R63 leaves the form. -/
theorem wiped_wf (s : State) (h : s.hbm = []) (h' : s.hbmSide = []) : Memory.wf s = true := by
  simp [Memory.wf, h, h', tabWf]

theorem reset_wf : Memory.wf State.reset = true := by decide

end Sys2Proof.Machine
end

