-- ==== Sys2Proof/Tests/Slice0.lean ====
section
/-! SUPPORT. Tests: words of the spec's encodings, an ill-formed term for each check of WellFormed, and for each
statement with hypotheses a state that meets them. -/

namespace Sys2Proof.Tests

set_option Elab.async false

open Sys2Proof Sys2Proof.Machine

/-! ## Decoding (R193 to R204, Tables 8.2 to 8.7, 10.1 to 18.5): words written from the spec's field tables -/

/-- One word of each class and format: `opcode 63..52, guard, fields` as R193 to R198 place them. -/
theorem test_decode_control :
    decode [0x00F8400000000010] = .ok (.call { plainB with dst := 16, disp := 4 }, []) ∧
    decode [0x0178004000000000] = .ok (.ret { plainB with target := 16 }, []) ∧
    decode [0x01B8000000000000] = .ok (.exit plainE, []) ∧
    decode [0x0438000000002400] = .ok (.bar { plainE with cv := 1, unit := 2 }, []) ∧
    decode [0x02F8000000000004, 0xFFFFFFFF] = .ok (.cvdecl { plainE with lit := some 0xFFFFFFFF }, []) := by
  decide +kernel

theorem test_decode_arithmetic :
    decode [0x10381C1C00000024, 0x10000] =
      .ok (.iadd { plainA with dst := 7, srcA := 7, type := .i32, lit := some 0x10000 }, []) ∧
    decode [0x24382014181C0040] = .ok (.bil3 { plainA with dst := 8, srcA := 5, srcB := 6, srcC := 7, type := .u32 }, []) ∧
    decode [0x3018282C33FC002B] = .ok (.permxCv { plainA with
      guard := ⟨3, false⟩, dst := 10, srcA := 11, srcB := 12, srcC := 0xFF, type := .i32, var := 1, sat := true
      imm := true }, []) ∧
    decode [0x3018282C33FC0021] = .ok (.permx { plainA with
      guard := ⟨3, false⟩, dst := 10, srcA := 11, srcB := 12, srcC := 0xFF, type := .i32, imm := true }, []) ∧
    decode [0x5018141018021080] = .ok (.pkadd { plainA with
      guard := ⟨3, false⟩, dst := 5, srcA := 4, srcB := 6, modA := 4, modB := 1, type := .bf16x2 }, []) ∧
    decode [0x4038101418020060] = .error .badField := by
  decide +kernel

theorem test_decode_memory :
    decode [0x7178200BFC0BD000] =
      .ok (.stl { plainM with dst := 8, addr := 2, index := 255, disp := 2, order := .rc, scope := .pd }, []) ∧
    decode [0x9048200BFC038040] =
      .ok (.cas { plainM with guard := ⟨1, false⟩, dst := 8, addr := 2, index := 255, type := .u32 }, []) ∧
    decode [0x91F8000000039400] = .ok (.fence { plainM with scope := .sy }, []) := by
  decide +kernel

theorem test_decode_engines :
    decode [0xA038000000005000] = .ok (.tacq { plainE with unit := 5 }, []) ∧
    decode [0xA0F8002030005081] =
      .ok (.mma { plainE with srcA := 8, srcB := 12, unit := 5, type := .bf16x2, fn := 1 }, []) ∧
    decode [0xA178500000005060] = .ok (.tread { plainE with dst := 20, unit := 5, type := .f32 }, []) ∧
    decode [0x827800501078A000] =
      .ok (.rkcommit { plainE with srcA := 20, srcB := 4, srcC := 30, unit := 10 }, []) ∧
    decode [0x82B8A00000002000] = .ok (.rkwait { plainE with dst := 40, unit := 2 }, []) ∧
    decode [0xC078000000001C00] = .ok (.brk { plainS with imm8 := 7 }, []) := by
  decide +kernel

/-- The table word of a row: the first word, and a literal word of zeros above it. -/
theorem test_table_word : decodeTableWord 64 0x10381C1C00000024 =
    some (.iadd { plainA with dst := 7, srcA := 7, type := .i32, lit := some 0 }) := by decide +kernel

/-! ## Well-formedness: an ill-formed term for each check (R199 to R202, R204) -/

/-- A destination range that holds v255, a type that the form has not, an element select on a type of one element, a
literal with an upper half for a 32-bit source, an immediate beside a literal, and an operand field that the form does not
use. -/
theorem test_illformed_A :
    formOk (.imadw { plainA with dst := 254, type := .u32 }) = false ∧ formOk (.iadd { plainA with type := .f32 }) = false ∧
    formOk (.iadd { plainA with type := .i32, modA := 2 }) = false ∧
    formOk (.iadd { plainA with type := .i32, lit := some 0x100000000 }) = false ∧
    formOk (.iadd { plainA with type := .i32, imm := true, lit := some 0 }) = false ∧
    formOk (.iabs { plainA with type := .i32, srcB := 1 }) = false ∧
    formOk (.fmin { plainA with type := .f32, var := 1 }) = false ∧ formOk (.fadd { plainA with type := .f32, sat := true }) = false ∧
    formOk (.fadd { plainA with type := .f32, imm := true }) = false ∧ formOk (.icmp { plainA with type := .i32, dst := 8 }) = false ∧
    formOk (.cvt { plainA with type := .f32, srcC := 0x03 }) = false ∧ formOk (.lscan { plainA with type := .f32, srcB := 3 }) = false := by
  decide +kernel

/-- The other formats: a range past v254, a scope, order or predicate that the form has not, a size without an operation,
a unit out of range, a field that the form does not use, a barrier of level 0, an unlisted selector. -/
theorem test_illformed_others :
    formOk (.ld { plainM with dst := 254, size := 1 }) = false ∧ formOk (.ld { plainM with scope := .cl }) = false ∧
    formOk (.lds { plainM with order := .so }) = false ∧ formOk (.st { plainM with nrp := 0 }) = false ∧
    formOk (.ld { plainM with addr := 254 }) = false ∧ formOk (.atom { plainM with size := 2 }) = false ∧
    formOk (.fence { plainM with fn := 3 }) = false ∧ formOk (.bra { plainB with target := 1 }) = false ∧
    formOk (.call { plainB with dst := 255 }) = false ∧ formOk (.brx { plainB with disp := 1 }) = false ∧
    formOk (.copy { plainE with unit := 4 }) = false ∧ formOk (.nop { plainE with cv := 1 }) = false ∧
    formOk (.bar plainE) = false ∧ formOk (.tread plainE) = false ∧ formOk (.sread { plainS with sel := 0x200 }) = false ∧
    formOk (.trap { plainS with dst := 1 }) = false ∧ formOk (.qTail 0 0 0) = true ∧ formOk (.qTail 0 9 0) = false := by
  decide +kernel

/-! ## Small states -/

/-- A thread of launch 1, READY in a block at 0x1000 of two words, with every register RAW and zero. -/
def th0 : Thread where
  uid := 5
  seq := 1
  pc := 0x1008
  blk := 0x1000
  hdr := 0
  entered := true
  regs := []
  preds := 1
  rstk := []
  status := .ready
  since := 0
  demotedUntil := 0
  acquired := true
  waited := false
  bundle := none
  epc := 0
  eblk := 0
  ehdr := 0
  inHandler := false
  epcWritten := false
  trapinfo := 0
  frec := 0
  posted := []
  gid := []
  ext := []

/-- A register with a word, its code and a tag. -/
def rg (tag : Tag) (w : Word) : Reg := ⟨w, lcc w, tag, true, false, 0⟩

/-- A row of launch 1. -/
def row0 : Row := ⟨1, 0, 0, [0, 0, 0, 0, 0, 0, 0], [], []⟩

/-- A launch of partition 2 whose record is zero but for its fields given. -/
def launch0 (r : BitVec 2048) : Launch := ⟨2, r, 0, 3, [], [], 0, 0, false, false, false, none⟩

/-- A module in which core 4 issues to one thread, at slot 0, lane 1. -/
def one (t : Thread) : State :=
  { State.reset with
    nextId := 100, clock := 7, issue := ⟨4, [1]⟩
    cores := [(4, { Core.empty with threads := [(1, t)], rows := [(0, row0)], launch := some 1 })]
    launches := [(1, launch0 0)], parts := [(2, { Part.reset with exists_ := true })] }

/-- The next state of an outcome. -/
def nx (o : Host.Outcome State Fault Refusal) : State :=
  match o with
  | .next t => t
  | _ => State.reset

theorem one_single (t : Thread) : Single (one t) 4 1 t := ⟨rfl, rfl⟩

/-- A bundle of two lanes. -/
def two (t u : Thread) : State :=
  { one t with
    issue := ⟨4, [1, 2]⟩
    cores := [(4, { Core.empty with threads := [(1, t), (2, u)], rows := [(0, row0)], launch := some 1 })] }

theorem two_bundle (t u : Thread) : Bundle (two t u) 4 [(1, t), (2, u)] :=
  ⟨rfl, by simp, by simp, by simp [State.thread, State.core, tabGet, tabFind, two]⟩

/-! ## Operands and the forms of format A -/

/-- A form of format A meets the premises of its statement on lanes whose registers are all zero: it is well-formed, its
guard is true, its sources pass and its destination is free. -/
def meets (x : (FmtA → Instr) × (FmtA → ARule) × FmtA) : Bool :=
  formOk (x.1 x.2.2) && th0.guard x.2.2.guard &&
  (match th0.sources (aSrcs (x.2.1 x.2.2) x.2.2) with
   | .ok _ => true
   | _ => false) &&
  (match (x.2.1 x.2.2).dst with
   | .regs n => (th0.dstBlock x.2.2.dst.toNat n).isNone
   | _ => true)

theorem meets_ready {x : (FmtA → Instr) × (FmtA → ARule) × FmtA} (h : meets x = true) :
    ∃ xs, WellFormed (x.1 x.2.2) ∧ AReady (x.2.1 x.2.2) x.2.2 th0 xs := by
  simp only [meets, Bool.and_eq_true] at h
  obtain ⟨⟨⟨hw, hg⟩, hs⟩, hd⟩ := h
  split at hs
  · rename_i xs hx
    refine ⟨xs, hw, hg, hx, ?_⟩
    split at hd <;> simp_all [Thread.dstReady]
  · simp at hs

/-- Every form of a list meets its premises. -/
def Met (l : List ((FmtA → Instr) × (FmtA → ARule) × FmtA)) : Prop :=
  ∀ x ∈ l, ∃ xs, WellFormed (x.1 x.2.2) ∧ AReady (x.2.1 x.2.2) x.2.2 th0 xs

theorem met_of (l : List ((FmtA → Instr) × (FmtA → ARule) × FmtA)) (h : l.all meets = true) : Met l :=
  fun x hx => meets_ready (List.all_eq_true.mp h x hx)

/-- The fields of a form with a type. -/
def ty (t : Tag) : FmtA := { plainA with type := t }

theorem witness_IntegerForms : Met
    [(.iadd, ruleIntAdd, ty .i32), (.iadd, ruleIntAdd, { ty .u8x4 with sat := true, dst := 255 }), (.isub, ruleIntAdd, ty .u32),
     (.isub, ruleIntAdd, { ty .i8x4 with sat := true }), (.imin, ruleMinMax, ty .i8x4), (.imax, ruleMinMax, ty .u32),
     (.iabs, ruleAbs, { ty .i32 with lit := some 0x80000000 }), (.iabs, ruleAbs, { ty .i8x4 with sat := true }),
     (.imul, ruleMul, ty .i32), (.imulh, ruleMul, { ty .i32 with imm := true, srcC := 0x80 }), (.imulh, ruleMul, ty .u32),
     (.imad, ruleMad, ty .u32), (.imadw, ruleMadw, { ty .i32 with dst := 253, srcC := 253 }),
     (.imadw, ruleMadw, { ty .u32 with lit := some 0xFFFFFFFFFFFFFFFF }), (.iaddc, ruleCarry, { ty .u32 with srcC := 7 }),
     (.iaddc, ruleCarry, { ty .i32 with lit := some 0xFFFFFFFF }), (.isubb, ruleCarry, ty .u32),
     (.icmp, ruleIcmp, ty .i32), (.icmp, ruleIcmp, { ty .i32 with var := 1 }), (.icmp, ruleIcmp, { ty .u32 with var := 2 }),
     (.icmp, ruleIcmp, { ty .u32 with var := 3, dst := 7 }), (.sel, ruleSel, ty .raw), (.sel, ruleSel, { ty .f32 with srcC := 1 }),
     (.mov, ruleMov, ty .raw), (.mov, ruleMov, ty .addrHi), (.movl, ruleMovl, ty .raw), (.movl, ruleMovl, ty .addrLo),
     (.lea64, ruleLea64, { ty .addrLo with var := 3 }), (.add64, ruleAdd64, ty .addrLo), (.add64, ruleAdd64, ty .u32)] :=
  met_of _ (by decide +kernel)

theorem witness_BitForms : Met
    [(.shl, ruleShift, { ty .raw with lit := some 31 }), (.shl, ruleShift, { ty .raw with lit := some 32 }),
     (.shr, ruleShift, { ty .u32 with lit := some 32 }), (.shr, ruleShift, { ty .u32 with lit := some 31 }),
     (.sar, ruleSar, { ty .i32 with lit := some 0xFFFFFFFF }), (.dsh, ruleDsh, { ty .raw with lit := some 32 }),
     (.dsh, ruleDsh, { ty .raw with var := 1, lit := some 33 }), (.and, ruleLogic, ty .raw), (.or, ruleLogic, ty .f32),
     (.xor, ruleLogic, ty .addrLo), (.bool3, ruleBool3, { ty .raw with modA := 7, var := 3 }),
     (.pbool, rulePbool, { ty .raw with dst := 7, srcA := 7, var := 2 }), (.clz, ruleCount, ty .u32),
     (.clz, ruleCount, { ty .u32 with lit := some 0x80000000 }), (.ctz, ruleCount, ty .u32),
     (.ctz, ruleCount, { ty .u32 with lit := some 1 }), (.popc, ruleCount, ty .u32), (.brev, ruleBrev, ty .raw),
     (.bfx, ruleShift, { ty .i32 with lit := some 0x0120 }), (.bfx, ruleShift, { ty .u32 with lit := some 0x2000 }),
     (.bfi, ruleBfi, { ty .raw with lit := some 0x0120 }), (.bysel, ruleBysel, { ty .i8x4 with lit := some 0x1F180F07 }),
     (.bil2, ruleBil2, ty .raw), (.bil3, ruleBil3, ty .u32), (.bdl2, ruleBdl 2, { ty .raw with dst := 253 }),
     (.bdl3, ruleBdl 3, { ty .u32 with dst := 252 })] :=
  met_of _ (by decide +kernel)

/-- NaN, both infinities, both zeros, a negative and a positive number, integers and powers of two reach every clause. -/
theorem witness_FloatForms : Met
    ([(.fadd, ruleF2, ty .f32), (.fsub, ruleF2, { ty .f32 with var := 1 }), (.fmul, ruleF2, { ty .f32 with var := 2 }),
      (.ffma, ruleF3, { ty .f32 with var := 3 }), (.fscale, ruleFscale, { ty .f32 with imm := true, srcC := 0x80 })] ++
     ([0x7FC00000, 0x7F800000, 0xFF800000, 0, 0x80000000, 0xC0400000, 0x40800000] : List DWord).flatMap fun w =>
       [(.frcp, ruleF1, { ty .f32 with lit := some w }), (.fsqrt, ruleF1, { ty .f32 with lit := some w }),
        (.frsq, ruleF1, { ty .f32 with lit := some w }), (.fexp2, ruleF1, { ty .f32 with lit := some w }),
        (.flog2, ruleF1, { ty .f32 with lit := some w }), (.fsin, ruleF1, { ty .f32 with lit := some w }),
        (.fcos, ruleF1, { ty .f32 with lit := some w }), (.ftanh, ruleF1, { ty .f32 with lit := some w })]) :=
  met_of _ (by decide +kernel)

theorem witness_FloatOrder : Met
    (([0x7FC00000, 0x7F800001, 0x7F800000, 0xFF800000, 0, 0x80000000, 1, 0x807FFFFF, 0x00800000, 0xBF800000] :
        List DWord).flatMap fun w =>
      [(.fmin, ruleFminmax, { ty .f32 with lit := some w }), (.fmax, ruleFminmax, { ty .f32 with lit := some w }),
       (.fclass, ruleFclass, { ty .f32 with lit := some w })] ++
      ([0, 1, 2, 3, 4, 5, 6, 7] : List (BitVec 8)).map fun c => (.fcmp, ruleFcmp, { ty .f32 with srcC := c, lit := some w })) :=
  met_of _ (by decide +kernel)

theorem witness_PackedArithmetic : Met
    (([.bf16x2, .f16x2] : List Tag).flatMap fun t =>
      [(.pkadd, rulePk2, ty t), (.pkmul, rulePk2, { ty t with var := 3 }), (.pkfma, rulePk3, ty t),
       (.pkmin, rulePkMinMax, { ty t with lit := some 0x7FC08000 }), (.pkmax, rulePkMinMax, { ty t with modB := 6 })]) :=
  met_of _ (by decide +kernel)

theorem witness_DotProducts : Met
    [(.dot2, ruleDot [.bf16x2, .f16x2], { ty .bf16x2 with var := 2 }), (.dot2, ruleDot [.bf16x2, .f16x2], ty .f16x2),
     (.dot4, ruleDot [.e4m3x4, .e5m2x4, .i8x4, .u8x4], ty .e5m2x4),
     (.dot4, ruleDot [.e4m3x4, .e5m2x4, .i8x4, .u8x4], { ty .u8x4 with sat := true }),
     (.dot4, ruleDot [.e4m3x4, .e5m2x4, .i8x4, .u8x4], ty .i8x4), (.dot8, ruleDot [.e2m1x8, .i4x8], ty .e2m1x8),
     (.dot8, ruleDot [.e2m1x8, .i4x8], { ty .i4x8 with sat := true })] :=
  met_of _ (by decide +kernel)

theorem witness_ConversionsAndTags : Met
    [(.cvt, ruleCvt, { ty .e4m3x4 with srcC := 0x63, sat := true }), (.cvt, ruleCvt, { ty .f32 with srcC := 0x66 }),
     (.cvt, ruleCvt, { ty .e2m1x8 with srcC := 0x33 }), (.cvt, ruleCvt, { ty .i8x4 with srcC := 0x25 }),
     (.cvt, ruleCvt, { ty .e8m0x4 with srcC := 0x03, var := 2 }), (.pack, rulePack, ty .bf16x2), (.pack, rulePack, ty .i4x8),
     (.unpk, ruleUnpk, { ty .e8m0x4 with dst := 253 }), (.tagset, ruleTagset, ty .addrHi), (.tagget, ruleTagget, ty .u32)] :=
  met_of _ (by decide +kernel)

theorem witness_AbacusForms : Met
    [(.qclr, ruleQclr, { ty .raw with dst := 7 }), (.qadd, ruleQadd, ty .f32), (.qadd, ruleQadd, { ty .i32 with lit := some 0x80000000 }),
     (.qaddSeg, ruleQaddSeg, { ty .raw with var := 1, srcB := 18 }), (.qaddSeg, ruleQaddSeg, { ty .raw with var := 1, srcB := 19 }),
     (.qmac, ruleQmac, ty .f32), (.qmac, ruleQmac, ty .i32), (.qscan, ruleQscan, { ty .i32 with var := 3 }),
     (.qrnd, ruleQrnd, ty .bf16x2), (.qrnd, ruleQrnd, { ty .i32 with srcA := 7 }), (.qmov, ruleQmov, { ty .raw with dst := 1 }),
     (.qmov, ruleQmov, ty .raw), (.qmovSeg, ruleQmovSeg, { ty .raw with var := 1, srcB := 19 }), (.qflag, ruleQflag, ty .u32)] :=
  met_of _ (by decide +kernel)

/-- Two lanes of one row in lane order, the first with p0 true and the second with p0 false. -/
theorem witness_plain_cross : Met
    ([(.permx, rulePermx false, { ty .raw with modB := 6 }), (.ballot, ruleBallot false, { ty .u32 with srcA := 7 }),
      (.vote, ruleVote false, ty .raw), (.vote, ruleVote false, { ty .raw with srcB := 1 }),
      (.vote, ruleVote false, { ty .raw with srcB := 2 }), (.laneMatch, ruleMatch false, ty .u32),
      (.lscan, ruleLscan false, { ty .f32 with srcB := 2 }), (.lscan, ruleLscan false, { ty .i32 with srcB := 13 }),
      (.lred, ruleLred false, { ty .u32 with srcB := 5 }), (.elect, ruleElect false, ty .raw)]) ∧
    ([(1, th0), (2, { th0 with uid := 6, preds := 0 })] : List (Nat × Thread)).Pairwise (fun a b => a.1 % 32 < b.1 % 32) ∧
    th0.guard ⟨0, false⟩ = true ∧ ({ th0 with uid := 6, preds := 0 } : Thread).guard ⟨0, false⟩ = false :=
  ⟨met_of _ (by decide +kernel), by decide, by decide, by decide⟩

/-- The premises of a .cv form at the last signer: lane 2 has signed the instruction with a true guard, and lane 1 of the
two declared lanes signs now. -/
def rowLast (cv : Nat) : Row :=
  { row0 with cv := [(cv, { CvReg.zero with decl := 6, signed := 4, gmask := 4, pc := 0x1008 })] }
def thSigned (cv : Nat) : Thread := { th0 with uid := 6, status := .signed cv }
def last (cv : Nat) (t : Thread) : State :=
  { one t with
    cores := [(4, { Core.empty with threads := [(1, t), (2, thSigned cv)], rows := [(0, rowLast cv)], launch := some 1 })] }

theorem last_signer (cv : Nat) (h : cv < 4) : LastSigner (last cv th0) 4 1 cv th0 (rowLast cv) := by
  obtain rfl | rfl | rfl | rfl : cv = 0 ∨ cv = 1 ∨ cv = 2 ∨ cv = 3 := by omega
  all_goals exact ⟨⟨rfl, rfl⟩, rfl, rfl, rfl, rfl, rfl, fun _ => rfl, by decide +kernel, by decide +kernel⟩

/-- The only lane of a set signs: nothing was signed before. -/
def rowAlone : Row := { row0 with cv := [(3, { CvReg.zero with decl := 2 })] }
def alone3 : State :=
  { one th0 with cores := [(4, { Core.empty with threads := [(1, th0)], rows := [(0, rowAlone)] })] }
theorem last_signer_alone : LastSigner alone3 4 1 3 th0 rowAlone :=
  ⟨⟨rfl, rfl⟩, rfl, rfl, rfl, rfl, rfl, fun h => absurd rfl h, by decide +kernel, by decide +kernel⟩

/-- Each .cv form, with the set B of both lanes, and of the other lane alone where the guard is false. -/
theorem witness_CrossLane : Met
    ([(.permxCv, rulePermx true, { ty .raw with sat := true, modB := 6 }),
      (.ballotCv, ruleBallot true, { ty .u32 with sat := true, var := 3 }),
      (.voteCv, ruleVote true, { ty .raw with sat := true, srcB := 2 }),
      (.laneMatchCv, ruleMatch true, { ty .u32 with sat := true, var := 1 }),
      (.lscanCv, ruleLscan true, { ty .f32 with sat := true, srcB := 9 }),
      (.lredCv, ruleLred true, { ty .i32 with sat := true, srcB := 2 }),
      (.electCv, ruleElect true, { ty .raw with sat := true, var := 2 })]) ∧
    LastSigner (last 3 th0) 4 1 3 th0 (rowLast 3) ∧
    (∀ j < 32, ((rowLast 3).reg 3).decl.getLsbD j = true →
      (last 3 th0).thread 4 (32 * (1 / 32) + j) = some (if j = 1 then th0 else thSigned 3)) ∧
    (∀ j < 32, ((rowLast 3).reg 3).gmask.getLsbD j = true → ((rowLast 3).reg 3).signed.getLsbD j = true) ∧
    setB (rowLast 3) 3 1 th0 ⟨7, false⟩ = [1, 2] ∧ setB (rowLast 3) 3 1 th0 ⟨0, true⟩ = [2] :=
  ⟨met_of _ (by decide +kernel), last_signer 3 (by decide), by decide +kernel, by decide +kernel, by decide +kernel,
   by decide +kernel⟩

/-- R32: an empty register with and without a fill pending, in trap mode and not, another tag, another code; a pending and
a lent destination; a false guard. -/
theorem witness_Operands :
    aSrcs (ruleIntAdd (ty .i32)) { ty .i32 with srcA := 4, modA := 1 } = .regs 4 [.i32] true 0 :: [.regs 0 [.i32] false 0] ∧
    aSrcs (ruleMadw (ty .u32)) { ty .u32 with srcA := 4 } =
      .regs 4 [.u32] false 0 :: [.regs 0 [.u32] false 0, .regs 0 [.u32, .u32] false 0] ∧
    (∀ x ∈ ([{ rg .raw 0 with full := false }, { rg .raw 0 with full := false, pending := true }] : List Reg),
      ({ th0 with regs := [(4, x)] } : Thread).reg 4 = x ∧ x.full = false) ∧
    (({ th0 with regs := [(4, rg .f32 1)] } : Thread).reg 4).tag ≠ .i32 ∧
    (({ th0 with regs := [(4, { rg .i32 1 with code := 0 })] } : Thread).reg 4).code ≠ lcc 1 ∧
    (({ th0 with regs := [(8, { rg .raw 0 with pending := true })] } : Thread).reg 8).pending = true ∧
    (({ th0 with regs := [(9, { rg .raw 0 with lent := 1 })] } : Thread).reg 9).lent ≠ 0 ∧
    WellFormed (.iadd { ty .i32 with srcA := 4, modA := 1 }) ∧ WellFormed (.imadw { ty .u32 with srcA := 4, dst := 8 }) ∧
    Single (one th0) 4 1 th0 ∧ th0.guard ⟨0, true⟩ = false ∧ WellFormed (.ld { plainM with guard := ⟨0, true⟩ }) ∧
    WellFormed (.fence { plainM with guard := ⟨7, true⟩ }) ∧ WellFormed (.clock { plainS with guard := ⟨7, true⟩ }) ∧
    WellFormed (.nop { plainE with guard := ⟨7, true⟩ }) := by
  iterate 7 refine ⟨by decide +kernel, ?_⟩
  refine ⟨?_, ?_, one_single _, by decide +kernel, ?_, ?_, ?_, ?_⟩ <;> (unfold WellFormed; decide +kernel)

/-! ## Control -/

/-- Header words: five words long, of the registers live at entry, short and a reconvergence point. -/
def hdrWord : DWord := 0xF014200000012000

/-- A leaf that grants everything for the page at 0x1000, under key slot 3, and the module with sixteen words in the L2 at
the page's start. -/
def leaf0 (cls : OrdClass) : Leaf := ⟨2, 0x1000, 0, 0x5000, 3, false, true, true, true, true, cls⟩
def mem (t : Thread) (cls : OrdClass) (ws : List Datum) : State :=
  { one t with
    cores := [(4, { Core.empty with threads := [(1, t)], rows := [(0, row0)], launch := some 1, tlb := [leaf0 cls] })]
    clusters := [(1, { Cluster.empty with tlb := [leaf0 cls] })]
    l2Tags := [(0xA0, ⟨3, 0⟩)], l2 := [(0x140, ⟨ws, false⟩)]
    parts := [(2, { Part.reset with exists_ := true, xlEnable := true, keymask := 8 })] }
def dat (w : Word) : Datum := ⟨w, lcc w⟩
def codeWords : List Datum := (List.replicate 8 [dat (lo32 hdrWord), dat (hi32 hdrWord)]).flatten
def code (t : Thread) : State := mem t .rc codeWords

theorem mem_single (t : Thread) (cls : OrdClass) (ws : List Datum) : Single (mem t cls ws) 4 1 t := ⟨rfl, rfl⟩

/-- A header at 0x1000 whose P is at 0x1000 + 8 · 2, and a full stack. -/
def thBlock (h : DWord) (st : List DWord) : Thread := { th0 with hdr := h, rstk := st }

/-- A branch by displacement, a branch by register and a call in place: the target, and the point that is pushed, hold
headers. A taken and an untaken lane; a new point on a full stack, and one that is the top entry. -/
theorem witness_Branches :
    th0.point = none ∧ (thBlock 0xF014200000802000 [1, 2, 3, 4]).point = some 0x1010 ∧
    (thBlock 0xF014200000802000 [0x1010]).point = some 0x1010 ∧
    PointOk (code th0) 4 2 none (code th0) ∧
    PointOk (code (thBlock 0xF014200000802000 [1, 2, 3, 4])) 4 2 (some 0x1010) (code (thBlock 0xF014200000802000 [1, 2, 3, 4])) ∧
    checkTarget (code th0) 4 2 (0x1008 + 8 * (1#32).signExtend 64) = .ok hdrWord (code th0) ∧
    (∃ xs, ({ th0 with regs := [(4, rg .addrLo 0x1038), (5, rg .addrHi 0)] } : Thread).sources
      [.regs 4 [.addrLo, .addrHi] false 0] = .ok xs ∧ srcPair xs 0 = 0x1038) ∧
    checkTarget (code { th0 with regs := [(4, rg .addrLo 0x1038), (5, rg .addrHi 0)] }) 4 2 0x1038 =
      .ok hdrWord (code { th0 with regs := [(4, rg .addrLo 0x1038), (5, rg .addrHi 0)] }) ∧
    th0.guard ⟨0, false⟩ = true ∧ th0.guard ⟨0, true⟩ = false ∧ th0.dstReady 253 2 = .ok () ∧
    Single (code th0) 4 1 th0 :=
  ⟨by decide +kernel, by decide +kernel, by decide +kernel, ⟨fun _ => rfl, by simp⟩,
   ⟨by simp, fun a h => by obtain rfl := Option.some.inj h; exact ⟨hdrWord, rfl⟩⟩, rfl, ⟨_, rfl, by decide +kernel⟩, rfl,
   by decide +kernel, by decide +kernel, rfl, mem_single _ _ _⟩

/-- Another thread of the row lives, and no register of the core becomes complete: with no posted failure, and with one. -/
def twoAlive (t : Thread) : State := two t { th0 with uid := 6 }
def failedPost : Posted := ⟨0x2000, 0x10, 0, 1⟩
theorem witness_ThreadsEnd :
    Single { twoAlive th0 with issue := ⟨4, [1]⟩ } 4 1 th0 ∧
    Single { twoAlive { th0 with posted := [failedPost] } with issue := ⟨4, [1]⟩ } 4 1 { th0 with posted := [failedPost] } ∧
    th0.guard plainE.guard = true ∧ rowAt (twoAlive th0) 4 0 = some row0 ∧ tabFind (twoAlive th0).launches 1 = some (launch0 0) ∧
    (∃ e ∈ ((twoAlive th0).core 4).threads, e.1 ≠ 1 ∧ e.1 / 32 = 0) ∧
    (∀ e ∈ ((twoAlive th0).core 4).rows, ∀ v ∈ e.2.cv, v.2.complete = false) ∧
    ∀ v v', v ∈ row0.cv → Cleared 1 v.2 v' → v'.complete = false :=
  ⟨⟨rfl, rfl⟩, ⟨rfl, rfl⟩, by decide +kernel, by decide +kernel, by decide +kernel,
   ⟨(2, { th0 with uid := 6 }), by decide +kernel, by decide, by decide⟩, by decide +kernel, fun v v' h => by simp [row0] at h⟩

/-- A launch whose level 3 has a domain, the last signer of its row, and a barrier at that level in each state: not yet
arrived with one row, not yet arrived with another row missing, arrived in a phase that is over. -/
def rec3 : BitVec 2048 := (3 <<< 343) ||| (1 <<< (512 + 64 * 3 + 55))
def barState (f : Tab BarFlag) (bs : List Barrier) (more : Tab Row) : State :=
  { last 1 th0 with
    cores := [(4, { Core.empty with
      threads := [(1, th0), (2, thSigned 1)], rows := (0, { rowLast 1 with bar := f }) :: more, launch := some 1 })]
    launches := [(1, { launch0 rec3 with barriers := bs })] }
def fB : FmtE := { plainE with cv := 1, unit := 3 }
theorem witness_Convergence :
    Single (one th0) 4 1 th0 ∧ rowAt (one th0) 4 0 = some row0 ∧ (row0.reg 3).signed = 0 ∧ th0.dstReady 254 1 = .ok () ∧
    rowAt (last 2 th0) 4 0 = some (rowLast 2) ∧ ((rowLast 2).reg 2).signed ≠ 0 ∧ Single (last 2 th0) 4 1 th0 ∧
    (∃ xs, th0.sources (eSrcs ruleCvdecl { plainE with lit := some 0xFFFFFFFF }) = .ok xs) ∧
    LastSigner (barState [] [] []) 4 1 fB.cv.toNat th0 (rowLast 1) ∧
    tabFind (barState [] [] []).launches 1 = some (launch0 rec3) ∧
    (1 ≤ fB.unit.toNat ∧ fB.unit.toNat ≤ launchTop (barState [] [] []) 1 ∧ levelDomain (barState [] [] []) 1 3 ≠ 0) ∧
    (∀ e ∈ maskKeys 0 ((rowLast 1).reg 1).decl, ∀ u, (barState [] [] []).thread 4 e = some u → Quiet (barState [] [] []) u) ∧
    ((rowLast 1).reg 1).arrived = false ∧ rowFlag (barState [] [] []) ⟨4, 0, 1⟩ 3 = BarFlag.zero ∧
    (barrierOf (barState [] [] []) (rowLast 1) 3).arrivals + 1 = rowsOf (barState [] [] []) 1 3 [0, 0, 0, 0, 0] ∧
    (barrierOf (barState [] [] [(1, row0)]) (rowLast 1) 3).arrivals + 1 ≠
      rowsOf (barState [] [] [(1, row0)]) 1 3 [0, 0, 0, 0, 0] ∧
    (rowFlag (barState [(3, ⟨true, false, 0⟩)] [⟨3, [0, 0, 0, 0, 0], 1, 0⟩] []) ⟨4, 0, 1⟩ 3).arrived = true ∧
    (rowFlag (barState [(3, ⟨true, false, 0⟩)] [⟨3, [0, 0, 0, 0, 0], 1, 0⟩] []) ⟨4, 0, 1⟩ 3).phase <
      (barrierOf (barState [(3, ⟨true, false, 0⟩)] [⟨3, [0, 0, 0, 0, 0], 1, 0⟩] []) (rowLast 1) 3).phase :=
  ⟨one_single _, rfl, rfl, rfl, rfl, by decide +kernel, ⟨rfl, rfl⟩, ⟨_, rfl⟩,
   ⟨⟨rfl, rfl⟩, rfl, rfl, rfl, rfl, rfl, fun _ => rfl, by decide +kernel, by decide +kernel⟩, rfl, by decide +kernel,
   by
    intro e he u hu
    have : e = 1 ∨ e = 2 := by simpa [show maskKeys 0 ((rowLast 1).reg 1).decl = [1, 2] by decide +kernel] using he
    obtain rfl | rfl := this <;> obtain rfl := Option.some.inj hu <;> exact ⟨by simp [barState, last, one, State.reset], rfl⟩,
   rfl, by decide +kernel, by decide +kernel, by decide +kernel, by decide +kernel, by decide +kernel⟩

/-- A record of 256 bytes that memory holds at 0x1000; an edge with room, and a gang that a token of edge 6 spawned. -/
def zeros4 : List (Nat × L2Sector) := (List.range 4).map fun i => (0x140 + i, ⟨List.replicate 16 zeroDatum, false⟩)
def thAddr : Thread := { th0 with regs := [(4, rg .addrLo 0x1000), (5, rg .addrHi 0)] }
def recMem : State := { mem thAddr .rc [] with l2Tags := [(0xA0, ⟨3, 0⟩), (0xA1, ⟨3, 0⟩)], l2 := zeros4 }
def edgeRec (out : Bool) : BitVec 2048 := (if out then 0xC6 <<< 392 else 0x86 <<< 392)
def edgeState (out : Bool) (e : Edge) (g : List TopGang) : State :=
  { one th0 with launches := [(1, { launch0 (edgeRec out) with gangs := g })]
                 parts := [(2, { Part.reset with exists_ := true, edges := [(6, e)] })] }
def spawned (p : Bool) : TopGang := ⟨0, .placed [4], 0, 0, 0, 0, some (6, dat 7, dat 8), p⟩
theorem recMem_read : ((readRecord recMem 4 (launchPart recMem 1) 0x1000).1).toBool = true := by decide +kernel
theorem witness_LaunchesAndEdges :
    Single recMem 4 1 thAddr ∧ Quiet recMem thAddr ∧ th0.guard plainE.guard = true ∧
    (∃ xs, thAddr.sources (eSrcs ruleLaunch { plainE with srcA := 4 }) = .ok xs ∧ srcPair xs 0 = 0x1000) ∧
    isGlobal 0x1000 = false ∧ ((readRecord recMem 4 (launchPart recMem 1) 0x1000).1).toBool = true ∧
    (∃ xs, th0.sources (eSrcs ruleEpush { plainE with unit := 0 }) = .ok xs) ∧
    (edgeDesc (edgeRec true).toNat 0).valid = true ∧ (edgeDesc (edgeRec true).toNat 0).out = true ∧
    (edgeDesc (edgeRec true).toNat 0).id = 6 ∧ (edgeDesc (edgeRec false).toNat 0).out = false ∧
    launchPart (edgeState true ⟨3, 2, [], none, none⟩ []) 1 = 2 ∧
    (((edgeState true ⟨3, 2, [⟨dat 0, dat 0, false⟩], none, none⟩ []).part 2).edge 6).tokens.length < 2 ∧
    topGangOf (edgeState false .free [spawned false]) 4 1 th0 = some (spawned false) ∧
    topGangOf (edgeState false .free [spawned true]) 4 1 th0 = some (spawned true) ∧
    Datum.okay (dat 7) = true ∧ Datum.okay (dat 8) = true :=
  ⟨⟨rfl, rfl⟩, ⟨by simp [recMem, mem, one, State.reset], rfl⟩, by decide +kernel,
   ⟨_, rfl, by decide +kernel⟩, by decide +kernel, recMem_read, ⟨_, rfl⟩, by decide +kernel⟩

/-- A launch of policy HANDLE whose handler is the block at 0x1000; a thread in the handler, whose %epc was written and not. -/
def handled (t : Thread) : State := { code t with launches := [(1, launch0 (0x1000 <<< 64))] }
def thIn (w : Bool) : Thread := { th0 with inHandler := true, epc := 0x1010, eblk := 0x1000, ehdr := hdrWord, epcWritten := w }
theorem witness_TrapsAndReturns :
    Single (handled th0) 4 1 th0 ∧ th0.guard plainS.guard = true ∧ th0.inHandler = false ∧ launchPolicy (handled th0) 1 = 0 ∧
    launchHandler (handled th0) 1 = 0x1000 ∧ (∀ d ∈ (handled th0).demands, d.inst ≠ (handled th0).nextId) ∧
    ((handled th0).core 4).issues = true ∧
    checkTarget (handled th0) 4 2 0x1000 = .ok hdrWord (handled th0) ∧
    Single (handled (thIn false)) 4 1 (thIn false) ∧ (thIn false).inHandler = true ∧ (thIn false).epcWritten = false ∧
    (thIn true).epcWritten = true ∧ checkTarget (handled (thIn true)) 4 2 (thIn true).epc = .ok hdrWord (handled (thIn true)) :=
  ⟨⟨rfl, rfl⟩, rfl, rfl, by decide +kernel, by decide +kernel, by simp [handled, code, mem, one, State.reset], rfl, rfl,
   ⟨rfl, rfl⟩, rfl, rfl, rfl, rfl⟩

/-- Every special register, the last of each kind at its highest index. -/
theorem witness_SpecialRegisters :
    Single (one th0) 4 1 th0 ∧ SpecialIs (one th0) 4 1 th0 0x17 [(.u32, 0)] ∧ SpecialIs (one th0) 4 1 th0 0x1F [(.u32, 1)] ∧
    SpecialIs (one th0) 4 1 th0 0x43
      [(.raw, 0), (.raw, 0), (.raw, lo32 ((0 : DWord))), (.raw, hi32 ((0 : DWord))), (.raw, 0)] ∧
    SpecialIs (one th0) 4 1 th0 0x107 [(.raw, 0), (.raw, 0)] ∧ SpecialIs (one th0) 4 1 th0 0x10B [(.addrLo, 0), (.addrHi, 0)] ∧
    SpecialIs (one th0) 4 1 th0 0x102 [(.u32, 0)] ∧ th0.dstReady 250 5 = .ok () ∧
    (∀ sel ∈ ([0x110, 0x100, 1] : List (BitVec 16)), ∃ xs, th0.sources
      [.regs 4 (List.replicate ((selWords sel.toNat).getD 1) .raw) false 0] = .ok xs) ∧
    (thIn false).inHandler = true ∧ th0.inHandler = false :=
  ⟨one_single _, .gid 7 (by decide), .ext 7 (by decide), .cv 3 (by decide) row0 rfl, .frec 3 (by decide), .rstk 3 (by decide),
   .thread (by decide), rfl, by
    intro sel h
    simp at h
    obtain rfl | rfl | rfl := h <;> exact ⟨_, rfl⟩, rfl, rfl⟩

/-! ## Accesses -/

/-- The words 0 to 15, and the module that holds them at 0x1000 with and without a copy in the core's L1. -/
def words16 : List Datum := (List.range 16).map fun i => dat (BitVec.ofNat 32 i)
def held (t : Thread) (cls : OrdClass) : State := mem t cls words16
def cachedL1 (t : Thread) (cls : OrdClass) : State :=
  (held t cls).modCore 4 fun x => { x with l1 := [⟨.local, 0xA0, 3, [(0, words16)]⟩] }

theorem held_mapped (t : Thread) (cls : OrdClass) (ea : DWord) (k : AKind) (dpa : Nat) (hk : leafPerm (leaf0 cls) k = true)
    (h : 0x1000 ≤ ea.toNat ∧ ea.toNat < 0x2000 ∧ dpa = 0x5000 + (ea.toNat - 0x1000)) :
    Mapped (held t cls) 4 2 ea k .page (leaf0 cls) dpa where
  canonical := by omega
  enabled := rfl
  cached := by simp [cachedLeaf, corePlace, held, mem, State.core, tabGet, tlbFind, leafCovers, leaf0, h.1, h.2.1]
  granted := by
    have : (((held t cls).part 2).keymask.getLsbD 3) = true := by
      simp [State.part, tabGet, held, mem, one]
    cases cls <;> simp_all [leafFail, orderOk, leaf0]
  hbm := rfl
  aligned := by cases cls <;> exact ⟨rfl, rfl⟩
  place := h.2.2
  free := rfl

/-- A load of four words at the end of a sector, a halfword, and a load at each class; a copy in the L1 and none. -/
theorem witness_Loads :
    (∀ cls : OrdClass, Mapped (held thAddr cls) 4 (launchPart (held thAddr cls) 1) 0x1030 .load .page (leaf0 cls) 0x5030) ∧
    Single (held thAddr .rc) 4 1 thAddr ∧ Alone (held thAddr .rc) ∧ thAddr.dstReady 251 4 = .ok () ∧
    (∃ xs, thAddr.sources (mAddrSrcs true { plainM with addr := 4, disp := 3, size := 2, index := 255, dst := 8 }) = .ok xs ∧
      eaOf { plainM with addr := 4, disp := 3, size := 2, index := 255, dst := 8 } xs 0 = 0x1030) ∧
    WellFormed (.ld { plainM with addr := 4, disp := 3, size := 2, index := 255, dst := 8 }) ∧
    WellFormed (.lda { plainM with addr := 4, size := 3, fn := 1, type := .i32, scope := .sy }) ∧
    WellFormed (.ldx { plainM with addr := 4, size := 1, type := .addrLo }) ∧
    l1Find (cachedL1 thAddr .rc) 4 (.local, 0x140, 3) = some words16 ∧
    l1Find (held thAddr .rc) 4 (.local, 0x140, 3) = none ∧ l2Hit (held thAddr .rc) 0x5030 3 = some ⟨words16, false⟩ ∧
    words16.length = 16 ∧ words16.all Datum.okay = true ∧ ((held thAddr .rc).core 4).split < 8 :=
  ⟨fun cls => held_mapped _ _ _ _ _ rfl (by decide), ⟨rfl, rfl⟩, ⟨rfl, by simp [held, mem, one, State.reset]⟩, rfl,
   ⟨_, rfl, by decide +kernel⟩, by unfold WellFormed; decide +kernel, by unfold WellFormed; decide +kernel,
   by unfold WellFormed; decide +kernel, by decide +kernel, by decide +kernel, by decide +kernel, by decide, by decide +kernel,
   by decide⟩

theorem witness_Stores :
    (∀ cls : OrdClass, Mapped (held thAddr cls) 4 (launchPart (held thAddr cls) 1) 0x1038 .store .page (leaf0 cls) 0x5038) ∧
    Single (held thAddr .so) 4 1 thAddr ∧ Alone (held thAddr .so) ∧ thAddr.posted = [] ∧
    (∃ xs, thAddr.sources (mDataSrc { plainM with addr := 4, disp := 7, size := 1, index := 255, dst := 8 } 2 ::
        mAddrSrcs true { plainM with addr := 4, disp := 7, size := 1, index := 255, dst := 8 }) = .ok xs ∧
      eaOf { plainM with addr := 4, disp := 7, size := 1, index := 255, dst := 8 } xs 1 = 0x1038) ∧
    WellFormed (.st { plainM with addr := 4, disp := 7, size := 1, index := 255, dst := 8 }) ∧
    WellFormed (.stl { plainM with addr := 4, size := 3, scope := .pd }) ∧ WellFormed (.stx { plainM with addr := 4, size := 2 }) ∧
    l2Hit (held thAddr .so) 0x5038 3 = some ⟨words16, false⟩ ∧ readOnly (held thAddr .so) 0x5038 = false ∧
    l1Find (cachedL1 thAddr .rc) 4 (.local, 0x140, 3) = some words16 :=
  ⟨fun cls => held_mapped _ _ _ _ _ rfl (by decide), ⟨rfl, rfl⟩, ⟨rfl, by simp [held, mem, one, State.reset]⟩, rfl,
   ⟨_, rfl, by decide +kernel⟩, by unfold WellFormed; decide +kernel, by unfold WellFormed; decide +kernel,
   by unfold WellFormed; decide +kernel, by decide +kernel, by decide +kernel, by decide +kernel⟩

/-- An allocation of 512 bytes from 256 on, and the last quadword of it. -/
def gang0 : CoreGang := ⟨1, 0, [], [0], 256, 512, 0⟩
def scratch (t : Thread) : State := (one t).modCore 4 fun x => { x with gangs := [gang0] }
def fS (disp : BitVec 8) (size fn : BitVec 2) : FmtM := { plainM with addr := 4, disp := disp, size := size, fn := fn, index := 255, dst := 8 }
theorem witness_Scratchpad :
    Single (scratch th0) 4 1 th0 ∧ gangOf (scratch th0) 4 1 = some gang0 ∧ gang0.base % 256 = 0 ∧
    496 + mBytes (fS 31 2 0) ≤ gang0.size ∧ 496 % mBytes (fS 31 2 0) = 0 ∧ WellFormed (.lds (fS 31 2 0)) ∧
    WellFormed (.sts (fS 31 2 0)) ∧ WellFormed (.sts (fS 127 3 1)) ∧
    (∃ xs, th0.sources (mAddrSrcs false (fS 31 2 0)) = .ok xs ∧
      (srcW xs 0 + ((fS 31 2 0).disp.signExtend 32 + srcW xs 1) * BitVec.ofNat 32 (mBytes (fS 31 2 0))).toNat = 496) ∧
    (∃ xs, th0.sources (mDataSrc (fS 127 3 1) 1 :: mAddrSrcs false (fS 127 3 1)) = .ok xs ∧
      (srcW xs 1 + ((fS 127 3 1).disp.signExtend 32 + srcW xs 2) * BitVec.ofNat 32 (mBytes (fS 127 3 1))).toNat = 254) ∧
    (scratchWords ((scratch th0).core 4) (256 + 496) 4).all Datum.okay = true ∧ th0.dstReady 8 4 = .ok () :=
  ⟨⟨rfl, rfl⟩, rfl, rfl, by decide, by decide, by unfold WellFormed; decide +kernel, by unfold WellFormed; decide +kernel,
   by unfold WellFormed; decide +kernel, ⟨_, rfl, by decide +kernel⟩, ⟨_, rfl, by decide +kernel⟩, by decide +kernel, rfl⟩

/-- A partition with the rank table in use: rank 0 this module, rank 1 a pod peer, rank 2 a position that is dead, rank 3
absent, rank 4 remote; regions 0 valid and not writable, 1 valid and writable. -/
def thFar (a : DWord) : Thread := { th0 with regs := [(4, rg .addrLo (lo32 a)), (5, rg .addrHi (hi32 a))] }
def ranks (t : Thread) : State :=
  { one t with
    peers := [(3, { Peer.off with state := 1 })]
    parts := [(2, { Part.reset with
      exists_ := true, xlGlobal := true, regions := [(0, 0x1003), (1, 0x100B), (2, 0x100A)]
      rt := [(0, 5), (1, 0), (0x400, 0x8000000000000000), (0x401, 0x8000010000000003), (0x402, 0xA000020000000000),
             (0x403, 0x8000040000000020)] })] }
theorem witness_GlobalAddresses :
    resolveRank (ranks th0) 2 0 = .loc 0 0 ∧ resolveRank (ranks th0) 2 1 = .pod 3 0 ∧ resolveRank (ranks th0) 2 2 = .dead none ∧
    resolveRank (ranks th0) 2 3 = .invalid ∧ resolveRank (ranks th0) 2 4 = .remote 0x20 0 ∧
    ((ranks th0).part 2).xlGlobal = true ∧ ((one th0).part 2).xlGlobal = false ∧
    ((tabGet 0 ((ranks th0).part 2).regions 0).getLsbD 0 = true ∧ (tabGet 0 ((ranks th0).part 2).regions 0).getLsbD 3 = false ∧
      (tabGet 0 ((ranks th0).part 2).regions 1).getLsbD 3 = true ∧ (tabGet 0 ((ranks th0).part 2).regions 2).getLsbD 0 = false ∧
      2 ^ (((tabGet 0 ((ranks th0).part 2).regions 1).extractLsb' 5 6).toNat + 12) ≤ 4096 ∧
      4095 < 2 ^ (((tabGet 0 ((ranks th0).part 2).regions 1).extractLsb' 5 6).toNat + 12)) ∧
    orderOk .page (regionClass 0x100B) = true ∧ orderOk .so (regionClass 0x100B) = false ∧
    Single (ranks (thFar 0x8000000000000010)) 4 1 (thFar 0x8000000000000010) ∧
    addrOf 0x8000000000000010 = .unicast 0 0 0x10 ∧
    (∃ xs, (thFar 0x8000000000000010).sources (mAddrSrcs true { plainM with addr := 4, index := 255, dst := 8 }) = .ok xs ∧
      eaOf { plainM with addr := 4, index := 255, dst := 8 } xs 0 = 0x8000000000000010) ∧
    sourceCheck (one (thFar 0x8000000000000010)) 2 (.unicast 0 0 0x10) .load .page = .error (⟨0x11, 3, false, 0⟩, false) ∧
    (0x8000000000000012 : DWord).toNat % mBytes plainM ≠ 0 ∧ th0.dstReady 8 1 = .ok () ∧
    WellFormed (.ld { plainM with addr := 4, index := 255, dst := 8 }) := by
  refine ⟨by decide +kernel, by decide +kernel, by decide +kernel, by decide +kernel, by decide +kernel, rfl, rfl,
    by decide +kernel, by decide +kernel, by decide +kernel, ⟨rfl, rfl⟩, by decide +kernel, ⟨_, rfl, by decide +kernel⟩, rfl,
    by decide +kernel, rfl, by unfold WellFormed; decide +kernel⟩

/-- Maintenance and probes: a clean line, with a copy in the L1; a page request not yet written, one that has been, and one
for a global address. -/
def fAddr : FmtM := { plainM with addr := 4, index := 255, dst := 0 }
theorem witness_MaintenanceAndProbes :
    (∀ k : AKind, k = .load → Mapped (held thAddr .rc) 4 (launchPart (held thAddr .rc) 1) 0x1000 k .page (leaf0 .rc) 0x5000) ∧
    Single (held thAddr .rc) 4 1 thAddr ∧ Alone (held thAddr .rc) ∧
    (∃ xs, thAddr.sources (mAddrSrcs true fAddr) = .ok xs ∧ eaOf fAddr xs 0 = 0x1000) ∧
    (∀ j < 2, ∀ x, l2Hit (held thAddr .rc) (0x5000 / 128 * 128 + 64 * j) 3 = some x → x.dirty = false) ∧
    thAddr.dstReady 254 1 = .ok () ∧ (leaf0 .rc).size < 16 ∧ thAddr.waited = false ∧
    ({ thAddr with waited := true } : Thread).waited = true ∧
    (∃ xs, (thFar 0x8000000000000010).sources (mAddrSrcs true fAddr) = .ok xs ∧ (eaOf fAddr xs 0).getLsbD 63 = true ∧
      addrOf (eaOf fAddr xs 0) ≠ .bad) ∧ Single (one (thFar 0x8000000000000010)) 4 1 (thFar 0x8000000000000010) :=
  ⟨fun k h => held_mapped _ _ _ _ _ (by subst h; rfl) (by decide), ⟨rfl, rfl⟩, ⟨rfl, by simp [held, mem, one, State.reset]⟩,
   ⟨_, rfl, by decide +kernel⟩, by
    intro j hj x h
    obtain rfl | rfl : j = 0 ∨ j = 1 := by omega
    · have : x = ⟨words16, false⟩ := (Option.some.inj (h.symm.trans (by decide +kernel)))
      subst this; rfl
    · exact absurd (h.symm.trans (show _ = none by decide +kernel)) (by simp), rfl, by decide, rfl, rfl,
   ⟨_, rfl, by decide +kernel, by decide +kernel⟩, ⟨rfl, rfl⟩⟩

/-- Each operation of Table 13.2 on one word, and the two-word CAS; at each class. -/
theorem witness_Atomics :
    (∀ cls : OrdClass, Mapped (held thAddr cls) 4 (launchPart (held thAddr cls) 1) 0x1000 .atomic .page (leaf0 cls) 0x5000) ∧
    Single (held thAddr .so) 4 1 thAddr ∧ Alone (held thAddr .so) ∧ thAddr.posted = [] ∧
    (∀ t ∈ ([.raw, .i32, .u32, .f32] : List Tag), ∀ fn ∈ ([0, 1, 2, 3] : List (BitVec 2)),
      formOk (.atom { fAddr with type := t, fn := fn, dst := 8 }) = true ∧
      (fn ≠ 3 → formOk (.red { fAddr with type := t, fn := fn, dst := 8 }) = true)) ∧
    formOk (.cas { fAddr with size := 1, type := .addrLo, dst := 8 }) = true ∧
    formOk (.atom { fAddr with size := 1, type := .addrLo, fn := 3, dst := 8, scope := .sy }) = true ∧
    (∃ xs, thAddr.sources (mDataSrc { fAddr with size := 1, dst := 8 } 4 :: mAddrSrcs true { fAddr with size := 1, dst := 8 }) =
      .ok xs ∧ eaOf { fAddr with size := 1, dst := 8 } xs 1 = 0x1000) ∧
    l2Hit (held thAddr .so) 0x5000 3 = some ⟨words16, false⟩ ∧ readOnly (held thAddr .so) 0x5000 = false ∧
    ((words16.drop (0x5000 / 4 % 16)).take 2).all Datum.okay = true ∧ thAddr.dstReady 8 2 = .ok () :=
  ⟨fun cls => held_mapped _ _ _ _ _ rfl (by decide), ⟨rfl, rfl⟩, ⟨rfl, by simp [held, mem, one, State.reset]⟩, rfl,
   by decide +kernel, by decide +kernel, by decide +kernel, ⟨_, rfl, by decide +kernel⟩, by decide +kernel, by decide +kernel,
   by decide +kernel, rfl⟩

/-- A partition that owns bank 0 of the landing counters; counter 0 has reached 0 and 2^47 - 1, and not 1 and 2^47. -/
def counters (n : BitVec 48) : State :=
  { one th0 with landing := [(0, ⟨n, 0⟩)], lcOwner := [(0, 0x12), (255, 0x12)] }
theorem witness_CountersAndFences :
    Single (counters 0) 4 1 th0 ∧ (∃ xs, th0.sources (eSrcs (ruleCntWait plainE) { plainE with lit := some 1 }) = .ok xs ∧
      (srcW xs 0).toNat = 0 ∧ (srcW xs 1).toNat = 0 ∧ (srcPair xs 2).toNat % 2 ^ 48 = 1) ∧
    lcOwned (counters 0) 2 (0 / 64) = true ∧ lcOwned (counters 0) 2 (16383 / 64) = true ∧ lcOwned (counters 0) 2 (64 / 64) = false ∧
    ((0 : BitVec 48) - BitVec.ofNat 48 0).toNat < 2 ^ 47 ∧ ((0x7FFFFFFFFFFF : BitVec 48) - BitVec.ofNat 48 0).toNat < 2 ^ 47 ∧
    ¬ ((0 : BitVec 48) - BitVec.ofNat 48 1).toNat < 2 ^ 47 ∧ ¬ ((0x800000000000 : BitVec 48) - BitVec.ofNat 48 0).toNat < 2 ^ 47 ∧
    (∃ xs, th0.sources (eSrcs (ruleLcread plainE) plainE) = .ok xs) ∧
    (∃ xs, th0.sources (eSrcs (ruleLcadd plainE) { plainE with lit := some 0xFFFFFFFF }) = .ok xs) ∧
    Quiet (counters 0) th0 ∧ th0.dstReady 253 2 = .ok () ∧
    (∃ u, (nx (exec (.lcwait { plainE with lit := some 1 }) (counters 0))).thread 4 1 = some u ∧
      ((nx (exec (.lcwait { plainE with lit := some 1 }) (counters 0))).core 4).issues = true) :=
  ⟨⟨rfl, rfl⟩, ⟨_, rfl, by decide +kernel, by decide +kernel, by decide +kernel⟩, by decide +kernel, by decide +kernel,
   by decide +kernel, by decide, by decide, by decide, by decide, ⟨_, rfl⟩, ⟨_, rfl⟩,
   ⟨by simp [counters, one, State.reset], rfl⟩, rfl, ⟨_, rfl, rfl⟩⟩

/-! ## Copies, maps and rinks -/

/-- A copy from a scratchpad offset to another of 1,024 bytes that reports into map 3. -/
def fC : FmtE := { plainE with dst := 3, srcA := 20, srcB := 21, srcC := 22, unit := 3, var := 3, fn := 1 }
def thC : Thread := { th0 with regs := [(21, rg .raw 1024), (22, rg .raw 1024)] }
def chanState (t : Thread) (x : Channel) (m : ChunkMap) : State :=
  { scratch t with
    cores := [(4, { (scratch t).core 4 with cm := if m = .clear then [] else [(3, m)] })]
    clusters := if x = .zero then [] else [(1, { Cluster.empty with chans := [(3, x)] })] }
def xferOf (n : Nat) : Transfer := ⟨0, 1024, 0, true, true, 0, 0, 1, n, 0, some 3, none, none⟩
theorem witness_Copies :
    WellFormed (.copy fC) ∧ WellFormed (.copyx { fC with srcC := 20 }) ∧
    (∃ xs, thC.sources (eSrcs (ruleCopy fC) fC) = .ok xs ∧ copySpec fC xs = xferOf 1024) ∧
    (∃ xs, th0.sources (eSrcs (ruleCopyx fC) { fC with srcC := 20 }) = .ok xs) ∧
    thC.status = .ready ∧ (∀ x m, NoLine (chanState thC x m) 4 3) ∧
    (∀ n ∈ ([0, 1, 2, 3] : List Nat), (chanOf (chanState thC { Channel.zero with state := n } .clear) 4 fC).state = n) ∧
    WithinLimits (xferOf 4) ∧ WithinLimits (xferOf 65536) ∧ ¬ WithinLimits (xferOf 0) ∧ ¬ WithinLimits (xferOf 65540) ∧
    (((chanState thC .zero { ChunkMap.clear with held := true }).core 4).map 3).held = true ∧
    (((chanState thC .zero .clear).core 4).map 3).held = false ∧ Quiet (chanState thC .zero .clear) thC ∧
    (∀ k : AKind, Known (chanState thC .zero .clear) 4 2 true k 1024) ∧ Single (chanState thC .zero .clear) 4 1 thC :=
  ⟨by unfold WellFormed; decide +kernel, by unfold WellFormed; decide +kernel, ⟨_, rfl, by decide +kernel⟩, ⟨_, rfl⟩, rfl,
   by simp [NoLine, chanState, State.core, tabGet, scratch, one, State.modCore, State.setCore, thC, chanPlace, th0],
   by decide +kernel, by simp [WithinLimits, xferOf], by simp [WithinLimits, xferOf], by simp [WithinLimits, xferOf],
   by simp [WithinLimits, xferOf], by decide +kernel, by decide +kernel, ⟨by simp [chanState, scratch, one, State.reset,
     State.modCore, State.setCore], rfl⟩, fun _ => Or.inl rfl, ⟨by decide +kernel, by decide +kernel⟩⟩

/-- CHAIN: the null head, a head that is not aligned, and a record at 0x1000 that the engine does not own, or owns. -/
def recOf (own : Bool) : List Datum :=
  (List.range 16).map fun i => dat (if i = 1 ∧ own then 0x80000000 else if i = 0 then 0x30000000 else 0)
def chainMem (own : Bool) (head : DWord) : State := mem (thFar head) .rc (recOf own)
theorem witness_Copies_chain :
    (∃ xs, (thFar 0).sources (eSrcs (ruleChain plainE) { plainE with srcA := 4 }) = .ok xs ∧ srcPair xs 0 = 0) ∧
    (∃ xs, (thFar 0x1008).sources (eSrcs (ruleChain plainE) { plainE with srcA := 4 }) = .ok xs ∧ srcPair xs 0 = 0x1008) ∧
    (∃ xs, (thFar 0x1000).sources (eSrcs (ruleChain plainE) { plainE with srcA := 4 }) = .ok xs ∧ srcPair xs 0 = 0x1000) ∧
    (∀ own head, Single (chainMem own head) 4 1 (thFar head) ∧ NoLine (chainMem own head) 4 0 ∧
      Quiet (chainMem own head) (thFar head) ∧ (chanOf (chainMem own head) 4 plainE).state = 0) ∧
    ((chainMem true 0x1000).part (launchPart (chainMem true 0x1000) 1)).xlEnable = true ∧
    cachedLeaf (chainMem true 0x1000) (clusterPlace 1) 2 0x1000 = some (leaf0 .rc) ∧
    leafFail (chainMem true 0x1000) 2 (leaf0 .rc) .load .page none = none ∧
    l2Hit (chainMem true 0x1000) 0x5000 3 = some ⟨recOf true, false⟩ ∧
    l2Hit (chainMem false 0x1000) 0x5000 3 = some ⟨recOf false, false⟩ ∧
    (∀ own, (recOf own).length = 16 ∧ (recOf own).all Datum.okay = true) ∧
    (BitVec.ofNat 512 (wordsVal (recOf false))).getLsbD 63 = false ∧
    (BitVec.ofNat 512 (wordsVal (recOf true))).getLsbD 63 = true ∧ recMalformed (wordsVal (recOf true)) = false ∧
    (BitVec.ofNat 512 (wordsVal (recOf true))).getLsbD 384 = false ∧
    (BitVec.ofNat 512 (wordsVal (recOf true))).getLsbD 23 = false :=
  ⟨⟨_, rfl, by decide +kernel⟩, ⟨_, rfl, by decide +kernel⟩, ⟨_, rfl, by decide +kernel⟩, fun own head => ⟨mem_single _ _ _, by simp [NoLine, chainMem, mem, State.core, tabGet, chanPlace, thFar, th0],
     ⟨by simp [chainMem, mem, one, State.reset], rfl⟩,
     by simp [chanOf, chan, chainMem, mem, State.cluster, tabGet, Channel.zero, plainE, Cluster.empty]⟩, by decide +kernel⟩

/-- A channel in each state; a map held and free, with a missing chunk and a code; a rink with its producer's and its
consumer's stage in each state. -/
def coreState (t : Thread) (cm : Tab ChunkMap) (rk : Tab Rink) : State :=
  { one t with
    cores := [(4, { Core.empty with
      threads := [(1, t)], rows := [(0, row0)], launch := some 1, gangs := [gang0], cm := cm, rk := rk })] }
def rinkOf (st : Tab StageState) : Rink := ⟨0, 512, 2, 1, 0, st, []⟩
def thRk (a b c : Word) : Thread := { th0 with regs := [(20, rg .raw a), (21, rg .raw b), (22, rg .raw c)] }
def fRk : FmtE := { plainE with srcA := 20, srcB := 21, srcC := 22, unit := 0 }
theorem witness_ChannelsMapsAndRinks :
    (∀ t cm rk, Single (coreState t cm rk) 4 1 t ∧ gangOf (coreState t cm rk) 4 1 = some gang0) ∧
    (∀ x : Channel, Single (chanState th0 x .clear) 4 1 th0) ∧
    (chanOf (chanState th0 { Channel.zero with state := 3 } .clear) 4 { plainE with unit := 3 }).state < 4 ∧
    (((coreState th0 [(15, { ChunkMap.clear with held := true })] []).core 4).map 15).held = true ∧
    (((coreState th0 [] []).core 4).map 15).held = false ∧
    WellFormed (.cmtest { plainE with unit := 15, var := 3 }) ∧ WellFormed (.cmtest { plainE with unit := 15, fn := 1 }) ∧
    (∃ xs, th0.sources (eSrcs (ruleCmwait { plainE with fn := 1 }) { plainE with fn := 1 }) = .ok xs) ∧
    (∀ i < 128, (((coreState th0 [] []).core 4).map 15).bits.testBit i = true) ∧
    (((coreState th0 [(15, ⟨0, false, 0x10, false⟩)] []).core 4).map 15).bits.testBit 127 = false ∧
    (((coreState th0 [(15, ⟨0, false, 0x10, false⟩)] []).core 4).map 15).code ≠ 0 ∧
    (((coreState th0 [(15, ⟨0, true, 0, false⟩)] []).core 4).map 15).held = true ∧
    (∃ xs, (thRk 513 512 2).sources (eSrcs (ruleRkinit fRk) fRk) = .ok xs ∧ (srcW xs 0).toNat % 512 ≠ 0) ∧
    (∃ xs, (thRk 512 512 2).sources (eSrcs (ruleRkinit fRk) fRk) = .ok xs ∧ (srcW xs 0).toNat % 512 = 0 ∧
      (srcW xs 1).toNat = 512 ∧ (srcW xs 2).toNat = 2) ∧
    (∀ e ∈ ([(0, 16, 512), (0, 2, 512), (0, 1, 512), (0, 17, 512), (0, 2, 0), (0, 2, 66048)] : List (Nat × Nat × Nat)),
      e.1 + e.2.1 * e.2.2 ≤ 512 ∨ 512 < e.1 + e.2.1 * e.2.2) ∧
    (∀ st ∈ ([.free, .acquired, .inflight, .full, .faulted 0x10, .consuming] : List StageState),
      tabFind ((coreState th0 [] [(0, rinkOf [(1, st), (0, st)])]).core 4).rk 0 = some (rinkOf [(1, st), (0, st)]) ∧
      (rinkOf [(1, st), (0, st)]).stage 1 = st ∧ (rinkOf [(1, st), (0, st)]).stage 0 = st) ∧
    (∃ xs, (thRk 0 0 0).sources (eSrcs (ruleRkrel fRk) { fRk with srcB := 0, srcC := 0 }) = .ok xs ∧ (srcW xs 0).toNat < 2) ∧
    WellFormed (.rkcommit { fRk with var := 1 }) ∧
    (∃ xs, (thRk 1 0 512).sources (eSrcs (ruleRkcommit { fRk with var := 1 }) { fRk with var := 1 }) = .ok xs ∧
      (srcW xs 0).toNat = 1 ∧ (srcW xs 2).toNat = 512) ∧
    (∃ xs, (thRk 1 0 0).sources (eSrcs (ruleRkcommit { fRk with var := 1 }) { fRk with var := 1 }) = .ok xs ∧
      (srcW xs 2).toNat = 0) ∧
    NoLine (coreState (thRk 1 0 512) [] []) 4 0 ∧ Quiet (coreState (thRk 1 0 512) [] []) (thRk 1 0 512) := by
  refine ⟨fun t cm rk => ⟨⟨rfl, rfl⟩, rfl⟩, fun x => ⟨rfl, ?_⟩, by decide +kernel, by decide +kernel, by decide +kernel, ?_, ?_,
    ⟨_, rfl⟩, by decide +kernel, by decide +kernel, by decide +kernel, by decide +kernel, ⟨_, rfl, by decide +kernel⟩,
    ⟨_, rfl, by decide +kernel, by decide +kernel, by decide +kernel⟩, by decide, by decide +kernel,
    ⟨_, rfl, by decide +kernel⟩, ?_, ⟨_, rfl, by decide +kernel, by decide +kernel⟩,
    ⟨_, rfl, by decide +kernel⟩, ?_, ?_⟩
  · simp [chanState, State.thread, State.core, tabGet, scratch, one, State.modCore, State.setCore]; rfl
  · unfold WellFormed; decide +kernel
  · unfold WellFormed; decide +kernel
  · unfold WellFormed; decide +kernel
  · simp [NoLine, coreState, State.core, tabGet, chanPlace, thRk, th0]
  · exact ⟨by simp [coreState, one, State.reset], rfl⟩

/-! ## Tiles -/

/-- The last signer's module with tile 5 of the cluster as given. -/
def tileState (cv : Nat) (t : Thread) (x : Tile) : State :=
  { last cv t with clusters := [(1, { Cluster.empty with tiles := [(5, x)] })] }
def heldTile (cv : Nat) : Tile := { Tile.zero with held := true, core := 0, row := 0, cv := cv, tag := .f32, lastSeq := some 1 }
def fT : FmtE := { plainE with unit := 5, cv := 2 }
theorem tile_signer (x : Tile) : LastSigner (tileState 2 th0 x) 4 1 2 th0 (rowLast 2) :=
  ⟨⟨rfl, rfl⟩, rfl, rfl, rfl, rfl, rfl, fun _ => rfl, by simp only [tileState, last, State.thread, State.core]; decide +kernel,
   by simp only [tileState, last, State.core]; decide +kernel⟩
theorem tile_holds : Holds (tileState 2 th0 (heldTile 2)) 4 1 fT :=
  ⟨⟨rowLast 2, rfl, by decide +kernel⟩, rfl, rfl, rfl, rfl⟩
theorem tile_idle (x : Tile) : ∀ i < 4, ∀ e ∈ ((tileState 2 th0 x).core (4 * (4 / 4) + i)).rows, ∀ v ∈ e.2.cv,
    v.2.fired = none := by
  simp only [tileState, last, State.core]; decide +kernel
theorem witness_Bibs :
    (∀ x : Tile, LastSigner (tileState 2 th0 x) 4 1 2 th0 (rowLast 2) ∧ x = tileOf (tileState 2 th0 x) 1 5) ∧
    setB (rowLast 2) 2 1 th0 plainE.guard ≠ [] ∧ Tile.zero.held = false ∧ Tile.zero.lastSeq ≠ some (rowLast 2).seq ∧
    ({ Tile.zero with lastSeq := some 1 } : Tile).lastSeq = some (rowLast 2).seq ∧ Holds (tileState 2 th0 (heldTile 2)) 4 1 fT ∧
    (heldTile 2).queue = [] ∧ (∀ x, ∀ i < 4, ∀ e ∈ ((tileState 2 th0 x).core (4 * (4 / 4) + i)).rows, ∀ v ∈ e.2.cv,
      v.2.fired = none) :=
  ⟨fun x => ⟨tile_signer x, rfl⟩, by decide +kernel, rfl, by decide, rfl, tile_holds, rfl, tile_idle⟩

/-- MMA with a true and a false guard at the last signer, and MMAX. -/
def fMma : FmtE := { fT with type := .e4m3x4, srcA := 8, srcB := 12 }
theorem witness_MatrixRequests :
    WellFormed (.mma fMma) ∧ WellFormed (.mmax { fMma with srcC := 8 }) ∧
    LastSigner (tileState 2 th0 (heldTile 2)) 4 1 2 th0 (rowLast 2) ∧ Holds (tileState 2 th0 (heldTile 2)) 4 1 fT ∧
    setB (rowLast 2) 2 1 th0 fMma.guard = [1, 2] ∧ setB (rowLast 2) 2 1 th0 ⟨0, true⟩ = [2] ∧
    (∀ j < 32, ((rowLast 2).reg 2).decl.getLsbD j = true →
      (tileState 2 th0 (heldTile 2)).thread 4 (32 * (1 / 32) + j) = some (if j = 1 then th0 else thSigned 2)) ∧
    (∀ j < 32, ((rowLast 2).reg 2).gmask.getLsbD j = true → ((rowLast 2).reg 2).signed.getLsbD j = true) ∧
    (∃ xs, th0.sources (eSrcs (ruleMma fMma) fMma) = .ok xs) ∧
    (∃ xs, th0.sources (eSrcs (ruleMmax fMma) { fMma with srcC := 8 }) = .ok xs) ∧ (heldTile 2).tag = .f32 ∧ (heldTile 2).code = 0 ∧
    passCount (tileState 2 th0 (heldTile 2)) 1 < 16 ∧ (heldTile 2).queue.length < 255 :=
  ⟨by unfold WellFormed; decide +kernel, by unfold WellFormed; decide +kernel, tile_signer _, tile_holds, by decide +kernel,
   by decide +kernel, by decide +kernel, by decide +kernel, ⟨_, rfl⟩, ⟨_, rfl⟩, rfl, rfl, by decide +kernel, by decide⟩

theorem witness_Tiles :
    Single (tileState 2 th0 (heldTile 2)) 4 1 th0 ∧ Holds (tileState 2 th0 (heldTile 2)) 4 1 fT ∧ (heldTile 2).queue = [] ∧
    Tile.zero.held = false ∧ (∃ xs, th0.sources (eSrcs (ruleTwrite fT) { fT with srcA := 8 }) = .ok xs) ∧ (heldTile 2).code = 0 ∧
    (∀ i < 8, Datum.okay (tabGet zeroDatum (heldTile 2).elems (8 * (1 % 32) + i)) = true) ∧ th0.dstReady 247 8 = .ok () ∧
    (∀ t ∈ ([.bf16x2, .e2m1x8] : List Tag), formOk (.tcvt { fT with type := t, var := 1, fn := 1 }) = true) ∧ th0.waited = false ∧
    Holds (tileState 2 th0 { heldTile 2 with code := 0x18 }) 4 1 fT ∧
    Holds (tileState 2 th0 { heldTile 2 with queue := [⟨9, 4, 0, 2, .zero⟩] }) 4 1 fT ∧ fT.fn = 0 ∧
    (heldTile 3).core < 4 ∧ (heldTile 3).row < 16 ∧ (heldTile 3).cv < 4 ∧ th0.dstReady 253 2 = .ok () :=
  ⟨⟨rfl, rfl⟩, tile_holds, rfl, rfl, ⟨_, rfl⟩, rfl, by decide +kernel, rfl, by decide +kernel, rfl,
   ⟨⟨rowLast 2, rfl, by decide +kernel⟩, rfl, rfl, rfl, rfl⟩, ⟨⟨rowLast 2, rfl, by decide +kernel⟩, rfl, rfl, rfl, rfl⟩, rfl,
   by decide, by decide, by decide, rfl⟩

/-- One queued pass of two lanes: with every input in order, and with an input that mismatches. -/
def passOf (d : Datum) : Pass := ⟨[⟨1, 5, List.replicate 8 zeroDatum⟩, ⟨2, 77, d :: List.replicate 7 zeroDatum⟩], 8, 12, none, true, .f16x2, 0, 0, true⟩
def passState (d : Datum) : State :=
  { tileState 2 th0 { heldTile 2 with queue := [⟨9, 4, 0, 2, .pass (passOf d)⟩] } with issue := ⟨0, []⟩ }
theorem witness_MatrixPasses :
    (∀ d, ((passState d).cluster 1).tiles = [(5, { heldTile 2 with queue := [⟨9, 4, 0, 2, .pass (passOf d)⟩] })] ∧
      ((passState d).cluster 1).running = none) ∧
    ((passState zeroDatum).core 4).halting = false ∧ (passOf zeroDatum).inTable = true ∧ (heldTile 2).held = true ∧ (heldTile 2).core = 4 % 4 ∧ (heldTile 2).code = 0 ∧
    (tabFind ((passState zeroDatum).core 4).rows 0).isSome = true ∧ (passOf zeroDatum).lanes.length ≤ 32 ∧
    ((passOf zeroDatum).lanes.map PassLane.key).Nodup ∧ (∀ e ∈ (passOf zeroDatum).lanes, e.key / 32 = 0) ∧
    (∀ e ∈ (passOf zeroDatum).lanes, e.words.all Datum.okay = true) ∧ Datum.okay ⟨1, 5⟩ = false :=
  ⟨fun _ => ⟨rfl, rfl⟩, rfl, rfl, rfl, rfl, rfl, rfl, by decide, by decide, by decide, by decide +kernel, by decide⟩

/-- A gate record at offset 0 that the engine accepts, and one of a group that the partition has not; a handle of an ARMED
gate, and one of none; a group of which this rank is coordinator, member or not. -/
def gateRec (ver : Nat) : Tab Datum :=
  [(64, dat 0xC0048000), (72, dat 4), (74, dat 0x50000), (75, dat (BitVec.ofNat 32 ver))]
def gateState (g : Tab GateSlot) (gs : Tab GroupSlot) (m : Tab Datum) (t : Thread) : State :=
  { one t with
    cores := [(4, { Core.empty with threads := [(1, t)], rows := [(0, row0)], launch := some 1, gangs := [gang0], scratch := m })]
    dies := [(0, { Die.reset 0 with gates := g })], mcGroup := [(5, 0x90000000)], lcOwner := [(0, 0x12)]
    parts := [(2, { Part.reset with exists_ := true, groups := gs })] }
def armedGate : GateSlot :=
  { GateSlot.zero with seq := 1, state := 1, part := 2, launch := 1
                       gate := some ⟨0, 0, 0, 0, 0, 0, 3, 4, 0, 0, 0, 0, 0, 0, 0, false, false, false, false, false, true⟩ }
def thH (w : Word) : Thread := { th0 with regs := [(20, rg .raw w)] }
/-- A thread whose request arrived in the clock before, and stands in the engine's line. -/
def thLine : Thread := { th0 with status := .blocked (.gateSlot 6 1 9) }
def groupOf0 (ms : List Nat) : GroupSlot := { GroupSlot.zero with valid := true, group := 5, version := 1, count := 1, members := ms }
def gRec (ver : Nat) : Nat := wordsVal (scratchWords ((gateState [] [] (gateRec ver) th0).core 4) 256 16)
theorem witness_GatesAndGroups :
    (∀ t g gs m, Single (gateState g gs m t) 4 1 t ∧ gangOf (gateState g gs m t) 4 1 = some gang0) ∧
    (∃ xs, (thH 8).sources (eSrcs (ruleGpost plainE) { plainE with srcA := 20 }) = .ok xs ∧ (srcW xs 0).toNat % 64 ≠ 0) ∧
    448 + 64 ≤ gang0.size ∧ Quiet (gateState [] [] [] th0) th0 ∧
    (∃ xs, th0.sources (eSrcs (ruleGpost plainE) plainE) = .ok xs ∧ (srcW xs 0).toNat = 0) ∧
    (∀ ver ∈ ([1, 2] : List Nat),
      (scratchWords ((gateState [] [] (gateRec ver) th0).core 4) 256 16).all Datum.okay = true ∧ gateMalformed (gRec ver) = false ∧
      (gRec ver < 2 ^ 512) ∧
      gateRefusal (gateState [] [(0, groupOf0 [0])] (gateRec ver) th0) 0 2 (gateOf (gRec ver)) = if ver = 1 then none else some 0x2B) ∧
    (gate (gateState [] [] [] th0) 0 0).state = 0 ∧
    gatePlace th0 = none ∧ gatePlace thLine = some (6, 1, 9) ∧ 6 < (gateState [] [] [] thLine).clock ∧
    (∀ y ∈ (gateState [] [] [] thLine).cores, ∀ u ∈ y.2.threads, u.2.uid ≠ thLine.uid → gatePlace u.2 = none) ∧
    freeGate (gateState [] [] [] thLine) 0 ≠ none ∧
    (∃ xs, (thH 0x1000).sources (eSrcs (ruleHandle plainE) { plainE with srcA := 20 }) = .ok xs ∧
      (srcW xs 0).toNat % 4096 = 0 ∧ ((srcW xs 0).extractLsb' 12 12).toNat = 1) ∧
    gate (gateState [(0, armedGate)] [] [] th0) 0 0 = armedGate ∧ armedGate.state = 1 ∧
    (∃ e, armedGate.gate = some e ∧ followers (gateState [(0, armedGate)] [] [] th0) 2 e = [] ∧ e.rel = false ∧ e.armEn = true) ∧
    groupSlot (gateState [] [(0, groupOf0 [0])] [] th0) 2 5 = some (0, groupOf0 [0]) ∧
    groupSlot (gateState [] [] [] th0) 2 5 = none ∧ (groupOf0 [0]).round = 0 ∧ (groupOf0 [0]).requests = [] ∧
    (groupOf0 [0]).coord = selfRank (gateState [] [(0, groupOf0 [0])] [] th0) 2 ∧
    (groupOf0 [0]).members.contains (selfRank (gateState [] [(0, groupOf0 [0])] [] th0) 2) = true ∧
    (groupOf0 []).members.contains (selfRank (gateState [] [(0, groupOf0 [])] [] th0) 2) = false ∧
    resolveRank (ranks th0) 2 3 = .invalid ∧ resolveRank (ranks th0) 2 2 = .dead none ∧ resolveRank (ranks th0) 2 0 = .loc 0 0 :=
  ⟨fun t g gs m => ⟨⟨rfl, rfl⟩, rfl⟩, ⟨_, rfl, by decide +kernel⟩, by decide, ⟨by simp [gateState, one, State.reset], rfl⟩,
   ⟨_, rfl, by decide +kernel⟩, by decide +kernel, by decide +kernel, rfl, rfl, by decide, by decide +kernel, by decide +kernel,
   ⟨_, rfl, by decide +kernel, by decide +kernel⟩,
   by decide +kernel, rfl, ⟨_, rfl, by decide +kernel, rfl, rfl⟩, by decide +kernel, by decide +kernel, rfl, rfl,
   by decide +kernel, by decide +kernel, by decide +kernel, by decide +kernel, by decide +kernel, by decide +kernel⟩

/-! ## Events -/

/-- A thread that has been in RECONV for 1,024 clocks and for 1,023; a demotion that is over and one that is not; a fired
TACQ that waited for a tile that is free now, used by another launch and by this one. -/
def rowFired : Row :=
  { row0 with cv := [(2, { decl := 2, signed := 2, gmask := 2, pc := 0x1008, instr := some (.tacq fT), fired := some 50, arrived := false })] }
def firedState (x : Tile) : State :=
  { one th0 with cores := [(4, { Core.empty with threads := [(1, { th0 with status := .signed 2 })], rows := [(0, rowFired)] })]
                 clusters := [(1, { Cluster.empty with tiles := [(5, x)] })] }
theorem witness_WaitsEnd :
    (∀ t, (one t).thread 4 1 = some t) ∧ (one th0).clock = 7 ∧
    (({ one th0 with clock := 1024 } : State).thread 4 1).isSome = true ∧ 0 + 1024 ≤ ({ one th0 with clock := 1024 } : State).clock ∧
    ({ one th0 with clock := 1023 } : State).clock < 0 + 1024 ∧ ({ th0 with demotedUntil := 7 } : Thread).demotedUntil ≤ 7 ∧
    7 < ({ th0 with demotedUntil := 8 } : Thread).demotedUntil ∧
    ((firedState .zero).core 4).issues = true ∧ (∀ x, rowAt (firedState x) 4 0 = some rowFired) ∧ (rowFired.reg 2).fired = some 50 ∧
    (rowFired.reg 2).instr = some (.tacq fT) ∧ (rowFired.reg 2).gmask ≠ 0 ∧ (rowFired.reg 2).signed = (rowFired.reg 2).decl ∧
    (∀ j < 32, (rowFired.reg 2).decl.getLsbD j = true → ((firedState .zero).thread 4 (32 * 0 + j)).isSome = true) ∧
    (∀ e ∈ ((firedState .zero).core 4).rows, ∀ v ∈ e.2.cv, v.2.complete = false) ∧
    (∀ i < 4, ∀ e ∈ ((firedState .zero).core (4 * (4 / 4) + i)).rows, ∀ v ∈ e.2.cv, ∀ o', v.2.fired = some o' → 50 ≤ o') ∧
    (∀ x, tileOf (firedState x) 1 5 = x) ∧ Tile.zero.held = false ∧ Tile.zero.lastSeq ≠ some rowFired.seq := by
  refine ⟨fun _ => rfl, rfl, rfl, by decide, by decide, by decide, by decide, rfl, fun _ => rfl, rfl, rfl, by decide, rfl,
    by decide +kernel, by decide +kernel, ?_, fun _ => rfl, rfl, by decide⟩
  intro i hi e he v hv o' h
  obtain rfl | rfl | rfl | rfl : i = 0 ∨ i = 1 ∨ i = 2 ∨ i = 3 := by omega
  · have : e = (0, rowFired) := by simpa [firedState, State.core, tabGet] using he
    subst this
    have : v = (2, rowFired.reg 2) := by simpa [rowFired, Row.reg, tabGet] using hv
    subst this
    have : (50 : Nat) = o' := Option.some.inj h
    omega
  all_goals exact absurd he (by simp [firedState, State.core, tabGet, Core.empty])

/-- A running copy of 1,000 bytes within an allocation of 2,048: the last chunk lands; all have landed; it has failed. -/
def work0 (l : List Nat) (e : Option WorkFault) : Work :=
  ⟨60, 1, 2, 0, 256, 2048, some { xferOf 1000 with src := 0, dst := 1000 }, none, none, 0, l, l, [], [], e⟩
def copying (l : List Nat) (e : Option WorkFault) : State :=
  { one th0 with
    cores := [(4, { Core.empty with threads := [(1, th0)], rows := [(0, row0)], launch := some 1, cm := [(3, ⟨0, true, 0, false⟩)]
                                    scratch := [(319, dat 9)] })]
    clusters := [(1, { Cluster.empty with chans := [(3, { Channel.zero with state := 1, work := some (work0 l e) })] })] }
theorem witness_CopiesAndFillsEnd :
    (∀ l e, chan (copying l e) 1 3 = { Channel.zero with state := 1, work := some (work0 l e) } ∧
      awaits (copying l e) (fun o => o.ofWork 60) = false) ∧
    (0 + 1000 ≤ 1000 ∧ 1000 + 1000 ≤ 2048 ∧ 512 * 1 < 1000 ∧ podRoom (copying [0] none) 256 = true ∧ (work0 [0] none).buf = [] ∧ 1 ∉ (work0 [0] none).failed) ∧
    (work0 [1, 0] none).landed.length = { xferOf 1000 with src := 0, dst := 1000 }.chunks ∧
    (∀ z : WorkFault, z = ⟨0x10, 0, 0, 0x40, false, false⟩ → z.freezing = false ∧ z.report = false) :=
  ⟨fun _ _ => ⟨rfl, rfl⟩, by decide +kernel, by decide +kernel, fun z h => by subst h; exact ⟨rfl, rfl⟩⟩

/-- An access that waits for the fill of tile 20, with one sector held dirty; a reply that mismatches in a clean copy, is
in order, mismatches in a dirty copy, or mismatches once more. -/
def acc0 (st : Stage) (again : Bool) : Access :=
  { id := 40, core := 4, key := 1, uid := 5, seq := 1, top := 0, inst := 39, bundle := 39, part := 2, ea := 0x1000, lva := 0x1000
    order := .page, kind := .load 8 4 .raw false .th 7, cls := .rc, dest := none, before := some th0, holds := false
    acq := false, rel := false, refetched := again, sector := none, place := some (0x5000, 3), leaf := some (0x1000, 0)
    stage := st }
/-- Its thread, which has gone on. -/
def thGone : Thread := { th0 with pc := 0x1010, regs := [(8, { Reg.zero with full := false, pending := true })] }
def filling (st : Stage) (again : Bool) : State :=
  { mem thGone .rc words16 with
    accesses := [acc0 st again], fills := [⟨20, 3, 0xFFFFFF, none⟩]
    dies := [(0, { Die.reset 0 with vcache := [(unitIndex 1 (groupOf 0x5000), ⟨⟨false, true, 3, 1, []⟩, false⟩)] })], l2 := [(0x141, ⟨words16, true⟩)] }
theorem witness_fills :
    (filling .fill false).accesses = [acc0 .fill false] ∧ (acc0 .fill false).place = some (0x5000, 3) ∧
    (filling .fill false).fills = [⟨20, 3, 0xFFFFFF, none⟩] ∧ (0xFFFFFF#24).getLsbD 23 = true ∧
    (∀ i < 8, victimOf (filling .fill false) (8 * 20 + i) 23 = none) ∧
    ((readTile (filling .fill false) (1024 * (0x5000 / 1024)) 3).toOption.map fun x => (x.1.length, x.1.all Datum.okay)) =
      some (256, true) ∧
    l2Hit (filling .fill false) (1024 * 20 + 64) 3 = some ⟨words16, true⟩ ∧
    l2Hit (filling .fill false) (1024 * 20) 3 = none ∧ (acc0 .fill false).kind.isLoad = true ∧
    (∃ d ∈ (acc0 .fill false).pick (⟨1, 0⟩ :: words16), Datum.okay d = false) ∧
    (∀ d ∈ (acc0 .fill false).pick words16, Datum.okay d = true) ∧ (acc0 .fill true).refetched = true :=
  ⟨rfl, rfl, rfl, by decide, by decide +kernel, by decide +kernel, by decide +kernel, by decide +kernel, rfl,
   ⟨⟨1, 0⟩, by decide +kernel, by decide⟩, by decide +kernel, rfl⟩

/-- A dirty tile of zeros under a bound version block at the highest minor that may be raised; a changed version block, and
one that is not. -/
def vb0 (m : Nat) : MUnit := ⟨false, true, 3, 2 ^ 48 - 2, if m = 0 then [] else [(20, m)]⟩
def zeroTile : Tab L2Sector := (List.range 16).map fun i => (16 * 20 + i, ⟨List.replicate 16 zeroDatum, i == 3⟩)
def sealing : State :=
  { one th0 with l2Tags := (List.range 8).map fun i => (8 * 20 + i, ⟨3, 0⟩), l2 := zeroTile, keys := [(3, { KeySlot.empty with loaded := true, key := 9, gen := 1 })]
                 dies := [(0, { Die.reset 0 with vcache := [(unitIndex 1 (groupOf 0x5000), ⟨vb0 65534, false⟩)] })] }
def parent0 : MUnit := ⟨false, false, 0, 0, [(0, 65534)]⟩
def writingBack (changed : Bool) : State :=
  { State.reset with
    dies := [(0, { Die.reset 0 with vcache := [(unitIndex 1 0, ⟨unitOfBits 0, changed⟩), (unitIndex 2 0, ⟨parent0, false⟩)] })] }
theorem witness_SealKeepsWords :
    (∀ i < 8, tabFind sealing.l2Tags (8 * 20 + i) = some ⟨3, 0⟩) ∧ lineDirty sealing (8 * 20 + 0) = false ∧
    (cachedOf sealing (dieOf (1024 * 20)) true).length ≤ 4096 ∧ (cachedOf sealing (dieOf (1024 * 20)) false).length ≤ 1024 ∧
    backed (1024 * 20) = true ∧ binding sealing (1024 * 20) = false ∧ tabSorted sealing.l2 = true ∧
    (∀ i < 16, (tabFind sealing.l2 (16 * 20 + i)).map (fun x => (x.words.length, x.words == (zeroWords.drop (16 * i)).take 16)) =
      some (16, true)) ∧ zeroWords.length = 256 ∧ (tabFind sealing.l2 (16 * 20 + 3)).map L2Sector.dirty = some true ∧
    cachedUnit sealing (dieOf (1024 * 20)) 1 (groupOf (1024 * 20)) = some ⟨vb0 65534, false⟩ ∧ (vb0 65534).bound = true ∧
    (vb0 65534).slot = 3 ∧ tabGet 0 (vb0 65534).ctr (tileIn (1024 * 20)) < 65535 ∧ (vb0 65534).major < 2 ^ 48 - 1 ∧
    (∀ ch, cachedUnit (writingBack ch) 0 1 0 = some ⟨unitOfBits 0, ch⟩) ∧
    cachedUnit (writingBack true) 0 2 (0 / 64) = some ⟨parent0, false⟩ ∧ tabGet 0 parent0.ctr (0 % 64) < 65535 :=
  by decide +kernel

/-- One load in flight at a walk with the tables of levels 4 to 1 in the walk cache: a leaf entry of 4 KiB at the last index
of the table, and an entry that is absent; with and without a residency predicate. -/
def accWalk (nrp : Nat) : Access :=
  { acc0 .walk false with ea := 0x1FF010, lva := 0x1FF010, kind := .load 8 4 .raw false .th nrp, place := none, leaf := none, order := .page }
def entry (present : Bool) : List Datum :=
  List.replicate 14 zeroDatum ++ if present then [dat 0x5343, dat 0x00300000] else [zeroDatum, zeroDatum]
def walking (present : Bool) (nrp : Nat) : State :=
  { one thGone with
    accesses := [accWalk nrp], l2Tags := [(0x41F, ⟨0, 0⟩)], l2 := [(0x83F, ⟨entry present, false⟩)]
    dies := [(0, { Die.reset 0 with walkCache := [⟨2, 4, 0, 0x23000⟩, ⟨2, 3, 0, 0x22000⟩, ⟨2, 2, 0, 0x21000⟩, ⟨2, 1, 0, 0x20000⟩] })]
    parts := [(2, { Part.reset with exists_ := true, xlEnable := true, keymask := 8 })] }
def leafW : Leaf := ⟨2, 0x1FF000, 0, 0x5000, 3, false, false, true, true, false, .rc⟩
theorem witness_WalksTranslate :
    (walking true 7).accesses = [accWalk 7] ∧ (walking true 7).demands = [] ∧
    (walking true 7).walks = [] ∧ (walking true 7).thread 4 1 = some thGone ∧ thGone.uid = (accWalk 7).uid ∧ (accWalk 7).before = some th0 ∧
    binding (walking true 7) 0x20FF8 = false ∧ ((walking true 7).core 4).l1 = [] ∧
    ((walking true 7).part 2).xlEnable = true ∧
    (∀ lv ∈ ([1, 2, 3, 4] : List Nat), (walkHit (walking true 7) 0 2 lv 0x1FF010).isSome = true) ∧
    walkHit (walking true 7) 0 2 1 0x1FF010 = some 0x20000 ∧ 0x20000 + 8 * (0x1FF010 / 4096 % 512) = 0x20FF8 ∧
    l2Hit (walking true 7) 0x20FF8 0 = some ⟨entry true, false⟩ ∧ l2Hit (walking false 0) 0x20FF8 0 = some ⟨entry false, false⟩ ∧
    ((entry true).drop (0x20FF8 / 4 % 16)).take 2 = [dat 0x5343, dat 0x00300000] ∧
    ((entry false).drop (0x20FF8 / 4 % 16)).take 2 = [zeroDatum, zeroDatum] ∧
    LeafEntry 2 0x1FF010 0x0030000000005343 leafW ∧ leafFail (walking true 7) 2 leafW .load .page none = none ∧
    (0 : DWord).getLsbD 0 = false := by
  refine ⟨rfl, rfl, rfl, rfl, rfl, rfl, by decide +kernel, rfl, rfl, by decide +kernel, by decide +kernel, by decide, by decide +kernel, by decide +kernel,
    by decide +kernel, by decide +kernel, by constructor <;> first | rfl | decide, by decide +kernel, by decide⟩

/-- Shootdowns: none in progress, and one that waits for an access that is translated and for one that is over; writes with a
reserved bit, with size 46 and with size 45. Limits and regions: a permitted value and others. -/
def shooting (d : Option Shootdown) (as_ : List Access) : State :=
  { one th0 with accesses := as_, parts := [(2, { Part.reset with exists_ := true, shoot := d })] }
theorem witness_ShootdownsAndLimits :
    (∀ d as_, Reaches (shooting d as_) 2 false ∧ Reaches (shooting d as_) 2 true ∧ ((shooting d as_).part 2).shoot = d) ∧
    ((0x2E : DWord).extractLsb' 0 6).toNat = 46 ∧ ((0x2D : DWord).extractLsb' 0 6).toNat ≤ 45 ∧
    (0x2D : DWord).extractLsb' 57 7 = 0 ∧ (0x2D : DWord).extractLsb' 6 6 = 0 ∧ (0x40 : DWord).extractLsb' 6 6 ≠ 0 ∧
    (let s := { shooting none [] with hostPosts := [((2, 0x2000, 0), none), ((2, 0x5000, 0), some 8)] }
     ((2, 0x2000, 0), none) ∈ s.hostPosts ∧ 0 < 0x2000 + 2 ^ (0 + 12) ∧ 0x2000 < 0 + 2 ^ (2 + 12) ∧
      ((2, 0x5000, 0), some 8) ∈ s.hostPosts ∧ s.cxl = false) ∧
    (acc0 .slice false).translated = true ∧ (shooting (some ⟨0, 4096, [40]⟩) [acc0 .slice false]).up = true ∧
    ((0xFFFFFF000060 : DWord).extractLsb' 4 3 ≠ 0 ∧ (0xFFFFFF000060 : DWord).extractLsb' 24 24 ≠ 0 ∧
      (0xFFFFFF000060 : DWord).extractLsb' 48 16 = 0 ∧ (0xFFFFFF000060 : DWord).extractLsb' 7 17 = 0) ∧
    (((0x1363 : DWord).extractLsb' 5 6).toNat = 27 ∧ (0x1363 : DWord).extractLsb' 1 2 ≠ 3 ∧
      (0x1FFFFFFFFFFF003 : DWord).extractLsb' 57 7 = 0 ∧
      ((0x1FFFFFFFFFFF003 : DWord).extractLsb' 12 45).toNat * 4096 + 2 ^ (0 + 12) ≤ 2 ^ 57) ∧
    (one th0).thread 4 1 = some th0 ∧ ((cachedL1 th0 .rc).core 4).l1[0 / 2]? = some ⟨.local, 0xA0, 3, [(0, words16)]⟩ ∧
    words16[15]? = some (dat 15) ∧ tabFind (held th0 .rc).l2 (0x140F / 16) = some ⟨words16, false⟩ :=
  ⟨fun d as_ => ⟨⟨rfl, by decide, by simp, fun _ => ⟨rfl, by simp [shooting, State.part, tabGet, Part.reset]⟩⟩,
     ⟨rfl, by decide, fun _ => Or.inl rfl, by simp⟩, rfl⟩, by decide, by decide, by decide, by decide, by decide, by decide +kernel,
   by decide +kernel, rfl, by decide, by decide, rfl, by decide +kernel, by decide, by decide +kernel⟩

/-! ## Fabrics -/

/-- A module at position 0 whose port 2 leads to position 3, and port 5 to position 6, which is UP. -/
def lk (n : Nat) : Link := { Link.off with state := n, lastRx := 1 }
def links (l : Link) (x : Peer) : State :=
  { State.reset with time := 10 ^ 13, links := [(2, l), (5, lk 2)], peers := [(3, x), (6, { Peer.off with state := 1 })] }
def alive : Peer := { Peer.off with state := 1 }
def tx0 : PodTx := ⟨7, ⟨2, 1, 0x40, .rc, .write [dat 1], none, 0, 0⟩, none, .none⟩
theorem links_calm (l : Link) (x : Peer) (h : x.state ≠ 2) : Calm (links l x) where
  direct t := by
    simp only [links, State.peer, tabGet, beq_iff_eq]
    repeat' split
    · exact h
    · decide
    · decide
  groups e he := by simp [links, State.reset] at he

/-- A port with a free credit, without one, with traffic held, in SPARE and OFF; a link in each state, with a peer that is
ALIVE and one that is OFF, with an unacknowledged transaction; a relay for it, and none; a flit that is good and one that
is not; a second failed lane; what is held and what is replayed. -/
theorem witness_LinksAndPeers :
    (tabGet 0 (lk 2).used 0 < 256 ∧ (lk 2).queue = []) ∧
    (({ lk 2 with used := [(1, 256)] } : Link).state ∈ [2, 3, 4] ∧ 256 ≤ tabGet 0 ({ lk 2 with used := [(1, 256)] } : Link).used 1) ∧
    ((lk 3).state ∈ [2, 3, 4] ∧ (lk 3).state ≠ 2) ∧ (lk 0).state ∉ [2, 3, 4] ∧ (lk 5).state ∉ [2, 3, 4] ∧
    (∀ l x, (links l x).link 2 = l ∧ (links l x).peer 3 = x ∧ (links l x).pos = 0 ∧ (0 + 2 + 1) % 16 = 3) ∧
    (∀ l, Calm (links l alive) ∧ Calm (links l .off) ∧ Calm (links l { alive with state := 3 })) ∧
    (lk 2).lastRx + 10 ^ 10 ≤ (links (lk 2) alive).time ∧ (lk 1).trainSince + 10 ^ 12 ≤ (links (lk 1) alive).time ∧
    ({ alive with unacked := [tx0] } : Peer).state = 1 ∧
    Relay { links (lk 2) alive with linkMap := [(0, 6), (3, 6)] } 3 6 ∧ (3 + 2 + 1) % 16 = 6 ∧
    (∀ j < 2, ¬ Relay { links (lk 2) alive with linkMap := [(0, 6), (3, 6)] } 3 ((3 + j + 1) % 16)) ∧
    (∀ m, ¬ Relay (links (lk 2) alive) 3 m) ∧ (lk 2).spared = 15 ∧ ({ lk 2 with spared := 4 } : Link).spared ≠ 15 ∧
    ({ lk 4 with lost := true } : Link).lost = true ∧ (lk 4).lost = false ∧
    (∀ ch, tabGet 0 (lk 4).used ch + ({ lk 4 with queue := [(0, .heartbeat)] } : Link).queue.length ≤ 256) ∧
    (lk 2).outRow < 7 ∧ 7 ≤ ({ lk 2 with outRow := 7 } : Link).outRow ∧ (lk 2).buffer = [] ∧
    (3 ≠ (links (lk 2) alive).pos ∧ ((links (lk 2) alive).peer 3).state ≠ 3 ∧ 9 ∉ ((links (lk 2) alive).peer 3).noticeSeen) ∧
    9 ∈ ({ alive with noticeSeen := [9] } : Peer).noticeSeen ∧ (links (lk 2) alive).up = true := by
  refine ⟨by decide, by decide, by decide, by decide, by decide, fun _ _ => ⟨rfl, rfl, rfl, rfl⟩,
    fun l => ⟨links_calm _ _ (by decide), links_calm _ _ (by decide), links_calm _ _ (by decide)⟩, by decide, by decide, rfl,
    ⟨by decide, by decide, rfl, by decide, by decide⟩, rfl, ?_, ?_, rfl, by decide, rfl, rfl, ?_, by decide, by decide, rfl,
    by decide, by decide, rfl⟩
  · intro j hj h
    obtain rfl | rfl : j = 0 ∨ j = 1 := by omega
    · exact absurd h.2.2.1 (by decide)
    · exact absurd h.2.2.1 (by decide)
  · intro m h
    exact absurd h.2.2.2.1 (by simp [links, State.reset])
  · intro ch
    simp [lk, Link.off]

/-- A region of partition 2 over the page at 0x1000, which the unit for requests from outside has cached; the sector at
0x5000 is held. -/
def homing (x : Peer) (rg : DWord) : State :=
  { State.reset with
    time := 10 ^ 13
    clusters := [(0, { Cluster.empty with tlb := [leaf0 .un] })]
    l2Tags := [(0xA0, ⟨3, 0⟩)], l2 := [(0x140, ⟨words16, false⟩)], lcOwner := [(0, 0x12)]
    links := [(2, lk 2)], peers := [(3, x)]
    parts := [(2, { Part.reset with exists_ := true, xlEnable := true, keymask := 8, regions := [(1, rg)] })] }
def reqOf (op : FabOp) : FabReq := ⟨2, 1, 8, .un, op, some 5, 1, 0⟩
def rgn : DWord := 0x100D
theorem homing_leaf (x : Peer) (op : FabOp) (k : AKind) (cls : Option OrdClass) (hk : leafPerm (leaf0 .un) k = true)
    (hc : cls = none ∨ cls = some .un) : HomeLeaf (homing x rgn) (reqOf op) k cls (leaf0 .un) 0x1008 0x5008 where
  region := by
    have : tabGet 0 ((homing x rgn).part 2).regions 1 = rgn := rfl
    simp only [reqOf, this]
    rfl
  enabled := rfl
  cached := by simp [cachedLeaf, inPlace, homing, State.cluster, tabGet, tlbFind, leafCovers, leaf0, reqOf]
  granted := by
    have : ((homing x rgn).part 2).keymask.getLsbD 3 = true := by simp [State.part, tabGet, homing]
    obtain rfl | rfl := hc <;> simp_all [leafFail, orderOk, leaf0, reqOf]
  hbm := rfl
  place := by decide
theorem homing_run (x : Peer) (n : Nat) (h : 0 < n ∧ n ≤ 14) : HeldRun (homing x rgn) 3 0x5008 n ⟨words16, false⟩ where
  aligned := by decide
  some_ := h.1
  fits := by omega
  hit := show l2Hit (homing alive rgn) 0x5008 3 = some ⟨words16, false⟩ by decide +kernel
  words := rfl
  open_ := show readOnly (homing alive rgn) 0x5008 = false by decide +kernel

/-- Writes: new, performed before, out of order, beyond the window, from a DEAD position; for a group that is delivered, and
one that is not. Signals and chunks: of the leaf's generation, with and without an entry of the apply map. -/
def alive2 (seen : List (Nat × Option FabReply)) : Peer := { alive with rx := ⟨seen, 5, 5⟩ }
def chunkOp (n : Nat) : FabOp := .reduce 6 1 3 9 2 0 n .add .i32 [dat 1, dat 2]
def chunkState (c : RedCtx) (n : Nat) : State :=
  { homing alive rgn with dies := [(0, { Die.reset 0 with ctxs := [c], staged := [⟨.pod 3 9, reqOf (chunkOp n)⟩] })] }
def ctx0 (a : Bool) (m : List ApplyMap) : RedCtx := ⟨2, 6, 1, a, m⟩
theorem witness_WritesAndSignalsArrive :
    (∀ x op, HomeLeaf (homing x rgn) (reqOf op) .store (some (reqOf op).cls) (leaf0 .un) 0x1008 0x5008) ∧
    (∀ x, HeldRun (homing x rgn) (leaf0 .un).slot 0x5008 [dat 1, dat 2].length ⟨words16, false⟩) ∧
    (homing alive rgn).binds = [] ∧ (homing alive rgn).waiting = [] ∧ (reqOf (.write [dat 1, dat 2])).keygen = 0 ∧
    landingOk (homing alive rgn) 2 5 = true ∧ (∀ e ∈ (homing alive rgn).remoteRx, e.from_ ≠ ⟨9, 0, 0, 0⟩) ∧
    (∀ d ∈ (homing alive rgn).dies, d.2.staged = []) ∧ max (tabGet 0 (homing alive rgn).rodRx 9) 0 = 0 ∧
    (3 < 16 ∧ 3 ≠ (homing alive rgn).pos ∧ ∀ x, (homing x rgn).peer 3 = x) ∧ (alive2 []).state = 1 ∧ 2 ^ 23 ≤ seqSpan 6 (alive2 []).rx.top ∧
    (4, some .ack) ∈ (alive2 [(4, some .ack)]).rx.seen ∧ seqSpan 4 5 ≤ 4096 ∧ 4096 < seqSpan 5 9000 ∧ seqSpan 5 9000 < 2 ^ 23 ∧
    ({ alive with state := 3 } : Peer).state = 3 ∧
    ((0x94008000 : BitVec 32).getLsbD 31 = true ∧ (0x94008000 : BitVec 32).getLsbD 15 = true ∧
      ((0x94008000 : BitVec 32).extractLsb' 27 4).toNat = 2) ∧ (0 : BitVec 32).getLsbD 31 = false ∧
    (∀ x op, HomeLeaf (homing x rgn) (reqOf op) .load none (leaf0 .un) 0x1008 0x5008) ∧
    (reqOf (.signal 4)).lc = some 5 ∧ (reqOf (.signal 4)).keygen = ((homing alive rgn).key (leaf0 .un).slot).gen ∧
    (∀ c n, findCtx (chunkState c n) 2 6 1 = (if c.part == 2 && c.group == 6 && c.coll == 1 then some (0, c) else none)) ∧
    HomeLeaf (homing alive rgn) (reqOf (chunkOp 2)) .atomic (some .un) (leaf0 .un) 0x1008 0x5008 ∧
    (∀ c n, ((chunkState c n).die 0).staged = [⟨.pod 3 9, reqOf (chunkOp n)⟩]) ∧
    (∀ m ∈ (ctx0 false []).maps, m.src ≠ 3 ∨ m.seq ≠ 9) ∧ (ctx0 false []).maps.length < 256 ∧
    (∀ l, (ctx0 false l).maps = l) ∧
    ((ctx0 false [⟨3, 9, 4⟩]).maps.find? fun m => m.src == 3 && m.seq == 9) = some ⟨3, 9, 4⟩ ∧ Nat.testBit 4 2 = true ∧
    [dat 1, dat 2].all Datum.okay = true ∧ (words16.drop (0x5008 / 4 % 16)).all Datum.okay = true := by
  refine ⟨fun x op => homing_leaf _ _ _ _ rfl (Or.inr rfl), fun x => homing_run _ _ (by decide), rfl, rfl, rfl,
    by decide +kernel, by simp [homing, State.reset], by decide +kernel, by decide, ⟨by decide, by decide, fun _ => rfl⟩, rfl,
    by decide, by decide, by decide, by decide, by decide, rfl, by decide, by decide, fun x op => homing_leaf _ _ _ _ rfl (Or.inl rfl), rfl,
      by decide +kernel, ?_, homing_leaf _ _ _ _ rfl (Or.inr rfl), fun _ _ => rfl, by decide, by decide, fun _ => rfl, by decide,
      by decide, by decide +kernel, by decide +kernel⟩
  intro c n
  simp only [findCtx, chunkState, List.map_cons, List.map_nil, List.flatten_cons, List.flatten_nil, List.append_nil,
    List.filter_cons, List.filter_nil]
  split <;> rfl

/-- Answers: one that ends a load's transaction; remote requests that wait, that were sent just now, and that were sent 1.5 ms
ago, of a load and of a posted store. -/
def awaiting (x : PodTx) (st : Stage) : State :=
  { homing { alive with unacked := [x] } rgn with accesses := [acc0 st false] }
def txOf (id : Nat) : PodTx := ⟨7, reqOf (.read 1 false), none, .access id⟩
def remote0 (sent : Option Nat) : RemoteReq :=
  ⟨50, 0, 0x20, 0, 0, 3, 0x20, 0, sent, false, none, none, reqOf (.read 1 false), .access 40⟩
def remoting (sent : Option Nat) (k : AccKind) : State :=
  { one th0 with time := 2 * 10 ^ 12, remotes := [remote0 sent], accesses := [{ acc0 (.remote 50) false with kind := k }] }
theorem witness_AnswersArrive :
    (∀ z ∈ ({ alive with unacked := [txOf 40] } : Peer).unacked, z.seq = 7 → z = txOf 40) ∧
    (awaiting (txOf 40) (.pod 3 7)).accesses = [acc0 (.pod 3 7) false] ∧ (txOf 40).owner = .access (acc0 (.pod 3 7) false).id ∧
    (acc0 (.pod 3 7) false).kind.isLoad = true ∧ (∀ z ∈ ({ alive with unacked := [txOf 40] } : Peer).unacked, z.seq ≠ 8) ∧
    (reqOf (.read 1 false)).cls = .un ∧
    (∀ t0 k, remote0 t0 ∈ (remoting t0 k).remotes ∧ (∀ z ∈ (remoting t0 k).remotes, z.id = 50 → z = remote0 t0) ∧
      (remote0 t0).path < 64 ∧ (remote0 t0).rod = none ∧ (remote0 t0).early = none ∧
      (∀ z ∈ (remoting t0 k).remotes, z.entry = (remote0 t0).entry → z.path = (remote0 t0).path → z.forced = false) ∧
      (∀ z ∈ (remoting t0 k).remotes, z.hid = (remote0 t0).hid → z.early = none)) ∧
    (∀ k, ∀ z ∈ (remoting (some 0) k).remotes, z.entry = 0x20 → z.sent.isSome = true) ∧
    (remote0 none).accepted + 5 * 10 ^ 11 ≤ 2 * 10 ^ 12 ∧ 0 + 15 * 10 ^ 11 ≤ 2 * 10 ^ 12 ∧ 2 * 10 ^ 12 < 10 ^ 12 + 15 * 10 ^ 11 ∧
    (∀ k, (remoting (some 0) k).thread 4 1 = some th0) ∧ th0.uid = (acc0 (.remote 50) false).uid := by
  refine ⟨by decide +kernel, rfl, rfl, rfl, by decide +kernel, rfl, fun t0 k => ?_, fun k => by simp [remoting, remote0],
    by decide, by decide, by decide, fun _ => rfl, rfl⟩
  exact ⟨by simp [remoting], by simp [remoting], by simp [remote0], rfl, rfl, by simp [remoting, remote0], by simp [remoting, remote0]⟩

/-! ## Gates and rounds -/

/-- A gate of the ranks' partition, of which rank 1 is at position 3: it signals rank 1 once its counter is reached. -/
def sigGate (kind : Nat) : Gate :=
  ⟨0x8000200000001000, 0, 1, 5, 2, 0, 3, 0, 6, 7, 0, 1, kind, 0, 0, false, false, false, true, false, true⟩
def gateAt (st h : Nat) (kind : Nat) : GateSlot :=
  { GateSlot.zero with seq := 1, state := st, part := 2, launch := 1, keySlot := 3, h := h, gate := some (sigGate kind) }
def gating (g : GateSlot) (gs : Tab GroupSlot) : State :=
  { ranks th0 with
    dies := [(0, { Die.reset 0 with gates := [(0, g)], ctxs := [ctx0 false [⟨3, 9, 4⟩]] })], mcGroup := [(5, 0x90000000)]
    links := [(2, lk 2)], peers := [(3, alive)]
    parts := [(2, { (ranks th0).part 2 with groups := gs })] }
def grp (coord round : Nat) (reported acked : List Nat) (reqs : List (Nat × Bool)) : GroupSlot :=
  { GroupSlot.zero with valid := true, group := 5, coord := coord, version := 1, round := round, count := 2, members := [0, 1]
                        target := [0, 1, 4], targetVer := 2, requests := reqs, reported := reported, acked := acked }
def wf0 (b : Bool) : WorkFault := ⟨0x11, 1, 0, 0x40, b, false⟩
theorem witness_GatesRun :
    (∀ g gs, gate (gating g gs) 0 0 = g) ∧ (∀ st h k, (gateAt st h k).gate = some (sigGate k) ∧ (gateAt st h k).state = st) ∧
    ((landing (gating (gateAt 1 0 2) []) 6).count.toNat + 2 ^ 48 - 0 % 2 ^ 48) % 2 ^ 48 < 2 ^ 47 ∧
    2 ^ 47 ≤ ((landing (gating (gateAt 1 1 2) []) 6).count.toNat + 2 ^ 48 - 1 % 2 ^ 48) % 2 ^ 48 ∧
    (∀ z ∈ allGates (gating (gateAt 1 0 2) []), ¬ OldGate z.2.2 2 5 1) ∧
    (∃ z ∈ allGates (gating (gateAt 1 0 2) []), OldGate z.2.2 2 5 2) ∧
    2 ∉ ((gating (gateAt 1 0 2) []).die 0).frozenParts ∧ podRoom (gating (gateAt 1 0 2) []) 1 = true ∧
    (addrOf (sigGate 2).dst = .unicast 1 0 0x1000 ∧ resolveRank (gating (gateAt 1 0 2) []) 2 1 = .pod 3 0) ∧
    ((gating (gateAt 1 0 2) []).part 2).xlGlobal = true ∧ gateAwaits (gating (gateAt 2 0 1) []) 0 0 (gateAt 2 0 1) = false ∧
    1 ≠ rtSelf (gating (gateAt 2 0 1) []) 2 ∧ (∀ b, ({ gateAt 2 0 2 with fail := some (wf0 b) } : GateSlot).fail = some (wf0 b)) ∧
    findCtx (gating (gateAt 1 0 2) []) 2 6 1 = some (0, ctx0 false [⟨3, 9, 4⟩]) ∧
    findCtx (gating (gateAt 1 0 2) []) 2 5 1 = none ∧ tabSorted (gating (gateAt 1 0 2) []).dies = true ∧
    tabSorted ((gating (gateAt 1 0 2) []).die 0).gates = true := by
  refine ⟨fun _ _ => rfl, fun _ _ _ => ⟨rfl, rfl⟩, by decide +kernel, by decide +kernel, ?_, ?_, by decide +kernel,
    by decide +kernel, ⟨by decide +kernel, by decide +kernel⟩, rfl, by decide +kernel, by decide +kernel, fun _ => rfl,
    by decide +kernel, by decide +kernel, by decide +kernel, by decide +kernel⟩
  · intro z hz h
    have : z = (0, 0, gateAt 1 0 2) := by simpa [allGates, gating] using hz
    subst this
    obtain ⟨-, -, -, e, he, -, h1, -⟩ := h
    obtain rfl := Option.some.inj he
    exact h1 rfl
  · exact ⟨(0, 0, gateAt 1 0 2), by simp [allGates, gating], Or.inl rfl, rfl, rfl, sigGate 2, rfl, rfl, by decide, by decide⟩

theorem witness_Rounds :
    (∀ g, ((gating (gateAt 3 0 2) [(0, g)]).part 2).group 0 = g ∧ rtSelf (gating (gateAt 3 0 2) [(0, g)]) 2 = 0) ∧
    groupOwned (gating (gateAt 3 0 2) [(0, grp 0 0 [] [] [])]) 2 5 = true ∧ (grp 0 0 [] [] [(4, true)]).requests ++ [(1, false)] ≠ [] ∧
    (((grp 0 0 [] [] [(4, true)]).requests ++ [(1, false)]).map Prod.fst).Nodup ∧
    (∃ q ∈ (grp 0 1 [] [] []).members, q ∉ (grp 0 1 [] [] []).dead ∧ q ∉ (grp 0 1 [] [] []).reported) ∧
    (grp 1 0 [] [] []).coord ≠ 0 ∧ ¬ Older 2 (grp 1 0 [] [] []).version ∧ Older 0 (grp 1 0 [] [] []).version ∧
    0 ∈ (grp 1 2 [] [] []).members ∧ 0 ∉ (grp 1 2 [] [] []).reported ∧
    (∀ z ∈ allGates (gating (gateAt 3 0 2) [(0, grp 1 2 [] [] [])]), ¬ OldGate z.2.2 2 5 2) ∧
    (∃ z ∈ allGates (gating (gateAt 1 0 2) [(0, grp 1 2 [] [] [])]), OldGate z.2.2 2 5 2) ∧
    (∃ q ∈ (grp 0 2 [] [] []).members, q ∉ (grp 0 2 [] [] []).dead ∧ q ≠ 1 ∧ q ∉ (grp 0 2 [] [] []).reported) ∧
    (∀ q ∈ (grp 0 2 [0] [] []).members, q ∉ (grp 0 2 [0] [] []).dead → q = 1 ∨ q ∈ (grp 0 2 [0] [] []).reported) ∧
    (∃ q ∈ (grp 0 3 [0, 1, 4] [0] []).reported ++ (grp 0 3 [0, 1, 4] [0] []).members,
      q ∉ (grp 0 3 [] [] []).dead ∧ q ≠ 1 ∧ q ∉ (grp 0 3 [0, 1, 4] [0] []).acked) ∧
    (∀ q ∈ (grp 0 3 [0, 1] [0] []).reported ++ (grp 0 3 [0, 1] [0] []).members,
      q ∉ (grp 0 3 [] [] []).dead → q = 1 ∨ q ∈ (grp 0 3 [0, 1] [0] []).acked) ∧
    (∀ g, Reaches (gating (gateAt 3 0 2) [(0, g)]) 2 true) ∧
    (∀ z ∈ allGates (gating (gateAt 3 0 2) []), ¬ GateOfGroup z.2.2 2 5) ∧
    (∃ z ∈ allGates (gating (gateAt 1 0 2) []), GateOfGroup z.2.2 2 5) := by
  have hz : ∀ (g : GateSlot) gs z, z ∈ allGates (gating g gs) → z = (0, 0, g) := fun g gs z h => by
    simpa [allGates, gating] using h
  refine ⟨fun g => ⟨rfl, show rtSelf (gating (gateAt 3 0 2) []) 2 = 0 by decide +kernel⟩, by decide +kernel, by decide, by decide, by decide, by decide, by unfold Older; decide, by unfold Older; decide,
    by decide, by decide, ?_, ?_, by decide, by decide, by decide, by decide, fun g => ⟨rfl, by decide, fun _ => Or.inl rfl, by simp⟩, ?_, ?_⟩
  · intro z h hz'
    have := hz _ _ _ h; subst this
    exact absurd hz'.1 (by decide)
  · exact ⟨(0, 0, gateAt 1 0 2), by simp [allGates, gating], Or.inl rfl, rfl, rfl, sigGate 2, rfl, rfl, by decide, by decide⟩
  · intro z h hz'
    have := hz _ _ _ h; subst this
    exact absurd hz'.1 (by decide)
  · exact ⟨(0, 0, gateAt 1 0 2), by simp [allGates, gating], Or.inl rfl, rfl, sigGate 2, rfl, rfl⟩

/-! ## Commands of the proctor -/

/-- A command of a function with operands; a module in DEPLOYED in which partition 0 owns key slot 3, loaded, and frame 1 is
unbound or bound to it. -/
def cm (fn : Nat) (dw : List DWord) : Cmd := ⟨fn, 7, 0, none, (dw ++ List.replicate 7 0).take 7⟩
/-- A function whose rings hold one entry each. -/
def ringed : Fn := { Fn.reset with queues := (List.range 9).map fun q => (q, { HostQueue.zero with tail := 1 }) }
def deployed (b : Bool) (floor : Nat) : State :=
  { State.reset with
    lifeCycle := .deployed, nextId := 10
    dies := [(0, { Die.reset 0 with vcache := [(unitIndex 1 1, ⟨⟨false, b, 3, 2, []⟩, false⟩)] })]
    keys := [(3, { KeySlot.empty with loaded := true, key := 9, gen := 1, floor := floor, owner := some 0 })]
    fns := [(0, ringed), (1, { ringed with spdmKey := some 1 })]
    parts := [(0, { Part.reset with exists_ := true, keymask := 8 })] }
def fill1 (frame : Nat) : Fill := ⟨64 * frame, 3, 0, none⟩
/-- The rings of PF0 and of the first VF, whose session key is `k`. -/
def rings (k : Option (BitVec 256)) : Tab Fn := [(0, ringed), (1, { ringed with spdmKey := k })]
theorem ringed_posted {s : State} {k : Option (BitVec 256)} (h : s.fns = rings k) (hc : s.cxl = false) {fn q : Nat}
    (hn : fn ≤ 1) (hq : q < 9) : posted s fn q = true := by
  have key : ∀ fn ≤ 1, ∀ q < 9, HostQueue.delivered (tabGet HostQueue.zero (tabGet Fn.reset (rings none) fn).queues q) false = true := by
    decide +kernel
  have e : (tabGet Fn.reset (rings k) fn).queues = (tabGet Fn.reset (rings none) fn).queues := by
    rcases fn with _ | _ | fn <;> rfl
  rw [posted, State.fn, h, hc, e]
  exact key fn hn q hq
theorem takes {s : State} {fn : Nat} {dw : List DWord} {pf vf : Bool} {k : Option (BitVec 256)}
    (h : s.up = true ∧ proctorAt s = false ∧ s.fns = rings k ∧ s.cxl = false) (hn : fn ≤ 1)
    (hf : (fn = 0 → pf = true) ∧ (fn ≠ 0 → vf = true)) : Takes s (cm fn dw) pf vf :=
  ⟨h.1, h.2.1, ringed_posted h.2.2.1 h.2.2.2 hn (by decide), rfl, hn.trans (by decide), rfl, hf⟩

theorem witness_CommandsTaken :
    (deployed false 4).up = true ∧ proctorAt (deployed false 4) = false ∧ ({ cm 1 [] with rsv := 1 } : Cmd).rsv ≠ 0 ∧
    (cm 1 []).fn ≤ 16 ∧ (cm 0 []).fn = 0 ∧ (cm 1 []).fn ≠ 0 ∧ (List.replicate 128 (0 : Byte)).length = 128 ∧
    ({ deployed false 4 with binds := [(1, cm 1 [])] } : State).binds ≠ [] ∧
    (∃ e ∈ ({ deployed false 4 with unbinds := [(1, cm 1 [])] } : State).unbinds, e.2 ≠ cm 2 []) ∧
    (∃ o, ({ deployed false 4 with opnd := some ⟨cm 1 [], [], none⟩ } : State).opnd = some o ∧ o.cmd ≠ cm 2 []) := by
  refine ⟨rfl, rfl, by decide, by decide, rfl, by decide, List.length_replicate, by simp, ⟨_, List.mem_singleton.2 rfl, by decide⟩, _, rfl, by decide⟩

theorem deployed_room (b : Bool) (n : Nat) : CacheRoom (deployed b n) := by
  have h : ∀ d k, (cachedOf (deployed b n) d k).length ≤ 1 := fun d k =>
    (List.length_filter_le _ _).trans (by
      rw [List.length_map]
      rcases d with _ | d <;> simp [deployed, State.die, tabGet, Die.reset])
  exact fun d _ => ⟨(h d true).trans_lt (by decide), (h d false).trans_lt (by decide)⟩

theorem witness_FramesBound :
    (∀ b n, Takes (deployed b n) (cm 1 [1, 3]) true true ∧ CacheRoom (deployed b n)) ∧ (operand (cm 1 [1, 3]) 0).toNat = 1 ∧
    backed (2 ^ 16) = true ∧ (operand (cm 1 [1, 3]) 1).toNat = 3 ∧
    (∀ b n, cachedUnit (deployed b n) (dieOf (2 ^ 16)) 1 (groupOf (2 ^ 16)) = some ⟨⟨false, b, 3, 2, []⟩, false⟩) ∧
    (∀ b n, ((deployed b n).key 3).owner = some ((cm 1 []).fn - 1) ∧ ((deployed b n).key 3).loaded = true ∧
      ((deployed b n).key 3).floor = n) ∧ (∀ b, isLost (deployed b 4) (2 ^ 16) = false) ∧
    (∀ f ∈ [fill1 2], f.tile / 64 ≠ 1) ∧ (∃ f ∈ [fill1 1], f.tile / 64 = 1) ∧ 2 ^ 48 - 2 < 2 ^ 48 - 1 := by
  refine ⟨fun b n => ⟨takes ⟨rfl, rfl, rfl, rfl⟩ (by decide) (by decide), deployed_room b n⟩, by decide, by decide,
    by decide, fun _ _ => rfl, fun _ _ => ⟨rfl, rfl, rfl⟩, fun b => by cases b <;> decide +kernel, by decide, by decide,
    by decide⟩

theorem witness_KeysLoaded :
    Takes (deployed false 4) (cm 1 [3]) false true ∧ Takes { deployed false 4 with fns := rings none } (cm 1 [3]) false true ∧
    (∀ r : Fin 4, (operand (cm 1 [[3, 0x10003, 0x20003, 0x80020003][r]]) 0).toNat % 256 = 3) ∧
    (operand (cm 1 [0x20003]) 0).toNat = 3 + 2 * 2 ^ 16 ∧ (∀ i, 1 ≤ i → operand (cm 1 [3]) i = 0) ∧
    ({ deployed false 4 with fns := rings none } : State).fn 1 = ringed ∧ ringed.spdmKey = none ∧ ((deployed false 4).fn 1).spdmKey = some 1 ∧
    (deployed false 4).lifeCycle = .deployed ∧ ((deployed false 4).key 3).owner = some 0 ∧
    ((deployed false 4).key 4).owner ≠ some 0 ∧ (1 + 2 ^ 16 - 1 % 2 ^ 16) % 2 ^ 16 = 0 ∧
    32767 < (0x8002 + 2 ^ 16 - 1 % 2 ^ 16) % 2 ^ 16 ∧ (2 + 2 ^ 16 - 1 % 2 ^ 16) % 2 ^ 16 = 1 ∧
    (∀ d < 8, boundGroups (deployed false 4) d 3 = []) ∧ boundGroups (deployed true 4) 0 3 = [1] ∧
    (deployed false 4).launches = [] ∧ (deployed false 4).l2Tags = [] ∧ ((one th0).launches.map fun e => e.2.keySlot) = [3] := by
  refine ⟨takes ⟨rfl, rfl, rfl, rfl⟩ (by decide) (by decide), takes ⟨rfl, rfl, rfl, rfl⟩ (by decide) (by decide),
    by decide, by decide, ?_, rfl, rfl, rfl, rfl, rfl, by decide, by decide, by decide, by decide, by decide +kernel,
    by decide +kernel, rfl, rfl, rfl⟩
  intro i hi
  obtain ⟨j, rfl⟩ : ∃ j, i = j + 1 := ⟨i - 1, by omega⟩
  rcases j with _ | _ | _ | _ | _ | _ | j <;> rfl

/-- A module whose HBM holds at frame 32 the image of a rank table of `size` ranks, mapped at address 0 for partition 0. -/
def image (size : Word) : State :=
  { deployed false 4 with
    clusters := [(0, { Cluster.empty with tlb := [⟨0, 0, 9, 2 ^ 21, 3, false, true, true, true, true, .rc⟩] })]
    l2Tags := (List.range 128).map fun i => (2 ^ 14 + i, ⟨3, 0⟩)
    l2 := (2 ^ 15, ⟨(dat size :: List.replicate 7 (dat 0)) ++ (List.replicate 4 [dat 0x40001, dat 0]).flatten, false⟩) ::
      (2 ^ 15 + 1, ⟨dat 1 :: List.replicate 15 zeroDatum, false⟩) ::
      (List.range 254).map fun i => (2 ^ 15 + 2 + i, ⟨List.replicate 16 zeroDatum, false⟩)
    parts := [(0, { Part.reset with exists_ := true, keymask := 8, xlEnable := true })] }
def imageRead (n : Word) : Except (BitVec 8) (List Datum) × State :=
  readOpnd (hostParts 0 4096 (image n) 0 4096 0).2 0 0 4096 [] none
theorem witness_TablesAndEntries :
    (∀ dw, Takes (deployed false 4) (cm 1 dw) false true) ∧ (operand (cm 1 [5, 0x80000001]) 0).toNat = 5 ∧
    operand (cm 1 [5, 0x80000001]) 1 = (0x80000001 : Word).setWidth 64 ∧ (0x80000001 : Word).extractLsb' 16 11 = 0 ∧
    ((0x80000001 : Word).getLsbD 31 = true ∧ ((0x80000001 : Word).extractLsb' 27 4).toNat = 0) ∧
    ((0x88000001 : Word).extractLsb' 27 4).toNat ≠ 0 ∧ (0x10000 : Word).extractLsb' 16 11 ≠ 0 ∧
    (∀ n dw, Takes (image n) (cm 1 dw) false true) ∧ addrOf (operand (cm 1 [0]) 0) = .local 0 ∧
    (∀ n : Fin 2, (hostParts 0 4096 (image (BitVec.ofNat 32 n)) 0 4096 0).1 = [] ∧
      ((imageRead (BitVec.ofNat 32 n)).1.toOption.map fun ws => tableBad (imageOf 0 ws []) 0) = some (n == 0) ∧
      (imageRead (BitVec.ofNat 32 n)).2 = image (BitVec.ofNat 32 n)) ∧
    (∀ n, ∀ e ∈ (image n).parts, ((image n).part e.1).groups = []) ∧ (0x20 : DWord).toNat % 256 ≠ 0 ∧
    (readRecordAt (image 1) (diePlace 0) 0 0x100).1.toOption = some 0 ∧
    (readRecordAt (image 1) (diePlace 0) 0 0x100).2 = image 1 := by
  refine ⟨fun _ => takes ⟨rfl, rfl, rfl, rfl⟩ (by decide) (by decide), by decide, by decide, by decide, by decide,
    by decide, by decide, fun _ _ => takes ⟨rfl, rfl, rfl, rfl⟩ (by decide) (by decide), by decide, by decide +kernel,
    ?_, by decide, by decide +kernel, by decide +kernel⟩
  intro n e he
  obtain rfl := List.mem_singleton.1 he
  rfl

/-- A descriptor; partition 0 with launches, counters, groups; a module in which a channel, an engine, a function and a core
are frozen. -/
def desc (keys clusters blocks : Nat) : List Byte :=
  bytesLE 32 keys ++ bytesLE 16 clusters ++ bytesLE 32 blocks ++ List.replicate 48 0
def owning : State := { deployed false 4 with lcOwner := [(0, 0x10), (1, 0x11)] }
theorem witness_PartitionsChange :
    (∀ dw, Takes owning (cm 0 dw) true false) ∧ (∀ f, f ≤ 1 → ∀ dw, Takes owning (cm f dw) true true) ∧
    (desc 16 2 4).length = 128 ∧ (∃ b ∈ ((desc 16 2 4).take 127 ++ [1]).drop 80, b ≠ 0) ∧ (∀ b ∈ (desc 16 2 4).drop 80, b = 0) ∧
    ofBytesLE ((desc 16 2 4).take 32) = 16 ∧ ofBytesLE (((desc 16 2 4).drop 32).take 16) = 2 ∧
    ofBytesLE (((desc 16 2 4).drop 48).take 32) = 4 ∧ (operand (cm 0 [1]) 0).toNat = 1 ∧ (owning.part 1).exists_ = false ∧
    (owning.part 0).exists_ = true ∧ owning.lifeCycle = .deployed ∧
    ((owning.part 0).keymask.getLsbD 3 = true ∧ Nat.testBit 8 3 = true) ∧
    (∀ q < 16, q ≠ 1 → (∀ k, (owning.part q).keymask.getLsbD k = true → Nat.testBit 16 k = false) ∧
      ∀ k, (owning.part q).clusters.getLsbD k = true → Nat.testBit 2 k = false) ∧
    (∀ j < 256, Nat.testBit 4 j = true → (tabGet 0 owning.lcOwner j).getLsbD 4 = false) ∧
    ((tabGet 0 owning.lcOwner 0).getLsbD 4 = true ∧ ((tabGet 0 owning.lcOwner 0).extractLsb' 0 4).toNat ≠ 1) := by
  refine ⟨fun _ => takes ⟨rfl, rfl, rfl, rfl⟩ (by decide) (by decide),
    fun f hf _ => takes ⟨rfl, rfl, rfl, rfl⟩ (by omega) (by simp), by decide +kernel, by decide +kernel,
    by decide +kernel, by decide +kernel, by decide +kernel, by decide +kernel, by decide, rfl, rfl, rfl, by decide, ?_, ?_,
    by decide⟩
  · intro q _ _
    by_cases hq : q = 0
    · subst hq
      have h : ∀ k, (8 : BitVec 256).getLsbD k = true → Nat.testBit 16 k = false := fun k => by
        by_cases hk : k < 256
        · revert k; decide +kernel
        · simp [BitVec.getLsbD_of_ge _ _ (Nat.le_of_not_lt hk)]
      exact ⟨h, fun k hk => absurd hk (by simp [owning, deployed, State.part, tabGet, Part.reset])⟩
    · have : owning.part q = Part.reset := by simp [owning, deployed, State.part, tabGet, Ne.symm hq]
      simp [this, Part.reset]
  · decide +kernel

def freezing : State :=
  { deployed false 4 with
    clusters := [(18, { Cluster.empty with chans := [(5, { Channel.zero with state := 3 })] })]
    dies := [(1, { Die.reset 1 with frozenParts := [2] })]
    parts := [(0, { Part.reset with exists_ := true, vfFrozen := true })]
    cores := [(73, { Core.empty with frozen := some ⟨none, []⟩ })] }
def unitNo (d cl k u p ch : Nat) : BitVec 21 := BitVec.ofNat 21 (d + 8 * cl + 2 ^ 7 * k + 2 ^ 9 * u + 2 ^ 13 * p + 2 ^ 17 * ch)
theorem witness_FreezesEnd :
    (∀ dw, Takes freezing (cm 0 dw) true false) ∧ (∀ v : BitVec 21, operand (cm 0 [v.setWidth 64]) 0 = v.setWidth 64) ∧
    ([(0, 3, 1), (3, 4, 2), (7, 2, 1), (9, 4, 3), (13, 4, 6), (17, 4, 5)].all fun f =>
      ((unitNo 1 2 1 3 6 5).extractLsb' f.1 f.2.1).toNat == f.2.2) = true ∧
    (chan freezing (16 * 1 + 2) 5).state = 3 ∧ (chan freezing (16 * 1 + 2) 4).state ≠ 3 ∧ 2 ∈ (freezing.die 1).frozenParts ∧
    1 ∉ (freezing.die 1).frozenParts ∧ (freezing.part 0).vfFrozen = true ∧ (freezing.part 1).vfFrozen = false ∧
    (freezing.core (64 * 1 + 4 * 2 + 1)).frozen = some ⟨none, []⟩ ∧ (freezing.core 0).frozen = none ∧ freezing.demands = [] ∧
    (∀ e ∈ (freezing.core 73).rows, ∀ x ∈ e.2.cv, x.2.complete = false) :=
  ⟨fun _ => takes ⟨rfl, rfl, rfl, rfl⟩ (by decide) (by decide), fun _ => rfl, by decide, rfl, by decide, by decide, by decide,
    rfl, rfl, rfl, rfl, rfl, by simp [freezing, State.core, tabGet, Core.empty]⟩

def living (x : LifeCycle) : State := { deployed false 4 with lifeCycle := x, attestNonce := some 5 }
theorem witness_ReportsAndLives :
    (∀ x dw, Takes (living x) (cm 0 dw) true true ∧ Takes (living x) (cm 0 dw) true false) ∧
    (List.replicate 64 (7 : Byte)).length = 64 ∧
    (∀ x : LifeCycle, (operand (cm 0 [BitVec.ofNat 64 (lifeNum x)]) 0).toNat = lifeNum x) ∧
    (∀ x, (living x).attestNonce = some 5 ∧ (living x).lifeCycle = x) ∧
    (LifeCycle.rma, LifeCycle.deployed) ∉ [(LifeCycle.manufacture, LifeCycle.provisioned), (.provisioned, .deployed),
        (.deployed, .provisioned), (.rma, .manufacture), (.manufacture, .rma), (.provisioned, .rma), (.deployed, .rma),
        (.rma, .rma)] :=
  ⟨fun x dw => ⟨takes ⟨rfl, rfl, rfl, rfl⟩ (by decide) (by decide), takes ⟨rfl, rfl, rfl, rfl⟩ (by decide) (by decide)⟩,
    List.length_replicate, by intro x; cases x <;> rfl, fun _ => ⟨rfl, rfl⟩, by decide⟩

/-! ## The host link, power and reset -/

/-- A load that waits for the host, of a launch whose policy is PARK. -/
def hreq0 : HostReq := ⟨60, 0x7000, 1, .access 40, 0, none⟩
def hosting (time : Nat) : State :=
  { one thGone with
    time := time, hostReqs := [hreq0], accesses := [acc0 (.host 60) false], launches := [(1, launch0 (1 <<< 334))] }
theorem witness_HostCompletions :
    (∀ n, (hosting n).hostReqs = [hreq0] ∧ (hosting n).accesses = [acc0 (.host 60) false] ∧ (hosting n).demands = [] ∧
      (hosting n).thread 4 1 = some thGone ∧ (hosting n).time = n) ∧ launchPolicy (hosting 0) thGone.seq = 1 ∧
    hreq0.owner = .access (acc0 (.host 60) false).id ∧ (acc0 (.host 60) false).kind = .load 8 4 .raw false .th 7 ∧
    thGone.uid = (acc0 (.host 60) false).uid ∧ th0 = (acc0 (.host 60) false).before.getD thGone ∧ th0.uid = thGone.uid ∧
    th0.seq = thGone.seq ∧ 61 ≠ hreq0.id ∧ ([7] : List Word).length = hreq0.words :=
  ⟨fun _ => ⟨rfl, rfl, rfl, rfl, rfl⟩, by decide +kernel, rfl, rfl, rfl, rfl, rfl, rfl, by decide, rfl⟩

/-- The image's module with partition 0's translation on, off, and its function frozen. -/
def apert (on fz : Bool) : State :=
  { image 5 with parts := [(0, { Part.reset with
      exists_ := true, keymask := 8, xlEnable := on, vfFrozen := fz, ideSecure := true })] }
theorem witness_Apertures :
    (∀ on fz, (apert on fz).up = true ∧ (apert on fz).binds = [] ∧ (apert on fz).waiting = [] ∧
      ((apert on fz).part 0).vfFrozen = fz ∧ ((apert on fz).part 0).xlEnable = on ∧ ((apert on fz).part 0).ideSecure = true) ∧
    0x24 % 4096 + 4 ≤ 4096 ∧ 0x24 + 4 ≤ 2 ^ 46 ∧ (2 ^ 21 + (0x24 - 0)) % 64 + 4 ≤ 64 ∧ (2 ^ 21 + (0x24 - 0)) % 4 = 0 ∧
    (cachedLeaf (apert true false) (diePlace 0) 0 0x24).map (fun l => (l.host, l.vbase, l.base, l.slot)) =
      some (false, 0, 2 ^ 21, 3) ∧
    ((cachedLeaf (apert true false) (diePlace 0) 0 0x24).map fun l =>
      (leafFail (apert true false) 0 l .load .page none, leafFail (apert true false) 0 l .store .page none)) = some (none, none) ∧
    (l2Hit (apert true false) (2 ^ 21 + (0x24 - 0)) 3).map (fun y => (y.words.length, y.words.all Datum.okay)) =
      some (16, true) ∧ readOnly (apert true false) (2 ^ 21 + (0x24 - 0)) = false :=
  ⟨fun _ _ => ⟨rfl, rfl, rfl, rfl, rfl, rfl⟩, by decide, by decide, by decide, by decide, by decide +kernel, by decide +kernel,
   by decide +kernel, by decide +kernel⟩

theorem witness_RegistersWritten :
    (∀ b, Reaches (deployed false 4) 0 b) ∧ ({ deployed false 4 with up := false } : State).up = false ∧
    (deployed false 4).up = true ∧ ((deployed false 4).part 0).vfFrozen = false ∧ ((deployed false 4).part 0).tdi = .unlocked :=
  ⟨fun _ => ⟨rfl, by decide, fun _ => Or.inl rfl, fun _ => ⟨rfl, fun h => by rcases h with h | h <;> exact absurd h (by decide)⟩⟩,
   rfl, rfl, rfl, rfl⟩

theorem witness_Sessions :
    (deployed false 4).up = true ∧ proctorAt (deployed false 4) = false ∧ ((deployed false 4).fn 1).spdmKey = some 1 ∧
    ((deployed false 4).fn 2).spdmKey = none ∧ ({ deployed false 4 with up := false } : State).selfTestFailed = false := by
  decide

def tdiAt (x : Tdi) : State :=
  { deployed false 4 with
    parts := [(0, { Part.reset with tdi := x })], launches := [(1, { launch0 0 with part := 0 })] }
theorem witness_Interfaces : (∀ x, ((tdiAt x).part 0).tdi = x ∧ (tdiAt x).up = true ∧ proctorAt (tdiAt x) = false) ∧
    tabFind (tdiAt .run).launches 1 = some { launch0 0 with part := 0 } ∧ ({ launch0 0 with part := 0 } : Launch).part = 0 :=
  ⟨fun _ => ⟨rfl, rfl, rfl⟩, rfl, rfl⟩

/-- A cap of 2,500 W over 3 ms, the ends of the range, and caps outside it; the clock at the ends of its range. -/
theorem witness_PowerAndReset :
    (((BitVec.ofNat 64 (3 * 2 ^ 16 + 2500)).extractLsb' 16 12).toNat = 3 ∧
      ((BitVec.ofNat 64 (3 * 2 ^ 16 + 2500)).extractLsb' 0 13).toNat = 2500) ∧
    ((BitVec.ofNat 64 2500).extractLsb' 16 12).toNat = 0 ∧
    (((BitVec.ofNat 64 (2 ^ 16 + 6401)).extractLsb' 0 13).toNat = 6401 ∧ (1999 < 2000 ∧ 6400 ≤ 6400)) ∧
    Takes (deployed false 4) (cm 0 [2500, 3]) true false ∧ (operand (cm 0 [2500, 3]) 0).toNat = 2500 ∧
    (operand (cm 0 [2500, 3]) 1).toNat = 3 ∧ 4095 < (operand (cm 0 [2500, 4096]) 1).toNat ∧
    (deployed false 4).trip = false ∧ (deployed false 4).mhz = 2100 ∧ ({ deployed false 4 with trip := true } : State).trip = true ∧
    700 < (deployed false 4).mhz ∧ ({ deployed false 4 with mhz := 700 } : State).mhz < 2100 :=
  ⟨by decide, by decide, by decide, takes ⟨rfl, rfl, rfl, rfl⟩ (by decide) (by decide), by decide, by decide, by decide, rfl, rfl, rfl,
   by decide, by decide⟩

/-! ## Fault queues, the router and context switches -/

/-- A thread parked in a record at the end of partition 2's ring, whose place the L2 holds; parked threads under a handler, and
beside another. -/
def frec0 : FRec := ⟨1, 0, 1, 0, 0, 0x11, 3, 1, true, 2, 1, 0x1008, 0x4000, [5]⟩
def thPark (q : Option Nat) : Thread := { th0 with status := .parked q, frec := 77 }
def fqPart (prod : BitVec 13) (bs : List Batch) : Part :=
  { Part.reset with exists_ := true, fqBase := 0x20003, fqEnable := true, fqProd := prod, batches := bs }
def parking (ts : Tab Thread) (x : Part) (h : DWord) : State :=
  { State.reset with
    nextId := 100, clock := 7
    cores := [(4, { Core.empty with threads := ts, rows := [(0, row0)], launch := some 1 })]
    launches := [(1, launch0 (h.setWidth 2048 <<< 64))], parts := [(2, x)]
    l2Tags := [(0x400, ⟨3, 0⟩)], l2 := [(0x800, ⟨words16, false⟩)] }
theorem parking_only (x : Part) (c k : Nat) (u : Thread) (h : (parking [(1, thPark none)] x 0).thread c k = some u) :
    c = 4 ∧ k = 1 := by
  by_cases hc : c = 4
  · subst hc
    by_cases hk : k = 1
    · exact ⟨rfl, hk⟩
    · simp [parking, State.thread, State.core, tabGet, tabFind, Ne.symm hk] at h
  · simp [parking, State.thread, State.core, tabGet, Ne.symm hc, Core.empty] at h
theorem witness_FaultQueues :
    (∀ ts x h, (parking ts x h).part 2 = x ∧ (parking ts x h).binds = [] ∧ (parking ts x h).demands = []) ∧
    (fqPart 1 [⟨9, [frec0]⟩]).batches = [⟨9, [frec0]⟩] ∧ frec0.uids = [(thPark none).uid] ∧ frec0.kind < 5 ∧
    (parking [(1, thPark none)] (fqPart 1 []) 0).thread 4 1 = some (thPark none) ∧
    (∀ c k u, (parking [(1, thPark none)] (fqPart 1 [⟨9, [frec0]⟩]) 0).thread c k = some u → u.uid = 5 → c = 4 ∧ k = 1) ∧
    (∀ e ∈ (parking [(1, thPark none)] (fqPart 1 []) 0).launches, ∀ g ∈ e.2.gangs, g.context = []) ∧
    ((fqPart 1 []).nextRseq = 1 ∧ 1 ∉ parkedSeqs (parking [(1, thPark none)] (fqPart 1 []) 0) 2) ∧
    ((fqPart 1 []).fqBase.extractLsb' 17 23).toNat * 2 ^ 17 + 32 * ((fqPart 1 []).fqProd.toNat % 4096) = 0x20020 ∧
    (((fqPart 1 []).fqBase.extractLsb' 0 8).toNat = 3 ∧ (fqPart 1 []).fqEnable = true) ∧
    (1 + 8192 - 0) % 8192 < 4096 ∧ 4096 < (4096 + 8192 - 0) % 8192 + 1 ∧
    HeldRun (parking [(1, thPark none)] (fqPart 1 []) 0) 3 0x20020 8 ⟨words16, false⟩ ∧
    ((match homeWrite (parking [(1, thPark none)] { fqPart 1 [] with fqBase := 0xE00E0003 } 0) 0xE00E0020 3
        (recWords (recBits frec0 true 1)) 0xFFFFFF with | .fail _ _ => true | .ok _ _ => false) = true) ∧
    Reaches (parking [(1, thPark (some 9))] (fqPart 1 []) 0) 2 false ∧
    (parkedKeys (parking [(1, thPark (some 9))] (fqPart 1 []) 0) 2 9
      ((parking [(1, thPark (some 9))] (fqPart 1 []) 0).core 4) = [1]) ∧
    savedCores (parking [(1, thPark (some 9))] (fqPart 1 []) 0) 2 = [] ∧
    (∀ e ∈ ((parking [(1, thPark (some 9))] (fqPart 1 []) 0).core 4).rows, ∀ v ∈ e.2.cv, v.2.complete = false) ∧
    ((launch0 ((0x1000 : DWord).setWidth 2048 <<< 64)).record.extractLsb' 334 2 = 0 ∧
      (launch0 ((0x1000 : DWord).setWidth 2048 <<< 64)).record.extractLsb' 64 64 ≠ 0) ∧
    rowAt (parking [(1, thPark (some 9)), (2, th0)] (fqPart 1 []) 0) 4 0 = some row0 ∧ row0.cv = [] ∧
    4096 < (1 + 8192 - 0x1000) % 8192 ∧ (1 + 8192 - 0x1001) % 8192 ≤ 4096 := by
  refine ⟨fun _ _ _ => ⟨rfl, rfl, rfl⟩, rfl, rfl, by decide, rfl, fun c k u h _ => parking_only _ c k u h, by decide,
    ⟨rfl, by decide +kernel⟩, by decide, by decide, by decide, by decide, ⟨by decide, by decide, by decide, by decide +kernel, rfl,
    by decide +kernel⟩, by decide +kernel, ⟨rfl, by decide, by simp, fun _ => ⟨rfl, fun h => by rcases h with h | h <;> exact absurd h (by decide)⟩⟩,
    by decide +kernel, by decide +kernel, by decide, by decide +kernel, rfl, rfl, by decide, by decide⟩

/-- A record of `a` threads a gang and `b` gangs; with a handle of key slot 3, and the record's fields as the router reads
them. -/
def recM (a b : Nat) : BitVec 2048 :=
  BitVec.ofNat 2048 (0x1000 + 2 ^ 128 * 0x77000000055 + 2 ^ 343 + 2 ^ 346 * 256 + 2 ^ 368 * 8 + 2 ^ 512 * a +
    2 ^ 576 * (b + 2 ^ 52 + 2 ^ 55))
def handleLo : Nat := 3 + 2 * 2 ^ 12 + 2 ^ 16
def routing : State :=
  { one th0 with
    nextSeq := 2, keys := [(3, { KeySlot.empty with loaded := true, key := 9, gen := 1, owner := some 2 })]
    parts := [(2, { Part.reset with exists_ := true, keymask := 8, clusters := 2 })] }
def macNow : Nat := handleMac routing handleLo % 2 ^ 32
def recH : BitVec 2048 := recM 2 1 + BitVec.ofNat 2048 (2 ^ 256 * (handleLo + 2 ^ 32 * macNow))
theorem macNow_lt : macNow < 2 ^ 32 := Nat.mod_lt _ (by decide)
/-- What lies beside the handle is not changed by it. -/
theorem beside (n m x : Nat) (hn : n % 2 ^ 320 < 2 ^ 256) (hm : m < 2 ^ 64) (hx : x = n + 2 ^ 256 * m) :
    x / 2 ^ 320 = n / 2 ^ 320 ∧ x % 2 ^ 256 = n % 2 ^ 256 ∧ x / 2 ^ 256 % 2 ^ 64 = m := by
  subst hx
  omega
theorem recM_gap : (recM 2 1).toNat % 2 ^ 320 < 2 ^ 256 ∧ (recM 2 1).toNat < 2 ^ 640 := by decide +kernel
theorem sum_fits (n m : Nat) (hn : n < 2 ^ 640) (hm : m < 2 ^ 64) : n + 2 ^ 256 * m < 2 ^ 2048 := by
  have : (2 : Nat) ^ 640 + 2 ^ 320 < 2 ^ 2048 := by decide +kernel
  omega
theorem handle_fits : handleLo + 2 ^ 32 * macNow < 2 ^ 64 := by
  have := macNow_lt
  have : handleLo = 73731 := rfl
  omega
theorem recH_toNat : recH.toNat = (recM 2 1).toNat + 2 ^ 256 * (handleLo + 2 ^ 32 * macNow) := by
  have h := sum_fits _ _ recM_gap.2 handle_fits
  have h2 := lt_of_le_of_lt (Nat.le_add_left _ _) h
  rw [recH, BitVec.toNat_add, BitVec.toNat_ofNat, Nat.mod_eq_of_lt h2, Nat.mod_eq_of_lt h]
theorem recH_field (hi lo : Nat) (h : 320 ≤ lo) : field recH.toNat hi lo = field (recM 2 1).toNat hi lo := by
  obtain ⟨k, rfl⟩ := Nat.exists_eq_add_of_le h
  simp only [field, pow_add, ← Nat.div_div_eq_div_mul, (beside _ _ _ recM_gap.1 handle_fits recH_toNat).1]
theorem recH_low (hi lo : Nat) (h : hi < 256) (hl : lo ≤ hi) : field recH.toNat hi lo = field (recM 2 1).toNat hi lo := by
  have e := (beside _ _ _ recM_gap.1 handle_fits recH_toNat).2.1
  have key : ∀ x : Nat, field x hi lo = x % 2 ^ 256 / 2 ^ lo % 2 ^ (hi + 1 - lo) := fun x => by
    obtain ⟨k, hk⟩ : ∃ k, 256 = lo + (hi + 1 - lo) + k := ⟨255 - hi, by omega⟩
    rw [field, hk, Nat.add_assoc, pow_add 2 lo, Nat.mod_mul_right_div_self, pow_add, Nat.mod_mul_right_mod]
  rw [key, key, e]
theorem recH_bits (a n : Nat) (h : 320 ≤ a ∨ a + n ≤ 256) : recH.extractLsb' a n = (recM 2 1).extractLsb' a n := by
  rcases n with _ | n
  · exact Subsingleton.elim _ _
  have key : ∀ x : BitVec 2048, x.extractLsb' a (n + 1) = BitVec.ofNat (n + 1) (field x.toNat (a + n) a) := fun x =>
    BitVec.eq_of_toNat_eq (by simp [field, Nat.shiftRight_eq_div_pow, show a + n + 1 - a = n + 1 by omega])
  rw [key, key]
  rcases h with h | h
  · rw [recH_field _ _ h]
  · rw [recH_low _ _ (by omega) (by omega)]
/-- Where a record's gangs are placed depends on its levels alone. -/
theorem place_congr (r r' : Nat) (hl : ∀ k, recLevel r k = recLevel r' k) (ht : recTop r = recTop r') :
    placeGang r = placeGang r' := by
  have hd : ∀ k, recDomain r k = recDomain r' k := fun k => by simp [recDomain, hl]
  have he : ∀ k, recExt r k = recExt r' k := fun k => by simp [recExt, hl]
  have hu : ∀ k b, extUnder r k b = extUnder r' k b := fun k b => by simp [extUnder, recRem, recExt, hl]
  have hb : baseLevel r = baseLevel r' := by simp [baseLevel, hd, ht]
  have hn : ∀ k, placeNode r k = placeNode r' k := fun k => by
    induction k with
    | zero => funext a b c; simp [placeNode]
    | succ k ih => funext a b c; simp only [placeNode, hu, hb, hd, ih]
  funext g av
  simp only [placeGang, hd, he, hn, ht]
theorem recH_ok : RecordOk routing 2 recH := by
  have hl : ∀ k, recLevel recH.toNat k = recLevel (recM 2 1).toNat k := fun k => recH_field _ _ (by omega)
  have ht : recTop recH.toNat = recTop (recM 2 1).toNat := recH_field _ _ (by decide)
  have hs : recSplit recH.toNat = recSplit (recM 2 1).toNat := by simp only [recSplit, recH_field _ _ (show 320 ≤ 365 by decide)]
  have hd : ∀ k, recDomain recH.toNat k = recDomain (recM 2 1).toNat k := fun k => by simp [recDomain, hl]
  have he : ∀ k, recExt recH.toNat k = recExt (recM 2 1).toNat k := fun k => by simp [recExt, hl]
  have hr : ∀ k, recRem recH.toNat k = recRem (recM 2 1).toNat k := fun k => by simp [recRem, hl]
  have hc : ∀ k, recScope recH.toNat k = recScope (recM 2 1).toNat k := fun k => by simp [recScope, hl]
  have h1 : recTop (recM 2 1).toNat = 1 := by decide +kernel
  have hb := recH_bits
  constructor
  all_goals try simp only [ht, hs, hd, he, hr, hc, h1, hb _ _ (Or.inr (show 0 + 64 ≤ 256 by decide)),
    hb _ _ (Or.inr (show 64 + 64 ≤ 256 by decide)), hb _ _ (Or.inr (show 192 + 64 ≤ 256 by decide)),
    hb 1024 1024 (Or.inl (by decide)), hb 376 136 (Or.inl (by decide)), hb 320 14 (Or.inl (by decide)),
    hb 368 8 (Or.inl (by decide)), hb 343 3 (Or.inl (by decide)), hb 346 19 (Or.inl (by decide))]
  case handle =>
    have e : recH.toNat / 2 ^ 256 % 2 ^ 64 = handleLo + 2 ^ 32 * macNow :=
      (beside _ _ _ recM_gap.1 handle_fits recH_toNat).2.2
    have e2 : (recH.extractLsb' 256 64).toNat = handleLo + 2 ^ 32 * macNow := by
      rw [BitVec.extractLsb'_toNat, Nat.shiftRight_eq_div_pow, e]
    have e3 : macNow = handleMac routing handleLo := Nat.mod_eq_of_lt (by
      have := (sha3 (bytesBE 64 (Config.freeBits routing.handleDraw).toNat ++ bytesLE 4 handleLo)).isLt
      unfold handleMac
      omega)
    have e4 : handleLo = 73731 := rfl
    have e5 : field (handleLo + 2 ^ 32 * macNow) 31 0 = handleLo := by simp only [field]; omega
    have e6 : field (handleLo + 2 ^ 32 * macNow) 63 32 = macNow := by
      have := macNow_lt
      simp only [field]; omega
    have e7 : field (handleLo + 2 ^ 32 * macNow) 15 12 = 2 ∧ field (handleLo + 2 ^ 32 * macNow) 31 16 = 1 ∧
        field (handleLo + 2 ^ 32 * macNow) 7 0 = 3 := by simp only [field]; omega
    simp only [handleOk, e2, e5, e6, e7, ← e3, beq_self_eq_true, Bool.true_and]
    decide
  case fits =>
    rw [fitsGrant, place_congr _ _ hl ht]
    decide +kernel
  case above =>
    intro k _ hk
    rw [hb _ _ (Or.inl (by omega))]
    revert k; decide +kernel
  case levels =>
    intro k hk
    rw [hb _ _ (Or.inl (by omega)), hb _ _ (Or.inl (by omega))]
    revert k; decide +kernel
  all_goals decide +kernel
theorem recH_accepted : refusal routing 2 recH.toNat = none ∧ recEdges recH.toNat = [] := by
  have hd : edgeDesc recH.toNat = edgeDesc (recM 2 1).toNat := funext fun j => by
    simp (disch := omega) only [edgeDesc, recH_field]
  have he : recEdges recH.toNat = recEdges (recM 2 1).toNat := by simp only [recEdges, hd]
  have hl : recLevel recH.toNat = recLevel (recM 2 1).toNat := funext fun k => recH_field _ _ (by omega)
  have hv : levelBad recH.toNat = levelBad (recM 2 1).toNat := by
    have h1 : recDomain recH.toNat = recDomain (recM 2 1).toNat := funext fun k => by simp only [recDomain, hl]
    have h2 : recExt recH.toNat = recExt (recM 2 1).toNat := funext fun k => by simp only [recExt, hl]
    have h3 : recRem recH.toNat = recRem (recM 2 1).toNat := funext fun k => by simp only [recRem, hl]
    have h4 : recScope recH.toNat = recScope (recM 2 1).toNat := funext fun k => by simp only [recScope, hl]
    have h5 : recTop recH.toNat = recTop (recM 2 1).toNat := recH_field _ _ (by decide)
    funext k
    unfold levelBad
    rw [hl, h1, h2, h3, h4, h5]
  have hb : recBad recH.toNat = recBad (recM 2 1).toNat := by
    have h1 : edgeBad recH.toNat = edgeBad (recM 2 1).toNat := by
      have h : ∀ j, field recH.toNat (384 + 16 * j + 7) (384 + 16 * j + 6) =
        field (recM 2 1).toNat (384 + 16 * j + 7) (384 + 16 * j + 6) := fun j => recH_field _ _ (by omega)
      simp only [edgeBad, he, h]
    have h2 : recSp recH.toNat = recSp (recM 2 1).toNat := recH_field _ _ (by decide)
    have h3 : recSplit recH.toNat = recSplit (recM 2 1).toNat := by unfold recSplit; rw [recH_field _ _ (by decide)]
    have h4 : recRegs recH.toNat = recRegs (recM 2 1).toNat := recH_field _ _ (by decide)
    have h5 : recTop recH.toNat = recTop (recM 2 1).toNat := recH_field _ _ (by decide)
    unfold recBad
    rw [h1, h2, h3, h4, h5, hv, hl, recH_field 2047 1088 (by decide), recH_field 383 376 (by decide),
      recH_field 333 320 (by decide), recH_low 63 0 (by decide) (by decide), recH_low 127 64 (by decide) (by decide),
      recH_low 255 192 (by decide) (by decide)]
  have hh : w64 (field recH.toNat 319 256) = recH.extractLsb' 256 64 :=
    BitVec.eq_of_toNat_eq (by rw [BitVec.extractLsb'_toNat, Nat.shiftRight_eq_div_pow]; simp [w64, field])
  have hs : ¬ (routing.part 2).spMax < recSplit recH.toNat := Nat.not_lt.2 recH_ok.scratch.2
  have h1 : recBad (recM 2 1).toNat = false := by decide +kernel
  have h2 : (recEdges (recM 2 1).toNat).map EdgeDesc.id = [] := by decide +kernel
  have h3 := List.map_eq_nil_iff.1 h2
  exact ⟨by simp [refusal, hb, he, hh, h1, h3, hs, recH_ok.handle, recH_ok.fits], he.trans h3⟩

/-- Records in the router's queue; a launch of one gang, of two threads, that waits, is placed, or is done. -/
def asking (f : Submit) (r : BitVec 2048) (fail : Option (BitVec 8)) : State :=
  { routing with
    routerQ := [⟨2, r, none, f, fail⟩]
    cores := [(4, { Core.empty with
      threads := [(1, { th0 with status := .blocked (.router 8 false) })], rows := [(0, row0)], launch := some 1 })] }
def wait0 (st : GangState) : TopGang := ⟨0, st, 0, 0, 0, 0, none, false⟩
def launchG (st : GangState) (done : DWord) : Launch :=
  { launch0 (recM 2 1 + (done.setWidth 2048 <<< 192)) with gangs := [wait0 st] }
def queued (st : GangState) (done : DWord) (cs : Tab Core) : State :=
  { mem th0 .rc words16 with
    keys := routing.keys, cores := cs, launches := [(1, launchG st done)]
    clusters := [(0, { Cluster.empty with tlb := [leaf0 .rc] })]
    parts := [(2, { Part.reset with exists_ := true, keymask := 8, clusters := 2, xlEnable := true })] }
def gone (b : Bool) : Tab Core :=
  [(4, { Core.empty with rows := if b then [(0, row0)] else [], launch := some 1, gangs := [gang0] })]
theorem witness_LaunchesRun :
    (∀ f r x, (asking f r x).routerQ = [⟨2, r, none, f, x⟩]) ∧
    (asking (.thread 4 1 5) recH none).thread 4 1 = some { th0 with status := .blocked (.router 8 false) } ∧
    refusal routing 2 recH.toNat = none ∧ recEdges recH.toNat = [] ∧
    (∀ f x, refusal { asking f recH x with routerQ := [] } 2 recH.toNat = refusal routing 2 recH.toNat) ∧
    refusal routing 2 (recM 2 0).toNat = some 0x01 ∧ routing.routerQ = [] ∧
    ((firstPlaceable (queued .waiting 0 []) 2 [4] (canRestore (queued .waiting 0 []) 2 [])
      (routerOrder (queued .waiting 0 []) 2)).map fun y =>
        (y.1.seq, y.1.launch, y.1.gang, y.2.map fun x => (x.core, x.n))) =
      some (1, launchG .waiting 0, wait0 .waiting, [(4, 2)]) ∧
    (firstPlaceable (queued .done 0 []) 2 [4] (canRestore (queued .done 0 []) 2 []) (routerOrder (queued .done 0 []) 2)).isNone = true ∧
    ((queued .waiting 0 []).core 4).rows = [] ∧ rowHeld (queued .waiting 0 []) 4 0 = false ∧
    (∀ b, findGang (queued (.placed [4]) 0 (gone b)) 1 0 = some (wait0 (.placed [4])) ∧
      chanBusy (queued (.placed [4]) 0 (gone b)) 4 1 0 = false ∧ (queued (.placed [4]) 0 (gone b)).accesses = []) ∧
    (∃ e ∈ ((queued (.placed [4]) 0 (gone true)).core 4).rows, e.2.seq = 1 ∧ e.2.top = 0) ∧
    ((queued (.placed [4]) 0 (gone false)).core 4).rows = [] ∧
    (launchOver (queued .done 0 []) 1 (launchG .done 0) = true ∧
      launchOver (queued .done 0x1000 []) 1 (launchG .done 0x1000) = true) ∧
    launchOver (queued (.placed [4]) 0 []) 1 (launchG (.placed [4]) 0) = false ∧
    (launchG .done 0x1000).record.extractLsb' 192 64 = 0x1000 ∧
    (cachedLeaf (queued .done 0x1000 []) (diePlace 0) 2 0x1000) = some (leaf0 .rc) ∧
    leafFail (queued .done 0x1000 []) 2 (leaf0 .rc) .store .page none = none ∧
    HeldRun (queued .done 0x1000 []) 3 0x5000 2 ⟨words16, false⟩ ∧ engineHeld (queued .done 0x1000 []) (diePlace 0) 2 0x1000 2 = false := by
  refine ⟨fun _ _ _ => rfl, rfl, recH_accepted.1, recH_accepted.2, fun _ _ => rfl, by decide +kernel, rfl, by decide +kernel,
    by decide +kernel, rfl, by decide +kernel, by decide +kernel, by decide +kernel, rfl, by decide +kernel, by decide +kernel,
    by decide +kernel, by decide +kernel, by decide +kernel,
    ⟨by decide, by decide, by decide, by decide +kernel, rfl, by decide +kernel⟩, by decide +kernel⟩

/-- Launch 1 in four gangs of one thread, in a grant of clusters 1 and, for a migration, 2, with a pool of 8 KiB that the L2
holds; core 4 halting, hot, or left with its gang's context saved; launch 2, of a higher priority, that waits. -/
def gangAt (i : Nat) (st : GangState) : TopGang := ⟨i, st, 0, i, 0, 0, none, false⟩
def coreAt (i : Nat) (halt hot : Bool) : Nat × Core :=
  (4 + i, { Core.empty with
    threads := [(1, { th0 with uid := 20 + i, hdr := hdrWord })], rows := [(0, { row0 with top := i })], launch := some 1, halting := halt
    hot := hot, gangs := [{ gang0 with top := i }], scratch := [(64, dat 9)] })
def pooled (grant : BitVec 128) (first : GangState) (four : Tab Core) (more : Tab Launch) : State :=
  { routing with
    clock := 10 ^ 6
    clusters := [(0, { Cluster.empty with tlb := [⟨2, 2 ^ 21, 9, 2 ^ 21, 3, false, false, true, true, false, .rc⟩] })]
    l2Tags := (List.range 64).map fun i => (2 ^ 14 + i, ⟨3, 0⟩)
    l2 := (List.range 128).map fun i => (2 ^ 15 + i, ⟨List.replicate 16 zeroDatum, false⟩)
    cores := four ++ [coreAt 1 false false, coreAt 2 false false, coreAt 3 false false]
    launches := (1, { launch0 (recM 1 4) with
      gangs := [gangAt 0 first, gangAt 1 (.placed [5]), gangAt 2 (.placed [6]), gangAt 3 (.placed [7])] }) :: more
    parts := [(2, { Part.reset with
      exists_ := true, keymask := 8, clusters := grant, xlEnable := true, svBase := 2 ^ 21, svSize := 8192 })] }
def above : Tab Launch := [(2, { launch0 (recM 1 1 + BitVec.ofNat 2048 (5 * 2 ^ 340)) with gangs := [wait0 .waiting] })]
def before1 : State := pooled 2 (.placed [4]) [coreAt 0 false false] above
def halted : State := pooled 2 (.halting [4]) [coreAt 0 true false] above
def context0 : SavedCore :=
  ⟨4, [gang0], [(1, { th0 with uid := 20 })], [(0, row0)], [], [], [], [], [(64, dat 9)], [], [], []⟩
def away : State := pooled 2 (.saved [context0] 0 5312) [] []
def hotCore : State := pooled 6 (.placed [4]) [coreAt 0 false true] []
def group0 : Group := ⟨[(1, 0)], [4]⟩
/-- The lives of core 4's threads, and the bytes that saving its gang takes. -/
def livesAt (s : State) : Tab Nat × State := allLives (withdrawCore s 4) [4]
def bytesAt (s : State) : Nat := saveBytes (livesAt s).2 group0 (fun _ => liveOf (livesAt s).1)
/-- Core 4 halting with a thread of that state, and accesses in flight. -/
def haltedAs (t : Thread) (as_ : List Access) : State :=
  { pooled 2 (.halting [4]) [(4, { (coreAt 0 true false).2 with threads := [(1, { t with uid := 20 })] })] above with
    accesses := as_ }
def saves : List State :=
  [halted, haltedAs { th0 with status := .blocked (.channel 0 0 none) } [], haltedAs thGone [{ acc0 (.reply [] true) false with uid := 20 }]]
theorem witness_Preempts :
    (partHalting halted 2 = true ∧ partHalting before1 2 = false) ∧
    firstPreempting before1 2 (routerOrder before1 2) = some ⟨[(1, 3)], [7]⟩ ∧ firstPreempting away 2 (routerOrder away 2) = none ∧
    findGang before1 1 3 = some (gangAt 3 (.placed [7])) := by decide +kernel
/-- A gang that has not halted; that waits for the router, for a header's walk, or for room; and three that are saved: with a
thread READY, one blocked, and one with a load in flight. -/
theorem witness_ContextsMove :
    (∀ s ∈ saves, findGang s 1 0 = some (gangAt 0 (.halting [4])) ∧ launchPart s 1 = 2 ∧ closeGroup s 513 [(1, 0)] = group0 ∧
      unflushed s [4] = [] ∧ s.stalled = false ∧ saveReady s [4] = true ∧ (livesAt s).2.stalled = false ∧
      poolFit (livesAt s).2 2 (bytesAt s) = some 0 ∧
      (let t := writePool 2 (launchSlot (livesAt s).2 1) ((bytesAt s + 63) / 64) (2 ^ 21) (livesAt s).2
       t.1 = none ∧ t.2.launches = s.launches ∧ t.2.stalled = false)) ∧
    (findGang before1 1 0 = some (gangAt 0 (.placed [4])) ∧ closeGroup before1 513 [(1, 0)] = group0 ∧ unflushed before1 [4] = []) ∧
    saveReady { halted with routerQ := [⟨2, 0, none, .thread 4 1 20, none⟩] } [4] = false ∧
    (let s := { haltedAs { th0 with entered := false, pc := 0x3000 } [] with walks := [⟨1, ⟨some 5, 1, 0⟩, 2, 3, none⟩] }
     saveReady s [4] = true ∧ (livesAt s).2.stalled = true) ∧
    poolFit { halted with parts := [(2, Part.reset)] } 2 5312 = none ∧
    ((saves[1]?.bind fun s => s.thread 4 1).map fun u => u.status) = some (.blocked (.channel 0 0 none)) ∧
    ((saves[2]?.bind fun s => (s.thread 4 1).map fun u => openStates s u)) = some [{ th0 with uid := 5 }] := by decide +kernel
theorem witness_Restores :
    ((firstPlaceable away 2 [] (canRestore away 2 []) (routerOrder away 2)).map fun y => (y.1.seq, y.1.gang, y.2.length)) =
      some (1, gangAt 0 (.saved [context0] 0 5312), 0) ∧
    ((firstPlaceable away 2 [] (canRestore away 2 []) (routerOrder away 2)).map fun y =>
      (some y.1.launch, restorePlan away 2 1 y.1.launch.record.toNat [context0] (tryOrder away 2 [4]))) =
      some (tabFind away.launches 1, some [(context0, 4)]) ∧
    (firstPlaceable halted 2 [] (canRestore halted 2 []) (routerOrder halted 2)).isNone = true ∧
    (let t := readPool 2 (launchSlot away 1) ((5312 + 63) / 64) (2 ^ 21) away
     t.1 = none ∧ t.2.launches = away.launches ∧ t.2.stalled = away.stalled ∧ rowHeld t.2 4 0 = false ∧
     (t.2.part 2).resumes = [] ∧ t.2.core 4 = Core.empty ∧ ∀ i < 4, chan t.2 1 i = Channel.zero) ∧
    ((context0.threads.map Prod.fst).Nodup ∧ (∀ e ∈ context0.threads, e.1 / 32 = 0) ∧ gang0.size ≤ 6 * 65536 ∧
      gang0.base % 4 = 0 ∧ tabSorted context0.scratch = true) := by decide +kernel
theorem witness_Scrubs :
    (before1.core 4).hot = false ∧ ((queued .done 0 (gone false)).core 4).gangs ≠ [] ∧
    (let s := queued .done 0 [(4, { Core.empty with launch := some 1 })]
     (s.core 4).launch = some 1 ∧ (s.core 4).gangs = [] ∧ s.accesses = [] ∧ coreTiles s 4 = []) := by decide +kernel
theorem put_back (t s : State)
    (h : { t with clusters := [], l2 := [], freeCount := 0 } = { s with clusters := [], l2 := [], freeCount := 0 }) :
    t = { s with clusters := t.clusters, l2 := t.l2, freeCount := t.freeCount } :=
  congrArg (fun x : State => { x with clusters := t.clusters, l2 := t.l2, freeCount := t.freeCount }) h
theorem witness_SchedulingCompletes :
    (Single recMem 4 1 thAddr ∧ Quiet recMem thAddr ∧ recMem.binds = [] ∧ thAddr.dstReady 8 1 = .ok () ∧
      launchPart recMem 1 = 2 ∧ cachedLeaf recMem (corePlace 4) 2 0x1000 = some (leaf0 .rc) ∧
      leafFail recMem 2 (leaf0 .rc) .load .page none = none ∧ binding recMem 0x5000 = false ∧
      ∀ i < 4, (l2Hit recMem (0x5000 + 64 * i) 3).map (fun y => (y.words.length, y.words.all Datum.okay)) = some (16, true)) ∧
    (Single (edgeState true ⟨3, 2, [], none, none⟩ []) 4 1 th0 ∧ Quiet (edgeState true ⟨3, 2, [], none, none⟩ []) th0 ∧
      ((edgeState true ⟨3, 2, [], none, none⟩ []).part 2).edge 6 = ⟨3, 2, [], none, none⟩ ∧
      (edgeDesc (launchRecord (edgeState true ⟨3, 2, [], none, none⟩ []) 1) 0).id = 6) ∧
    (th0.dstReady 8 2 = .ok () ∧ topGangOf (edgeState false .free [spawned false]) 4 1 th0 = some (spawned false) ∧
      (edgeDesc (launchRecord (edgeState false .free [spawned false]) 1) 0).valid = true ∧
      (edgeDesc (launchRecord (edgeState false .free [spawned false]) 1) 0).out = false) ∧
    (RecordOk routing 2 recH ∧ ∀ f x, (asking f recH x).nextSeq = 2 ∧ (asking f recH x).part 2 = routing.part 2) ∧
    (let s := queued .waiting 0 []; let r := (launchG .waiting 0).record.toNat
     s.launches = [(1, launchG .waiting 0)] ∧ (launchG .waiting 0).part = 2 ∧ (launchG .waiting 0).torn = false ∧
      (launchG .waiting 0).owed = none ∧ (launchG .waiting 0).gangs = [wait0 .waiting] ∧ (s.part 2).lqStop.getLsbD 0 = false ∧
      recTop r = 1 ∧ recDomain r 0 = 0 ∧ recDomain r 1 = 1 ∧ recFill r = false ∧ recExt r 1 = 1 ∧ recRem r 0 = 0 ∧
      recExt r 0 = 2 ∧ recSpBytes r ≤ recSplit r * 65536 ∧ (s.part 2).clusters.getLsbD (4 / 4) = true ∧
      s.core 4 = Core.empty ∧ rowHeld s 4 0 = false) ∧
    (let s := queued (.placed [4]) 0 (gone false)
     findGang s 1 0 = some (wait0 (.placed [4])) ∧ (s.core 4).rows = [] ∧ (s.cluster 1).chans = [] ∧ s.accesses = []) ∧
    (let s := queued .done 0 []
     tabFind s.launches 1 = some (launchG .done 0) ∧ (∀ g ∈ (launchG .done 0).gangs, g.state = .done) ∧
      (∀ j < 8, (edgeDesc (launchG .done 0).record.toNat j).valid = false) ∧ s.cores = [] ∧ s.accesses = [] ∧
      (launchG .done 0).record.extractLsb' 192 64 = 0 ∧ s.cxl = false) ∧
    (let s := hotCore; let r := (recM 1 4).toNat
     (tabFind s.launches 1).map (fun l => (l.part, l.record.toNat)) = some (2, r) ∧ recTop r = 1 ∧ recDomain r 0 = 0 ∧
      recDomain r 1 = 1 ∧ recFill r = false ∧ findGang s 1 0 = some (gangAt 0 (.placed [4])) ∧
      (gangAt 0 (.placed [4])).migrated = 0 ∧ s.core 4 = (coreAt 0 false true).2 ∧ gang0.since + 525000 ≤ s.clock ∧
      s.accesses = [] ∧ s.routerQ = [] ∧ s.demands = [] ∧ (s.part 2).batches = [] ∧ (s.part 2).resumes = [] ∧
      s.cluster 1 = Cluster.empty ∧ s.cluster 2 = Cluster.empty ∧
      (∀ e ∈ s.launches, ∀ z ∈ e.2.gangs, ∀ cs, z.state ≠ .halting cs) ∧ (∀ e ∈ s.launches, e.2.owed = none) ∧
      s.stalled = false ∧ (livesAt s).2.stalled = false ∧ poolFit (livesAt s).2 2 (bytesAt s) = some 0 ∧
      (let t := writePool 2 (launchSlot s 1) ((bytesAt s + 63) / 64) (2 ^ 21 + 0) (livesAt s).2
       t.1 = none ∧ t.2 = { s with clusters := t.2.clusters, l2 := t.2.l2, freeCount := t.2.freeCount } ∧
       ∀ k, t.2.cluster k = s.cluster k) ∧
      (s.part 2).exists_ = true ∧ (s.part 2).clusters.getLsbD (8 / 4) = true ∧ 8 / 64 = 4 / 64 ∧ s.core 8 = Core.empty ∧
      gang0.size ≤ recSplit r * 65536) := by
  refine ⟨⟨⟨rfl, rfl⟩, ⟨by simp [recMem, mem, one, State.reset], rfl⟩, rfl, rfl, by decide +kernel, by decide +kernel,
    by decide +kernel, by decide +kernel, by decide +kernel⟩, ⟨⟨rfl, rfl⟩, ⟨by simp [edgeState, one, State.reset], rfl⟩, rfl,
    by decide +kernel⟩, ⟨rfl, by decide +kernel, by decide +kernel, by decide +kernel⟩, ⟨recH_ok, fun _ _ => ⟨rfl, rfl⟩⟩,
    by decide +kernel, by decide +kernel, by decide +kernel, ?_⟩
  iterate 16 refine ⟨by decide +kernel, ?_⟩
  refine ⟨?_, by decide +kernel, rfl, by decide +kernel, by decide +kernel,
    ⟨by decide +kernel, put_back _ _ (by decide +kernel), fun k => congrArg (fun x => tabGet Cluster.empty x k) (by decide +kernel : _ = hotCore.clusters)⟩, by decide +kernel⟩
  intro e he z hz cs
  obtain rfl := List.mem_singleton.1 he
  rcases z with ⟨i, _ | cs' | cs' | _ | _, _, _, _, _, _, _⟩ <;> simp [gangAt] at hz ⊢

/-! ## Faults and steps -/

/-- A thread beside another of its row, of a launch with a policy and a handler. -/
def fi0 : FInfo := ⟨0x11, 3, 1, some 0x1234, false, none, false⟩
def faulty (policy handler : Nat) (t : Thread) : State :=
  { one t with
    launches := [(1, launch0 (BitVec.ofNat 2048 (policy * 2 ^ 334 + handler * 2 ^ 64)))]
    cores := [(4, { Core.empty with threads := [(1, t), (2, { th0 with uid := 6 })], rows := [(0, row0)], launch := some 1 })] }
theorem witness_FaultsTaken :
    (∀ p h t, (faulty p h t).thread 4 1 = some t ∧ (faulty p h t).demands = [] ∧ (faulty p h t).accesses = []) ∧
    (∀ p h t, tabFind (faulty p h t).launches 1 = some (launch0 (BitVec.ofNat 2048 (p * 2 ^ 334 + h * 2 ^ 64)))) ∧
    fi0.page = none ∧ fi0.freezing = false ∧ th0.posted = [] ∧ ({ th0 with inHandler := true } : Thread).inHandler = true ∧
    (∀ p < 4, ((BitVec.ofNat 2048 (p * 2 ^ 334 + 0x1000 * 2 ^ 64)).extractLsb' 334 2).toNat = p ∧
      (BitVec.ofNat 2048 (p * 2 ^ 334 + 0x1000 * 2 ^ 64)).extractLsb' 64 64 = 0x1000) ∧
    (BitVec.ofNat 2048 (0 * 2 ^ 334 + 0 * 2 ^ 64)).extractLsb' 64 64 = 0 ∧ rowAt (faulty 2 0 th0) 4 0 = some row0 ∧
    (∃ e ∈ ((faulty 2 0 th0).core 4).threads, e.1 ≠ 1 ∧ e.1 / 32 = 1 / 32) ∧
    (launch0 (BitVec.ofNat 2048 (3 * 2 ^ 334 + 0 * 2 ^ 64))).torn = false ∧ ((faulty 3 0 th0).core 4).launch = some 1 :=
  ⟨fun _ _ _ => ⟨rfl, rfl, rfl⟩, fun _ _ _ => rfl, rfl, rfl, rfl, rfl, by decide +kernel, by decide +kernel, rfl,
   ⟨(2, { th0 with uid := 6 }), by simp [faulty, State.core, tabGet], by decide, rfl⟩, rfl, rfl⟩

/-- A block at 0x1000 whose first words are given, threads and a plan. -/
def stepping (ts : Tab Thread) (ds : List DWord) (a : Act) (as_ : List Access) : State :=
  { mem th0 .rc ((ds.map fun d => [dat (lo32 d), dat (hi32 d)]).flatten ++ List.replicate (16 - 2 * ds.length) zeroDatum) with
    agenda := [a], clock := 100, accesses := as_, launches := [(1, launch0 (recM 2 1))], issue := ⟨0, []⟩
    cores := [(4, { Core.empty with threads := ts, rows := [(0, row0)], launch := some 1, tlb := [leaf0 .rc] })] }
def wIadd : DWord := 0x10381C1C00000024
def wBrk : DWord := 0xC078000000001C00
def th6 : Thread := { th0 with uid := 6 }
def open6 : Access := { acc0 .fill false with uid := 6, key := 2 }
/-- The state that the issue of pipe `p` of core 4 begins from. -/
def begun (s : State) : State := prepare { s with agenda := [] } 4
def fetched (s : State) (a : DWord) : Option DWord :=
  match fetchAt (firstAcquire (begun s) 4 (bundle (begun s) 4 0)) 4 2 a with | .ok w _ => some w | .fail _ _ => none
/-- A bundle of two lanes at a BRK, of which lane 2 or lane 1 has an access without a verdict. -/
def lagging (b : Bool) : State :=
  stepping (if b then [(1, th0), (2, th6)] else [(1, th6), (2, th0)]) [hdrWord, wBrk] (.issue 4 1)
    [{ open6 with key := if b then 2 else 1 }]
/-- An IADD with its literal, a word that does not decode, an instruction that the launch's registers do not permit; a word
that cannot be fetched; a bundle of two lanes of which the second or the first is held back. -/
theorem witness_StepsRun :
    (∀ ts ds a as_, (stepping ts ds a as_).agenda = [a] ∧ (stepping ts ds a as_).reports = []) ∧
    (let s := stepping [(1, th0)] [hdrWord, wIadd, 0x10000] (.issue 4 0) []
     bundle (begun s) 4 0 = [1] ∧ (begun s).thread 4 1 = some th0 ∧ fetched s th0.pc = some wIadd ∧
      fetched s (th0.pc + 8) = some 0x10000 ∧ hasLitBit wIadd = true ∧ (decodeWord wIadd (some 0)).isOk = true ∧
      decode [wIadd, 0x10000] = .ok (.iadd { plainA with dst := 7, srcA := 7, type := .i32, lit := some 0x10000 }, []) ∧
      lanesOk (begun s) 4 (.iadd { plainA with dst := 7, srcA := 7, type := .i32, lit := some 0 }) true [1] = [1] ∧
      ((begun s).thread 4 1).bind (laneGate (begun s)
        (.iadd { plainA with dst := 7, srcA := 7, type := .i32, lit := some 0x10000 })) = none) ∧
    (decodeWord 0x4038101418020060 (some 0)).isOk = false ∧
    lanesOk (begun (stepping [(1, th0)] [] (.issue 4 0) [])) 4 (.iadd { plainA with dst := 8, type := .i32 }) false [1] = [] ∧
    fetched (stepping [(1, { th0 with pc := 0x3000, blk := 0x2FF8 })] [] (.issue 4 0) []) 0x3000 = none ∧
    (∀ b : Bool, let s := lagging b
     bundle (begun s) 4 1 = [1, 2] ∧ lanesOk (begun s) 4 (.brk { plainS with imm8 := 7 }) false [1, 2] = [1, 2] ∧
      hasLitBit wBrk = false ∧ decode [wBrk] = .ok (.brk { plainS with imm8 := 7 }, []) ∧
      ((begun s).thread 4 1).bind (laneGate (begun s) (.brk { plainS with imm8 := 7 })) = (if b then none else some .verdict) ∧
      ((begun s).thread 4 2).bind (laneGate (begun s) (.brk { plainS with imm8 := 7 })) = (if b then some .verdict else none)) ∧
    (isEvent (.bindFrame (cm 1 [1, 3])) = true ∧ WellFormed (.bindFrame (cm 1 [1, 3]))) ∧ isEvent (.brk plainS) = false ∧
    (let s := { deployed false 4 with turn := 5, waiting := [.bindFrame (cm 1 [1, 3])] }
     (takeWaiting s [] s.waiting).map (fun x => (x.2.1.length, x.2.2.length)) = some (0, 0) ∧ nextPair s = none ∧
      s.reports = [] ∧ s.agenda = []) ∧
    (let s := { deployed false 4 with turn := 5, binds := [(1, cm 1 [1, 3])] }
     nextPair s = none ∧ (takeWaiting s [] s.waiting).isNone = true ∧ (ownEvent s).isSome = true) ∧
    (let s := { deployed false 4 with turn := 5 }
     nextPair s = none ∧ (takeWaiting s [] s.waiting).isNone = true ∧ (ownEvent s).isNone = true) := by
  refine ⟨fun _ _ _ _ => ⟨rfl, rfl⟩, by decide +kernel, by decide +kernel, by decide +kernel, by decide +kernel,
    fun b => by cases b <;> decide +kernel, ⟨by decide +kernel, by unfold WellFormed; decide +kernel⟩, by decide +kernel,
    by decide +kernel, by decide +kernel, by decide +kernel⟩

/-- Faults wait behind an open verdict (R404), and NOP, YIELD and PAUSE go on. -/
theorem witness_OpenVerdicts :
    openVerdict { one th6 with accesses := [open6] } 6 = true ∧ openVerdict (one th0) 5 = false ∧
    (∀ t, Single (one t) 4 1 t) ∧ th0.guard ⟨7, true⟩ = false :=
  ⟨by decide +kernel, by decide +kernel, one_single, by decide +kernel⟩

/-! ## A step on a placed word (R193 to R199): tests -/

/-- v7 := v7 + 0x10000 reads zero and writes the literal, and the thread stands behind both words. -/
theorem test_step_iadd : ((nx (step (State.reset.withFetchWord 128 (wIadd.toNat + 2 ^ 64 * 0x10000)))).thread 0 0).map
    (fun t => ((t.reg 7).word, (t.reg 7).tag, t.pc)) = some (0x10000, .i32, 0x1018) := by decide +kernel

/-- A BRK takes its fault at its own word. -/
theorem test_step_brk : ((nx (step (State.reset.withFetchWord 64 wBrk.toNat))).thread 0 0).map (fun t => t.pc) = some 0x1008 := by
  decide +kernel

/-! ## Clauses that the witnesses above do not reach: states that meet their premises -/

/-- The second register of a third source, empty with and without a fill pending, of another tag, and without its code; an
empty one in trap mode; sources of the abacus. -/
def fLate : FmtA := { ty .u32 with srcA := 4, srcB := 5, srcC := 10, dst := 8 }
def lateSrcs : List Src := [.regs 4 [.u32] false 0, .regs 5 [.u32] false 0]
def lateRegs : List Reg :=
  [{ rg .raw 0 with full := false }, { rg .raw 0 with full := false, pending := true }, rg .f32 1, { rg .u32 1 with code := 0 }]
def passes {α : Type} : Got α → Bool
  | .ok _ => true
  | _ => false
theorem witness_Operands_later :
    formOk (.imadw fLate) = true ∧
    aSrcs (ruleMadw fLate) fLate = lateSrcs ++ .regs 10 ([.u32] ++ .u32 :: []) false 0 :: [] ∧
    (∀ x ∈ lateRegs, let t : Thread := { th0 with regs := [(11, x)] }
     passes (t.sources lateSrcs) = true ∧ passes (t.checkAll 10 false [.u32]) = true ∧ t.reg (10 + 1) = x) ∧
    aSrcs (ruleIntAdd (ty .i32)) { ty .i32 with srcB := 4, modB := 1 } =
      [.regs 0 [.i32] false 0] ++ .regs 4 ([] ++ .i32 :: []) true 0 :: [] ∧
    ([Instr.qadd { ty .f32 with srcA := 4 }, .qmac (ty .i32), .qscan { ty .i32 with var := 3 },
      .qaddSeg { ty .raw with var := 1, srcB := 19 }].all formOk) = true ∧
    (∃ e, aSrcs (ruleQadd { ty .f32 with srcA := 4 }) { ty .f32 with srcA := 4 } = [] ++ .regs 4 ([] ++ e :: []) false 0 :: []) ∧
    (∀ d ∈ (one th0).demands, d.inst ≠ (one th0).nextId) := by
  refine ⟨by decide +kernel, rfl, by decide +kernel, rfl, by decide +kernel, ⟨_, rfl⟩, by decide +kernel⟩

/-- An edge with two tokens, of which the first has been admitted. -/
theorem witness_LaunchesAndEdges_popped :
    let s := edgeState false ⟨3, 2, [⟨dat 7, dat 8, true⟩, ⟨dat 9, dat 9, false⟩], none, none⟩ [spawned false]
    topGangOf s 4 1 th0 = some (spawned false) ∧ (spawned false).popped = false ∧
    ((s.part 2).edge 6).tokens = [⟨dat 7, dat 8, true⟩, ⟨dat 9, dat 9, false⟩] := by decide +kernel

/-- Addresses that are no multiple of the access, local and global, for each form. -/
def fMis (size : BitVec 2) : FmtM := { plainM with addr := 4, size := size, index := 255, dst := 8 }
def misaligned (a : DWord) (f : FmtM) (srcs : List Src) (j m : Nat) : Bool :=
  match (thFar a).sources srcs with
  | .ok xs => (eaOf f xs j).toNat % m != 0
  | _ => false
theorem witness_GlobalAddresses_aligned :
    (([0x1002, 0x8000000000000012] : List DWord).all fun a => (thFar a).guard plainM.guard &&
      misaligned a (fMis 1) (mAddrSrcs true (fMis 1)) 0 (mBytes (fMis 1)) &&
      misaligned a (fMis 1) (mDataSrc (fMis 1) (mWords 1) :: mAddrSrcs true (fMis 1)) 1 (mBytes (fMis 1)) &&
      misaligned a (fMis 0) (mDataSrc (fMis 0) 1 :: mAddrSrcs true (fMis 0)) 1 (4 * 1) &&
      misaligned a (fMis 0) (mDataSrc (fMis 0) 2 :: mAddrSrcs true (fMis 0)) 1 (4 * 1)) = true ∧
    ([Instr.ld (fMis 1), .lda { fMis 1 with scope := .sy }, .ldx (fMis 1), .st (fMis 1), .stl { fMis 1 with scope := .pd },
      .stx (fMis 1), .atom (fMis 0), .cas (fMis 0), .red { fMis 0 with dst := 0 }, .lds (fMis 1), .sts (fMis 1)].all formOk) =
      true ∧
    (∀ n < 3, th0.dstBlock 8 n = none) ∧ openVerdict (one (thFar 0x1002)) 5 = false ∧
    (let t : Thread := { th0 with regs := [(4, rg .u32 2)] }
     (∃ xs, t.sources (mAddrSrcs false (fMis 0)) = .ok xs ∧ (srcW xs 0 + srcW xs 1).toNat % mBytes (fMis 0) = 2) ∧
     ∃ xs, t.sources (mDataSrc (fMis 0) 1 :: mAddrSrcs false (fMis 0)) = .ok xs ∧
       (srcW xs 1 + srcW xs 2).toNat % mBytes (fMis 0) = 2) := by
  iterate 4 refine ⟨by decide +kernel, ?_⟩
  exact ⟨⟨_, rfl, by decide +kernel⟩, _, rfl, by decide +kernel⟩

/-- A bib that is free, and one that another register's set holds; a wait of one tile and of every tile that the set holds, of
which one has a code, or operations. -/
theorem witness_Tiles_held :
    (¬ Holds (tileState 2 th0 .zero) 4 1 fT ∧ ¬ Holds (tileState 2 th0 (heldTile 3)) 4 1 fT) ∧
    (∀ fn ∈ ([0, 1] : List (BitVec 2)), ∀ x ∈ [heldTile 2, { heldTile 2 with code := 0x18 },
        { heldTile 2 with queue := [⟨9, 4, 0, 2, .zero⟩] }], let s := tileState 2 th0 x; let f := { fT with fn := fn }
     formOk (.mwait { f with unit := if fn = 0 then 5 else 0 }) = true ∧ heldTiles s (laneSet 4 1 f) = [5] ∧
     declared s 4 1 f.cv.toNat = true ∧ (tileOf s 1 5).heldBy (laneSet 4 1 f) = true ∧ tileOf s 1 5 = x) ∧
    (tileOf (tileState 2 th0 .zero) 1 5).heldBy (laneSet 4 1 fT) = false ∧ th0.waited = false := by
  refine ⟨⟨fun h => absurd h.held (by decide +kernel), fun h => absurd h.cv (by decide +kernel)⟩, ?_⟩
  decide +kernel

/-- A report that the member has sent is to be taken back for a gate of its old version, and its taking back is over. -/
def reportedSlot (back : Bool) : GroupSlot :=
  { groupOf0 [0] with round := 2, targetVer := 2, reported := [0], coord := 7, retracting := back }
theorem witness_GatesAndGroups_retracted :
    (let s := gateState [] [(0, reportedSlot false)] (gateRec 1) thLine
     gateRefusal s 0 2 (gateOf (gRec 1)) = none ∧ freeGate s 0 ≠ none ∧ mustRetract s 2 (gateOf (gRec 1)) = true ∧
     groupSlot s 2 (gateOf (gRec 1)).group = some (0, reportedSlot false) ∧ (reportedSlot false).coord ≠ selfRank s 2) ∧
    (let s := gateState [] [(0, reportedSlot true)] (gateRec 3) thLine
     (gateRefusal s 0 2 (gateOf (gRec 3))).isSome = true ∧ freeGate s 0 ≠ none) := by decide +kernel

/-- The first of eight failures in a row and the eighth, of the next flit and of another; a link that leaves RETRAIN with its
peer still OFF; what a relay forwards, and what it does not. -/
theorem witness_LinksAndPeers_flits :
    ((lk 2).state ∈ [2, 3, 4] ∧ 0 = (lk 2).rxSeq ∧ 1 ≠ (lk 2).rxSeq ∧ (lk 2).inRow + 1 < 8 ∧ 8 ≤ ({ lk 2 with inRow := 7 } : Link).inRow + 1) ∧
    ((lk 4).state = 4 ∧ (lk 4).lost = false ∧ ((links (lk 4) .off).peer 3).state = 0) ∧
    (podTarget (.answer 3 7 .ack) = some ((0 + 2 + 1) % 16) ∧ podTarget (.answer 4 7 .ack) ≠ some ((0 + 2 + 1) % 16) ∧
      podTarget (.relayed 1 (.answer 3 7 .ack)) ≠ some ((0 + 2 + 1) % 16)) := by decide +kernel

/-- A request that was performed 2 ms ago, and one performed just now; a signal under a group that is delivered, one that came
before, and one of another generation. -/
def performed (t : Nat) : State := { homing alive rgn with remoteRx := [⟨⟨9, 1, 0, 5⟩, .ack, t⟩] }
theorem witness_WritesAndSignalsArrive_again :
    (∀ e ∈ (performed (8 * 10 ^ 12)).remoteRx, e.from_ = ⟨9, 1, 0, 5⟩ → e.at_ + 2 * 10 ^ 12 ≤ (performed 0).time) ∧
    (∃ e ∈ (performed (10 ^ 13)).remoteRx, e.from_ = ⟨9, 1, 0, 5⟩ ∧ (performed 0).time < e.at_ + 2 * 10 ^ 12) ∧
    (let s := { homing (alive2 [(4, some .ack)]) rgn with mcGroup := [(6, 0x94008000)] }
     (tabGet 0 s.mcGroup 6).getLsbD 31 = true ∧ ((tabGet 0 s.mcGroup 6).extractLsb' 27 4).toNat = (reqOf (.signal 4)).part ∧
     (tabGet 0 s.mcGroup 6).getLsbD 15 = true ∧ (s.peer 3).state = 1 ∧ (∀ z ∈ (s.peer 3).rx.seen, z.1 ≠ 6) ∧
     (seqSpan 6 (s.peer 3).rx.top ≤ 4096 ∨ 2 ^ 23 ≤ seqSpan 6 (s.peer 3).rx.top)) ∧
    (reqOf (.signal 4)).cls ≠ .so ∧ landingOk (homing alive rgn) (reqOf (.signal 4)).part 5 = true ∧
    ({ reqOf (.signal 4) with keygen := 1 } : FabReq).keygen ≠ ((homing alive rgn).key (leaf0 .un).slot).gen := by decide +kernel

/-- A gate that a change has made ready though its counter has fallen back since; an engine that is frozen already; the states
that an abort meets. -/
theorem witness_GatesRun_ready :
    (let g := { gateAt 1 1 2 with ready := true }
     g.state = 1 ∧ g.heldBack = false ∧ g.ready = true ∧ podRoom (gating g []) 1 = true) ∧
    ({ gateAt 1 0 2 with heldBack := true } : GateSlot).heldBack = true ∧
    (let s := { gating (gateAt 2 0 2) [] with dies := [(0, { Die.reset 0 with frozenParts := [2] })] }
     2 ∈ (s.die 0).frozenParts) ∧
    (wf0 false).freezing = false ∧ ({ wf0 false with freezing := true } : WorkFault).freezing = true ∧
    (∀ st ∈ [1, 2, 4], (gateAt st 0 2).state ≠ 0 ∧ (gateAt st 0 2).state ≠ 3 ∧ (gateAt st 0 2).part = 2) ∧
    (sigGate 2).group = 5 ∧ (sigGate 2).coll ≠ 9 := by decide +kernel
theorem gating_listed (g : GateSlot) (gs : Tab GroupSlot) : GatesListed (gating g gs) :=
  ⟨rfl, fun d => by rcases d with _ | d <;> rfl⟩

/-- A restarted round with a request that came again and with none; a joiner that asked for version 2, and one for version 3;
a report that is being taken back, with and without a thread that waits to post; a member in PUBLISH. -/
theorem witness_Rounds_more :
    (let g := { grp 0 1 [] [] [] with restarted := true }
     g.round = 1 ∧ g.restarted = true ∧ ([(4, true)] : List (Nat × Bool)) ≠ [] ∧ ([(4, true)].map Prod.fst).Nodup) ∧
    (let g := { grp 1 0 [] [] [] with members := [1], asked := some 2 }
     0 ∈ [0, 1] ∧ 0 ∉ g.members ∧ g.asked = some 2) ∧
    (let g := { grp 1 2 [] [] [] with retracting := true }
     g.round = 2 ∧ g.coord ≠ 0 ∧ 0 ∈ g.members ∧ 0 ∉ g.reported ∧ g.retracting = true ∧ postWaits (gating (gateAt 3 0 2) [(0, g)]) 2 = false ∧
     postWaits { gating (gateAt 3 0 2) [(0, g)] with
       cores := [(4, { Core.empty with threads := [(1, thLine)], rows := [(0, row0)], launch := some 1 })] } 2 = true) ∧
    ((gating (gateAt 3 0 2) []).binds = [] ∧ (gating (gateAt 3 0 2) []).accesses = [] ∧ (gating (gateAt 3 0 2) []).walks = []) ∧
    ((grp 1 3 [] [] []).round = 3 ∧ (grp 1 3 [] [] []).coord ≠ 0) := by decide +kernel

/-! ### Commands with operands in memory -/

/-- An operand of those bytes that the host has answered, at an aligned address; the reading of it has failed. -/
def opndOf (c : Cmd) (bs : List Byte) (e : Option (BitVec 8)) : OpndRead :=
  ⟨c, ((List.range (bs.length / 4)).zip (bytesWords bs)), e⟩
theorem resumes {s : State} {fn : Nat} {dw : List DWord} {pf vf : Bool} {k : Option (BitVec 256)} {ws : Tab Datum}
    {e : Option (BitVec 8)}
    (h : s.up = true ∧ s.binds = [] ∧ s.unbinds = [] ∧ s.routerQ = [] ∧ awaits s Owner.isOpnd = false ∧ s.fns = rings k ∧ s.cxl = false)
    (hn : fn ≤ 1) (hf : (fn = 0 → pf = true) ∧ (fn ≠ 0 → vf = true)) :
    Resumes { s with opnd := some ⟨cm fn dw, ws, e⟩ } (cm fn dw) pf vf ⟨cm fn dw, ws, e⟩ where
  up := h.1
  read := rfl
  mine := rfl
  binds := h.2.1
  unbinds := h.2.2.1
  router := by simp [h.2.2.2.1]
  all := h.2.2.2.2.1
  posted := ringed_posted (s := { s with opnd := _ }) h.2.2.2.2.2.1 h.2.2.2.2.2.2 hn (by decide)
  listed := rfl
  fn := hn.trans (by decide)
  reserved := rfl
  lists := hf

/-- A ring without an entry, and a record of the host's in the router; operands that the host has answered, and one that it
has not been able to. -/
theorem witness_CommandsTaken_operands :
    posted (deployed false 4) 2 0 = false ∧
    (∃ x ∈ ({ deployed false 4 with routerQ := [⟨0, 0, none, .host 1 1 (cm 1 []), none⟩] } : State).routerQ, x.ofHost = true) ∧
    (∀ dw, Takes (deployed false 4) (cm 0 dw) true false ∧ Takes (deployed false 4) (cm 0 dw) true true) ∧
    linesHeld (deployed false 4) (operand (cm 0 [0x3000, 0x4000]) 1).toNat 8192 = false ∧
    (∀ dw ws e, Resumes { deployed false 4 with opnd := some ⟨cm 0 dw, ws, e⟩ } (cm 0 dw) true false ⟨cm 0 dw, ws, e⟩) ∧
    ({ cm 0 [] with unlisted := some 0x7F } : Cmd).unlisted ≠ none :=
  ⟨by decide +kernel, ⟨_, List.mem_singleton.2 rfl, rfl⟩,
   fun _ => ⟨takes ⟨rfl, rfl, rfl, rfl⟩ (by decide) (by decide), takes ⟨rfl, rfl, rfl, rfl⟩ (by decide) (by decide)⟩,
   by decide +kernel, fun _ _ _ => resumes ⟨rfl, rfl, rfl, rfl, rfl, rfl, rfl⟩ (by decide) (by decide), by decide⟩

/-- A descriptor as the host has answered it, of a partition that does not exist, of one that does, and past the last. -/
theorem witness_PartitionsChange_operands :
    (∀ dw ws e, Resumes { owning with opnd := some ⟨cm 0 dw, ws, e⟩ } (cm 0 dw) true false ⟨cm 0 dw, ws, e⟩) ∧
    operandBytes (opndOf (cm 0 [1, 0x3000]) (desc 16 2 4) none) (operand (cm 0 [1, 0x3000]) 1).toNat 128 = desc 16 2 4 ∧
    (opndOf (cm 0 [1, 0x3000]) (desc 16 2 4) none).fail = none ∧
    (operand (cm 0 [1, 0x3000]) 0).toNat = 1 ∧ (operand (cm 0 [0, 0x3000]) 0).toNat = 0 ∧
    16 ≤ (operand (cm 0 [16, 0x3000]) 0).toNat :=
  ⟨fun _ _ _ => resumes ⟨rfl, rfl, rfl, rfl, rfl, rfl, rfl⟩ (by decide) (by decide), by decide +kernel, rfl, by decide,
   by decide, by decide⟩

/-- A slot with one bound group; a slot with a clean cached line; a launch that is live, and one that is not yet. (That the
wrapped key of a command unwraps is met by the words of RFC 3394's algorithm; twenty-four ciphers are too much for the kernel.) -/
def wrapped : List DWord := [0x2c25b298d71e34ac, 0x29ce248fadb9d69d, 0x782763483554a4a2, 0x7e61c034ca58b340, 0xe5596a8fea785db5]
def lined : State :=
  { deployed false 4 with l2Tags := [(0xA0, ⟨3, 0⟩)], l2 := [(0x140, ⟨words16, false⟩)], launches := [(1, launch0 0)] }
theorem witness_KeysLoaded_more :
    (∀ ws, Takes (deployed true 4) (cm 1 (3 :: 1 :: ws)) false true) ∧ operand (cm 1 (3 :: 1 :: wrapped)) 1 = 1 ∧
    (boundGroups (deployed true 4) 0 3 = [1] ∧ (∀ e < 8, e ≠ 0 → boundGroups (deployed true 4) e 3 = []) ∧
      cachedUnit (deployed true 4) 0 1 1 = some ⟨⟨false, true, 3, 2, []⟩, false⟩) ∧
    (tabSorted lined.l2Tags = true ∧ tabSorted lined.l2 = true ∧ (∀ e ∈ lined.l2Tags, e.2.slot = 3 → lineDirty lined e.1 = false) ∧
      (∀ e ∈ lined.launches, e.2.keySlot = 3 → e.2.live = false)) ∧
    Takes lined (cm 1 [3]) false true ∧ (lined.key 3).loaded = true ∧
    ({ launch0 0 with gangs := [gangAt 0 (.placed [4])] } : Launch).live = true ∧ 1 < (operand (cm 1 [3, 2]) 1).toNat :=
  ⟨fun _ => takes ⟨rfl, rfl, rfl, rfl⟩ (by decide) (by decide), rfl, by decide +kernel, by decide +kernel,
   takes ⟨rfl, rfl, rfl, rfl⟩ (by decide) (by decide), rfl, rfl, by decide⟩

/-- Entries of launch queues: an unlisted opcode, a reserved field, an address that is not aligned and one that is. -/
theorem witness_TablesAndEntries_queues :
    (∀ q < 8, posted (image 1) 1 (q + 1) = true) ∧ (image 1).up = true ∧ proctorAt (image 1) = false ∧
    ({ cm 1 [] with unlisted := some 0x7F } : Cmd).unlisted ≠ none ∧ (0x100 : DWord).toNat % 256 = 0 ∧
    (readRecordAt (image 1) (diePlace 0) 0 0x100).2.stalled = (image 1).stalled := by decide +kernel

/-- A nonce and a token as the host has answered them; a partition's memory in which a nonce reads, and, at another address, a
host page, into which a report goes. -/
def leafHost : Leaf := ⟨0, 2 ^ 22, 9, 0x700000, 3, true, true, true, true, true, .rc⟩
def attesting : State :=
  { image 5 with clusters := [(0, { Cluster.empty with tlb := [leafHost, ⟨0, 0, 9, 2 ^ 21, 3, false, true, true, true, true, .rc⟩] })] }
/-- What host writes may change, by name. -/
def attestingWith (o : List HostOut) (v : List ((Nat × Nat × Nat) × Option Nat)) : State :=
  { attesting with hostOut := o, hostPosts := v }
theorem attesting_page (o v) (va : Nat) (h : 2 ^ 22 ≤ va ∧ va < 2 ^ 22 + 2 ^ 21) :
    translate (attestingWith o v) (diePlace 0) 0 va .store .page none = (.ok leafHost, attestingWith o v) := by
  have h1 : cachedLeaf (attestingWith o v) (diePlace 0) 0 va = some leafHost := by
    simp [cachedLeaf, diePlace, attestingWith, attesting, State.cluster, tabGet, tlbFind, leafCovers, leafHost]
    omega
  have h2 : leafFail (attestingWith o v) 0 leafHost .store .page none = none :=
    show leafFail attesting 0 leafHost .store .page none = none by decide +kernel
  have h3 : ((attestingWith o v).part 0).xlEnable = true := rfl
  unfold Machine.translate
  simp [h1, h2, h3, Option.filter]
theorem attesting_checks (o v) (fuel va n : Nat) (h : 2 ^ 22 ≤ va ∧ va + 4 * n ≤ 2 ^ 22 + 2 ^ 21) :
    checkLocal 0 fuel (attestingWith o v) va n = (none, attestingWith o v) := by
  induction fuel generalizing va n with
  | zero => rfl
  | succ fuel ih =>
    unfold checkLocal
    by_cases hn : n = 0
    · simp [hn]
    · have hl : ∀ a b, linesHeld (attestingWith o v) a b = false := fun a b => by
        simp [linesHeld, lineHeld, attestingWith, attesting, image, deployed, State.reset]
      simp only [attesting_page o v va ⟨h.1, by omega⟩, hl, show leafHost.host = true from rfl]
      have : min n (16 - wordIn va) ≤ n := min_le_left _ _
      simpa [hn] using ih _ _ ⟨by omega, by omega⟩
theorem attesting_stores (fuel : Nat) (ws : List Datum) : ∀ (o v) (va : Nat), 2 ^ 22 ≤ va → va + 4 * ws.length ≤ 2 ^ 22 + 2 ^ 21 →
    ∃ o' v', storeLocal 0 fuel (attestingWith o v) va ws = attestingWith o' v' := by
  induction fuel generalizing ws with
  | zero => exact fun o v _ _ _ => ⟨o, v, rfl⟩
  | succ fuel ih =>
    intro o v va h1 h2
    unfold storeLocal
    by_cases hw : ws.isEmpty
    · exact ⟨o, v, by simp [hw]⟩
    · have hp : ws.length ≠ 0 := by simpa using hw
      simp only [hw, attesting_page o v va ⟨h1, by omega⟩]
      obtain ⟨o1, v1, hs⟩ : ∃ o1 v1, hostWrite (attestingWith o v) (leafAddr leafHost va)
          (wordBytes (ws.take (16 - wordIn va))) leafHost.cls leafHost.via = attestingWith o1 v1 := ⟨_, _, rfl⟩
      simp only [show leafHost.host = true from rfl, hs]
      by_cases hm : ws.length ≤ 16 - wordIn va
      · refine ⟨o1, v1, ?_⟩
        rw [List.drop_eq_nil_of_le hm]
        rcases fuel with _ | fuel <;> rfl
      · exact ih (ws.drop (16 - wordIn va)) o1 v1 _ (by omega) (by rw [List.length_drop]; omega)
theorem bytesWords_short (bs : List Byte) : 4 * (bytesWords bs).length ≤ bs.length := by
  fun_induction bytesWords bs with
  | case1 a b c d bs ih => simp; omega
  | case2 bs h => simp
theorem report_short (s : State) (fn : Nat) (nonce : List Byte) : 4 * (bytesWords (attestReport s fn nonce)).length ≤ 8192 :=
  (bytesWords_short _).trans (by rw [attestReport, padTo]; exact List.length_take_le _ _)
theorem attesting_writes (o v) (ws : List Datum) (h : 4 * ws.length ≤ 8192) :
    ∃ o' v', writeOpnd (attestingWith o v) 0 (operand (cm 1 [0x100, 2 ^ 22]) 1) ws = (none, attestingWith o' v') := by
  have ha : addrOf (operand (cm 1 [0x100, 2 ^ 22]) 1) = .local (2 ^ 22) := by decide +kernel
  obtain ⟨o', v', hs⟩ := attesting_stores ws.length ws o v (2 ^ 22) le_rfl (by omega)
  refine ⟨o', v', ?_⟩
  unfold writeOpnd
  simp only [ha, attesting_checks o v ws.length (2 ^ 22) ws.length ⟨le_rfl, by omega⟩]
  simpa using hs
theorem witness_ReportsAndLives_operands :
    (∀ x dw ws e, Resumes { living x with opnd := some ⟨cm 0 dw, ws, e⟩ } (cm 0 dw) true true ⟨cm 0 dw, ws, e⟩ ∧
      Resumes { living x with opnd := some ⟨cm 0 dw, ws, e⟩ } (cm 0 dw) true false ⟨cm 0 dw, ws, e⟩) ∧
    linesHeld (living .deployed) (operand (cm 0 [0x3000, 0x4000]) 1).toNat 8192 = false ∧
    operandBytes (opndOf (cm 0 [0x3000]) (List.replicate 64 7) none) (operand (cm 0 [0x3000]) 0).toNat 64 = List.replicate 64 7 ∧
    Takes attesting (cm 1 [0x100, 2 ^ 22]) true true ∧ addrOf (operand (cm 1 [0x100, 2 ^ 22]) 0) = .local 0x100 ∧
    (hostParts 0 16 attesting 0x100 16 0).1 = [] ∧ (hostParts 0 16 attesting 0x100 16 0).2 = attesting ∧
    (readOpnd attesting 0 (operand (cm 1 [0x100, 2 ^ 22]) 0) 16 [] none).2 = attesting ∧
    (∃ ws, (readOpnd attesting 0 (operand (cm 1 [0x100, 2 ^ 22]) 0) 16 [] none).1 = .ok ws) ∧
    (∀ fn nonce, ∃ o v, writeOpnd attesting 0 (operand (cm 1 [0x100, 2 ^ 22]) 1) (bytesWords (attestReport attesting fn nonce)) =
      (none, attestingWith o v) ∧ (attestingWith o v).stalled = attesting.stalled) ∧
    (∀ ws, (writeOpnd attesting 0 (operand (cm 1 [0x100, 2]) 1) ws) = (some 0x08, attesting)) := by
  refine ⟨fun x _ _ _ => ⟨resumes ⟨rfl, rfl, rfl, rfl, rfl, rfl, rfl⟩ (by decide) (by decide),
    resumes ⟨rfl, rfl, rfl, rfl, rfl, rfl, rfl⟩ (by decide) (by decide)⟩, by decide +kernel, by decide +kernel,
    takes ⟨rfl, rfl, rfl, rfl⟩ (by decide) (by decide), by decide +kernel, by decide +kernel, by decide +kernel, by decide +kernel, ?_, ?_, ?_⟩
  · have h : (readOpnd attesting 0 (operand (cm 1 [0x100, 2 ^ 22]) 0) 16 [] none).1.isOk = true := by decide +kernel
    generalize (readOpnd attesting 0 (operand (cm 1 [0x100, 2 ^ 22]) 0) 16 [] none).1 = x at h
    rcases x with e | ws
    · exact absurd h (by simp [Except.isOk, Except.toBool])
    · exact ⟨ws, rfl⟩
  · intro fn nonce
    obtain ⟨o, v, h⟩ := attesting_writes attesting.hostOut attesting.hostPosts _ (report_short attesting fn nonce)
    exact ⟨o, v, h, rfl⟩
  · intro ws
    have ha : addrOf (operand (cm 1 [0x100, 2]) 1) = .local 2 := by decide +kernel
    rw [writeOpnd, ha]
    rfl

/-! ### The host link, power and steps -/

/-- Before and after 50 ms, and with the timeout disabled. -/
theorem witness_HostCompletions_time :
    (hosting 0).ctl2 = 0 ∧ completionTime 16 = none ∧ (hosting (5 * 10 ^ 13 - 1)).time < hreq0.sent + 5 * 10 ^ 13 ∧
    hreq0.sent + 5 * 10 ^ 13 ≤ (hosting (5 * 10 ^ 13)).time := by decide +kernel

/-- A read of no bytes; a word of which one byte is written, or all, over a word that has its code. -/
theorem witness_Apertures_bytes :
    (0x24 % 4096 + 0 ≤ 4096 ∧ (2 ^ 21 + 0x24) % 64 + 0 ≤ 64) ∧
    (∃ x : Byte, some x ∈ ([none, some 7, none, none] : List (Option Byte))) ∧
    (none : Option Byte) ∉ ([some 1, some 2, some 3, some 4] : List (Option Byte)) ∧
    ((l2Hit (apert true false) (2 ^ 21 + 0x24) 3).bind fun y => y.words[(2 ^ 21 + 0x24) % 64 / 4]?).map Datum.okay = some true := by
  decide +kernel

/-- A tail of PF0's ring and of a VF's; a function that is frozen; without power; a snooped write in CXL mode. -/
theorem witness_RegistersWritten_more :
    (∀ p < 16, ((deployed false 4).part p).vfFrozen = false ∧ ((deployed false 4).part p).tdi = .unlocked) ∧
    (freezing.up = true ∧ (freezing.part 0).vfFrozen = true) ∧ (deployed false 4).powered = true ∧
    ({ deployed false 4 with powered := false } : State).powered = false ∧
    ({ deployed false 4 with cxl := true } : State).cxl = true ∧ (deployed false 4).cxl = false ∧
    ({ deployed false 4 with up := false, selfTestFailed := true } : State).selfTestFailed = true := by decide +kernel

/-- Before and after the millisecond that a cap has to take hold; a hot core and a cool one; a trip that is held; no power. -/
theorem witness_PowerAndReset_more :
    ((deployed false 4).powered = true ∧ (deployed false 4).tripHeld = false ∧ 700 ≤ (deployed false 4).mhz ∧ (deployed false 4).mhz ≤ 2100) ∧
    (let s := { deployed false 4 with capSince := 5, time := 10 ^ 12 + 5 }; s.capSince + 10 ^ 12 ≤ s.time) ∧
    (let s := { deployed false 4 with capSince := 5, time := 10 ^ 12 + 4 }; s.time < s.capSince + 10 ^ 12) ∧
    ({ deployed false 4 with tripHeld := true } : State).tripHeld = true ∧ (deployed false 4).hotTemp ≤ 200 ∧ 0 < (deployed false 4).hotTemp ∧
    ({ deployed false 4 with powered := false } : State).powered = false := by decide +kernel

/-- A pipe that has issued in this clock; a fetch that waits for a walk; a thread that is due, and none; no power. -/
theorem witness_StepsRun_more :
    (let s := stepping [(1, th0)] [hdrWord, wIadd, 0x10000] (.issue 4 0) []
     s.powered = true ∧ (4, 0) ∉ s.issued ∧ (4, 0) ∈ ({ s with issued := [(4, 0)] } : State).issued) ∧
    (let s := { stepping [(1, { th0 with pc := 0x3000, blk := 0x2FF8 })] [] (.issue 4 0) [] with
                  walks := [⟨1, ⟨some 5, 1, 0⟩, 2, 3, none⟩] }
     bundle (begun s) 4 0 = [1] ∧
     (match fetchAt (firstAcquire (begun s) 4 (bundle (begun s) 4 0)) 4 2 0x3000 with
      | .ok _ _ => false
      | .fail _ s1 => s1.stalled) = true) ∧
    (let s := stepping [(1, { th0 with since := 100 })] [] (.tick 9) []
     s.powered = true ∧ duePair s = none ∧ 0 < clocksFree s) ∧
    (let s := { stepping [(1, th0)] [] (.tick 9) [] with clock := 5000 }; (duePair s).isSome = true) ∧
    (let s := { stepping [(1, th0)] [] (.tick 9) [] with powered := false }; s.powered = false ∧ s.reports = [] ∧ s.agenda ≠ []) := by
  decide +kernel

/-- No thread is held in instance 39. -/
theorem witness_FaultsTaken_held : ∀ e ∈ (faulty 1 0 th0).cores, ∀ y ∈ e.2.threads, y.2.heldIn 39 = false := by decide +kernel

/-- A step of a state whose memory is listed in canonical form. -/
theorem witness_MemoryStaysCanonical :
    Memory.wf { State.reset with hbm := [(3, 7), (9, 1)] } = true ∧
    ∃ t, Steps { State.reset with hbm := [(3, 7), (9, 1)] } t := by
  refine ⟨by decide +kernel, ?_⟩
  have h : (match step { State.reset with hbm := [(3, 7), (9, 1)] } with | .next _ => true | _ => false) = true := by
    decide +kernel
  unfold Steps
  revert h
  split
  · exact fun _ => ⟨_, by assumption⟩
  · exact fun h => absurd h (by decide)

end Sys2Proof.Tests
end

section
/-! SUPPORT. Accesses to host registers and configuration requests (R4, R426, R432 to R434, R438): the rule of each
operation, and the obligation on them. -/

namespace Sys2Proof.Machine

/-! ## Fields of a register -/

/-- The bits `<hi:lo>` of a doubleword, set. -/
def fieldMask (hi lo : Nat) : DWord := w64 ((2 ^ (hi + 1 - lo) - 1) * 2 ^ lo)

theorem field_toNat {n : Nat} (v : BitVec n) (hi lo : Nat) :
    field v.toNat hi lo = (v.extractLsb' lo (hi + 1 - lo)).toNat := by
  simp [field, BitVec.extractLsb'_toNat, Nat.shiftRight_eq_div_pow]

theorem w64_keepBits (v : DWord) (hi lo : Nat) : w64 (keepBits v hi lo) = v &&& fieldMask hi lo := by
  refine BitVec.eq_of_getLsbD_eq fun i h => ?_
  rw [w64, fieldMask, w64, BitVec.getLsbD_and, BitVec.getLsbD_ofNat, BitVec.getLsbD_ofNat, keepBits, field,
    Nat.testBit_mul_two_pow, Nat.testBit_mul_two_pow, Nat.testBit_mod_two_pow, Nat.testBit_div_two_pow,
    Nat.testBit_two_pow_sub_one, BitVec.testBit_toNat]
  by_cases hl : lo ≤ i
  · simp [h, hl, Bool.and_comm]
  · simp [hl]

/-- What a register with two fields keeps of a doubleword. -/
theorem w64_keepBits_two (v : DWord) (a b c d : Nat) (h : fieldMask a b &&& fieldMask c d = 0) :
    w64 (keepBits v a b + keepBits v c d) = v &&& (fieldMask a b ||| fieldMask c d) := by
  have hd : (v &&& fieldMask a b) &&& (v &&& fieldMask c d) = 0 :=
    calc (v &&& fieldMask a b) &&& (v &&& fieldMask c d)
        = v &&& (fieldMask a b &&& fieldMask c d) := by ac_rfl
      _ = 0 := by rw [h]; exact BitVec.and_zero
  calc w64 (keepBits v a b + keepBits v c d)
      = w64 (keepBits v a b) + w64 (keepBits v c d) := BitVec.ofNat_add ..
    _ = (v &&& fieldMask a b) ||| (v &&& fieldMask c d) := by
        rw [w64_keepBits, w64_keepBits, BitVec.add_eq_or_of_and_eq_zero _ _ hd]
    _ = v &&& (fieldMask a b ||| fieldMask c d) := BitVec.and_or_distrib_left.symm

/-- A bit of a mask that is set or cleared as `b` says. -/
theorem getLsbD_putBit (m : BitVec 8) (q j : Nat) (b : Bool) (hj : j < 8) :
    (if b then m ||| BitVec.ofNat 8 (2 ^ q) else m &&& ~~~BitVec.ofNat 8 (2 ^ q)).getLsbD j =
      if j = q then b else m.getLsbD j := by
  have hm : (BitVec.ofNat 8 (2 ^ q))[j] = decide (q = j) := by
    rw [← BitVec.getLsbD_eq_getElem, BitVec.getLsbD_ofNat, Nat.testBit_two_pow]
    simp [hj]
  generalize BitVec.ofNat 8 (2 ^ q) = w at hm
  by_cases h : j = q
  · subst h
    cases b <;> simp [hm, hj]
  · cases b <;> simp [hm, hj, h, Ne.symm h]

/-! ## Functions and their queues -/

@[simp] theorem State.fn_setFn_same (s : State) (f : Nat) (x : Fn) : (s.setFn f x).fn f = x := tabGet_set_same ..

theorem State.fn_setFn_other (s : State) (f g : Nat) (x : Fn) (h : g ≠ f) : (s.setFn f x).fn g = s.fn g :=
  tabGet_set_other _ _ _ _ _ h

/-- A host queue of a function changed by `f`. -/
def State.modQueue (s : State) (fn q : Nat) (f : HostQueue → HostQueue) : State :=
  s.setFn fn { s.fn fn with queues := tabMod HostQueue.zero (s.fn fn).queues q f }

/-- Only the queue of the function is changed. -/
theorem State.modQueue_spec (s : State) (fn q : Nat) (f : HostQueue → HostQueue) :
    s.modQueue fn q f = { s with fns := (s.modQueue fn q f).fns } ∧
    (∀ g, g ≠ fn → (s.modQueue fn q f).fn g = s.fn g) ∧
    (s.modQueue fn q f).fn fn = { s.fn fn with queues := ((s.modQueue fn q f).fn fn).queues } ∧
    ∀ j, tabGet HostQueue.zero ((s.modQueue fn q f).fn fn).queues j =
      if j = q then f (tabGet HostQueue.zero (s.fn fn).queues j) else tabGet HostQueue.zero (s.fn fn).queues j := by
  refine ⟨rfl, fun g hg => s.fn_setFn_other _ _ _ hg, by simp [modQueue], fun j => ?_⟩
  simp only [modQueue, fn_setFn_same, tabMod]
  split
  · next h => rw [h, tabGet_set_same]
  · next h => exact tabGet_set_other _ _ _ _ _ h

theorem happens_setPart (s : State) (p : Nat) (x : Part) : happens s (s.setPart p x) = .next (s.setPart p x) :=
  happens_same id

theorem happens_setFn (s : State) (f : Nat) (x : Fn) : happens s (s.setFn f x) = .next (s.setFn f x) :=
  happens_same id

theorem happens_modQueue (s : State) (fn q : Nat) (f : HostQueue → HostQueue) :
    happens s (s.modQueue fn q f) = .next (s.modQueue fn q f) := happens_setFn ..

@[simp] theorem happens_self (s : State) : happens s s = .next s := happens_same id

theorem hxLog_logged (s : State) (fn : Nat) (code : BitVec 8) (a : DWord) : Logged s (hxLog s fn code a) fn code a := by
  refine ⟨fun g hg => s.fn_setFn_other _ _ _ hg, ?_⟩
  simp only [hxLog, State.fn_setFn_same]
  cases (s.fn fn).errValid <;> rfl

/-! ## The operations -/

theorem exec_registerWrite (fn off : Nat) (v : Option DWord) (inStream : Bool) (s : State) :
    exec (.registerWrite fn off v inStream) s = happens s (regAccess s fn off v inStream) := by rfl
theorem exec_qTail (fn q : Nat) (v : DWord) (s : State) : exec (.qTail fn q v) s =
    happens s (if q < 9 then regWrite s fn (0x3008 + 0x20 * q) v true else s) := by rfl
theorem exec_hxErrClear (fn : Nat) (s : State) :
    exec (.hxErrClear fn) s = happens s (regWrite s fn 0x2000 (w64 (2 ^ 31)) true) := by rfl
theorem exec_configurationRequest (r : ConfigRequest) (s : State) :
    exec (.configurationRequest r) s = happens s (configRequest s r) := by rfl
theorem exec_ringSnoop (fn q : Nat) (s : State) : exec (.ringSnoop fn q) s = happens s (ringSeen s fn q) := by rfl

@[simp] theorem regAccess_some (s : State) (fn off : Nat) (v : DWord) (inStream : Bool) :
    regAccess s fn off (some v) inStream = regWrite s fn off v inStream := rfl
@[simp] theorem regAccess_none (s : State) (fn off : Nat) (inStream : Bool) :
    regAccess s fn off none inStream = regAnswer s fn off inStream := rfl

/-! ## What a function's access meets -/

/-- A register access of a function is served: a VF is not frozen, and a locked one is accessed within its stream
(R432). -/
def Admitted (s : State) (fn : Nat) (inStream : Bool) : Prop :=
  ∀ p, fn = 1 + p → (s.part p).vfFrozen = false ∧
    ((s.part p).tdi = .locked ∨ (s.part p).tdi = .run → inStream = true ∧ (s.part p).ideSecure = true)

theorem admitted_pf0 (s : State) (inStream : Bool) : Admitted s 0 inStream := fun p h => absurd h (by omega)

theorem admitted_vf {s : State} {p : Nat} {inStream : Bool} (hf : (s.part p).vfFrozen = false)
    (hl : (s.part p).tdi = .locked ∨ (s.part p).tdi = .run → inStream = true ∧ (s.part p).ideSecure = true) :
    Admitted s (1 + p) inStream := by
  intro r hr
  obtain rfl : p = r := by omega
  exact ⟨hf, hl⟩

theorem tdiLocked_iff (s : State) (p : Nat) :
    tdiLocked s p = true ↔ (s.part p).tdi = .locked ∨ (s.part p).tdi = .run := by simp [tdiLocked]

@[simp] theorem vfOf_zero : vfOf 0 = none := rfl
@[simp] theorem vfOf_vf (p : Nat) : vfOf (1 + p) = some p := by simp [vfOf]

theorem vfArrives_admitted {s : State} {p : Nat} {inStream : Bool} (h : Admitted s (1 + p) inStream) (access : Nat)
    (a : DWord) : vfArrives s p access a inStream = (false, s) := by
  obtain ⟨hf, hl⟩ := h p rfl
  rw [← tdiLocked_iff] at hl
  cases hx : tdiLocked s p
  · simp [vfArrives, hf, hx]
  · obtain ⟨hi, hk⟩ := hl hx
    simp [vfArrives, hf, hi, hk]

theorem vfArrives_frozen {s : State} {p : Nat} (h : (s.part p).vfFrozen = true) (access : Nat) (a : DWord)
    (inStream : Bool) : vfArrives s p access a inStream = (true, s) := by simp [vfArrives, h]

theorem regAccess_down {s : State} (h : s.up = false) (fn off : Nat) (v : Option DWord) (inStream : Bool) :
    regAccess s fn off v inStream = s := by
  cases v with
  | none => simp [regAnswer, h]
  | some x => simp [regWrite, h]

theorem regWrite_admitted {s : State} {fn : Nat} {inStream : Bool} (hu : s.up = true) (hf : fn ≤ 16)
    (ha : Admitted s fn inStream) (off : Nat) (v : DWord) : regWrite s fn off v inStream = regPut s fn off v := by
  have hr : ¬ 17 ≤ fn := by omega
  rcases Nat.eq_zero_or_pos fn with rfl | hp
  · simp [regWrite, hu]
  · obtain ⟨p, rfl⟩ := Nat.exists_eq_add_of_le hp
    simp [regWrite, hu, hr, vfArrives_admitted ha]

theorem regAnswer_admitted {s : State} {fn : Nat} {inStream : Bool} (hu : s.up = true) (hf : fn ≤ 16)
    (ha : Admitted s fn inStream) (off : Nat) :
    regAnswer s fn off inStream = { s with hostOut := s.hostOut ++ [.reg fn off (some (regRead s fn off))] } := by
  have hr : ¬ 17 ≤ fn := by omega
  rcases Nat.eq_zero_or_pos fn with rfl | hp
  · simp [regAnswer, hu]
  · obtain ⟨p, rfl⟩ := Nat.exists_eq_add_of_le hp
    simp [regAnswer, hu, hr, vfArrives_admitted ha]

theorem regAnswer_frozen {s : State} {p : Nat} (hu : s.up = true) (hp : p < 16) (hf : (s.part p).vfFrozen = true)
    (off : Nat) (inStream : Bool) : regAnswer s (1 + p) off inStream =
      hxLog { s with hostOut := s.hostOut ++ [.reg (1 + p) off none] } (1 + p) fcFrozen 0 := by
  have hr : ¬ 17 ≤ 1 + p := by omega
  simp [regAnswer, hu, hr, vfArrives_frozen hf]

/-! ## Registers of a partition's blocks -/

theorem regPut_pf0_window (s : State) (p off : Nat) (v : DWord) (hp : p < 16) (ho : off < 0x100000) (h8 : off % 8 = 0) :
    regPut s 0 (blockOff p off true) v = if tdiLocked s p then s else writeBlocks s p off v := by
  have hb : blockOff p off true = 0x1000000 + 0x100000 * p + off := rfl
  have h1 : (blockOff p off true) % 8 = 0 := by omega
  have h2 : 0x1000000 ≤ blockOff p off true ∧ blockOff p off true < 0x2000000 := by omega
  have h3 : (blockOff p off true - 0x1000000) / 0x100000 = p := by omega
  have h4 : (blockOff p off true - 0x1000000) % 0x100000 = off := by omega
  generalize blockOff p off true = w at *
  simp [regPut, writePf0, h1, h2, h3, h4, show w ≠ 0x2000 by omega, show ¬ w < 0x3120 by omega,
    show ¬ w < 0x80 by omega, show ¬ w < 0x2000 by omega, show ¬ w < 0x10800 by omega, show ¬ w < 0x201000 by omega]

theorem regPut_vf_blocks (s : State) (p off : Nat) (v : DWord) (ho : off < 0x100000) (h8 : off % 8 = 0) :
    regPut s (1 + p) (blockOff p off false) v = writeBlocks s p off v := by
  have hb : blockOff p off false = 0x400000 + off := rfl
  have h1 : blockOff p off false % 8 = 0 := by omega
  have h2 : 0x400000 ≤ blockOff p off false ∧ blockOff p off false < 0x800000 := by omega
  have h3 : blockOff p off false - 0x400000 = off := by omega
  generalize blockOff p off false = w at *
  simp [regPut, h1, h2, h3, show w ≠ 0x2000 by omega, show ¬ w < 0x3120 by omega]

/-- A write of a block register that reaches its partition, by either way. -/
theorem regWrite_block {s : State} {p : Nat} {pf0 : Bool} (h : Reaches s p pf0) (off : Nat) (v : DWord)
    (ho : off < 0x100000) (h8 : off % 8 = 0) :
    regWrite s (blockFn p pf0) (blockOff p off pf0) v true = writeBlocks s p off v := by
  obtain ⟨hu, hp, hw, hs⟩ := h
  cases pf0 with
  | true =>
    have hl : tdiLocked s p = false := by
      rcases hw rfl with h | h <;> simp [tdiLocked, h]
    rw [show blockFn p true = 0 from rfl, regWrite_admitted hu (by omega) (admitted_pf0 s true),
      regPut_pf0_window s p off v hp ho h8, hl]
    rfl
  | false =>
    obtain ⟨hf, hl⟩ := hs rfl
    rw [show blockFn p false = 1 + p from rfl, regWrite_admitted hu (by omega) (admitted_vf hf fun h => ⟨rfl, hl h⟩),
      regPut_vf_blocks s p off v ho h8]

/-- A write that a block takes as `x` is a write of its partition's registers alone. -/
theorem exec_blockRegister {s : State} {p : Nat} {pf0 : Bool} {off : Nat} {v : DWord} {x : Part} (h : Reaches s p pf0)
    (ho : off < 0x100000) (h8 : off % 8 = 0) (hx : writeBlocks s p off v = s.setPart p x) :
    exec (.registerWrite (blockFn p pf0) (blockOff p off pf0) (some v) true) s = .next (s.setPart p x) := by
  rw [exec_registerWrite, regAccess_some, regWrite_block h off v ho h8, hx, happens_setPart]

theorem writeBlocks_xlRoot (s : State) (p : Nat) (v : DWord) :
    writeBlocks s p 0 v = s.setPart p { s.part p with xlRoot := v &&& 0x000000FFFFFFF0FF } := by
  have hm : w64 (keepBits v 39 12 + keepBits v 7 0) = v &&& 0x000000FFFFFFF0FF :=
    w64_keepBits_two v 39 12 7 0 (by decide)
  simp [writeBlocks, writeXl, hm]

theorem writeBlocks_fqBase (s : State) (p : Nat) (v : DWord) :
    writeBlocks s p 0x20000 v = s.setPart p { s.part p with fqBase := v &&& 0x000000FFFFFE00FF } := by
  have hm : w64 (keepBits v 39 17 + keepBits v 7 0) = v &&& 0x000000FFFFFE00FF :=
    w64_keepBits_two v 39 17 7 0 (by decide)
  simp [writeBlocks, writeFault, hm]

theorem writeBlocks_lqCtl (s : State) (p q : Nat) (v : DWord) (hq : q < 8) :
    ∃ y, writeBlocks s p (0x10000 + 8 * q) v = s.setPart p y ∧
      y = { s.part p with lqStop := y.lqStop, lqCeiling := y.lqCeiling } ∧
      (∀ j < 8, y.lqStop.getLsbD j = if j = q then v.getLsbD 3 else (s.part p).lqStop.getLsbD j) ∧
      ∀ j, tabGet 7 y.lqCeiling j = if j = q then (v.extractLsb' 0 3).toNat else tabGet 7 (s.part p).lqCeiling j := by
  have hw : writeBlocks s p (0x10000 + 8 * q) v = writeSched s p (8 * q) v := by
    simp [writeBlocks, show 0x10000 + 8 * q < 0x20000 by omega]
  rw [hw, writeSched, if_pos (by omega), Nat.mul_div_cancel_left q (by decide)]
  refine ⟨_, rfl, rfl, fun j hj => getLsbD_putBit _ q j _ hj, fun j => ?_⟩
  dsimp only
  rw [field_toNat]
  split
  · next h => rw [h, tabGet_set_same]
  · next h => exact tabGet_set_other _ _ _ _ _ h

/-! ## Queues, errors, configuration -/

theorem regPut_qTail (s : State) (fn q : Nat) (v : DWord) (hq : q < 9) (h0 : fn = 0 → q = 0) :
    regPut s fn (0x3008 + 0x20 * q) v = s.modQueue fn q fun x => { x with tail := v } := by
  have hd : (0x3008 + 0x20 * q - 0x3000) / 0x20 = q := by omega
  have hm : (0x3008 + 0x20 * q - 0x3000) % 0x20 = 8 := by omega
  have hx : (decide (9 ≤ q) || (fn == 0 && q != 0)) = false := by
    by_cases h : fn = 0
    · simp [h0 h]
    · simp [h]; omega
  have hw : writeQueue s fn (0x3008 + 0x20 * q - 0x3000) v = s.modQueue fn q fun x => { x with tail := v } := by
    simp only [writeQueue, hd, hm, hx]
    rfl
  rw [← hw, regPut, if_neg (by simp; omega), if_neg (by simp; omega), if_pos (by simp; omega)]

theorem regPut_hxErr (s : State) (fn : Nat) : regPut s fn 0x2000 (w64 (2 ^ 31)) =
    s.setFn fn { s.fn fn with errValid := false, errFunc := 0, errCode := 0, errAddr := 0 } := by
  simp [regPut, writeHx, w64]

theorem ringSeen_counts {s : State} {fn q : Nat} (hu : s.up = true) (hc : s.cxl = true) (hf : fn ≤ 16) (hq : q < 9) :
    ringSeen s fn q = s.modQueue fn q fun x => { x with seen := x.seen + 1 } := by
  rw [ringSeen, if_neg (by simp [hu, hc]; omega)]
  rfl

theorem ringSeen_none {s : State} (h : s.up = false ∨ s.cxl = false) (fn q : Nat) : ringSeen s fn q = s := by
  rcases h with h | h <;> simp [ringSeen, h]

/-- The answer of a request to a function that has power: a retry until bring-up ends, and what PF0 then takes. -/
theorem configRequest_powered {s : State} (h : s.powered = true) {fn : Nat} (hf : fn ≤ 16) (c : Option (BitVec 16)) :
    configRequest s ⟨fn, c⟩ = { s with
      hostOut := s.hostOut ++ [.config fn (!s.up && !s.selfTestFailed)]
      ctl2 := if fn = 0 ∧ (s.up = true ∨ s.selfTestFailed = true) then (c.map fun v => v.extractLsb' 0 5).getD s.ctl2
        else s.ctl2 } := by
  have hr : ¬ 17 ≤ fn := by omega
  cases c with
  | none => simp [configRequest, whilePowered, h, hr]
  | some v => simp [configRequest, whilePowered, h, hr, and_comm]

theorem configRequest_unpowered {s : State} (h : s.powered = false) (r : ConfigRequest) : configRequest s r = s := by
  simp [configRequest, whilePowered, h]

/-! ## The obligation -/

/-- Settles O47: each register's write by the rule of its block or of its queue, each read by that of its function. -/
theorem registersWritten : Obligations.RegistersWritten := by
  unfold Obligations.RegistersWritten
  refine ⟨?_, fun s => ⟨?_, ?_, ?_, ?_, ?_, fun fn q => ⟨?_, ?_⟩⟩⟩
  · rintro s p v pf0 wr x h rfl rfl
    refine ⟨exec_blockRegister h (by decide) (by decide) (writeBlocks_xlRoot s p v),
      exec_blockRegister h (by decide) (by decide) rfl, exec_blockRegister h (by decide) (by decide) rfl,
      fun q hq => ?_, exec_blockRegister h (by decide) (by decide) (writeBlocks_fqBase s p v),
      exec_blockRegister h (by decide) (by decide) rfl, exec_blockRegister h (by decide) (by decide) rfl,
      exec_blockRegister h (by decide) (by decide) rfl⟩
    obtain ⟨y, hw, hy⟩ := writeBlocks_lqCtl s p q v hq
    exact ⟨y, exec_blockRegister h (by omega) (by omega) hw, hy⟩
  · intro hu fn off v b
    rw [exec_registerWrite, regAccess_down hu, happens_self]
  · intro fn q v hu hf hq h0 hs
    have ha : Admitted s fn true := fun p hp => ⟨(hs p hp).1, fun h => ⟨rfl, (hs p hp).2 h⟩⟩
    refine ⟨_, ?_, s.modQueue_spec fn q fun x => { x with tail := v }⟩
    rw [exec_qTail, if_pos hq, regWrite_admitted hu hf ha, regPut_qTail s fn q v hq h0, happens_modQueue]
  · intro hu
    refine ⟨_, ?_, rfl, s.fn_setFn_same .., fun g hg => s.fn_setFn_other _ _ _ hg⟩
    rw [exec_hxErrClear, regWrite_admitted hu (by decide) (admitted_pf0 s true), regPut_hxErr, happens_setFn]
  · refine fun hu => ⟨fun off b => ?_, fun p off b hp => ⟨fun hz hl => ?_, fun hz => ?_⟩⟩
    · rw [exec_registerWrite, regAccess_none, regAnswer_admitted hu (by decide) (admitted_pf0 s b)]
      exact happens_same id
    · rw [exec_registerWrite, regAccess_none, regAnswer_admitted hu (by omega) (admitted_vf hz hl)]
      exact happens_same id
    · refine ⟨_, ?_, hxLog_logged { s with hostOut := s.hostOut ++ [.reg (1 + p) off none] } (1 + p) fcFrozen 0, rfl⟩
      rw [exec_registerWrite, regAccess_none, regAnswer_frozen hu hp hz]
      exact happens_same id
  · refine fun fn c hf => ⟨fun h => ?_, fun h => ?_⟩
    · rw [exec_configurationRequest, configRequest_powered h hf]
      exact happens_same id
    · rw [exec_configurationRequest, configRequest_unpowered h, happens_self]
  · intro hu hc hf hq
    refine ⟨_, ?_, s.modQueue_spec fn q fun x => { x with seen := x.seen + 1 }⟩
    rw [exec_ringSnoop, ringSeen_counts hu hc hf hq, happens_modQueue]
  · intro h
    rw [exec_ringSnoop, ringSeen_none h, happens_self]

end Sys2Proof.Machine
end

section
/-! SUPPORT. Registers and predicates of a thread (R7, R21, R199, R242 to R244), and the obligation on them. -/

namespace Sys2Proof.Machine

/-! ## Registers and predicates -/

theorem Thread.pred_setPred (t : Thread) (p q : Nat) (b : Bool) (hp : p < 7) (hq : q < 7) :
    (t.setPred p b).pred q = if q = p then b else t.pred q := by
  have h1 : (1#7 <<< p).getLsbD q = decide (q = p) := by
    rw [BitVec.getLsbD_shiftLeft, BitVec.getLsbD_one]
    simp only [hq, decide_true, Bool.true_and]
    by_cases h : q = p
    · simp [h]
    · by_cases hl : q < p
      · simp [h, hl]
      · simp [h, Nat.sub_eq_zero_iff_le, show ¬ q ≤ p by omega]
  have h7 : ¬ 7 ≤ p := by omega
  have hq7 : (q == 7) = false := by simp; omega
  have hb : (if b = true then 1#7 <<< p else 0).getLsbD q = (b && decide (q = p)) := by cases b <;> simp [h1]
  simp only [Thread.pred, Thread.setPred, h7, if_false, hq7, BitVec.getLsbD_or, BitVec.getLsbD_and, BitVec.getLsbD_not,
    h1, hb, hq, Bool.false_eq_true]
  by_cases h : q = p <;> simp [h]

/-- A pair is written low word first, its high word above it (R243). -/
theorem Thread.reg_writePair (t : Thread) (r : Nat) (g g' : Tag) (d : DWord) (h : r < 254) :
    (t.writePair r g g' d).reg r =
      { t.reg r with word := lo32 d, code := lcc (lo32 d), tag := g, full := true, pending := false } ∧
    (t.writePair r g g' d).reg (r + 1) =
      { t.reg (r + 1) with word := hi32 d, code := lcc (hi32 d), tag := g', full := true, pending := false } := by
  unfold Thread.writePair
  constructor
  · rw [Thread.reg_write_other _ _ _ _ _ (by omega), Thread.reg_write _ _ _ _ (by omega)]
  · rw [Thread.reg_write _ _ _ _ (by omega), Thread.reg_write_other _ _ _ _ _ (by omega)]

/-- Settles O3: each register and predicate read after a write to the same, and to another. -/
theorem registerWrites : Obligations.RegisterWrites := by
  intro t r tag w d p b
  refine ⟨t.reg_write r tag w, rfl, rfl, fun q hq => t.reg_write_other r q tag w hq, fun hr => ?_, fun hp => ?_, rfl, rfl,
    fun q hq h7 => ?_⟩
  · obtain ⟨hl, hh⟩ := t.reg_writePair r .addrLo .addrHi d hr
    rw [hl, hh]
    exact ⟨rfl, rfl, rfl, rfl⟩
  · rw [t.pred_setPred p p b hp hp, if_pos rfl]
  · by_cases hp : p < 7
    · rw [t.pred_setPred p q b hp h7, if_neg hq]
    · simp [Thread.setPred, Nat.not_lt.mp hp]

end Sys2Proof.Machine
end

section
/-! SUPPORT. Lane check codes (R19 to R21): a code bit is the parity of every fourth bit of its word, and the obligation
on what a change of a datum leaves detected. -/

namespace Sys2Proof.Machine

/-- How many bits of a word stand at the places that enter bit `j` of its code. -/
def laneCount (w : Word) (j : Nat) : Nat := (List.range 8).countP fun i => w.getLsbD (4 * i + j)

theorem getLsbD_foldWord (w : Word) {j : Nat} (hj : j < 4) :
    (foldWord w).getLsbD j = decide (laneCount w j % 2 = 1) := by
  have hb : (foldWord w).getLsbD j = (w.getLsbD j ^^ w.getLsbD (4 + j) ^^ w.getLsbD (8 + j) ^^ w.getLsbD (12 + j) ^^
      w.getLsbD (16 + j) ^^ w.getLsbD (20 + j) ^^ w.getLsbD (24 + j) ^^ w.getLsbD (28 + j)) := by
    simp [foldWord, hj]
  have hc : laneCount w j = b2n (w.getLsbD (28 + j)) + b2n (w.getLsbD (24 + j)) + b2n (w.getLsbD (20 + j)) +
      b2n (w.getLsbD (16 + j)) + b2n (w.getLsbD (12 + j)) + b2n (w.getLsbD (8 + j)) + b2n (w.getLsbD (4 + j)) +
      b2n (w.getLsbD j) := by
    simp [laneCount, b2n, List.range_succ, List.countP_cons]
  rw [hb, hc]
  generalize w.getLsbD j = b0, w.getLsbD (4 + j) = b1, w.getLsbD (8 + j) = b2, w.getLsbD (12 + j) = b3,
    w.getLsbD (16 + j) = b4, w.getLsbD (20 + j) = b5, w.getLsbD (24 + j) = b6, w.getLsbD (28 + j) = b7
  revert b0 b1 b2 b3 b4 b5 b6 b7
  decide

theorem foldWord_xor (a b : Word) : foldWord (a ^^^ b) = foldWord a ^^^ foldWord b := by
  simp only [foldWord, BitVec.extractLsb'_xor]
  ac_rfl

/-- A change of a consistent datum goes unseen exactly when the word's change folds to the code's. -/
theorem okay_xor {d : Datum} (h : Datum.okay d = true) (x : Word) (y : Code) :
    Datum.okay ⟨d.word ^^^ x, d.code ^^^ y⟩ = decide (y = foldWord x) := by
  have hc : d.code = foldWord d.word ^^^ 5 := eq_of_beq h
  have he : foldWord d.word ^^^ 5 ^^^ y = foldWord d.word ^^^ foldWord x ^^^ 5 ↔ y = foldWord x := by
    rw [BitVec.xor_assoc, BitVec.xor_assoc, BitVec.xor_right_inj, BitVec.xor_comm 5, BitVec.xor_left_inj]
  rw [Datum.okay, lcc, foldWord_xor, hc, Bool.eq_iff_iff, beq_iff_eq, decide_eq_true_iff, he]

theorem laneCount_single {w : Word} {b : Nat} (h : w.getLsbD b = true)
    (ho : ∀ i, i ≠ b / 4 → w.getLsbD (4 * i + b % 4) = false) : laneCount w (b % 4) = 1 := by
  have hb : b < 32 := BitVec.lt_of_getLsbD h
  have hp : laneCount w (b % 4) = (List.range 8).count (b / 4) := by
    refine List.countP_congr fun i _ => ?_
    by_cases hi : i = b / 4
    · simp [hi, Nat.div_add_mod, h]
    · simp [hi, ho i hi]
  rw [hp, List.count_eq_one_of_mem List.nodup_range (List.mem_range.mpr (by omega))]

/-- Up to four adjacent bits of a word enter different bits of its code, so they never cancel. -/
theorem foldWord_burst {x : Word} (hx : x ≠ 0) {n : Nat} (h : x &&& ~~~(0xF#32 <<< n) = 0) : foldWord x ≠ 0 := by
  have hin : ∀ b, x.getLsbD b = true → n ≤ b ∧ b < n + 4 := fun b hb => by
    have hz : (x &&& ~~~(0xF#32 <<< n)).getLsbD b = false := by rw [h]; exact BitVec.getLsbD_zero
    have hlt : b < 32 := BitVec.lt_of_getLsbD hb
    have hF : (15#32).getLsbD (b - n) = decide (b - n < 4) := by
      rw [show 15#32 = BitVec.ofNat 32 (2 ^ 4 - 1) from rfl, BitVec.getLsbD_ofNat, Nat.testBit_two_pow_sub_one]
      simp [show b - n < 32 by omega]
    rw [BitVec.getLsbD_and, BitVec.getLsbD_not, BitVec.getLsbD_shiftLeft, hF] at hz
    simp [hb, hlt] at hz
    omega
  obtain ⟨b, hb⟩ : ∃ b, x.getLsbD b = true := by
    by_contra hn
    exact hx (BitVec.eq_of_getLsbD_eq fun i _ => by simpa using fun hi => hn ⟨i, hi⟩)
  have hl : laneCount x (b % 4) = 1 := laneCount_single hb fun i hi => by
    by_contra hs
    have h1 := hin b hb
    have h2 := hin _ (Bool.not_eq_false _ ▸ hs)
    omega
  intro hz
  have hbit := getLsbD_foldWord x (Nat.mod_lt b (by decide : 0 < 4))
  simp [hz, hl] at hbit

/-- Settles O1: an error is the exclusive or with a change, and is seen unless that change folds to its own code. -/
theorem checkCodes : Obligations.CheckCodes := by
  refine ⟨fun w => rfl, by decide, by decide, by decide, by decide, by decide, ?_⟩
  rintro d d' x y hd rfl
  rw [okay_xor hd]
  simp only [decide_eq_false_iff_not, decide_eq_true_eq]
  refine ⟨?_, ?_, ?_, ?_, ?_, fun h => ?_⟩
  · rintro ⟨n, hn, rfl⟩ rfl
    revert n
    decide
  · rintro rfl ⟨n, hn, rfl⟩
    revert n
    decide
  · rintro hx ⟨n, -, h⟩ rfl
    exact (foldWord_burst hx h).symm
  · rintro rfl hy
    exact hy
  · rintro hx ⟨n, -, h⟩ rfl
    exact (foldWord_burst hx h).symm
  · refine BitVec.eq_of_getLsbD_eq fun j hj => ?_
    have hp := h j hj
    rw [getLsbD_foldWord x hj, laneCount]
    cases hy : y.getLsbD j <;> simp only [hy, if_true, if_false, Bool.false_eq_true] at hp <;>
      simp only [true_eq_decide_iff, false_eq_decide_iff] <;> omega

end Sys2Proof.Machine
end

section
/-! SUPPORT. One rounding (R10, R15, R17, R259): the magnitudes of a format rise with their encodings, `roundMag` takes
a number to one of its two neighbours, and the obligation on every format and mode. -/

namespace Sys2Proof.Machine

/-! ## The magnitudes of a format -/

namespace FFmt

/-- An encoding taken apart as a block of equal spacing and a significand within it, which is not below the leading
bit but in the first block. -/
structure Block (f : FFmt) (b q : Nat) : Prop where
  sig_lt : q < 2 ^ (f.frac + 1)
  normal : b = 0 ∨ 2 ^ f.frac ≤ q

theorem exists_block (f : FFmt) (g : Nat) : ∃ b q, g = b * 2 ^ f.frac + q ∧ f.Block b q := by
  have hp : 0 < 2 ^ f.frac := Nat.two_pow_pos _
  by_cases h : g < 2 ^ f.frac
  · exact ⟨0, g, by simp, by rw [pow_succ]; omega, .inl rfl⟩
  · have hm := Nat.mod_lt g hp
    obtain ⟨b, hb⟩ : ∃ b, g / 2 ^ f.frac = b + 1 :=
      Nat.exists_eq_add_one.mpr (Nat.div_pos (Nat.not_lt.mp h) hp)
    refine ⟨b, 2 ^ f.frac + g % 2 ^ f.frac, ?_, by rw [pow_succ]; omega, .inr (by omega)⟩
    have hd := Nat.div_add_mod g (2 ^ f.frac)
    rw [hb] at hd
    linarith [hd]

/-- The spacing of the encodings of a block. -/
noncomputable def ulp (f : FFmt) (b : Nat) : ℝ := 2 ^ ((b : ℤ) + 1 - f.bias - f.frac)

theorem ulp_pos (f : FFmt) (b : Nat) : 0 < f.ulp b := zpow_pos two_pos _

theorem ulp_succ (f : FFmt) (b : Nat) : f.ulp (b + 1) = 2 * f.ulp b := by
  rw [ulp, ulp, ← zpow_one_add₀ two_ne_zero]
  push_cast
  ring_nf

/-- An encoding in normal form, `b` leading blocks below it. -/
theorem mag_normal (f : FFmt) (b fr : Nat) (h : fr < 2 ^ f.frac) :
    (f.mag ((b + 1) * 2 ^ f.frac + fr) : ℝ) = ((2 ^ f.frac + fr : Nat) : ℝ) * f.ulp b := by
  have hp : 0 < 2 ^ f.frac := Nat.two_pow_pos _
  have hd : ((b + 1) * 2 ^ f.frac + fr) / 2 ^ f.frac = b + 1 := by
    rw [mul_comm, Nat.mul_add_div hp, Nat.div_eq_of_lt h, add_zero]
  have hm : ((b + 1) * 2 ^ f.frac + fr) % 2 ^ f.frac = fr := by
    rw [mul_comm, Nat.mul_add_mod, Nat.mod_eq_of_lt h]
  have hn : ¬ (b + 1) * 2 ^ f.frac + fr < 2 ^ f.frac := by
    rw [Nat.add_mul, Nat.one_mul]
    omega
  rw [mag, if_neg hn, hd, hm, ulp]
  push_cast
  ring_nf

theorem mag_subnormal (f : FFmt) (q : Nat) (h : q < 2 ^ f.frac) : (f.mag q : ℝ) = q * f.ulp 0 := by
  rw [mag, if_pos h, ulp]
  push_cast
  ring_nf

/-- The encodings of a block are equally spaced, the one behind its last included. -/
theorem mag_block {f : FFmt} {b q : Nat} (hn : b = 0 ∨ 2 ^ f.frac ≤ q) (hq : q ≤ 2 ^ (f.frac + 1)) :
    (f.mag (b * 2 ^ f.frac + q) : ℝ) = q * f.ulp b := by
  by_cases hs : q < 2 ^ f.frac
  · obtain rfl : b = 0 := hn.resolve_right (by omega)
    rw [Nat.zero_mul, Nat.zero_add, f.mag_subnormal q hs]
  · rw [pow_succ] at hq
    by_cases hl : q = 2 ^ f.frac * 2
    · rw [hl, show b * 2 ^ f.frac + 2 ^ f.frac * 2 = (b + 1 + 1) * 2 ^ f.frac + 0 by ring,
        f.mag_normal (b + 1) 0 (Nat.two_pow_pos _), ulp_succ]
      push_cast
      ring
    · obtain ⟨fr, rfl⟩ := Nat.exists_eq_add_of_le (Nat.not_lt.mp hs)
      rw [← f.mag_normal b fr (by omega)]
      ring_nf

theorem mag_strictMono (f : FFmt) : StrictMono fun g => (f.mag g : ℝ) := by
  refine strictMono_nat_of_lt_succ fun g => ?_
  obtain ⟨b, q, rfl, hq, hn⟩ := f.exists_block g
  rw [add_assoc, mag_block hn hq.le, mag_block (hn.imp id Nat.le_succ_of_le) hq]
  push_cast
  linarith [f.ulp_pos b]

theorem mag_zero (f : FFmt) : (f.mag 0 : ℝ) = 0 := by
  rw [f.mag_subnormal 0 (Nat.two_pow_pos _)]
  simp

end FFmt

/-! ## One rounding -/

theorem roundsUp_exact (r : Rounding) (neg : Bool) (lo s : Nat) : roundsUp r neg lo 0 s = false := by
  cases r with
  | mode md => cases md <;> simp [roundsUp, (Nat.two_pow_pos s).ne]
  | sr k rnd => rfl

/-- A positive number lies in one block, a whole number of spacings and a rest above its start, and is rounded by that
rest. -/
theorem roundMag_split (f : FFmt) {m : Nat} (hm : m ≠ 0) (e : ℤ) : ∃ b q rem s : Nat, f.Block b q ∧ rem < 2 ^ s ∧
    (m : ℝ) * 2 ^ e = (q + rem / 2 ^ s) * f.ulp b ∧
    ∀ r neg, roundMag f r neg m e = b * 2 ^ f.frac + if roundsUp r neg q rem s then q + 1 else q := by
  obtain ⟨top, htop⟩ : ∃ top, top = max ((Nat.log2 m : ℤ) + e) (1 - f.bias) := ⟨_, rfl⟩
  obtain ⟨b, hb⟩ : ∃ b : ℕ, (b : ℤ) = top + f.bias - 1 := ⟨(top + f.bias - 1).toNat, by omega⟩
  have hulp : f.ulp b = 2 ^ (top - f.frac) := by rw [FFmt.ulp, hb]; ring_nf
  obtain ⟨q, rem, s, hrem, hval, hround⟩ : ∃ q rem s : Nat, rem < 2 ^ s ∧
      (m : ℝ) * 2 ^ e = (q + rem / 2 ^ s) * f.ulp b ∧
      ∀ r neg, roundMag f r neg m e = b * 2 ^ f.frac + if roundsUp r neg q rem s then q + 1 else q := by
    have hbt : (top + f.bias - 1).toNat = b := by omega
    by_cases hle : top - f.frac ≤ e
    · refine ⟨m * 2 ^ (e - (top - f.frac)).toNat, 0, 0, by simp, ?_, fun r neg => ?_⟩
      · rw [hulp]
        push_cast
        rw [← zpow_natCast, Int.toNat_of_nonneg (by omega), zero_div, add_zero, mul_assoc, ← zpow_add₀ two_ne_zero]
        ring_nf
      · simp [roundMag, hm, ← htop, hbt, hle, roundsUp_exact]
    · refine ⟨m / 2 ^ (top - f.frac - e).toNat, m % 2 ^ (top - f.frac - e).toNat, (top - f.frac - e).toNat,
        Nat.mod_lt _ (Nat.two_pow_pos _), ?_, fun r neg => ?_⟩
      · obtain ⟨k, hk⟩ : ∃ k, (top - f.frac - e).toNat = k := ⟨_, rfl⟩
        have hsplit : (m : ℝ) = 2 ^ k * (m / 2 ^ k : Nat) + (m % 2 ^ k : Nat) := by
          exact_mod_cast (Nat.div_add_mod m (2 ^ k)).symm
        have hu : f.ulp b = 2 ^ k * 2 ^ e := by
          rw [hulp, ← zpow_natCast, ← zpow_add₀ two_ne_zero, ← hk]
          congr 1
          omega
        rw [hk, hu]
        conv_lhs => rw [hsplit]
        field_simp
      · simp [roundMag, hm, ← htop, hbt, hle]
  have hpos := f.ulp_pos b
  have hfrac : (rem : ℝ) / 2 ^ s < 1 := (div_lt_one (by positivity)).mpr (by exact_mod_cast hrem)
  have hlow : (2 : ℝ) ^ ((Nat.log2 m : ℤ) + e) ≤ m * 2 ^ e := by
    rw [zpow_add₀ two_ne_zero, zpow_natCast]
    gcongr
    exact_mod_cast Nat.log2_self_le hm
  have hhigh : (m : ℝ) * 2 ^ e < 2 ^ ((Nat.log2 m : ℤ) + 1 + e) := by
    rw [zpow_add₀ two_ne_zero, ← Nat.cast_succ, zpow_natCast]
    gcongr
    exact_mod_cast Nat.lt_log2_self
  refine ⟨b, q, rem, s, ⟨?_, ?_⟩, hrem, hval, hround⟩
  · have hq : (q : ℝ) * f.ulp b < 2 ^ (f.frac + 1) * f.ulp b := calc
      (q : ℝ) * f.ulp b ≤ m * 2 ^ e := by
        rw [hval]
        gcongr
        linarith [show (0 : ℝ) ≤ rem / 2 ^ s by positivity]
      _ < 2 ^ ((Nat.log2 m : ℤ) + 1 + e) := hhigh
      _ ≤ 2 ^ (top + 1) := zpow_le_zpow_right₀ one_le_two (by omega)
      _ = 2 ^ (f.frac + 1) * f.ulp b := by
        rw [hulp, ← zpow_natCast, ← zpow_add₀ two_ne_zero]
        congr 1
        omega
    exact_mod_cast lt_of_mul_lt_mul_right hq hpos.le
  · refine (Nat.eq_zero_or_pos b).imp id fun hb0 => ?_
    have hq : (2 ^ f.frac : ℝ) * f.ulp b < (q + 1) * f.ulp b := calc
      (2 ^ f.frac : ℝ) * f.ulp b = 2 ^ ((Nat.log2 m : ℤ) + e) := by
        rw [hulp, ← zpow_natCast, ← zpow_add₀ two_ne_zero]
        congr 1
        omega
      _ ≤ m * 2 ^ e := hlow
      _ < (q + 1) * f.ulp b := by
        rw [hval]
        gcongr
    exact Nat.lt_succ_iff.mp (by exact_mod_cast lt_of_mul_lt_mul_right hq hpos.le)

/-- A number and its two neighbours in a format: `lo` lies `q` spacings `u` above zero, the next encoding one more, and
the number `rem / 2^s` of a spacing above `lo`. -/
structure Neighbours (f : FFmt) (x : ℝ) (lo q rem s : Nat) (u : ℝ) : Prop where
  pos : 0 < u
  rem_lt : rem < 2 ^ s
  low : (f.mag lo : ℝ) = q * u
  high : (f.mag (lo + 1) : ℝ) = (q + 1) * u
  value : x = (q + rem / 2 ^ s) * u
  parity : f.frac ≠ 0 → lo % 2 = q % 2

namespace Neighbours

variable {f : FFmt} {x : ℝ} {lo q rem s : Nat} {u : ℝ}

theorem low_le (h : Neighbours f x lo q rem s u) : (f.mag lo : ℝ) ≤ x := by
  have hu := h.pos
  rw [h.low, h.value]
  gcongr
  linarith [show (0 : ℝ) ≤ rem / 2 ^ s by positivity]

theorem lt_high (h : Neighbours f x lo q rem s u) : x < f.mag (lo + 1) := by
  have hu := h.pos
  have hr : (rem : ℝ) / 2 ^ s < 1 := (div_lt_one (by positivity)).mpr (by exact_mod_cast h.rem_lt)
  rw [h.high, h.value]
  gcongr

theorem low_eq_iff (h : Neighbours f x lo q rem s u) : (f.mag lo : ℝ) = x ↔ rem = 0 := by
  rw [h.low, h.value, mul_left_inj' h.pos.ne', left_eq_add, div_eq_zero_iff, Nat.cast_eq_zero]
  simp

/-- Whether the rest rounds up is whether the number rounds away from zero (Table 1.4). -/
theorem roundsUp_iff (h : Neighbours f x lo q rem s u) (hf : f.frac ≠ 0) (md : RMode) (neg : Bool) :
    roundsUp (.mode md) neg q rem s = true ↔
      (f.mag lo : ℝ) ≠ x ∧ RoundsAway md neg (lo % 2 == 1) (f.mag lo) (f.mag (lo + 1)) x := by
  have hu := h.pos
  have hs : (0 : ℝ) < 2 ^ s := by positivity
  have hd : 2 * x - (f.mag lo + f.mag (lo + 1)) = (2 * rem - 2 ^ s) * (u / 2 ^ s) := by
    rw [h.low, h.high, h.value]
    field_simp
    ring
  rw [ne_eq, h.low_eq_iff]
  cases md with
  | rne =>
    have hlt : (f.mag lo : ℝ) + f.mag (lo + 1) < 2 * x ↔ 2 ^ s < 2 * rem := by
      rw [← sub_pos, hd, mul_pos_iff_of_pos_right (by positivity), sub_pos]
      exact_mod_cast Iff.rfl
    have heq : (f.mag lo : ℝ) + f.mag (lo + 1) = 2 * x ↔ 2 * rem = 2 ^ s := by
      rw [eq_comm, ← sub_eq_zero, hd, mul_eq_zero_iff_right (by positivity), sub_eq_zero]
      exact_mod_cast Iff.rfl
    have hs' : 0 < 2 ^ s := Nat.two_pow_pos s
    simp only [roundsUp, RoundsAway, hlt, heq, h.parity hf, Bool.or_eq_true, Bool.and_eq_true, decide_eq_true_eq,
      beq_iff_eq]
    omega
  | rz => simp [roundsUp, RoundsAway]
  | rd => simp [roundsUp, RoundsAway, and_comm]
  | ru => simp [roundsUp, RoundsAway, and_comm]

end Neighbours

/-- `roundMag` takes a positive number to one of its neighbours. -/
theorem roundMag_neighbours (f : FFmt) {m : Nat} (hm : m ≠ 0) (e : ℤ) : ∃ lo q rem s u,
    Neighbours f (m * 2 ^ e) lo q rem s u ∧
    ∀ r neg, roundMag f r neg m e = if roundsUp r neg q rem s then lo + 1 else lo := by
  obtain ⟨b, q, rem, s, ⟨hq, hn⟩, hrem, hval, hround⟩ := roundMag_split f hm e
  refine ⟨b * 2 ^ f.frac + q, q, rem, s, f.ulp b, ⟨f.ulp_pos b, hrem, FFmt.mag_block hn hq.le, ?_, hval, fun hf => ?_⟩,
    fun r neg => ?_⟩
  · rw [add_assoc, FFmt.mag_block (hn.imp id Nat.le_succ_of_le) hq, Nat.cast_succ]
  · obtain ⟨k, hk⟩ := Nat.exists_eq_succ_of_ne_zero hf
    rw [hk, pow_succ, ← mul_assoc, Nat.mul_add_mod_self_right]
  · rw [hround]
    split <;> rfl

/-- The same as R15 has it, of any magnitude. -/
theorem roundMag_spec (f : FFmt) (hf : f.frac ≠ 0) (md : RMode) (neg : Bool) (m : Nat) (e : ℤ) :
    ∃ lo : Nat, (f.mag lo : ℝ) ≤ m * 2 ^ e ∧ (m : ℝ) * 2 ^ e < f.mag (lo + 1) ∧
      (((f.mag lo : ℝ) ≠ m * 2 ^ e ∧ RoundsAway md neg (lo % 2 == 1) (f.mag lo) (f.mag (lo + 1)) (m * 2 ^ e)) ∧
          roundMag f (.mode md) neg m e = lo + 1 ∨
        ¬((f.mag lo : ℝ) ≠ m * 2 ^ e ∧ RoundsAway md neg (lo % 2 == 1) (f.mag lo) (f.mag (lo + 1)) (m * 2 ^ e)) ∧
          roundMag f (.mode md) neg m e = lo) := by
  by_cases hm : m = 0
  · subst hm
    have h1 : (f.mag 0 : ℝ) < f.mag 1 := f.mag_strictMono Nat.one_pos
    refine ⟨0, ?_, ?_, .inr ⟨?_, rfl⟩⟩ <;> simp_all [f.mag_zero]
  · obtain ⟨lo, q, rem, s, u, h, hr⟩ := roundMag_neighbours f hm e
    refine ⟨lo, h.low_le, h.lt_high, ?_⟩
    rw [← h.roundsUp_iff hf md neg, hr]
    cases roundsUp (.mode md) neg q rem s <;> simp

/-- A magnitude of the format stays what it is. -/
theorem roundMag_mag {f : FFmt} (r : Rounding) (neg : Bool) {m : Nat} {e : ℤ} {g : Nat}
    (h : (f.mag g : ℝ) = m * 2 ^ e) : roundMag f r neg m e = g := by
  by_cases hm : m = 0
  · subst hm
    obtain rfl : g = 0 := f.mag_strictMono.injective (by simpa [f.mag_zero] using h)
    rfl
  · obtain ⟨lo, q, rem, s, u, hx, hr⟩ := roundMag_neighbours f hm e
    have hl : lo ≤ g := f.mag_strictMono.le_iff_le.mp (h ▸ hx.low_le)
    have hh : g < lo + 1 := f.mag_strictMono.lt_iff_lt.mp (h ▸ hx.lt_high)
    obtain rfl : g = lo := by omega
    rw [hr, hx.low_eq_iff.mp h, roundsUp_exact]
    rfl

/-! ## Encodings -/

theorem allFmts_fields : ∀ f ∈ allFmts, f.frac ≠ 0 ∧ f.width ≠ 0 := by decide

theorem signed_decode (f : FFmt) (hw : f.width ≠ 0) {x : Nat} (hx : x < 2 ^ f.width) :
    signed f (negOf f x) (magOf f x) = x := by
  obtain ⟨k, hk⟩ := Nat.exists_eq_succ_of_ne_zero hw
  have hd : x / 2 ^ k < 2 := Nat.div_lt_of_lt_mul (by rwa [hk, pow_succ] at hx)
  have hs := Nat.div_add_mod x (2 ^ k)
  simp only [signed, negOf, magOf, bit, hk, Nat.succ_eq_add_one, Nat.add_sub_cancel, Nat.mod_eq_of_lt hd, beq_iff_eq]
  split
  · next h => rwa [h, mul_one, Nat.add_comm] at hs
  · next h => rwa [Nat.lt_one_iff.mp (lt_of_le_of_ne (Nat.lt_succ_iff.mp hd) h), mul_zero, Nat.zero_add] at hs

/-- A finite encoding is its own magnitude. -/
theorem decodeF_finite (f : FFmt) {x : Nat} (h : magOf f x ≤ f.maxFin) :
    ∃ m e, decodeF f x = .fin (negOf f x) m e ∧ (f.mag (magOf f x) : ℝ) = m * 2 ^ e := by
  by_cases he : magOf f x / 2 ^ f.frac = 0
  · have hl : magOf f x < 2 ^ f.frac := (Nat.div_eq_zero_iff_lt (Nat.two_pow_pos _)).mp he
    refine ⟨magOf f x % 2 ^ f.frac, 1 - f.bias - f.frac, by simp [decodeF, h, he], ?_⟩
    rw [Nat.mod_eq_of_lt hl, FFmt.mag, if_pos hl]
    push_cast
    rfl
  · have hl : ¬ magOf f x < 2 ^ f.frac := fun hl => he (Nat.div_eq_of_lt hl)
    refine ⟨2 ^ f.frac + magOf f x % 2 ^ f.frac, (magOf f x / 2 ^ f.frac : Nat) - f.bias - f.frac,
      by simp [decodeF, h, hl], ?_⟩
    rw [FFmt.mag, if_neg hl]
    push_cast
    rfl

theorem rndT_fin (f : FFmt) (md : RMode) (neg : Bool) (m : Nat) (e : ℤ) : rndT f md (.fin neg m e) =
    if roundMag f (.mode md) neg m e ≤ f.maxFin then signed f neg (roundMag f (.mode md) neg m e)
    else overflowOf f md neg := by
  have ho : (if keepsMax (.mode md) neg then signed f neg f.maxFin
      else if f.inf.isNone && f.nan.isSome then nanOf f else signed f neg (overMag f)) = overflowOf f md neg := by
    unfold overflowOf
    cases md <;> cases neg <;> cases hi : f.inf <;> cases hn : f.nan <;> simp [keepsMax, nanOf, overMag, hi, hn]
  rw [← ho]
  rfl

theorem rndT_decode (f : FFmt) (hf : f.width ≠ 0) (md : RMode) {x : Nat} (hx : x < 2 ^ f.width)
    (hn : decodeF f x ≠ .nan) : rndT f md (decodeF f x) = x := by
  by_cases h : magOf f x ≤ f.maxFin
  · obtain ⟨m, e, hd, hm⟩ := decodeF_finite f h
    rw [hd, rndT_fin, roundMag_mag _ _ hm, if_pos h, signed_decode f hf hx]
  · have hi : f.inf = some (magOf f x) := by
      by_contra hi
      exact hn (by simp [decodeF, h, hi])
    simpa [decodeF, h, hi, rndT, roundTo, overMag] using signed_decode f hf hx

/-- Settles O2: `roundMag` answers a neighbour, what lies beyond the format overflows, and a magnitude of the format
is its own neighbour. -/
theorem oneRounding : Obligations.OneRounding := by
  intro f hf md
  obtain ⟨hfrac, hwidth⟩ : f.frac ≠ 0 ∧ f.width ≠ 0 := allFmts_fields f hf
  refine ⟨fun neg m e => ?_, rfl, fun x hx hn => rndT_decode f hwidth md hx hn⟩
  obtain ⟨lo, hlo, hhi, hg⟩ := roundMag_spec f hfrac md neg m e
  exact ⟨lo, _, hlo, hhi, hg, rndT_fin f md neg m e⟩

end Sys2Proof.Machine
end

section
/-! SUPPORT. Elements of packed words (Table 1.1), conversions (R269, R270) and the obligation on CVT, PACK, UNPK,
TAGSET and TAGGET. -/

namespace Sys2Proof.Machine

/-! ## Elements of a word -/

/-- The number whose digits in base `2^b` are the values of `g`, taken modulo the base. -/
def digitSum (b : Nat) (g : Nat → Nat) (n : Nat) : Nat :=
  ((List.range n).map fun i => g i % 2 ^ b * 2 ^ (b * i)).foldl (· + ·) 0

theorem digitSum_succ (b : Nat) (g : Nat → Nat) (n : Nat) :
    digitSum b g (n + 1) = digitSum b g n + g n % 2 ^ b * 2 ^ (b * n) := by
  simp [digitSum, List.range_succ]

theorem digitSum_lt (b : Nat) (g : Nat → Nat) (n : Nat) : digitSum b g n < 2 ^ (b * n) := by
  induction n with
  | zero => simp [digitSum]
  | succ n ih =>
    have hd : g n % 2 ^ b + 1 ≤ 2 ^ b := Nat.mod_lt _ (Nat.two_pow_pos b)
    calc digitSum b g (n + 1) < (g n % 2 ^ b + 1) * 2 ^ (b * n) := by rw [digitSum_succ, Nat.add_mul]; omega
      _ ≤ 2 ^ b * 2 ^ (b * n) := Nat.mul_le_mul_right _ hd
      _ = 2 ^ (b * (n + 1)) := by rw [← Nat.pow_add]; ring_nf

theorem digitSum_digit (b : Nat) (g : Nat → Nat) {n i : Nat} (h : i < n) :
    digitSum b g n / 2 ^ (b * i) % 2 ^ b = g i % 2 ^ b := by
  induction n with
  | zero => omega
  | succ n ih =>
    rw [digitSum_succ]
    rcases Nat.lt_succ_iff_lt_or_eq.mp h with hi | rfl
    · obtain ⟨k, rfl⟩ := Nat.exists_eq_add_of_lt hi
      have hp : 2 ^ (b * (i + k + 1)) = 2 ^ (b * i) * (2 ^ b * 2 ^ (b * k)) := by
        rw [← Nat.pow_add, ← Nat.pow_add]
        ring_nf
      rw [hp, Nat.mul_left_comm, Nat.add_mul_div_left _ _ (Nat.two_pow_pos _), Nat.mul_left_comm,
        Nat.add_mul_mod_self_left, ih hi]
    · rw [Nat.mul_comm (g i % 2 ^ b), Nat.add_mul_div_left _ _ (Nat.two_pow_pos _),
        Nat.div_eq_of_lt (digitSum_lt b g i), Nat.zero_add, Nat.mod_mod]

theorem elemBits_tagElems (t : Tag) : elemBits t * tagElems t = 32 := by cases t <;> rfl

/-- An element of a joined word is the one that was put there (Table 1.1). -/
theorem elem_joinElems (t : Tag) (g : Nat → Nat) {i : Nat} (h : i < tagElems t) :
    elem t (joinElems t g) i = g i % 2 ^ elemBits t := by
  have hl : digitSum (elemBits t) g (tagElems t) < 2 ^ 32 := elemBits_tagElems t ▸ digitSum_lt ..
  have hw : (joinElems t g).toNat = digitSum (elemBits t) g (tagElems t) := Nat.mod_eq_of_lt hl
  rw [elem, hw, digitSum_digit _ _ h]

theorem elem_mod (t : Tag) (w : Word) (i : Nat) : elem t w i % 2 ^ elemBits t = elem t w i := Nat.mod_mod ..

/-! ## Conversions of one element -/

/-- Every encoding that rounding to a format can answer fits in its width. -/
theorem roundTo_lt {f : FFmt} (hf : f ∈ allFmts) (r : Rounding) (sat : Bool) (x : FVal) :
    roundTo f r sat x < 2 ^ f.width := by
  have hb : ∀ f ∈ allFmts, nanOf f < 2 ^ f.width ∧ f.maxFin < 2 ^ (f.width - 1) ∧ overMag f < 2 ^ (f.width - 1) ∧
      2 ^ f.width = 2 * 2 ^ (f.width - 1) := by decide
  obtain ⟨hn, hm, ho, hp⟩ := hb f hf
  have hs : ∀ (neg : Bool) (g : Nat), g < 2 ^ (f.width - 1) → signed f neg g < 2 ^ f.width := fun neg g hg => by
    unfold signed
    split <;> omega
  cases x with
  | nan => exact hn
  | inf neg =>
    simp only [roundTo]
    split_ifs
    exacts [hs _ _ hm, hn, hs _ _ ho]
  | fin neg m e =>
    simp only [roundTo]
    split_ifs with hg
    exacts [hs _ _ (by omega), hs _ _ hm, hn, hs _ _ ho]

theorem ffmtOf_fits {t : Tag} {f : FFmt} (h : ffmtOf t = some f) : f ∈ allFmts ∧ f.width = elemBits t := by
  cases t <;> cases h <;> decide

/-- An integer in the range of a format is what its element reads as (R9). -/
theorem intElem_wrap {t : Tag} (h : intTag t = true) {z : Int} (hl : intMin t ≤ z) (hh : z ≤ intMax t) :
    intElem t (wrap (elemBits t) z % 2 ^ elemBits t) = z := by
  match t, h with
  | .i32, _ | .i8x4, _ | .i4x8, _ =>
    simp only [intMin, intMax, intElem, wrap, elemBits, tagElems, sgn] at hl hh ⊢
    split_ifs <;> omega
  | .u32, _ | .u8x4, _ =>
    simp only [intMin, intMax, intElem, wrap, elemBits, tagElems] at hl hh ⊢
    omega

theorem intMin_le_intMax (t : Tag) : intMin t ≤ intMax t := by cases t <;> decide

/-- The two forms of a finite encoding, below the leading bit and above it (R10). -/
theorem decodeF_fin {f : FFmt} {x : Nat} {n : Bool} {m : Nat} {e : Int} (h : decodeF f x = .fin n m e) :
    magOf f x ≤ f.maxFin ∧ (m = magOf f x % 2 ^ f.frac ∧ e = 1 - f.bias - f.frac ∨
      m = 2 ^ f.frac + magOf f x % 2 ^ f.frac ∧ e = (magOf f x / 2 ^ f.frac : Nat) - f.bias - f.frac) := by
  unfold decodeF at h
  by_cases hm : magOf f x ≤ f.maxFin
  · by_cases he : magOf f x / 2 ^ f.frac = 0
    · simp only [hm, he, if_true, beq_self_eq_true, FVal.fin.injEq] at h
      exact ⟨hm, .inl ⟨h.2.1.symm, h.2.2.symm⟩⟩
    · simp only [hm, he, if_true, beq_iff_eq, if_false, FVal.fin.injEq] at h
      exact ⟨hm, .inr ⟨h.2.1.symm, h.2.2.symm⟩⟩
  · simp only [hm, if_false] at h
    split at h <;> cases h

/-- The leading bit of a finite F32 value (R10). -/
theorem f32_log2_le {x : Nat} {n : Bool} {m : Nat} {e : Int} (h : decodeF fmtF32 x = .fin n m e) :
    (Nat.log2 m : Int) + e ≤ 127 := by
  have hlog : m < 2 ^ 24 → Nat.log2 m ≤ 23 := fun hk => by
    rcases Nat.eq_zero_or_pos m with rfl | h0
    · decide
    · exact Nat.lt_succ_iff.mp ((Nat.log2_lt h0.ne').mpr hk)
  obtain ⟨hm, ⟨h1, h2⟩ | ⟨h1, h2⟩⟩ := decodeF_fin h
  · simp only [fmtF32] at hm h1 h2
    omega
  · simp only [fmtF32] at hm h1 h2
    omega

theorem not_float_of_intTag {t : Tag} (h : intTag t = true) : ffmtOf t = none ∧ (t == .e8m0x4) = false := by
  revert h
  cases t <;> decide

/-- What Table 11.10 answers for each kind of value, by the kind of format. -/
theorem convertTo_float {t : Tag} {f : FFmt} (h : ffmtOf t = some f) (md : RMode) (sat b : Bool) (k r : Nat) (x : FVal) :
    convertTo t md sat (if b then some (k, r) else none) x = roundTo f (if b then .sr k r else .mode md) sat x := by
  unfold convertTo
  rw [h]
  cases b <;> rfl

section
variable {t : Tag} (h : intTag t = true) (md : RMode) (sat : Bool) (sr : Option (Nat × Nat))
include h

theorem convertTo_int_nan : convertTo t md sat sr .nan = 0 := by
  simp [convertTo, not_float_of_intTag h, wrap]
theorem convertTo_int_inf (n : Bool) :
    convertTo t md sat sr (.inf n) = wrap (elemBits t) (if n then intMin t else intMax t) := by
  simp [convertTo, not_float_of_intTag h]
theorem convertTo_int_fin (n : Bool) (m : Nat) (q : Int) :
    convertTo t md sat sr (.fin n m q) = wrap (elemBits t) (clampTo t (roundInt md n m q)) := by
  simp [convertTo, not_float_of_intTag h]

end

/-- The element of a conversion's result is what Table 11.10 answers; its exponent is in the range of E8M0. -/
theorem converts_of_elem {f : FmtA} {rb : Word} {j : Nat} {x : FVal} {w : Word}
    (hx : f.type = .e8m0x4 → ∀ n m e, x = .fin n m e → (Nat.log2 m : Int) + e ≤ 127)
    (h : elem f.type w j = convertTo f.type (rmodeOf f.var) f.sat
      (if cvtSr f.srcC then some (32 / tagElems f.type, rb.toNat / 2 ^ (32 / tagElems f.type * j) %
        2 ^ (32 / tagElems f.type)) else none) x % 2 ^ elemBits f.type) : Converts f rb j x w := by
  simp only [Converts, h]
  refine ⟨fun t ht => ?_, fun hi => ?_, fun he => ?_⟩
  · obtain ⟨hm, hw⟩ := ffmtOf_fits ht
    rw [convertTo_float ht, ← hw, Nat.mod_eq_of_lt (roundTo_lt hm ..)]
  · have hle := intMin_le_intMax f.type
    refine ⟨?_, ?_, ?_⟩
    · rintro rfl
      rw [convertTo_int_nan hi, Nat.zero_mod]
    · rintro n rfl
      rw [convertTo_int_inf hi]
      cases n
      · exact intElem_wrap hi hle le_rfl
      · exact intElem_wrap hi le_rfl hle
    · rintro n m q rfl
      rw [convertTo_int_fin hi]
      exact intElem_wrap hi (le_max_left ..) (max_le hle (min_le_left ..))
  · rw [he]
    refine ⟨?_, ?_, ?_⟩
    · rintro rfl
      rfl
    · rintro n rfl
      rfl
    · rintro n m q rfl
      have hq := hx he n m q rfl
      refine ⟨fun h0 => by simp [convertTo, ffmtOf, h0], fun h0 => ?_⟩
      simp only [convertTo, ffmtOf, beq_self_eq_true, if_true, beq_iff_eq, h0, if_false, elemBits, tagElems]
      omega

theorem toNat_w32_tagNum (t : Tag) : (w32 (tagNum t)).toNat = tagNum t := by cases t <;> rfl

/-- Only F32 converts to E8M0 (Table 11.9). -/
theorem cvt_source_of_e8m0 {f : FmtA} (h : WellFormed (.cvt f)) (he : f.type = .e8m0x4) {st : Tag}
    (hs : cvtStype f.srcC = some st) : st = .f32 := by
  have hx : (ruleCvt f).extra = true := by
    simp only [WellFormed, formOk, aOk, Bool.and_eq_true] at h
    exact h.2
  simp only [ruleCvt, hs, Option.map_some, Option.getD_some, cvtExtra, he, Bool.and_eq_true] at hx
  have hp : cvtPair st .e8m0x4 = true := hx.1.1.1.1
  revert hp
  cases st <;> decide

/-- Element `j` of a conversion's result (R269). -/
def cvtElem (f : FmtA) (s : Tag) (a b : Word) (j : Nat) : Nat :=
  let i := if tagElems f.type ≤ tagElems s then cvtPart f.srcC * tagElems f.type + j else j % tagElems s
  let k := 32 / tagElems f.type
  if tagElems f.type ≤ tagElems s || j / tagElems s == cvtPart f.srcC then
    convertTo f.type (rmodeOf f.var) f.sat
      (if cvtSr f.srcC then some (k, b.toNat / 2 ^ (k * j) % 2 ^ k) else none) (elemVal s (elem s a i))
  else 0

theorem elem_cvtWord (f : FmtA) (s : Tag) (a b : Word) {j : Nat} (h : j < tagElems f.type) :
    elem f.type (cvtWord f s a b) j = cvtElem f s a b j % 2 ^ elemBits f.type := elem_joinElems f.type (cvtElem f s a b) h

/-! ## The obligation -/

/-- Settles O11: element by element of the word that the lane joins. -/
theorem conversionsAndTags : Obligations.ConversionsAndTags := by
  refine ⟨?_, ?_, ?_, ?_, ?_⟩
  · refine gives_of_local (fun _ _ => rfl) fun f t xs hw => ⟨_, ?_, rfl⟩
    rintro st hst _ _ rfl rfl j hj i
    have hx : ∀ k, f.type = .e8m0x4 → ∀ n m e, elemVal st (elem st (srcW xs 0) k) = .fin n m e →
        (Nat.log2 m : Int) + e ≤ 127 := fun k he n m e hv => by
      obtain rfl := cvt_source_of_e8m0 hw he hst
      exact f32_log2_le hv
    simp only [hst, Option.getD_some, elem_cvtWord f st _ _ hj]
    refine ⟨?_, ?_, ?_⟩
    · rintro hn rfl
      refine converts_of_elem (hx _) ?_
      rw [elem_cvtWord f st _ _ hj]
      simp only [cvtElem, hn, if_true, decide_true, Bool.true_or]
    · rintro hn hp rfl
      refine converts_of_elem (hx _) ?_
      rw [elem_cvtWord f st _ _ hj]
      simp only [cvtElem, Nat.not_le.mpr hn, hp, if_true, if_false, beq_self_eq_true, Bool.or_true]
    · intro hn hp
      simp [cvtElem, Nat.not_le.mpr hn, hp]
  · refine gives_of_local (fun _ _ => rfl) fun f t xs _ => ⟨_, ?_, rfl⟩
    rintro _ rfl i hi
    simp only [packWord]
    rw [elem_joinElems _ _ (by omega), elem_joinElems _ _ (by omega), if_pos hi, if_neg (by omega), elem_mod,
      Nat.add_sub_cancel, elem_mod]
    exact ⟨rfl, rfl⟩
  · refine gives_of_local (fun _ _ => rfl) fun f t xs _ => ⟨_, _, rfl, ?_⟩
    rintro _ rfl i hi
    simp only [unpkWord]
    rw [elem_joinElems _ _ (by omega), elem_joinElems _ _ (by omega), elem_joinElems _ _ (by omega),
      elem_joinElems _ _ (by omega)]
    simp [hi, elem_mod]
  · exact gives_of_local (fun _ _ => rfl) fun f t xs _ => ⟨_, rfl, rfl⟩
  · refine gives_of_local (fun _ _ => rfl) fun f t xs _ => ⟨_, ?_, rfl⟩
    exact toNat_w32_tagNum _

end Sys2Proof.Machine
end

section
/-! SUPPORT. A lane whose guard is false, at a PGREQ that has held its thread before (R169, R188, R227): it goes on
without being demoted anew, which the obligation on operands does not allow for. -/

namespace Sys2Proof.Machine

/-- A thread in a spin block that PGREQ has held: its wait has ended, and its demotion began before. -/
def heldInSpin : Thread where
  uid := 5
  seq := 1
  pc := 0x1008
  blk := 0x1000
  hdr := 0x20000
  entered := true
  regs := []
  preds := 0
  rstk := []
  status := .ready
  since := 0
  demotedUntil := 0
  acquired := true
  waited := true
  bundle := none
  epc := 0
  eblk := 0
  ehdr := 0
  inHandler := false
  epcWritten := false
  trapinfo := 0
  frec := 0
  posted := []
  gid := []
  ext := []

/-- A module at reset in which core 0 issues to that thread. -/
def heldAlone : State :=
  { State.reset with issue := ⟨0, [0]⟩, cores := [(0, { Core.empty with threads := [(0, heldInSpin)] })] }

/-- A PGREQ under p0, which the thread reads as false. -/
def guardedRequest : FmtM := { plainM with guard := ⟨0, false⟩ }

theorem heldAlone_single : Single heldAlone 0 0 heldInSpin := ⟨rfl, rfl⟩

/-- The lane that PGREQ has held keeps the end of its demotion: it has issued the instruction before (R169). -/
theorem exec_guardedRequest :
    exec (.pgreq guardedRequest) heldAlone = .next (heldAlone.setThread 0 0 (heldInSpin.proceed 0 false)) := rfl

/-- Refutes O4: at a PGREQ that has held its thread, in a spin block, a lane whose guard is false goes on with the
demotion that it had, where the statement has it demoted for 256 clocks anew. -/
theorem not_operands : ¬ Obligations.Operands := by
  unfold Obligations.Operands
  rintro ⟨-, hskip⟩
  obtain ⟨t', he, ht⟩ := hskip heldAlone 0 0 heldInSpin (.pgreq guardedRequest) guardedRequest.guard false rfl
    heldAlone_single (by decide) (by simp [heldAlone, State.reset])
    (.inr (.inl ⟨.pgreq, guardedRequest, rfl, rfl, rfl, by simp⟩))
  rw [exec_guardedRequest] at he
  cases he
  have hd := congrArg (fun s : State => (s.thread 0 0).map Thread.demotedUntil) ht
  revert hd
  decide

end Sys2Proof.Machine
end

section
/-! SUPPORT. Limit registers and region entries (R70, R139): what they take. -/

namespace Sys2Proof.Machine

theorem field_eq_zero_iff {n : Nat} (v : BitVec n) (hi lo : Nat) :
    field v.toNat hi lo = 0 ↔ v.extractLsb' lo (hi + 1 - lo) = 0 := by
  rw [field_toNat, ← BitVec.toNat_inj]
  rfl

/-- A permitted value of PL_LIMIT (R139), and of a region entry (R70). -/
def LimitOk (v : DWord) : Prop :=
  v.extractLsb' 4 3 ≠ 0 ∧ v.extractLsb' 24 24 ≠ 0 ∧ v.extractLsb' 48 16 = 0 ∧ v.extractLsb' 7 17 = 0 ∧
    v.extractLsb' 0 4 = 0
def RegionOk (v : DWord) : Prop :=
  (v.extractLsb' 5 6).toNat ≤ 27 ∧ v.extractLsb' 1 2 ≠ 3 ∧ v.extractLsb' 57 7 = 0 ∧ v.getLsbD 11 = false ∧
    (v.extractLsb' 12 45).toNat * 4096 + 2 ^ ((v.extractLsb' 5 6).toNat + 12) ≤ 2 ^ 57

theorem limit_refused_iff (v : DWord) : (field v.toNat 6 4 == 0 || field v.toNat 47 24 == 0 ||
    field v.toNat 63 48 != 0 || field v.toNat 23 7 != 0 || field v.toNat 3 0 != 0) = true ↔ ¬ LimitOk v := by
  simp only [LimitOk, Bool.or_eq_true, bne_iff_ne, beq_iff_eq, ne_eq, field_eq_zero_iff]
  tauto

theorem writeLimit_ok {s : State} {v : DWord} (h : LimitOk v) (p : Nat) : writeLimit s p v = s.setPart p { s.part p with
    l2Ways := v.extractLsb' 24 24, spMax := (v.extractLsb' 4 3).toNat } := by
  have hw : BitVec.ofNat 24 (field v.toNat 47 24) = v.extractLsb' 24 24 := by
    rw [field_toNat]
    exact BitVec.eq_of_toNat_eq (Nat.mod_eq_of_lt (v.extractLsb' 24 24).isLt)
  unfold writeLimit
  refine (if_neg fun hr => (limit_refused_iff v).mp hr h).trans ?_
  rw [hw, field_toNat v 6 4]

theorem writeLimit_refused {s : State} {v : DWord} (h : ¬ LimitOk v) (p : Nat) : writeLimit s p v = s := by
  unfold writeLimit
  exact if_pos ((limit_refused_iff v).mpr h)

theorem exec_plLimitWrite {s : State} (hu : s.up = true) {p : Nat} (hp : p < 16) (v : DWord) :
    exec (.plLimitWrite p v) s = happens s (writeLimit s p v) := by
  have hw : regPut s 0 (8 * p) v = writeLimit s p v := by
    simp [regPut, writePf0, show 8 * p ≠ 0x2000 by omega, show ¬ 0x3000 ≤ 8 * p by omega, show 8 * p < 0x80 by omega]
  rw [← hw, ← regWrite_admitted hu (Nat.zero_le _) (admitted_pf0 s true)]
  exact congrArg (happens s) (if_pos hp)

theorem region_refused_iff (v : DWord) : (decide (27 < field v.toNat 10 5) || field v.toNat 2 1 == 3 ||
    field v.toNat 63 57 != 0 || bit v.toNat 11 ||
      decide (2 ^ 57 < field v.toNat 56 12 * 4096 + 2 ^ (field v.toNat 10 5 + 12))) = true ↔ ¬ RegionOk v := by
  have hb : bit v.toNat 11 = v.getLsbD 11 := by
    rw [bit, BitVec.getLsbD, Nat.testBit_eq_decide_div_mod_eq, beq_eq_decide]
  have h3 : field v.toNat 2 1 = 3 ↔ v.extractLsb' 1 2 = 3 := by
    rw [field_toNat, ← BitVec.toNat_inj]
    rfl
  have h5 : field v.toNat 10 5 = (v.extractLsb' 5 6).toNat := field_toNat v 10 5
  have h12 : field v.toNat 56 12 = (v.extractLsb' 12 45).toNat := field_toNat v 56 12
  rw [h5, h12, hb, RegionOk]
  generalize 2 ^ 57 = top
  simp only [Bool.or_eq_true, bne_iff_ne, beq_iff_eq, ne_eq, field_eq_zero_iff, h3, decide_eq_true_eq, ← Nat.not_le,
    ← Bool.not_eq_true, not_and_or, not_not, or_assoc]

theorem writeRegion_ok {s : State} {v : DWord} (h : RegionOk v) (p i : Nat) : writeRegion s p i v =
    s.setPart p { s.part p with regions := tabSet 0 (s.part p).regions i v } := by
  unfold writeRegion
  exact if_neg fun hr => (region_refused_iff v).mp hr h

theorem writeRegion_refused {s : State} {v : DWord} (h : ¬ RegionOk v) (p i : Nat) :
    writeRegion s p i v = s.setPart p { s.part p with badWrite := true } := by
  unfold writeRegion
  exact if_pos ((region_refused_iff v).mpr h)

theorem exec_xlRegionWrite {s : State} {p : Nat} {pf0 : Bool} (h : Reaches s p pf0) {i : Nat} (hi : i < 64) (v : DWord) :
    exec (.xlRegionWrite p i v pf0) s = happens s (writeRegion s p i v) := by
  have hw : writeBlocks s p (0x100 + 8 * i) v = writeRegion s p i v := by
    simp [writeBlocks, writeXl, show 0x100 + 8 * i < 0x10000 by omega, show 0x100 + 8 * i < 0x300 by omega,
      show 0x100 + 8 * i ≠ 8 by omega, show 0x100 + 8 * i ≠ 0x10 by omega, show 0x100 + 8 * i ≠ 0x18 by omega]
  have hb : blockWrite s p (0x100 + 8 * i) v pf0 = writeRegion s p i v := by
    rw [blockWrite, if_pos h.part, regWrite_block h _ v (by omega) (by omega), hw]
  rw [← hb]
  exact congrArg (happens s) (if_pos hi)

end Sys2Proof.Machine
end

section
/-! SUPPORT. Shootdowns (R83): what a write of XL_INVAL discards and waits for, and when busy clears. -/

namespace Sys2Proof.Machine

/-! ## Ranges -/

theorem overlaps_iff (lo hi a n : Nat) : overlaps lo hi a n = true ↔ lo < a + n ∧ a < hi := by simp [overlaps]

theorem viaIn_iff (p lo hi q b n : Nat) :
    viaIn p lo hi (q, b, n) = true ↔ q = p ∧ lo < b + 2 ^ (n + 12) ∧ b < hi := by simp [viaIn, overlaps]

theorem leafIn_iff (lo hi : Nat) (l : Option (Nat × Nat)) :
    leafIn lo hi l = true ↔ ∃ b n, l = some (b, n) ∧ lo < b + 2 ^ (n + 12) ∧ b < hi := by
  cases l with
  | none => simp [leafIn]
  | some x => simp [leafIn, overlaps, Prod.ext_iff]

/-- A posted host write through the range is not flushed yet (R333). -/
theorem shootFlushes_iff (s : State) (p lo hi : Nat) : shootFlushes s p lo hi = true ↔
    (∃ b m, ((p, b, m), none) ∈ s.hostPosts ∧ lo < b + 2 ^ (m + 12) ∧ b < hi) ∨
      (s.cxl = false ∧ ∃ a ∈ s.accesses, a.part = p ∧ hostPost a = true ∧ ∃ b m, a.leaf = some (b, m) ∧
        lo < b + 2 ^ (m + 12) ∧ b < hi) := by
  have hp : (s.hostPosts.any fun e => viaIn p lo hi e.1 && e.2.isNone) = true ↔
      ∃ b m, ((p, b, m), none) ∈ s.hostPosts ∧ lo < b + 2 ^ (m + 12) ∧ b < hi := by
    rw [List.any_eq_true]
    constructor
    · rintro ⟨⟨⟨q, b, m⟩, i⟩, hm, h⟩
      rw [Bool.and_eq_true, viaIn_iff, Option.isNone_iff_eq_none] at h
      obtain ⟨⟨rfl, hlo, hhi⟩, rfl⟩ := h
      exact ⟨b, m, hm, hlo, hhi⟩
    · rintro ⟨b, m, hm, hlo, hhi⟩
      exact ⟨_, hm, by simp [viaIn_iff, hlo, hhi]⟩
  simp only [shootFlushes, Bool.or_eq_true, hp, Bool.and_eq_true, Bool.not_eq_true', List.any_eq_true, leafIn_iff,
    beq_iff_eq, and_assoc]

/-! ## The start of a shootdown -/

/-- What the partition keeps of a shootdown. -/
def shootOf (s : State) (p lo hi : Nat) : Shootdown :=
  ⟨lo, hi, shootWaits s p lo hi ++ if shootFlushes s p lo hi then [s.nextId] else []⟩

/-- A leaf of a core's or a cluster's store, and an entry of a die's walk cache, that a shootdown keeps. -/
def keepsLeaf (p lo hi : Nat) (l : Leaf) : Bool := !(l.part == p && overlaps lo hi l.vbase (2 ^ (l.size + 12)))
def keepsEntry (p lo hi : Nat) (w : WalkEntry) : Bool :=
  !(w.part == p && overlaps lo hi (w.vbase * 2 ^ levelShift w.level) (2 ^ levelShift w.level))

/-- The state whose caches of translations and tables hold nothing of a range, with its walks to be made again. -/
def translationsDropped (s : State) (p lo hi : Nat) : State :=
  { s with
    cores := tabMap Core.empty (fun c => { c with tlb := c.tlb.filter (keepsLeaf p lo hi) }) s.cores
    clusters := tabMap Cluster.empty (fun c => { c with tlb := c.tlb.filter (keepsLeaf p lo hi) }) s.clusters
    dies := s.dies.map fun e => (e.1, { e.2 with walkCache := e.2.walkCache.filter (keepsEntry p lo hi) })
    walks := s.walks.map fun w =>
      if w.part == p && overlaps lo hi (4096 * w.page) 4096 then { w with result := none } else w }

theorem startShoot_noFlush {s : State} {p lo hi : Nat} (h : shootFlushes s p lo hi = false) :
    startShoot s p lo hi =
      (translationsDropped s p lo hi).setPart p { s.part p with shoot := some (shootOf s p lo hi) } := by
  simp only [startShoot, shootOf, h]
  rfl

theorem startShoot_flush {s : State} {p lo hi : Nat} (h : shootFlushes s p lo hi = true) :
    startShoot s p lo hi = (hostRead (translationsDropped s p lo hi) 0 0 .none).setPart p
      { s.part p with shoot := some (shootOf s p lo hi) } := by
  simp only [startShoot, shootOf, h]
  rfl

/-- A map of a table's values that keeps the default of each key changes what each key reads as. -/
theorem tabGet_mapSnd {α : Type} (d : α) (f : α → α) (hf : f d = d) (t : Tab α) (k : Nat) :
    tabGet d (t.map fun e => (e.1, f e.2)) k = f (tabGet d t k) := by
  induction t with
  | nil => exact hf.symm
  | cons e t ih =>
    simp only [List.map_cons, tabGet, ih]
    split <;> rfl

section
variable (s : State) (p lo hi : Nat)

theorem startShoot_core (c : Nat) : (startShoot s p lo hi).core c =
    { s.core c with tlb := (s.core c).tlb.filter (keepsLeaf p lo hi) } := by
  have h : (translationsDropped s p lo hi).core c =
      { s.core c with tlb := (s.core c).tlb.filter (keepsLeaf p lo hi) } := tabGet_map _ _ rfl _ _
  rw [← h]
  cases hf : shootFlushes s p lo hi
  · rw [startShoot_noFlush hf]; rfl
  · rw [startShoot_flush hf]; rfl

theorem startShoot_cluster (c : Nat) : (startShoot s p lo hi).cluster c =
    { s.cluster c with tlb := (s.cluster c).tlb.filter (keepsLeaf p lo hi) } := by
  have h : (translationsDropped s p lo hi).cluster c =
      { s.cluster c with tlb := (s.cluster c).tlb.filter (keepsLeaf p lo hi) } := tabGet_map _ _ rfl _ _
  rw [← h]
  cases hf : shootFlushes s p lo hi
  · rw [startShoot_noFlush hf]; rfl
  · rw [startShoot_flush hf]; rfl

theorem startShoot_die (i : Nat) : (startShoot s p lo hi).die i =
    { s.die i with walkCache := (s.die i).walkCache.filter (keepsEntry p lo hi) } := by
  have h : (translationsDropped s p lo hi).die i =
      { s.die i with walkCache := (s.die i).walkCache.filter (keepsEntry p lo hi) } :=
    tabGet_mapSnd (Die.reset i) (fun d => { d with walkCache := d.walkCache.filter (keepsEntry p lo hi) }) rfl _ _
  rw [← h]
  cases hf : shootFlushes s p lo hi
  · rw [startShoot_noFlush hf]; rfl
  · rw [startShoot_flush hf]; rfl

theorem startShoot_part_same :
    (startShoot s p lo hi).part p = { s.part p with shoot := some (shootOf s p lo hi) } := by
  cases hf : shootFlushes s p lo hi
  · rw [startShoot_noFlush hf]; exact tabGet_set_same ..
  · rw [startShoot_flush hf]; exact tabGet_set_same ..

theorem startShoot_part_other {q : Nat} (h : q ≠ p) : (startShoot s p lo hi).part q = s.part q := by
  cases hf : shootFlushes s p lo hi
  · rw [startShoot_noFlush hf]; exact tabGet_set_other _ _ _ _ _ h
  · rw [startShoot_flush hf]; exact tabGet_set_other _ _ _ _ _ h

theorem startShoot_walks : (startShoot s p lo hi).walks = s.walks.map fun w =>
    if w.part = p ∧ lo < 4096 * w.page + 4096 ∧ 4096 * w.page < hi then { w with result := none } else w := by
  have h : (translationsDropped s p lo hi).walks = s.walks.map fun w =>
      if w.part = p ∧ lo < 4096 * w.page + 4096 ∧ 4096 * w.page < hi then { w with result := none } else w := by
    simp only [translationsDropped, Bool.and_eq_true, beq_iff_eq, overlaps_iff]
  rw [← h]
  cases hf : shootFlushes s p lo hi
  · rw [startShoot_noFlush hf]; rfl
  · rw [startShoot_flush hf]; rfl

/-- Nothing else of the module changes, the host link's fields but where a zero-length read flushes what was posted. -/
theorem startShoot_frame : ∃ t', startShoot s p lo hi = t' ∧
    t' = { s with cores := t'.cores, clusters := t'.clusters, dies := t'.dies, parts := t'.parts
                  walks := t'.walks, hostReqs := t'.hostReqs, hostPosts := t'.hostPosts, hostOut := t'.hostOut
                  nextId := t'.nextId } := by
  cases hf : shootFlushes s p lo hi
  · exact ⟨_, startShoot_noFlush hf, rfl⟩
  · exact ⟨_, startShoot_flush hf, rfl⟩

end

theorem startShoot_quiet {s : State} {p lo hi : Nat} (h : shootFlushes s p lo hi = false) :
    (startShoot s p lo hi).hostReqs = s.hostReqs ∧ (startShoot s p lo hi).hostPosts = s.hostPosts ∧
      (startShoot s p lo hi).hostOut = s.hostOut := by
  rw [startShoot_noFlush h]
  exact ⟨rfl, rfl, rfl⟩

/-- A shootdown that flushes waits for its own zero-length read, and nothing posted is left without one. -/
theorem startShoot_flushes {s : State} {p lo hi : Nat} (h : shootFlushes s p lo hi = true) :
    ∃ r, (startShoot s p lo hi).hostReqs = s.hostReqs ++ [r] ∧ r.id ∈ (shootOf s p lo hi).waits ∧ r.words = 0 ∧
      ∀ v, (v, none) ∉ (startShoot s p lo hi).hostPosts := by
  rw [startShoot_flush h]
  refine ⟨⟨s.nextId, 0, 0, .none, s.time, none⟩, rfl, by simp [shootOf, h], rfl, fun v hv => ?_⟩
  have hm : (v, none) ∈ s.hostPosts.map fun e => (e.1, e.2.orElse fun _ => some s.nextId) := hv
  obtain ⟨⟨w, i⟩, -, he⟩ := List.mem_map.mp hm
  cases i <;> simp at he

theorem mem_waits_of_post {s : State} {p lo hi b m i : Nat} (h : ((p, b, m), some i) ∈ s.hostPosts)
    (hlo : lo < b + 2 ^ (m + 12)) (hhi : b < hi) : i ∈ (shootOf s p lo hi).waits := by
  refine List.mem_append_left _ (List.mem_append_right _ (List.mem_filterMap.mpr ⟨_, List.mem_filter.mpr ⟨h, ?_⟩, rfl⟩))
  exact (viaIn_iff ..).mpr ⟨rfl, hlo, hhi⟩

theorem mem_waits_of_access {s : State} {p lo hi b m : Nat} {a : Access} (h : a ∈ s.accesses) (hp : a.part = p)
    (ht : a.translated = true) (hl : a.leaf = some (b, m)) (hlo : lo < b + 2 ^ (m + 12)) (hhi : b < hi) :
    a.id ∈ (shootOf s p lo hi).waits := by
  refine List.mem_append_left _ (List.mem_append_left _ (List.mem_append_left _
    (List.mem_map.mpr ⟨a, List.mem_filter.mpr ⟨h, ?_⟩, rfl⟩)))
  simp only [hp, ht, beq_self_eq_true, Bool.true_and]
  exact (leafIn_iff ..).mpr ⟨b, m, hl, hlo, hhi⟩

theorem mem_filter_keepsLeaf {p lo hi : Nat} {ls : List Leaf} {l : Leaf} : l ∈ ls.filter (keepsLeaf p lo hi) ↔
    l ∈ ls ∧ ¬ (l.part = p ∧ lo < l.vbase + 2 ^ (l.size + 12) ∧ l.vbase < hi) := by
  rw [List.mem_filter, keepsLeaf, Bool.not_eq_true', ← Bool.not_eq_true, Bool.and_eq_true, beq_iff_eq, overlaps_iff]

theorem mem_filter_keepsEntry {p lo hi : Nat} {ws : List WalkEntry} {e : WalkEntry} :
    e ∈ ws.filter (keepsEntry p lo hi) ↔ e ∈ ws ∧ ¬ (e.part = p ∧ lo < (e.vbase + 1) * 2 ^ levelShift e.level ∧
      e.vbase * 2 ^ levelShift e.level < hi) := by
  rw [List.mem_filter, keepsEntry, Bool.not_eq_true', ← Bool.not_eq_true, Bool.and_eq_true, beq_iff_eq, overlaps_iff,
    Nat.succ_mul]

/-! ## Writes of XL_INVAL, and the end -/

/-- The start of the aligned block of `2^(n+12)` bytes that a value of XL_INVAL names. -/
theorem inval_base (v : DWord) (n : Nat) : field v.toNat 56 12 * 4096 / 2 ^ (n + 12) * 2 ^ (n + 12) =
    (v.extractLsb' 0 57).toNat / 2 ^ (n + 12) * 2 ^ (n + 12) := by
  have hv : field v.toNat 56 12 = (v.extractLsb' 0 57).toNat / 4096 := by
    simp only [field, BitVec.extractLsb'_toNat, Nat.shiftRight_zero]
    omega
  rw [hv, Nat.pow_add, Nat.mul_comm (2 ^ n), ← Nat.div_div_eq_div_mul, Nat.mul_div_cancel _ (by decide),
    ← Nat.div_div_eq_div_mul]

/-- Whether a value of XL_INVAL has a reserved bit or size (R83). -/
def invalidInval (v : DWord) : Bool :=
  field v.toNat 63 57 != 0 || field v.toNat 11 6 != 0 || 45 < field v.toNat 5 0

theorem invalidInval_iff (v : DWord) : invalidInval v = true ↔
    v.extractLsb' 57 7 ≠ 0 ∨ v.extractLsb' 6 6 ≠ 0 ∨ 45 < (v.extractLsb' 0 6).toNat := by
  simp only [invalidInval, Bool.or_eq_true, bne_iff_ne, ne_eq, field_eq_zero_iff, decide_eq_true_eq, or_assoc]
  rw [field_toNat]

theorem writeInval_invalid {s : State} {p : Nat} {v : DWord} (h : invalidInval v = true) :
    writeInval s p v = s.setPart p { s.part p with badWrite := true } := if_pos h

theorem writeInval_busy {s : State} {p : Nat} {v : DWord} (h : invalidInval v = false)
    (hb : (s.part p).shoot.isSome = true) : writeInval s p v = s.setPart p { s.part p with invalErr := true } := by
  unfold writeInval
  exact (if_neg (ne_true_of_eq_false h)).trans (if_pos hb)

theorem writeInval_starts {s : State} {p : Nat} {v : DWord} (h : invalidInval v = false)
    (hb : (s.part p).shoot = none) {lo n : Nat} (hn : n = (v.extractLsb' 0 6).toNat)
    (hlo : lo = (v.extractLsb' 0 57).toNat / 2 ^ (n + 12) * 2 ^ (n + 12)) :
    writeInval s p v = startShoot s p lo (lo + 2 ^ (n + 12)) := by
  have hs : ¬ (s.part p).shoot.isSome = true := by simp [hb]
  unfold writeInval
  refine (if_neg (ne_true_of_eq_false h)).trans ((if_neg hs).trans ?_)
  rw [hlo, ← inval_base, hn, ← field_toNat v 5 0]

theorem exec_xlInval {s : State} {p : Nat} {pf0 : Bool} (h : Reaches s p pf0) (v : DWord) :
    exec (.xlInval p v pf0) s = happens s (writeInval s p v) := by
  have hb : blockWrite s p 0x10 v pf0 = writeInval s p v := by
    rw [blockWrite, if_pos h.part, regWrite_block h 0x10 v (by decide) (by decide)]
    rfl
  rw [← hb]
  rfl

theorem startShoot_stalled (s : State) (p lo hi : Nat) : (startShoot s p lo hi).stalled = s.stalled := by
  obtain ⟨t', h, hf⟩ := startShoot_frame s p lo hi
  rw [h, hf]

theorem exec_shootdownComplete (p : Nat) (s : State) :
    exec (.shootdownComplete p) s = happens s (shootDone s p) := rfl

/-- Busy clears once nothing that the shootdown waits for is left (R83). -/
theorem shootDone_clears {s : State} {p : Nat} {d : Shootdown} (hd : (s.part p).shoot = some d)
    (h : ∀ i ∈ d.waits, (∀ a ∈ s.accesses, a.id = i → a.translated = false) ∧ ∀ r ∈ s.hostReqs, r.id ≠ i) :
    shootDone s p = s.setPart p { s.part p with shoot := none } := by
  unfold shootDone
  simp only [hd]
  refine if_neg fun hw => ?_
  obtain ⟨i, hi, hw⟩ := List.any_eq_true.mp hw
  obtain ⟨ha, hr⟩ := h i hi
  rcases Bool.or_eq_true_iff.mp hw with hw | hw
  · obtain ⟨a, hm, hw⟩ := List.any_eq_true.mp hw
    simp only [Bool.and_eq_true, beq_iff_eq] at hw
    simp [ha a hm hw.1] at hw
  · obtain ⟨r, hm, hw⟩ := List.any_eq_true.mp hw
    exact hr r hm (eq_of_beq hw)

theorem shootDone_waits {s : State} {p : Nat} {d : Shootdown} (hd : (s.part p).shoot = some d)
    (h : ∃ i ∈ d.waits, ∃ a ∈ s.accesses, a.id = i ∧ a.translated = true) : shootDone s p = s := by
  obtain ⟨i, hi, a, ha, rfl, ht⟩ := h
  unfold shootDone
  simp only [hd]
  refine if_pos (List.any_eq_true.mpr ⟨a.id, hi, Bool.or_eq_true_iff.mpr (.inl ?_)⟩)
  exact List.any_eq_true.mpr ⟨a, ha, by simp [ht]⟩

end Sys2Proof.Machine
end

section
/-! SUPPORT. Soft errors (R20, R30): one bit of one stored word or code flips, and nothing else. -/

namespace Sys2Proof.Machine

/-! ## One datum -/

theorem ofNat_two_pow (w n : Nat) : BitVec.ofNat w (2 ^ n) = 1#w <<< n :=
  BitVec.eq_of_toNat_eq (by simp [Nat.shiftLeft_eq, ← Nat.pow_mod])

/-- The model's flip is the one that R20 describes, and a consistent datum no longer is. -/
theorem flipDatum_flipped {n : Nat} (h : n < 36) (d : Datum) : Flipped n d (flipDatum n d) := by
  obtain ⟨-, -, -, -, -, -, hseen⟩ := checkCodes
  unfold flipDatum
  by_cases hn : n < 32
  · rw [if_pos hn, w32, ofNat_two_pow]
    refine ⟨fun _ => ⟨rfl, rfl⟩, fun h => absurd hn (Nat.not_lt.mpr h), fun hd => ?_⟩
    obtain ⟨hbit, -⟩ := hseen d ⟨d.word ^^^ 1#32 <<< n, d.code⟩ (1#32 <<< n) 0 hd (by simp)
    exact hbit ⟨n, hn, rfl⟩ rfl
  · rw [if_neg hn, ofNat_two_pow]
    refine ⟨fun h => absurd h hn, fun _ => ⟨rfl, rfl⟩, fun hd => ?_⟩
    obtain ⟨-, hbit, -⟩ := hseen d ⟨d.word, d.code ^^^ 1#4 <<< (n - 32)⟩ 0 (1#4 <<< (n - 32)) hd (by simp)
    exact hbit rfl ⟨n - 32, by omega, rfl⟩

/-! ## Tables and lists in which one entry is changed -/

theorem tabFind_mapAt_same {α : Type} (f : α → α) (k : Nat) (t : Tab α) :
    tabFind (t.map fun e => if e.1 == k then (e.1, f e.2) else e) k = (tabFind t k).map f := by
  induction t with
  | nil => rfl
  | cons e t ih =>
    simp only [beq_iff_eq] at ih ⊢
    by_cases h : e.1 = k <;> simp [tabFind, h, ih]

theorem tabFind_mapAt_other {α : Type} (f : α → α) {k j : Nat} (h : j ≠ k) (t : Tab α) :
    tabFind (t.map fun e => if e.1 == k then (e.1, f e.2) else e) j = tabFind t j := by
  induction t with
  | nil => rfl
  | cons e t ih =>
    simp only [beq_iff_eq] at ih ⊢
    by_cases hk : e.1 = k
    · simp [tabFind, hk, ih, Ne.symm h]
    · simp [tabFind, hk, ih]

/-- A list of words in which bit `n` of the word at `w` has flipped. -/
theorem flipAt_same {n w : Nat} {ws : List Datum} {d : Datum} (h : ws[w]? = some d) :
    (flipAt w n ws)[w]? = some (flipDatum n d) := by
  rw [flipAt, List.getElem?_modify_eq, h]
  rfl

theorem flipAt_other {n w j : Nat} (h : j ≠ w) (ws : List Datum) : (flipAt w n ws)[j]? = ws[j]? :=
  List.getElem?_modify_ne _ _ (Ne.symm h)

/-! ## A register -/

/-- A thread in which bit `n` of register `v` has flipped. -/
def Thread.flipReg (t : Thread) (v n : Nat) : Thread :=
  { t with regs := tabSet Reg.zero t.regs v (Machine.flipReg n (tabGet Reg.zero t.regs v)) }

theorem Thread.reg_flipReg_same (t : Thread) {v : Nat} (n : Nat) (h : v < 255) :
    (t.flipReg v n).reg v = Machine.flipReg n (t.reg v) := by
  have hv : (v == 255) = false := by simpa using h.ne
  simp [Thread.flipReg, Thread.reg, hv]

theorem Thread.reg_flipReg_other (t : Thread) {v j : Nat} (n : Nat) (h : j ≠ v) : (t.flipReg v n).reg j = t.reg j := by
  simp [Thread.flipReg, Thread.reg, tabGet_set_other _ _ _ _ _ h]

theorem Thread.flipReg_flipped (t : Thread) {v n : Nat} (hv : v < 255) (hn : n < 36) :
    Flipped n ⟨(t.reg v).word, (t.reg v).code⟩ ⟨((t.flipReg v n).reg v).word, ((t.flipReg v n).reg v).code⟩ := by
  rw [t.reg_flipReg_same n hv]
  exact flipDatum_flipped hn _

/-- What an access keeps of its thread, with the register flipped where the access is the thread's. -/
def Access.flipReg (a : Access) (uid v n : Nat) : Access :=
  if a.uid == uid then { a with before := a.before.map fun x => x.flipReg v n } else a

theorem Access.flipReg_free {a : Access} {uid : Nat} (v n : Nat) (h : a.uid ≠ uid ∨ a.before = none) :
    a.flipReg uid v n = a := by
  unfold Access.flipReg
  split
  · next hu =>
    have hb : a.before = none := h.resolve_left (fun h => h (eq_of_beq hu))
    cases a
    simp_all
  · rfl

theorem Access.flipReg_kept {a : Access} {uid : Nat} {x : Thread} (v n : Nat) (h : a.uid = uid)
    (hb : a.before = some x) : a.flipReg uid v n = { a with before := some (x.flipReg v n) } := by
  simp [Access.flipReg, h, hb]

theorem softError_reg {s : State} {c k v n : Nat} {t : Thread} (hn : n < 36) (hv : v < 255)
    (ht : s.thread c k = some t) : softError s (.reg c k v) n =
      { s.setThread c k (t.flipReg v n) with accesses := s.accesses.map fun a => a.flipReg t.uid v n } := by
  simp only [softError, Nat.not_le.mpr hn, Nat.not_le.mpr hv, if_false, ht, modEver, State.modThread_some _ _ _ _ _ ht]
  rfl

/-! ## The other stores -/

theorem softError_scratch {s : State} {n : Nat} (hn : n < 36) (c w : Nat) : softError s (.scratch c w) n =
    s.setCore c { s.core c with
      scratch := tabSet zeroDatum (s.core c).scratch w (flipDatum n (tabGet zeroDatum (s.core c).scratch w)) } := by
  simp only [softError, Nat.not_le.mpr hn, if_false]
  rfl

/-- A line of the L1 in which bit `n` of a word of a sector has flipped. -/
def L1Line.flipWord (y : L1Line) (sec w n : Nat) : L1Line :=
  { y with secs := y.secs.map fun e => if e.1 == sec then (e.1, flipAt w n e.2) else e }

theorem softError_l1 {s : State} {n : Nat} (hn : n < 36) (c i w : Nat) : softError s (.l1 c i w) n =
    s.setCore c { s.core c with l1 := (s.core c).l1.modify (i / 2) fun y => y.flipWord (i % 2) w n } := by
  simp only [softError, Nat.not_le.mpr hn, if_false]
  rfl

theorem softError_l2 {s : State} {n w : Nat} {y : L2Sector} (hn : n < 36) (hy : tabFind s.l2 (w / 16) = some y) :
    softError s (.l2 w) n = { s with l2 := tabPut s.l2 (w / 16) { y with words := flipAt (w % 16) n y.words } } := by
  simp only [softError, Nat.not_le.mpr hn, if_false, hy]

/-- A tile in which bit `n` of an element has flipped. -/
def Tile.flipElem (y : Tile) (e n : Nat) : Tile :=
  { y with elems := tabSet zeroDatum y.elems e (flipDatum n (tabGet zeroDatum y.elems e)) }

theorem softError_tile {s : State} {n : Nat} (hn : n < 36) (cl i e : Nat) :
    softError s (.tile cl i e) n = setTile s cl i ((tileOf s cl i).flipElem e n) := by
  simp only [softError, Nat.not_le.mpr hn, if_false]
  rfl

theorem tileOf_setTile_same (s : State) (cl i : Nat) (y : Tile) : tileOf (setTile s cl i y) cl i = y := by
  simp [tileOf, setTile, State.cluster, State.setCluster]

theorem tileOf_setTile_other (s : State) (cl : Nat) {i j : Nat} (y : Tile) (h : j ≠ i) :
    tileOf (setTile s cl i y) cl j = tileOf s cl j := by
  simp [tileOf, setTile, State.cluster, State.setCluster, tabGet_set_other _ _ _ _ _ h]

theorem softError_hbm {s : State} {n b : Nat} (hn : n < 8) (hb : b < 2 ^ 40) : softError s (.hbm b) n =
    { s with hbm := tabSet 0 s.hbm b (tabGet 0 s.hbm b ^^^ 1#8 <<< n) } := by
  have h : ¬ 36 ≤ n := by omega
  rw [← ofNat_two_pow]
  simp only [softError, h, if_false, hn, hb, decide_true, Bool.and_self, if_true]

theorem softError_hbmSide {s : State} {n b : Nat} (hn : n < 8) (hb : b < 2 ^ 37) : softError s (.hbmSide b) n =
    { s with hbmSide := tabSet 0 s.hbmSide b (tabGet 0 s.hbmSide b ^^^ 1#8 <<< n) } := by
  have h : ¬ 36 ≤ n := by omega
  rw [← ofNat_two_pow]
  simp only [softError, h, if_false, hn, hb, decide_true, Bool.and_self, if_true]

theorem exec_softError {s t : State} {loc : ErrLoc} {n : Nat} (h : softError s loc n = t) (hs : t.stalled = s.stalled) :
    exec (.softError loc n) s = .next t := by
  have he : exec (.softError loc n) s = happens s (softError s loc n) := rfl
  rw [he, h]
  exact happens_same hs.le

end Sys2Proof.Machine
end

section
/-! SUPPORT. The obligation on shootdowns, limits, regions and soft errors (R20, R70, R83, R139). -/

namespace Sys2Proof.Machine

/-- Settles O37: each register write by what it takes, a shootdown by what it drops and waits for, and a soft error by
the one datum that it flips. -/
theorem shootdownsAndLimits : Obligations.ShootdownsAndLimits := by
  unfold Obligations.ShootdownsAndLimits
  refine ⟨?_, ?_, ?_, fun s n hn => ⟨?_, ?_, ?_, ?_, ?_, ?_, ?_⟩⟩
  · rintro s p _ rfl
    refine ⟨?_, fun d hd => ⟨fun h => ?_, fun h => ?_⟩⟩
    · intro v pf0 n lo flush hr hn hlo hflush
      rw [exec_xlInval hr]
      have hvalid : v.extractLsb' 57 7 = 0 → v.extractLsb' 6 6 = 0 → n ≤ 45 → invalidInval v = false :=
        fun h1 h2 h3 => by
          rw [← Bool.not_eq_true, invalidInval_iff, ← hn]
          simp [h1, h2, h3]
      refine ⟨fun h => ?_, fun h1 h2 h3 hb => ?_, fun h1 h2 h3 hb => ?_⟩
      · rw [writeInval_invalid ((invalidInval_iff v).mpr (hn ▸ h)), happens_setPart]
      · rw [writeInval_busy (hvalid h1 h2 h3) hb, happens_setPart]
      · rw [writeInval_starts (hvalid h1 h2 h3) hb hn hlo]
        rw [← shootFlushes_iff s p lo (lo + 2 ^ (n + 12))] at hflush
        obtain ⟨_, rfl, hframe⟩ := startShoot_frame s p lo (lo + 2 ^ (n + 12))
        refine ⟨_, shootOf s p lo (lo + 2 ^ (n + 12)), happens_same (startShoot_stalled ..).le, hframe,
          fun hf => startShoot_quiet (Bool.eq_false_iff.mpr fun h => hf (hflush.mpr h)),
          fun hf => startShoot_flushes (hflush.mp hf), fun b m i hm h1 h2 => mem_waits_of_post hm h1 h2,
          startShoot_walks .., startShoot_part_same .., fun q hq => startShoot_part_other _ _ _ _ hq, rfl, rfl,
          fun a ha hp ht b m hl h1 h2 => mem_waits_of_access ha hp ht hl h1 h2, fun c => ?_, fun c => ?_, fun i => ?_⟩
        · rw [startShoot_core]
          exact ⟨rfl, fun l => mem_filter_keepsLeaf⟩
        · rw [startShoot_cluster]
          exact ⟨rfl, fun l => mem_filter_keepsLeaf⟩
        · rw [startShoot_die]
          exact ⟨rfl, fun e => mem_filter_keepsEntry⟩
    · rw [exec_shootdownComplete, shootDone_clears hd h, happens_setPart]
    · rw [exec_shootdownComplete, shootDone_waits hd h, happens_self]
  · rintro s p v _ hu hp rfl
    rw [exec_plLimitWrite hu hp]
    refine ⟨fun h => ?_, fun h => ?_⟩
    · rw [writeLimit_ok h, happens_setPart]
    · rw [writeLimit_refused h, happens_self]
  · rintro s p i v pf0 _ hr hi rfl
    rw [exec_xlRegionWrite hr hi]
    refine ⟨fun h => ?_, fun h => ?_⟩
    · rw [writeRegion_ok h, happens_setPart]
    · rw [writeRegion_refused h, happens_setPart]
  · intro c k v t hv ht
    refine ⟨t.flipReg v n, _, exec_softError (softError_reg hn hv ht) rfl, List.length_map _, fun i a b ha hb => ?_, rfl,
      fun j hj => t.reg_flipReg_other n hj, ?_, t.flipReg_flipped hv hn⟩
    · rw [List.getElem?_map, ha] at hb
      cases hb
      refine ⟨fun h => Access.flipReg_free v n h, fun x hu hx => ⟨x.flipReg v n, Access.flipReg_kept v n hu hx, rfl,
        x.flipReg_flipped hv hn⟩⟩
    · rw [t.reg_flipReg_same n hv]
      rfl
  · intro c w
    refine ⟨_, exec_softError (softError_scratch hn c w) rfl, ?_, fun j hj => tabGet_set_other _ _ _ _ _ hj⟩
    rw [tabGet_set_same]
    exact flipDatum_flipped hn _
  · intro c i w y ws d hy hs hd
    refine ⟨_, y.flipWord (i % 2) w n, flipAt w n ws, flipDatum n d, exec_softError (softError_l1 hn c i w) rfl,
      fun j hj => List.getElem?_modify_ne _ _ hj.symm, ?_, rfl, fun j hj => tabFind_mapAt_other _ hj _, ?_,
      fun j hj => flipAt_other hj ws, flipAt_same hd, flipDatum_flipped hn d⟩
    · rw [List.getElem?_modify_eq, hy]
      rfl
    · exact (tabFind_mapAt_same (flipAt w n) _ _).trans (by rw [hs]; rfl)
  · intro w y d hy hd
    exact ⟨{ y with words := flipAt (w % 16) n y.words }, _, exec_softError (softError_l2 hn hy) rfl, rfl,
      fun j hj => flipAt_other hj _, flipAt_same hd, flipDatum_flipped hn d⟩
  · intro cl i e
    refine ⟨_, (tileOf s cl i).flipElem e n, exec_softError (softError_tile hn cl i e) rfl, rfl,
      (tileOf_setTile_same ..).symm, rfl, ?_, fun j hj => tabGet_set_other _ _ _ _ _ hj,
      fun j hj => tileOf_setTile_other _ _ _ hj⟩
    rw [Tile.flipElem, tabGet_set_same]
    exact flipDatum_flipped hn _
  · intro b h8 hb
    exact ⟨_, exec_softError (softError_hbm h8 hb) rfl, tabGet_set_same .., fun a ha => tabGet_set_other _ _ _ _ _ ha⟩
  · intro b h8 hb
    exact ⟨_, exec_softError (softError_hbmSide h8 hb) rfl, tabGet_set_same .., fun a ha => tabGet_set_other _ _ _ _ _ ha⟩

end Sys2Proof.Machine
end

section
/-! SUPPORT. A fill of a line whose sector stands in the L2 without the line's tag (R48, R129): the sector is kept where
it is dirty, which the obligation on fills does not allow for. -/

namespace Sys2Proof.Machine

/-- A load that waits for the fill of tile 0 under key slot 0. -/
def waitingLoad : Access :=
  { id := 0, core := 0, key := 0, uid := 0, seq := 0, top := 0, inst := 0, bundle := 0, part := 0, ea := 0, lva := 0
    order := .page, kind := .load 8 4 .raw false .th 7, cls := .rc, dest := none, before := none, holds := false
    acq := false, rel := false, refetched := false, sector := none, place := some (0, 0), leaf := none, stage := .fill }

/-- A dirty sector of zeros. -/
def dirtySector : L2Sector := ⟨List.replicate 16 zeroDatum, true⟩

/-- A module whose group 0 is bound to key slot 0 and virgin, whose tile 0 is being filled for that load, and whose L2
holds a dirty sector of the tile under no tag. -/
def untaggedSector : State :=
  { State.reset with
    dies := [(0, { Die.reset 0 with vcache := [(unitIndex 1 0, ⟨⟨false, true, 0, 0, []⟩, false⟩)] })]
    l2 := [(0, dirtySector)], fills := [⟨0, 0, 1, none⟩], accesses := [waitingLoad] }

theorem readTile_untagged : readTile untaggedSector (1024 * 0) 0 = .ok (zeroWords, untaggedSector) := by rfl

theorem exec_fill_untagged : exec (.fill 0 0) untaggedSector = .next (fillActs untaggedSector 0 0) := by rfl

/-- The fill gives the line its tag and keeps the sector, which the L2 then holds. -/
theorem l2Hit_filled : l2Hit (fillActs untaggedSector 0 0) (1024 * 0 + 64 * 0) 0 = some dirtySector := by
  decide +kernel

/-- Refutes O34: where the L2 holds a dirty sector of a tile without its line's tag, which no hit finds, a fill of the
tile gives the line its tag and keeps the sector, where the statement has it hold what main memory holds. -/
theorem not_copiesAndFillsEnd : ¬ Obligations.CopiesAndFillsEnd := by
  unfold Obligations.CopiesAndFillsEnd
  rintro ⟨-, haccess⟩
  obtain ⟨hfill, -⟩ := haccess untaggedSector waitingLoad 0 0 rfl rfl
  obtain ⟨t', he, -, -, hsector, -⟩ := hfill 0 0 ⟨0, 0, 1, none⟩ zeroWords untaggedSector rfl rfl rfl rfl rfl rfl rfl
    (by decide +kernel) readTile_untagged
  rw [exec_fill_untagged] at he
  cases he
  obtain ⟨-, hclean⟩ := hsector 0 (by decide) dirtySector l2Hit_filled
  have hmiss : l2Hit untaggedSector (1024 * 0 + 64 * 0) 0 = none := by decide +kernel
  have hd := congrArg L2Sector.dirty (hclean fun y hy => absurd (hmiss.symm.trans hy) (by simp))
  exact absurd hd (by decide)

end Sys2Proof.Machine
end

section
/-! SUPPORT. An error completion for a load while another thread is held at a TREAD of the same bundle (R288, R404):
the bundle still waits for that lane's verdict and forms no batch, which the obligation on host requests does not
allow for. -/

namespace Sys2Proof.Machine

/-- The thread of a load that waits for the host. -/
def loadThread : Thread := { heldInSpin with waited := false }

/-- Another thread, held at a TREAD of bundle 39. -/
def tileThread : Thread := { heldInSpin with uid := 6, status := .blocked (.tileOps []), bundle := some 39 }

/-- The load, of the same bundle. -/
def hostLoad : Access := { waitingLoad with id := 40, uid := 5, seq := 1, inst := 39, bundle := 39, stage := .host 0x7000 }

/-- Its request. -/
def hostLoadReq : HostReq := ⟨60, 0x7000, 1, .access 40, 0, none⟩

/-- A module in which the two threads are lanes 0 and 1 of one row, of a launch of partition 0 whose policy is PARK. -/
def heldTogether : State :=
  { State.reset with
    nextId := 100, hostReqs := [hostLoadReq], accesses := [hostLoad]
    cores := [(0, { Core.empty with threads := [(0, loadThread), (1, tileThread)] })]
    launches := [(1, ⟨0, 1 <<< 334, 0, 0, [], [], 0, 0, false, false, false, none⟩)] }

theorem launchPolicy_heldTogether : launchPolicy heldTogether loadThread.seq = 1 := by decide +kernel

theorem exec_hostCompletion (s : State) (id : Nat) (st : HostStatus) (data : List Word) :
    exec (.hostCompletion id st data) s = happens s (hostCompletes s id st data) := rfl

theorem stalled_hostCompletes : (hostCompletes heldTogether 60 .unsupported []).stalled = false := by decide +kernel

/-- The load's fault stands among the demands: no batch is formed. -/
theorem batches_hostCompletes : ((hostCompletes heldTogether 60 .unsupported []).part
    (launchPart heldTogether loadThread.seq)).batches = [] := by decide +kernel

/-- Refutes O46: where another thread is held at a TREAD of the load's bundle, a completion with UR forms no batch
before that lane has its verdict, where the statement has the partition's batches grow at once. -/
theorem not_hostRequests : ¬ Obligations.HostRequests := by
  unfold Obligations.HostRequests
  rintro ⟨hcompletion, -⟩
  obtain ⟨-, -, -, -, -, hfails⟩ := hcompletion heldTogether 60 hostLoadReq hostLoad loadThread loadThread 8 4 7 .raw
    false .th rfl rfl rfl rfl rfl rfl rfl rfl rfl rfl launchPolicy_heldTogether
  obtain ⟨t', u, r, he, -, -, -, -, -, -, hbatches, -⟩ := hfails (.hostCompletion 60 .unsupported []) 0x22
    List.mem_cons_self (by simp)
  rw [exec_hostCompletion, happens_same (by simp [stalled_hostCompletes])] at he
  injection he with he
  rw [← he, batches_hostCompletes] at hbatches
  exact absurd hbatches.symm (List.append_ne_nil_of_right_ne_nil _ (List.cons_ne_nil _ _))

end Sys2Proof.Machine
end

section
/-! SUPPORT. Runs of consecutive registers: what marking them empty, leaving them empty and filling them changes
(R164, R219, R404). -/

namespace Sys2Proof.Machine

theorem dataTags_length (g : Tag) (n : Nat) : (dataTags g n).length = n := by
  fun_induction dataTags g n <;> simp_all

/-- Tag `i` of a run of data registers: ADDR-HI at the odd places of type 13 (R218). -/
theorem dataTags_getElem? (g : Tag) {n i : Nat} (h : i < n) :
    (dataTags g n)[i]? = some (if g = .addrLo ∧ i % 2 = 1 then .addrHi else g) := by
  fun_induction dataTags g n generalizing i with
  | case1 => omega
  | case2 =>
    obtain rfl : i = 0 := by omega
    rfl
  | case3 k ih =>
    match i with
    | 0 => rfl
    | 1 => rfl
    | j + 2 => simpa using ih (i := j) (by omega)
  | case4 g k h1 h2 ih =>
    have hg : g ≠ .addrLo := fun hg => by
      cases k with
      | zero => exact h1 hg rfl
      | succ k => exact h2 k hg rfl
    cases i with
    | zero => simp [hg]
    | succ i => simpa [hg] using ih (i := i) (by omega)

namespace Thread

theorem modReg_frame (t : Thread) (r : Nat) (f : Reg → Reg) :
    t.modReg r f = { t with regs := (t.modReg r f).regs } := setReg_frame ..

theorem reg_modReg (t : Thread) {r : Nat} (f : Reg → Reg) (h : r ≠ 255) : (t.modReg r f).reg r = f (t.reg r) :=
  reg_setReg _ _ _ h

theorem reg_modReg_other (t : Thread) {r q : Nat} (f : Reg → Reg) (h : q ≠ r) : (t.modReg r f).reg q = t.reg q :=
  reg_setReg_other _ _ _ _ h

/-! ## Left empty -/

theorem emptyAll_frame (t : Thread) (r : Nat) (gs : List Tag) :
    t.emptyAll r gs = { t with regs := (t.emptyAll r gs).regs } := by
  induction gs generalizing t r with
  | nil => rfl
  | cons g gs ih =>
    rw [emptyAll, ih, markEmpty, modReg_frame]

theorem leaveAll_frame (t : Thread) (r n : Nat) : t.leaveAll r n = { t with regs := (t.leaveAll r n).regs } := by
  induction n generalizing t r with
  | zero => rfl
  | succ n ih => rw [leaveAll, ih, leaveEmpty, modReg_frame]

theorem reg_emptyAll_other (t : Thread) {r j : Nat} (gs : List Tag) (h : j < r ∨ r + gs.length ≤ j) :
    (t.emptyAll r gs).reg j = t.reg j := by
  induction gs generalizing t r with
  | nil => rfl
  | cons g gs ih =>
    rw [List.length_cons] at h
    rw [emptyAll, ih _ (by omega), markEmpty, reg_modReg_other _ _ (by omega)]

theorem reg_leaveAll_other (t : Thread) {r n j : Nat} (h : j < r ∨ r + n ≤ j) : (t.leaveAll r n).reg j = t.reg j := by
  induction n generalizing t r with
  | zero => rfl
  | succ n ih => rw [leaveAll, ih _ (by omega), leaveEmpty, reg_modReg_other _ _ (by omega)]

theorem reg_leaveAll (t : Thread) {r n j : Nat} (hr : r ≤ j) (hn : j < r + n) (h : j ≠ 255) :
    ((t.leaveAll r n).reg j).full = false ∧ ((t.leaveAll r n).reg j).pending = false := by
  induction n generalizing t r with
  | zero => omega
  | succ n ih =>
    rw [leaveAll]
    by_cases hj : j = r
    · subst hj
      rw [reg_leaveAll_other _ (by omega), leaveEmpty, reg_modReg _ _ h]
      exact ⟨rfl, rfl⟩
    · exact ih _ (by omega) (by omega)

/-- Destinations marked empty and then left so (R164, R404). -/
theorem emptied_leaveAll (t : Thread) (d : Nat) (gs : List Tag) :
    Emptied t ((t.emptyAll d gs).leaveAll d gs.length) d gs.length := by
  refine ⟨?_, fun j => ⟨fun h => ?_, reg_leaveAll _⟩⟩
  · rw [leaveAll_frame, emptyAll_frame]
  · rw [reg_leaveAll_other _ h, reg_emptyAll_other _ _ h]

/-! ## Filled -/

theorem fillAll_frame (t : Thread) (r : Nat) (xs : List (Tag × Datum)) :
    t.fillAll r xs = { t with regs := (t.fillAll r xs).regs } := by
  induction xs generalizing t r with
  | nil => rfl
  | cons x xs ih =>
    obtain ⟨g, d⟩ := x
    rw [fillAll, ih, fill, modReg_frame]

theorem reg_fillAll_other (t : Thread) {r j : Nat} (xs : List (Tag × Datum)) (h : j < r ∨ r + xs.length ≤ j) :
    (t.fillAll r xs).reg j = t.reg j := by
  induction xs generalizing t r with
  | nil => rfl
  | cons x xs ih =>
    obtain ⟨g, d⟩ := x
    rw [List.length_cons] at h
    rw [fillAll, ih _ (by omega), reg_fill_other _ _ _ _ _ (by omega)]

theorem reg_fillAll (t : Thread) {r i : Nat} (xs : List (Tag × Datum)) {g : Tag} {d : Datum}
    (hi : xs[i]? = some (g, d)) (h : r + i ≠ 255) : (t.fillAll r xs).reg (r + i) =
      { t.reg (r + i) with word := d.word, code := d.code, tag := g, full := true, pending := false } := by
  induction xs generalizing t r i with
  | nil => simp at hi
  | cons x xs ih =>
    obtain ⟨g', d'⟩ := x
    rw [fillAll]
    cases i with
    | zero =>
      obtain ⟨rfl, rfl⟩ : g' = g ∧ d' = d := by simpa using hi
      rw [reg_fillAll_other _ _ (by omega)]
      exact reg_fill _ _ _ _ h
    | succ i =>
      have hr : r + (i + 1) = r + 1 + i := by omega
      rw [hr] at h ⊢
      rw [ih (t.fill r g' d') (by simpa using hi) h, reg_fill_other _ _ _ _ _ (by omega)]

theorem filled_fillAll (t : Thread) (type : Tag) (dst n : Nat) (ds : List Datum) (h : ds.length = n) :
    Filled type dst n ds t (t.fillAll dst ((dataTags type n).zip ds)) := by
  have hl : ((dataTags type n).zip ds).length = n := by simp [dataTags_length, h]
  refine ⟨fun r hr => ?_, fun i hi h255 d hd => ?_⟩
  · rcases hr with hr | hr | rfl
    · exact reg_fillAll_other _ _ (.inl hr)
    · exact reg_fillAll_other _ _ (.inr (by rw [hl]; exact hr))
    · rfl
  · refine reg_fillAll t _ ?_ h255
    rw [List.getElem?_zip_eq_some]
    exact ⟨dataTags_getElem? type hi, hd⟩

end Thread

end Sys2Proof.Machine
end

section
/-! SUPPORT. Steps 2 to 6 of Table 3.5 for a global address at its source (R66 to R71, R92, R93): the verdict of each. -/

namespace Sys2Proof.Machine

theorem bit_toNat {n : Nat} (v : BitVec n) (i : Nat) : bit v.toNat i = v.getLsbD i := by
  rw [bit, BitVec.getLsbD, Nat.testBit_eq_decide_div_mod_eq, beq_eq_decide]

/-! ## Regions -/

/-- What step 6 refuses at a valid region: an offset beyond it, a write that it does not take, a class other than the one
that the order field asserts (R70, R78). -/
def RegionRefuses (r : DWord) (off : Nat) (k : AKind) (o : OrderReq) : Prop :=
  2 ^ ((r.extractLsb' 5 6).toNat + 12) ≤ off ∨ ((k = .store ∨ k = .atomic) ∧ r.getLsbD 3 = false) ∨
    orderOk o (regionClass r.toNat) = false

theorem regionRefuses_iff (r : DWord) (off : Nat) (k : AKind) (o : OrderReq) :
    (decide (2 ^ (field r.toNat 10 5 + 12) ≤ off) || ((k == .store || k == .atomic) && !bit r.toNat 3) ||
      (false && !bit r.toNat 4) || !orderOk o (regionClass r.toNat)) = true ↔ RegionRefuses r off k o := by
  simp only [RegionRefuses, field_toNat, bit_toNat, Bool.or_eq_true, Bool.and_eq_true, Bool.not_eq_true',
    decide_eq_true_eq, beq_iff_eq, Bool.false_and, Bool.false_eq_true, or_false, or_assoc]

section
variable {s : State} {p region off : Nat} {k : AKind} {o : OrderReq} {r : DWord}
  (hr : r = tabGet 0 (s.part p).regions region)
include hr

theorem regionCheck_invalid (hv : r.getLsbD 0 = false) (mc : Bool) :
    regionCheck s p region off k o mc = .error ⟨fcXlate, 5, false, 0⟩ := by
  subst hr
  refine if_pos ?_
  rw [regionWord, bit_toNat, hv]
  rfl

/-- The verdict of a valid region on an access that is not multicast. -/
theorem regionCheck_valid (hv : r.getLsbD 0 = true) [Decidable (RegionRefuses r off k o)] :
    regionCheck s p region off k o false =
      if RegionRefuses r off k o then .error ⟨fcProtect, 6, false, 0⟩ else .ok (regionClass r.toNat) := by
  subst hr
  refine (if_neg ?_).trans (if_congr (regionRefuses_iff ..) rfl rfl)
  rw [regionWord, bit_toNat, hv]
  decide

theorem regionCheck_refused (hv : r.getLsbD 0 = true) (h : RegionRefuses r off k o) :
    regionCheck s p region off k o false = .error ⟨fcProtect, 6, false, 0⟩ := by
  classical rw [regionCheck_valid hr hv, if_pos h]

theorem regionCheck_granted (hv : r.getLsbD 0 = true) (h : ¬ RegionRefuses r off k o) :
    regionCheck s p region off k o false = .ok (regionClass r.toNat) := by
  classical rw [regionCheck_valid hr hv, if_neg h]

end

/-- What fails a region check is a step before the walk. -/
theorem regionCheck_step {s : State} {p region off : Nat} {k : AKind} {o : OrderReq} {mc : Bool} {e : XFail}
    (h : regionCheck s p region off k o mc = .error e) : e.step ≤ 6 := by
  unfold regionCheck at h
  dsimp only at h
  split at h
  · cases h; decide
  · split at h
    · cases h; decide
    · cases h

/-! ## The steps in order -/

section
variable {s : State} {p rank region off : Nat} {k : AKind} {o : OrderReq}

theorem sourceCheck_multicast (g : Nat) (hk : k ≠ .store) :
    sourceCheck s p (.multicast g region off) k o = .error (⟨fcProtect, 2, false, 0⟩, false) := by
  simp [sourceCheck, hk]

theorem sourceCheck_noGlobal (h : (s.part p).xlGlobal = false) :
    sourceCheck s p (.unicast rank region off) k o = .error (⟨fcProtect, 3, false, 0⟩, false) := by
  simp [sourceCheck, h]

theorem sourceCheck_invalid (hx : (s.part p).xlGlobal = true) (h : resolveRank s p rank = .invalid) :
    sourceCheck s p (.unicast rank region off) k o = .error (⟨fcRank, 4, false, 0⟩, false) := by
  simp [sourceCheck, hx, h]

theorem sourceCheck_dead {hid : Option (Nat × Nat)} (hx : (s.part p).xlGlobal = true)
    (h : resolveRank s p rank = .dead hid) :
    sourceCheck s p (.unicast rank region off) k o = .error (⟨fcPeerDead, 4, false, 0⟩, false) := by
  simp [sourceCheck, hx, h]

/-- A rank resolves to a home: this module, a position of the pod, or a host id of the remote fabric (R93). -/
def HomeOf (s : State) (p rank : Nat) (d : Dest) : Prop :=
  ∃ hid prof, (resolveRank s p rank = .pod hid prof ∧ d = .pod (hid % 16)) ∨
    (resolveRank s p rank = .remote hid prof ∧ d = .remote hid prof) ∨ (resolveRank s p rank = .loc hid prof ∧ d = .self)

/-- A rank with a home leaves the verdict to its region. -/
theorem sourceCheck_home {d : Dest} (hx : (s.part p).xlGlobal = true) (h : HomeOf s p rank d) :
    sourceCheck s p (.unicast rank region off) k o = match regionCheck s p region off k o false with
      | .error e => .error (e, false)
      | .ok c => .ok ⟨d, region, off, c, routeOf s p (resolveRank s p rank)⟩ := by
  obtain ⟨hid, prof, ⟨hr, rfl⟩ | ⟨hr, rfl⟩ | ⟨hr, rfl⟩⟩ := h <;> simp only [sourceCheck, hx, hr] <;> rfl

theorem sourceCheck_region_error {d : Dest} {e : XFail} (hx : (s.part p).xlGlobal = true) (h : HomeOf s p rank d)
    (he : regionCheck s p region off k o false = .error e) :
    sourceCheck s p (.unicast rank region off) k o = .error (e, false) := by
  rw [sourceCheck_home hx h, he]

theorem sourceCheck_region_ok {d : Dest} {c : OrdClass} (hx : (s.part p).xlGlobal = true) (h : HomeOf s p rank d)
    (hc : regionCheck s p region off k o false = .ok c) : sourceCheck s p (.unicast rank region off) k o =
      .ok ⟨d, region, off, c, routeOf s p (resolveRank s p rank)⟩ := by
  rw [sourceCheck_home hx h, hc]

end

/-- The checks at the source come before the walk: none of their failures is a demand fault (R405). -/
theorem sourceCheck_step {s : State} {p : Nat} {a : Addr} {k : AKind} {o : OrderReq} {e : XFail} {frz : Bool}
    (h : sourceCheck s p a k o = .error (e, frz)) : e.step ≤ 6 := by
  unfold sourceCheck at h
  split at h
  · cases h; decide
  · cases h; decide
  · split at h
    · cases h; decide
    · split at h
      · cases h; decide
      · cases h; decide
      · split at h
        · next he => cases h; exact regionCheck_step he
        · cases h
  · split at h
    · cases h; decide
    · split at h
      · cases h; decide
      · split at h
        · next he => cases h; exact regionCheck_step he
        · split at h
          · cases h
          · cases h; decide

theorem not_demand_of_sourceCheck {s : State} {p : Nat} {a : Addr} {k : AKind} {o : OrderReq} {e : XFail} {frz : Bool}
    (h : sourceCheck s p a k o = .error (e, frz)) : e.demand = false := by
  have hs := sourceCheck_step h
  simp [XFail.demand, show ¬ 7 ≤ e.step by omega]

/-- The checks read no core and no name that has been given out. -/
theorem sourceCheck_setThread (s : State) (c j : Nat) (t : Thread) (p : Nat) (a : Addr) (k : AKind) (o : OrderReq) :
    sourceCheck (s.setThread c j t) p a k o = sourceCheck s p a k o := by rfl
theorem sourceCheck_nextId (s : State) (n p : Nat) (a : Addr) (k : AKind) (o : OrderReq) :
    sourceCheck { s with nextId := n } p a k o = sourceCheck s p a k o := by rfl

end Sys2Proof.Machine
end

section
/-! SUPPORT. Faults at the issue of loads, stores and atomics (R78, R164, R195, R217, R404): what the one lane of a bundle
raises, and what it leaves of its destinations. -/

namespace Sys2Proof.Machine

/-! ## Effective addresses -/

theorem sgn_toNat {w : Nat} (v : BitVec w) : sgn w v.toNat = v.toInt := by
  rw [sgn, Nat.mod_eq_of_lt v.isLt, BitVec.toInt_eq_toNat_cond]
  rcases w with _ | w
  · simp [BitVec.of_length_zero]
  · simp only [Nat.add_sub_cancel, pow_succ]
    split <;> split <;> first | rfl | omega

theorem ofNat_wrap (w : Nat) (x : Int) : BitVec.ofNat w (wrap w x) = BitVec.ofInt w x := by
  rw [wrap, ← BitVec.ofInt_natCast, Int.toNat_of_nonneg (Int.emod_nonneg x (by positivity))]
  refine BitVec.eq_of_toInt_eq ?_
  rw [BitVec.toInt_ofInt, BitVec.toInt_ofInt]
  exact_mod_cast Int.emod_bmod x (2 ^ w)

/-- Displacement and index, scaled, as both kinds of address add them to their base (R195). -/
theorem ofNat_wrap_scaled (w : Nat) (d : BitVec 8) (x : Word) (b : Nat) :
    BitVec.ofNat w (wrap w ((sgn 8 d.toNat + sgn 32 x.toNat) * b)) =
      (d.signExtend w + x.signExtend w) * BitVec.ofNat w b := by
  rw [ofNat_wrap, sgn_toNat, sgn_toNat, BitVec.ofInt_mul, BitVec.ofInt_add, BitVec.ofInt_natCast]
  rfl

theorem effAddr_eq (f : FmtM) (xs : List (List Reg)) (i : Nat) :
    effAddr f (srcPair xs i) (srcW xs (i + 1)) = eaOf f xs i :=
  congrArg (srcPair xs i + ·) (ofNat_wrap_scaled 64 f.disp (srcW xs (i + 1)) (mBytes f))

theorem effOffset_eq (f : FmtM) (base idx : Word) :
    effOffset f base idx = base + (f.disp.signExtend 32 + idx) * BitVec.ofNat 32 (mBytes f) := by
  have h := congrArg (base + ·) (ofNat_wrap_scaled 32 f.disp idx (mBytes f))
  rwa [BitVec.signExtend_eq] at h

/-! ## One lane that faults -/

theorem runLanes_single_fault {hold : Bool} {c k : Nat} {eff : State → Nat → Thread → LaneEff} {s s1 : State} {t : Thread}
    {i : FInfo} (ht : s.thread c k = some t) (h : eff s k t = .fault i s1) (ho : openVerdict s t.uid = false) :
    runLanes hold c eff [k] s = (s1, [(k, i)]) := by
  simp [runLanes, ht, h, ho]

/-- What a memory instruction of a bundle of one lane leaves, by what the lane gives (R88). -/
theorem runMem_single {hold : Bool} {eff : Nat → State → Nat → Thread → LaneEff} {s s1 : State} {c k : Nat}
    {fs : List (Nat × FInfo)} (hi : s.issue = ⟨c, [k]⟩)
    (h : runLanes hold c (eff s.nextId) [k] { s with nextId := s.nextId + 1 } = (s1, fs)) :
    runMem hold eff s = happens s (settleInst (takeLanes s1 c s.nextId fs) s.nextId) := by
  unfold runMem
  rw [hi]
  dsimp only [State.fresh]
  rw [h, markBundle_single]

/-- A memory instruction that faults in its one lane takes the fault under the name it gives itself (R88, R404). -/
theorem runMem_faults {hold : Bool} {eff : Nat → State → Nat → Thread → LaneEff} {s s1 : State} {c k : Nat} {t : Thread}
    {i : FInfo} (hs : Single s c k t) (ho : openVerdict s t.uid = false)
    (h : eff s.nextId { s with nextId := s.nextId + 1 } k t = .fault i s1) (h1 : s1.stalled = s.stalled) :
    runMem hold eff s = .next (settleInst (takeLanes s1 c s.nextId [(k, i)]) s.nextId) := by
  obtain ⟨hi, ht⟩ := hs
  rw [runMem_single hi (runLanes_single_fault ht h ho)]
  have hf := (FaultFrame.takeLanes s1 c s.nextId [(k, i)]).trans (FaultFrame.settleInst _ s.nextId)
  exact happens_same fun hx => h1 ▸ hf.stalled ▸ hx

/-- The fault where it leaves the thread as it was. -/
theorem faultsHeld_of_lane {instr : Instr} {hold : Bool} {eff : Nat → State → Nat → Thread → LaneEff} {s : State}
    {c k : Nat} {t : Thread} {i : FInfo} (he : exec instr s = runMem hold eff s) (hs : Single s c k t)
    (h : eff s.nextId { s with nextId := s.nextId + 1 } k t = .fault i { s with nextId := s.nextId + 1 }) :
    FaultsHeld instr s c k i := by
  intro u hu ho
  obtain rfl : t = u := Option.some.inj (hs.2.symm.trans hu)
  rw [he, runMem_faults hs ho h rfl]

/-- The fault where it leaves the thread `u`. -/
theorem faultsEmptied_of_lane {instr : Instr} {hold : Bool} {eff : Nat → State → Nat → Thread → LaneEff} {s : State}
    {c k d n : Nat} {t u : Thread} {i : FInfo} (he : exec instr s = runMem hold eff s) (hs : Single s c k t)
    (ho : openVerdict s t.uid = false)
    (h : eff s.nextId { s with nextId := s.nextId + 1 } k t =
      .fault i (({ s with nextId := s.nextId + 1 } : State).setThread c k u)) (hu : Emptied t u d n) :
    FaultsEmptied instr s c k t i d n :=
  ⟨u, by rw [he, runMem_faults hs ho h rfl], hu⟩

/-- The thread with its destinations marked empty, and then left so with no fill pending (R164, R404). -/
def leftEmpty (t : Thread) (d : Nat) (gs : List Tag) : Thread := (t.emptyAll d gs).leaveAll d gs.length

theorem emptyDsts_eq {s : State} {c k : Nat} {t : Thread} (h : s.thread c k = some t) (d : Nat) (gs : List Tag) :
    emptyDsts s c k d gs = s.setThread c k (leftEmpty t d gs) := State.modThread_some _ _ _ _ _ h

theorem emptied_leftEmpty (t : Thread) (d : Nat) {gs : List Tag} {n : Nat} (h : gs.length = n) :
    Emptied t (leftEmpty t d gs) d n := h ▸ t.emptied_leaveAll d gs

/-! ## Loads -/

theorem withSources_ok {t : Thread} {srcs : List Src} {xs : List (List Reg)} (h : t.sources srcs = .ok xs) (s : State)
    (g : List (List Reg) → LaneEff) : withSources srcs t s g = g xs := by rw [withSources, h]

theorem withDst_ready {t : Thread} {r n : Nat} (h : t.dstReady r n = .ok ()) (s : State) (e : LaneEff) :
    withDst t r n s e = e := by
  unfold Thread.dstReady at h
  split at h
  · cases h
  · next hb => rw [withDst, hb]

/-- The access that a lane of LD, LDA or LDX starts. -/
def loadAcc (ldx : Bool) (acq : Option Scope) (f : FmtM) (c inst : Nat) (s : State) (k : Nat) (t : Thread) (ea : DWord) :
    Access :=
  { newAcc s c k t inst ea f.order
      (.load f.dst.toNat (mBytes f) f.type ldx (acq.getD .th) f.nrp.toNat) with acq := acq.isSome }

section
variable {f : FmtM} {s : State} {c k inst : Nat} {t : Thread} {xs : List (List Reg)} {ldx : Bool} {acq : Option Scope}
  (hg : t.guard f.guard = true) (hx : t.sources (mAddrSrcs true f) = .ok xs)
  (hd : t.dstReady f.dst.toNat (mWords f.size) = .ok ())
include hg hx hd

theorem loadLane_unaligned (ht : s.thread c k = some t) (ha : (eaOf f xs 0).toNat % mBytes f ≠ 0) :
    loadLane ldx acq f c inst s k t = .fault (fiAt fcAlign .load (eaOf f xs 0))
      (s.setThread c k (leftEmpty t f.dst.toNat (dataTags f.type (mWords f.size)))) := by
  have hb : ((eaOf f xs 0).toNat % mBytes f != 0) = true := by simpa using ha
  simp only [loadLane, hg, Bool.not_true, Bool.false_eq_true, if_false, withSources_ok hx, withDst_ready hd, effAddr_eq,
    hb, if_true, emptyDsts_eq ht]

/-- A lane whose address is aligned starts its access, with its destinations marked empty. -/
theorem loadLane_faults (ha : (eaOf f xs 0).toNat % mBytes f = 0) {i : FInfo} {s1 : State}
    (hs1 : s1 = s.setThread c k (t.emptyAll f.dst.toNat (dataTags f.type (mWords f.size))))
    (h : startAccess s1 c k t (loadAcc ldx acq f c inst s1 k t (eaOf f xs 0)) f.lit.isSome = .fault i s1) :
    loadLane ldx acq f c inst s k t = .fault i
      (s.setThread c k (leftEmpty t f.dst.toNat (dataTags f.type (mWords f.size)))) := by
  have hb : ((eaOf f xs 0).toNat % mBytes f != 0) = false := by simpa using ha
  subst hs1
  simp only [loadAcc] at h
  simp only [loadLane, hg, Bool.not_true, Bool.false_eq_true, if_false, withSources_ok hx, withDst_ready hd, effAddr_eq,
    hb, h, State.modThread_some _ _ _ _ _ (State.thread_setThread ..), setThread_setThread, leftEmpty, dataTags_length]

end

/-- An access that fails a check at its source raises its code with its address, and no page (R78). -/
theorem startAccess_refused {s : State} {c k : Nat} {t : Thread} {a : Access} {e : XFail} {lit : Bool}
    (hk : a.kind ≠ .pref) (hl : ∀ va, addrOf a.ea ≠ .local va)
    (h : sourceCheck s a.part (addrOf a.ea) a.kind.check a.order = .error (e, false)) :
    startAccess s c k t a lit = .fault (fiAt e.code a.kind.check a.ea) s := by
  have hi : { fiX e a.kind.check a.ea with freezing := false } = fiAt e.code a.kind.check a.ea := by
    simp [fiX, fiAt, not_demand_of_sourceCheck h]
  unfold startAccess
  split
  · next va hv => exact absurd hv (hl va)
  · rw [h]
    dsimp only
    split
    · next hp => exact absurd hp hk
    · rw [hi]

/-! ## Stores and atomics -/

theorem storeLane_unaligned {discard : Bool} {rel : Option Scope} {f : FmtM} {s : State} {c k inst : Nat} {t : Thread}
    {xs : List (List Reg)} (hg : t.guard f.guard = true)
    (hx : t.sources (mDataSrc f (mWords f.size) :: mAddrSrcs true f) = .ok xs)
    (ha : (eaOf f xs 1).toNat % mBytes f ≠ 0) :
    storeLane discard rel f c inst s k t = .fault (fiAt fcAlign .store (eaOf f xs 1)) s := by
  have hb : ((eaOf f xs 1).toNat % mBytes f != 0) = true := by simpa using ha
  simp only [storeLane, hg, Bool.not_true, Bool.false_eq_true, if_false, withSources_ok hx, effAddr_eq, hb, if_true]

/-- Data registers of an atomic: CAS reads the words to compare and the new ones (R297). -/
def atomData (op : AtomOp) (f : FmtM) : Nat := if op == .cas then 2 * mWords f.size else mWords f.size

theorem atomLane_unaligned {op : AtomOp} {ret : Bool} {f : FmtM} {s : State} {c k inst : Nat} {t : Thread}
    {xs : List (List Reg)} (ht : s.thread c k = some t) (hg : t.guard f.guard = true)
    (hx : t.sources (mDataSrc f (atomData op f) :: mAddrSrcs true f) = .ok xs)
    (hd : t.dstReady f.dst.toNat (if ret then mWords f.size else 0) = .ok ())
    (ha : (eaOf f xs 1).toNat % (4 * mWords f.size) ≠ 0) :
    atomLane op ret f c inst s k t = .fault (fiAt fcAlign .atomic (eaOf f xs 1))
      (s.setThread c k (leftEmpty t f.dst.toNat (if ret then dataTags f.type (mWords f.size) else []))) := by
  have hb : ((eaOf f xs 1).toNat % (4 * mWords f.size) != 0) = true := by simpa using ha
  unfold atomData at hx
  simp only [atomLane, hg, Bool.not_true, Bool.false_eq_true, if_false, withSources_ok hx, withDst_ready hd, effAddr_eq,
    hb, if_true, LaneEff.emptying, emptyDsts_eq ht]

/-- Type and fn never choose CAS, which has an opcode of its own (Table 13.2). -/
theorem atomOf_ne_cas (f : FmtM) : atomOf f ≠ .cas := by
  have h (g : Tag) : ∀ fn size : BitVec 2, (atomOpOf g fn size).getD .and ≠ .cas := by cases g <;> decide
  exact h f.type f.fn f.size

/-! ## The scratchpad -/

theorem ldsLane_unaligned {f : FmtM} {s : State} {c k : Nat} {t : Thread} {xs : List (List Reg)}
    (ht : s.thread c k = some t) (hg : t.guard f.guard = true) (hx : t.sources (mAddrSrcs false f) = .ok xs)
    (hd : t.dstReady f.dst.toNat (mWords f.size) = .ok ()) {off : Nat}
    (ho : off = (effOffset f (srcW xs 0) (srcW xs 1)).toNat) (ha : off % mBytes f ≠ 0) :
    ldsLane f c s k t = .fault (fiAt fcAlign .load (w64 off))
      (s.setThread c k (leftEmpty t f.dst.toNat (dataTags f.type (mWords f.size)))) := by
  have hb : (off % mBytes f != 0) = true := by simpa using ha
  simp only [ldsLane, hg, Bool.not_true, Bool.false_eq_true, if_false, withSources_ok hx, withDst_ready hd, ← ho,
    hb, if_true, emptyDsts_eq ht]

theorem stsLane_unaligned {f : FmtM} {s : State} {c k : Nat} {t : Thread} {xs : List (List Reg)}
    (hg : t.guard f.guard = true) (hx : t.sources (mDataSrc f (mWords f.size) :: mAddrSrcs false f) = .ok xs)
    {off : Nat} (ho : off = (effOffset f (srcW xs 1) (srcW xs 2)).toNat) (ha : off % mBytes f ≠ 0) :
    stsLane f c s k t = .fault (fiAt fcAlign .store (w64 off)) s := by
  have hb : (off % mBytes f != 0) = true := by simpa using ha
  simp only [stsLane, hg, Bool.not_true, Bool.false_eq_true, if_false, withSources_ok hx, ← ho, hb, if_true]

/-! ## The obligation -/

theorem loads_unaligned {f : FmtM} {s : State} {c k : Nat} {t : Thread} {xs : List (List Reg)} (hs : Single s c k t)
    (hg : t.guard f.guard = true) (ho : openVerdict s t.uid = false) (hx : t.sources (mAddrSrcs true f) = .ok xs)
    (hd : t.dstReady f.dst.toNat (mWords f.size) = .ok ()) (ha : (eaOf f xs 0).toNat % mBytes f ≠ 0) {i : Instr}
    (hi : i ∈ [Instr.ld f, .lda f, .ldx f]) :
    FaultsEmptied i s c k t (fiAt fcAlign .load (eaOf f xs 0)) f.dst.toNat (mWords f.size) := by
  have hc : s.issue.core = c := by rw [hs.1]
  have hl (ldx : Bool) (acq : Option Scope) : ∀ {i : Instr}, exec i s = runMem false (loadLane ldx acq f c) s →
      FaultsEmptied i s c k t (fiAt fcAlign .load (eaOf f xs 0)) f.dst.toNat (mWords f.size) := fun he =>
    faultsEmptied_of_lane he hs ho (loadLane_unaligned hg hx hd hs.2 ha) (emptied_leftEmpty t _ (dataTags_length ..))
  simp only [List.mem_cons, List.not_mem_nil, or_false] at hi
  subst hc
  rcases hi with rfl | rfl | rfl
  · exact hl false none rfl
  · exact hl false (some f.scope) rfl
  · exact hl true none rfl

theorem stores_unaligned {f : FmtM} {s : State} {c k : Nat} {t : Thread} {xs : List (List Reg)} (hs : Single s c k t)
    (hg : t.guard f.guard = true) (hx : t.sources (mDataSrc f (mWords f.size) :: mAddrSrcs true f) = .ok xs)
    (ha : (eaOf f xs 1).toNat % mBytes f ≠ 0) {i : Instr} (hi : i ∈ [Instr.st f, .stl f, .stx f]) :
    FaultsHeld i s c k (fiAt fcAlign .store (eaOf f xs 1)) := by
  have hc : s.issue.core = c := by rw [hs.1]
  have hl (discard : Bool) (rel : Option Scope) : ∀ {i : Instr},
      exec i s = runMem true (storeLane discard rel f c) s → FaultsHeld i s c k (fiAt fcAlign .store (eaOf f xs 1)) :=
    fun he => faultsHeld_of_lane he hs (storeLane_unaligned hg hx ha)
  simp only [List.mem_cons, List.not_mem_nil, or_false] at hi
  subst hc
  rcases hi with rfl | rfl | rfl
  · exact hl false none rfl
  · exact hl false (some f.scope) rfl
  · exact hl true none rfl

theorem atomics_unaligned {f : FmtM} {s : State} {c k : Nat} {t : Thread} {xs : List (List Reg)} (hs : Single s c k t)
    (hg : t.guard f.guard = true) (ho : openVerdict s t.uid = false)
    (ha : (eaOf f xs 1).toNat % (4 * mWords f.size) ≠ 0) {e : Instr × Nat × Nat}
    (he : e ∈ [(Instr.atom f, mWords f.size, mWords f.size), (.cas f, 2 * mWords f.size, mWords f.size),
      (.red f, mWords f.size, 0)])
    (hx : t.sources (mDataSrc f e.2.1 :: mAddrSrcs true f) = .ok xs) (hd : t.dstReady f.dst.toNat e.2.2 = .ok ()) :
    FaultsEmptied e.1 s c k t (fiAt fcAlign .atomic (eaOf f xs 1)) f.dst.toNat e.2.2 := by
  have hc : s.issue.core = c := by rw [hs.1]
  have hm : atomData (atomOf f) f = mWords f.size := if_neg (by simpa using atomOf_ne_cas f)
  simp only [List.mem_cons, List.not_mem_nil, or_false] at he
  subst hc
  rcases he with rfl | rfl | rfl
  · exact faultsEmptied_of_lane (eff := atomLane (atomOf f) true f s.issue.core) rfl hs ho
      (atomLane_unaligned hs.2 hg (hm ▸ hx) hd ha) (emptied_leftEmpty t _ (dataTags_length ..))
  · exact faultsEmptied_of_lane (eff := atomLane .cas true f s.issue.core) rfl hs ho
      (atomLane_unaligned hs.2 hg hx hd ha) (emptied_leftEmpty t _ (dataTags_length ..))
  · exact faultsEmptied_of_lane (eff := atomLane (atomOf f) false f s.issue.core) rfl hs ho
      (atomLane_unaligned hs.2 hg (hm ▸ hx) hd ha) (emptied_leftEmpty t _ rfl)

/-- An aligned LD of a global address that fails a check at its source (R78). -/
theorem ld_refused {f : FmtM} {s : State} {c k : Nat} {t : Thread} {xs : List (List Reg)} {e : XFail} (hs : Single s c k t)
    (hg : t.guard f.guard = true) (ho : openVerdict s t.uid = false) (hx : t.sources (mAddrSrcs true f) = .ok xs)
    (hd : t.dstReady f.dst.toNat (mWords f.size) = .ok ()) (ha : (eaOf f xs 0).toNat % mBytes f = 0)
    (hl : ∀ va, addrOf (eaOf f xs 0) ≠ .local va)
    (he : sourceCheck s (launchPart s t.seq) (addrOf (eaOf f xs 0)) .load f.order = .error (e, false)) :
    FaultsEmptied (.ld f) s c k t (fiAt e.code .load (eaOf f xs 0)) f.dst.toNat (mWords f.size) := by
  have hc : s.issue.core = c := by rw [hs.1]
  subst hc
  refine faultsEmptied_of_lane (eff := loadLane false none f s.issue.core) rfl hs ho
    (loadLane_faults hg hx hd ha rfl ?_) (emptied_leftEmpty t _ (dataTags_length ..))
  refine startAccess_refused nofun hl ?_
  rw [sourceCheck_setThread, sourceCheck_nextId]
  exact he

theorem lds_unaligned {f : FmtM} {s : State} {c k off : Nat} {t : Thread} {xs : List (List Reg)} (hs : Single s c k t)
    (hg : t.guard f.guard = true) (ho : openVerdict s t.uid = false) (hx : t.sources (mAddrSrcs false f) = .ok xs)
    (hd : t.dstReady f.dst.toNat (mWords f.size) = .ok ())
    (hoff : off = (effOffset f (srcW xs 0) (srcW xs 1)).toNat) (ha : off % mBytes f ≠ 0) :
    ∃ u, exec (.lds f) s = .next (takeLanes (s.setThread c k u) c s.nextId [(k, fiAt fcAlign .load (w64 off))]) ∧
      Emptied t u f.dst.toNat (mWords f.size) := by
  have hc : s.issue.core = c := by rw [hs.1]
  subst hc
  exact ⟨_, runBundle_faults (hold := false) hs (ldsLane_unaligned hs.2 hg hx hd hoff ha) ho rfl,
    emptied_leftEmpty t _ (dataTags_length ..)⟩

theorem sts_unaligned {f : FmtM} {s : State} {c k off : Nat} {t : Thread} {xs : List (List Reg)} (hs : Single s c k t)
    (hg : t.guard f.guard = true) (ho : openVerdict s t.uid = false)
    (hx : t.sources (mDataSrc f (mWords f.size) :: mAddrSrcs false f) = .ok xs)
    (hoff : off = (effOffset f (srcW xs 1) (srcW xs 2)).toNat) (ha : off % mBytes f ≠ 0) :
    exec (.sts f) s = .next (takeLanes s c s.nextId [(k, fiAt fcAlign .store (w64 off))]) := by
  have hc : s.issue.core = c := by rw [hs.1]
  subst hc
  exact runBundle_faults (hold := true) hs (stsLane_unaligned hg hx hoff ha) ho rfl

/-- Settles O22: the verdict of each check in its order, and the fault of each form at its one lane. -/
theorem globalAddresses : Obligations.GlobalAddresses := by
  unfold Obligations.GlobalAddresses
  refine ⟨?_, ?_, ?_, ?_⟩
  · intro s p rank region off k o r hr
    refine ⟨sourceCheck_noGlobal, fun hx => ⟨sourceCheck_invalid hx, fun _ => sourceCheck_dead hx, ?_⟩⟩
    intro hid prof d hd
    have hh : HomeOf s p rank d := ⟨hid, prof, hd⟩
    refine ⟨fun hv => ?_, fun hv h => ?_, fun hv hoff hw ho => ?_⟩
    · exact sourceCheck_region_error hx hh (regionCheck_invalid hr hv false)
    · exact sourceCheck_region_error hx hh (regionCheck_refused hr hv h)
    · refine sourceCheck_region_ok hx hh (regionCheck_granted hr hv ?_)
      rintro (h | ⟨hk, h⟩ | h)
      · omega
      · rw [hw hk] at h; cases h
      · rw [ho] at h; cases h
  · intro s p g region off k o hk
    exact sourceCheck_multicast g hk
  · rintro f s c k t xs _ _ - hs hg hx hd rfl rfl hl ho ha e he
    exact ld_refused hs hg ho hx hd ha hl he
  · rintro f s c k _ t xs rfl hs hg ho
    refine ⟨fun i hi _ hx hd ha => loads_unaligned hs hg ho hx hd ha hi,
      fun i hi _ hx ha => stores_unaligned hs hg hx ha hi,
      fun e he _ hx hd ha => atomics_unaligned hs hg ho ha he hx hd, fun off => ⟨fun _ hx hd hoff ha => ?_,
      fun _ hx hoff ha => ?_⟩⟩
    · rw [← effOffset_eq] at hoff
      exact lds_unaligned hs hg ho hx hd hoff ha
    · rw [← effOffset_eq] at hoff
      exact sts_unaligned hs hg ho hx hoff ha

end Sys2Proof.Machine
end

section
/-! SUPPORT. Table walks (R72 to R80): the entry that a walk through the walk cache reads, and what it means. -/

namespace Sys2Proof.Machine

/-! ## Entries -/

theorem classify_absent {e : DWord} (h : e.getLsbD 0 = false) (p level va : Nat) :
    classify p level va e.toNat = .absent := by
  unfold classify
  rw [bit_toNat, h]
  rfl

theorem classify_leaf {p va : Nat} {e : DWord} {l : Leaf} (h : LeafEntry p va e l) : classify p 0 va e.toNat = .leaf l := by
  have hsize : field e.toNat 5 2 = l.size := (field_toNat e 5 2).trans h.size.symm
  have hbase : field e.toNat 51 12 * 4096 = l.base := by rw [field_toNat]; exact h.base.symm
  have hslot : field e.toNat 59 52 = l.slot := (field_toNat e 59 52).trans h.slot.symm
  have hcls : ordOf (field e.toNat 7 6) = some l.cls := by rw [field_toNat]; exact h.cls
  have hres : field e.toNat 63 61 = 0 := (field_eq_zero_iff e 63 61).mpr h.reserved
  have hwr : (l.wr && !l.rd) = false := by
    cases hw : l.wr
    · rfl
    · simp [h.wrRd hw]
  have hat : (l.at_ && !(l.rd && l.wr)) = false := by
    cases ha : l.at_
    · rfl
    · simp [h.atRdWr ha]
  have hin : (!l.host && decide (2 ^ 40 ≤ l.base)) = false := by
    rcases h.inside with hh | hb
    · simp [hh]
    · simpa using fun _ => hb
  simp only [classify, bit_toNat, h.present, h.isLeaf, hsize, hbase, hslot, hcls, ← h.rd, ← h.wr, ← h.at_, ← h.host,
    ← h.x, ← h.page, ← h.part, hres, h.small, h.aligned, hwr, hat, hin]
  rfl

/-! ## Reads of a table -/

/-- Two consistent words of a held sector, in a frame that is not being bound, are read as they stand (R21, R76). -/
theorem homeReadChecked_hit {s : State} {w slot : Nat} {y : L2Sector} {ds : List Datum} (hb : binding s w = false)
    (hy : l2Hit s w slot = some y) (n : Nat) (hd : sectorWords y w n = ds) (hok : ds.all Datum.okay = true)
    (mask : BitVec 24) : homeReadChecked s w slot n mask = .ok ds s := by
  simp [homeReadChecked, homeSector, hb, hy, refetchWords, hd, hok]

/-- The table of level 0 for an address is in the walk cache, and the L2 holds its entry for the address. -/
structure EntryRead (s : State) (d p va table : Nat) (e : DWord) : Prop where
  cached : ∀ lv, 1 ≤ lv → lv ≤ 4 → (walkHit s d p lv va).isSome = true
  table_eq : walkHit s d p 1 va = some table
  read : walkFrom.entryAt s p va 0 table = .ok e.toNat s

theorem entryAt_hit {s : State} {p va table w : Nat} {y : L2Sector} {lo hi : Datum}
    (hw : w = table + 8 * (va / 4096 % 512)) (hb : binding s w = false)
    (hy : l2Hit s w ((s.part p).xlRoot.toNat % 256) = some y) (hd : (y.words.drop (w / 4 % 16)).take 2 = [lo, hi])
    (hlo : Datum.okay lo = true) (hhi : Datum.okay hi = true) :
    walkFrom.entryAt s p va 0 table = .ok (hi.word ++ lo.word).toNat s := by
  have hf : field (s.part p).xlRoot.toNat 7 0 = (s.part p).xlRoot.toNat % 256 := by simp [field]
  have hr := homeReadChecked_hit hb hy 2 hd (by simp [hlo, hhi]) (s.part p).l2Ways
  have ha : table + 8 * (va / 2 ^ levelShift 0 % 512) = w := hw.symm
  simp only [walkFrom.entryAt, ha, hf, hr]
  rfl

theorem walkFrom_hit {s : State} {level d p va t : Nat} (h : walkHit s d p (level + 1) va = some t) (table : Nat) :
    walkFrom (level + 1) s d p va table = walkFrom level s d p va t := by rw [walkFrom, h]

/-- A walk whose tables down to level 1 are cached reads the entry of level 0 alone (R72, R79). -/
theorem walk_read {s : State} {d p va table : Nat} {e : DWord} (h : EntryRead s d p va table e) :
    walk s d p va = walkFrom.walkRead s p va 0 table := by
  obtain ⟨t4, h4⟩ := Option.isSome_iff_exists.mp (h.cached 4 (by decide) le_rfl)
  obtain ⟨t3, h3⟩ := Option.isSome_iff_exists.mp (h.cached 3 (by decide) (by decide))
  obtain ⟨t2, h2⟩ := Option.isSome_iff_exists.mp (h.cached 2 (by decide) (by decide))
  rw [walk, walkFrom_hit h4, walkFrom_hit h3, walkFrom_hit h2, walkFrom_hit h.table_eq, walkFrom]

theorem walk_leaf {s : State} {d p va table : Nat} {e : DWord} {l : Leaf} (h : EntryRead s d p va table e)
    (he : LeafEntry p va e l) : walk s d p va = (.ok l, s) := by
  rw [walk_read h, walkFrom.walkRead, h.read]
  simp only [classify_leaf he]

theorem walk_absent {s : State} {d p va table : Nat} {e : DWord} (h : EntryRead s d p va table e)
    (he : e.getLsbD 0 = false) : walk s d p va = (.error ⟨fcXlate, 8, false, va / 4096 * 4096⟩, s) := by
  rw [walk_read h, walkFrom.walkRead, h.read]
  simp only [classify_absent he]

/-! ## Leaves that are kept -/

@[simp] theorem State.core_setCore (s : State) (c : Nat) (x : Core) : (s.setCore c x).core c = x := tabGet_set_same ..
theorem State.core_setCore_other (s : State) (x : Core) {c d : Nat} (h : d ≠ c) : (s.setCore c x).core d = s.core d :=
  tabGet_set_other _ _ _ _ _ h
@[simp] theorem State.cluster_setCluster (s : State) (c : Nat) (x : Cluster) : (s.setCluster c x).cluster c = x :=
  tabGet_set_same ..
theorem State.cluster_setCluster_other (s : State) (x : Cluster) {c d : Nat} (h : d ≠ c) :
    (s.setCluster c x).cluster d = s.cluster d := tabGet_set_other _ _ _ _ _ h

theorem leafCovers_of_page {l : Leaf} {p va : Nat} (hp : l.part = p)
    (hv : l.vbase = va / 2 ^ (l.size + 12) * 2 ^ (l.size + 12)) : leafCovers l p va = true := by
  have hpos : 0 < 2 ^ (l.size + 12) := Nat.two_pow_pos _
  have hd := Nat.div_add_mod' va (2 ^ (l.size + 12))
  have hm := Nat.mod_lt va hpos
  simp only [leafCovers, hp, hv, beq_self_eq_true, Bool.true_and, Bool.and_eq_true, decide_eq_true_eq]
  omega

theorem tlbFind_coreTlbPut {l : Leaf} {p va : Nat} (h : leafCovers l p va = true) (t : List Leaf) :
    tlbFind (coreTlbPut t l) p va = some l := by
  simp [tlbFind, coreTlbPut, tlbPut, h]

theorem tlbFind_clusterTlbPut {l : Leaf} {p va : Nat} (h : leafCovers l p va = true) (t : List Leaf) :
    tlbFind (clusterTlbPut t l) p va = some l := by
  have hs : sameTlbSet l l = true := by simp [sameTlbSet]
  simp only [clusterTlbPut]
  split
  · simp [tlbFind, tlbPut, h]
  · simp [tlbFind, tlbPut, keepFirst, hs, h]

section
variable (s : State) (c cl : Nat) (l : Leaf)

theorem cacheLeaf_core_same : (cacheLeaf s (some c) cl l).core c =
    { s.core c with tlb := coreTlbPut (s.core c).tlb l } := State.core_setCore ..

theorem cacheLeaf_core : (cacheLeaf s (some c) cl l).core c =
    { s.core c with tlb := ((cacheLeaf s (some c) cl l).core c).tlb } := by rw [cacheLeaf_core_same]

theorem cacheLeaf_core_other {d : Nat} (h : d ≠ c) : (cacheLeaf s (some c) cl l).core d = s.core d :=
  State.core_setCore_other _ _ h

theorem cacheLeaf_cluster_same : (cacheLeaf s (some c) cl l).cluster cl =
    { s.cluster cl with tlb := clusterTlbPut (s.cluster cl).tlb l } := State.cluster_setCluster ..

theorem cacheLeaf_cluster_other {d : Nat} (h : d ≠ cl) : (cacheLeaf s (some c) cl l).cluster d = s.cluster d :=
  State.cluster_setCluster_other _ _ h

/-- A leaf is cached at the core and at its cluster, and nothing else of either changes (R79). -/
theorem cacheLeaf_cluster (d : Nat) : (cacheLeaf s (some c) cl l).cluster d =
    { s.cluster d with tlb := ((cacheLeaf s (some c) cl l).cluster d).tlb } := by
  by_cases h : d = cl
  · subst h
    rw [cacheLeaf_cluster_same]
  · rw [cacheLeaf_cluster_other s c cl l h]

end

theorem cachedLeaf_core {s : State} {c : Nat} {l : Leaf} {p va : Nat} (h : leafCovers l p va = true) :
    cachedLeaf (cacheLeaf s (some c) (c / 4) l) (corePlace c) p va = some l := by
  have ht : tlbFind ((cacheLeaf s (some c) (c / 4) l).core c).tlb p va = some l := by
    rw [cacheLeaf_core_same]
    exact tlbFind_coreTlbPut h _
  simp [cachedLeaf, corePlace, ht]

theorem cachedLeaf_cluster {s : State} {c cl : Nat} {l : Leaf} {p va : Nat} (h : leafCovers l p va = true) :
    cachedLeaf (cacheLeaf s (some c) cl l) (clusterPlace cl) p va = some l := by
  have ht : tlbFind ((cacheLeaf s (some c) cl l).cluster cl).tlb p va = some l := by
    rw [cacheLeaf_cluster_same]
    exact tlbFind_clusterTlbPut h _
  simp [cachedLeaf, clusterPlace, ht]

end Sys2Proof.Machine
end

section
/-! SUPPORT. TRANSLATION_WALK of one load (R80, R86, R404, R405): what the end of its walk does to the access, and the
obligation. -/

namespace Sys2Proof.Machine

/-! ## One access -/

section
variable {s : State} {a : Access}

theorem filter_accesses_self {q : Access → Bool} (h : s.accesses = [a]) (hq : q a = true) :
    s.accesses.filter q = [a] := by rw [h, List.filter_cons_of_pos hq, List.filter_nil]

theorem findAcc_self (h : s.accesses = [a]) : findAcc s a.id = some a := by simp [findAcc, h]

theorem putAcc_self (h : s.accesses = [a]) {b : Access} (hb : b.id = a.id) :
    putAcc s b = { s with accesses := [b] } := by simp [putAcc, h, hb]

theorem dropAcc_self (h : s.accesses = [a]) : dropAcc s a.id = { s with accesses := [] } := by simp [dropAcc, h]

theorem accThread_self {t : Thread} (ht : s.thread a.core a.key = some t) (hu : t.uid = a.uid) :
    accThread s a = some t := by simp [accThread, ht, hu]

theorem walkReady_self (h : s.accesses = [a]) (hw : s.walks = []) : walkReady s a = true := by
  simp [walkReady, walksAhead, h, hw]

theorem walkServes_none (hw : s.walks = []) (d p page : Nat) (r : Except XFail Leaf) : walkServes s d p page r = s := by
  have hs : ({ s with walks := [] } : State) = s := by rw [← hw]
  cases r <;> simp [walkServes, hw, hs]

/-- The walk of the one access in flight ends: it goes on with what the walk comes to. -/
theorem exec_translationWalk_self (ha : s.accesses = [a]) (hw : s.walks = []) (hs : a.stage = .walk)
    (hx : (s.part a.part).xlEnable = true) {r : Except XFail Leaf} (hr : walk s (a.core / 64) a.part a.lva = (r, s)) :
    exec (.translationWalk a.id) s = happens s (settleInst (walked r s a) a.inst) := by
  have hj : ∀ q : Access → Bool, (s.accesses.filter fun b =>
      (b.stage == .walk && b.core / 64 == a.core / 64 && b.part == a.part && b.lva / 4096 == a.lva / 4096) || q b) = [a] :=
    fun q => filter_accesses_self ha (by simp [hs])
  have he : walkEnds s a = settleInst (walked r s a) a.inst := by
    simp only [walkEnds, granuleEnds, hx, if_true, hr, hj, walkServes_none hw]
    rfl
  have hacts : walkActs s a.id = walkEnds s a := by
    simp [walkActs, findAcc_self ha, hs, walkReady_self ha hw]
  rw [← he, ← hacts]
  rfl

/-! ## A leaf that grants the load -/

/-- The access on its way to its home slice, as a leaf of main memory gives it (R74, R130). -/
def Access.sent (a : Access) (l : Leaf) (ldx : Bool) : Access :=
  { a with
    stage := .slice, cls := l.cls, leaf := some (l.vbase, l.size), place := some (l.base + (a.lva - l.vbase), l.slot)
    sector := if ldx || l.cls == .so then none else some (.local, (l.base + (a.lva - l.vbase)) / 64, l.slot) }

theorem mapped_sent {dst bytes nrp : Nat} {type : Tag} {ldx : Bool} {acq : Scope} {l : Leaf}
    (hk : a.kind = .load dst bytes type ldx acq nrp) (hl : l.host = false) (h1 : (s.core a.core).l1 = []) :
    mapped s a l = putAcc s (a.sent l ldx) := by
  have hf : ∀ n, l1Find s a.core n = none := fun n => by simp [l1Find, h1]
  simp only [mapped, hl, hk, hf, Bool.false_and, Bool.false_eq_true, if_false, Option.map_none, Option.bind_fun_none]
  rw [← hk]
  rfl

/-- The module with a leaf cached at the access's core and cluster, and the access changed to `b`. -/
def leafTaken (s : State) (a : Access) (l : Leaf) (b : Access) : State :=
  putAcc (cacheLeaf s (some a.core) (a.core / 4) l) b

theorem leafTaken_demands (l : Leaf) (b : Access) : (leafTaken s a l b).demands = s.demands := rfl
theorem leafTaken_stalled (l : Leaf) (b : Access) : (leafTaken s a l b).stalled = s.stalled := rfl
theorem leafTaken_core (l : Leaf) (b : Access) (c : Nat) :
    (leafTaken s a l b).core c = (cacheLeaf s (some a.core) (a.core / 4) l).core c := rfl
theorem leafTaken_cluster (l : Leaf) (b : Access) (c : Nat) :
    (leafTaken s a l b).cluster c = (cacheLeaf s (some a.core) (a.core / 4) l).cluster c := rfl
theorem cachedLeaf_leafTaken (l : Leaf) (b : Access) (w : Place) (p va : Nat) :
    cachedLeaf (leafTaken s a l b) w p va = cachedLeaf (cacheLeaf s (some a.core) (a.core / 4) l) w p va := rfl

theorem leafTaken_frame (ha : s.accesses = [a]) (l : Leaf) {b : Access} (hb : b.id = a.id) : leafTaken s a l b =
    { s with cores := (leafTaken s a l b).cores, clusters := (leafTaken s a l b).clusters, accesses := [b] } := by
  have ha' : (cacheLeaf s (some a.core) (a.core / 4) l).accesses = [a] := ha
  unfold leafTaken
  rw [putAcc_self ha' hb]
  rfl

/-- The load of a walk that has come to a leaf: the leaf is cached, and the access goes to its home slice. -/
theorem walked_sent {dst bytes nrp : Nat} {type : Tag} {ldx : Bool} {acq : Scope} {l : Leaf}
    (hk : a.kind = .load dst bytes type ldx acq nrp) (hd : a.dest = none) (hh : a.holds = false)
    (h1 : (s.core a.core).l1 = []) (hf : leafFail s a.part l .load a.order none = none) (hl : l.host = false) :
    walked (.ok l) s a = leafTaken s a l (a.sent l ldx) := by
  have h1' : ((cacheLeaf s (some a.core) (a.core / 4) l).core a.core).l1 = [] := by rw [cacheLeaf_core_same]; exact h1
  have hf' : leafFail (cacheLeaf s (some a.core) (a.core / 4) l) a.part l a.kind.check a.order a.asked = none := by
    rw [← hf, hk, Access.asked, hd]
    rfl
  simp only [walked, hf', hh, Bool.false_eq_true, if_false, mapped_sent hk hl h1', leafTaken]

/-! ## An entry that is absent -/

/-- A thread parked on the record of a demand fault that is to be written (R405, R410). -/
def demandParked (c k : Nat) (t : Thread) (i : FInfo) : Thread :=
  { t with frec := recBits (laneRec c k t i) false 0, trapinfo := trapInfo i, waited := false, bundle := none
           status := .parked none }

/-- The demand fault of a lane, until its batch is formed (R88). -/
def laneDemand (c k n page : Nat) (t : Thread) (i : FInfo) : Demand :=
  ⟨n, c, k, t.uid, i.code, i.access, page, laneRec c k t i⟩

theorem takeFault_page {c k n page : Nat} {t : Thread} {i : FInfo} (ht : s.thread c k = some t) (hp : i.page = some page) :
    takeFault s c k n i = { s.setThread c k (demandParked c k t i) with
      demands := insertLane (laneDemand c k n page t i) s.demands } := by
  simp only [takeFault, ht, hp, parkOn, State.thread_setThread, setThread_setThread]
  rfl

theorem groupDemands_single (n : Nat) (d : Demand) : groupDemands (n + 1) [d] = [d.record] := by
  cases n <;> simp [groupDemands]

/-- The one demand fault of an instruction that has its verdicts becomes a batch of one record (R88). -/
theorem settleInst_demand {d : Demand} (ha : s.accesses = []) (hd : s.demands = [d]) (hk : d.record.kind = 0) :
    settleInst s d.inst = pushBatch { s with demands := [] } (launchPart s d.record.seq) [d.record] := by
  have hu : undecided s d.inst true = false := by simp [undecided, ha]
  have hm : (s.demands.filter fun x => x.inst == d.inst && x.record.kind == 0) = [d] := by simp [hd, hk]
  have hr : (s.demands.filter fun x => !(x.inst == d.inst && x.record.kind == 0)) = [] := by simp [hd, hk]
  have h0 : settleKind s d.inst 0 (undecided s d.inst true) =
      pushBatch { s with demands := [] } (launchPart s d.record.seq) [d.record] := by
    simp only [settleKind, hm, hr, hu, Bool.false_eq_true, if_false, List.length_nil, groupDemands_single]
  have hn : ∀ n k w, settleKind (pushBatch { s with demands := [] } (launchPart s d.record.seq) [d.record]) n k w =
      pushBatch { s with demands := [] } (launchPart s d.record.seq) [d.record] := fun n k w => rfl
  simp only [settleInst, h0, hn]

/-- The module after the demand fault of its one access: the thread `u` is parked, and its record is a batch of the
partition `p` (R88, R405). -/
def demandTaken (s : State) (a : Access) (p : Nat) (u : Thread) (i : FInfo) : State :=
  pushBatch (({ s with accesses := [], demands := [] } : State).setThread a.core a.key (demandParked a.core a.key u i)) p
    [laneRec a.core a.key u i]

section
variable (p : Nat) (u : Thread) (i : FInfo)

theorem demandTaken_accesses : (demandTaken s a p u i).accesses = [] := rfl
theorem demandTaken_demands : (demandTaken s a p u i).demands = [] := rfl
theorem demandTaken_stalled : (demandTaken s a p u i).stalled = s.stalled := rfl
theorem demandTaken_thread : (demandTaken s a p u i).thread a.core a.key = some (demandParked a.core a.key u i) :=
  State.thread_setThread ..
theorem demandTaken_batches : ((demandTaken s a p u i).part p).batches =
    (s.part p).batches ++ [⟨s.nextId, [laneRec a.core a.key u i]⟩] := congrArg Part.batches (tabGet_set_same ..)

end

/-- The fault of a load at an entry that is absent (R78, R405). -/
def absentFault (a : Access) : FInfo := fiX ⟨fcXlate, 8, false, a.lva / 4096 * 4096⟩ .load a.ea

theorem failNow_self {t t0 : Thread} (ha : s.accesses = [a]) (ht : s.thread a.core a.key = some t) (hu : t.uid = a.uid)
    (hb : a.before = some t0) (i : FInfo) : failNow s a i =
      takeFault (({ s with accesses := [] } : State).setThread a.core a.key (a.emptied (t.backTo t0)))
        a.core a.key a.inst i := by
  have hf : s.accesses.filter (fun b => !(b.uid == a.uid && a.id < b.id && (b.before.isSome || b.kind.probes))) = [a] :=
    filter_accesses_self ha (by simp)
  have hs : ({ s with accesses := [a] } : State) = s := by rw [← ha]
  have ht' : accThread { s with accesses := [] } a = some t := accThread_self ht hu
  simp only [failNow, hf, hs, dropAcc_self ha, ht', hb, Option.getD_some]

/-- What an access keeps of its thread before it, with the destinations of the load left empty (R404). -/
theorem Access.emptied_load {dst bytes nrp : Nat} {type : Tag} {ldx : Bool} {acq : Scope}
    (hk : a.kind = .load dst bytes type ldx acq nrp) (v : Thread) : Emptied v (a.emptied v) dst ((bytes + 3) / 4) := by
  have h := v.emptied_leaveAll dst (dataTags type ((bytes + 3) / 4))
  rw [dataTags_length] at h
  simpa only [Access.emptied, hk] using h

theorem unmapped_fails {dst bytes : Nat} {type : Tag} {ldx : Bool} {acq : Scope} (ha : s.accesses = [a])
    (hk : a.kind = .load dst bytes type ldx acq 7) (hd : a.dest = none) (x : XFail) (l : Option Leaf) :
    unmapped s a x l = failNow s a (fiX x .load a.ea) := by
  have ho : olderOpen s a = false := by simp [olderOpen, ha]
  simp [unmapped, hk, AccKind.nrp, AccKind.check, hd, failWith, ho]

/-- A demand fault of the one access in flight: its thread, as it was at the load, is parked on the record of a batch. -/
theorem settleInst_failNow {dst bytes nrp page : Nat} {type : Tag} {ldx : Bool} {acq : Scope} {t t0 : Thread} {i : FInfo}
    (ha : s.accesses = [a]) (hds : s.demands = []) (hk : a.kind = .load dst bytes type ldx acq nrp)
    (ht : s.thread a.core a.key = some t) (hu : t.uid = a.uid) (hb : a.before = some t0) (hp : i.page = some page) :
    ∃ u, Emptied (t.backTo t0) u dst ((bytes + 3) / 4) ∧
      settleInst (failNow s a i) a.inst = demandTaken s a (launchPart s t0.seq) u i := by
  have hu0 := Access.emptied_load hk (t.backTo t0)
  refine ⟨_, hu0, ?_⟩
  have hf := failNow_self ha ht hu hb i
  generalize a.emptied (t.backTo t0) = u at hu0 hf
  have hseq : u.seq = t0.seq := by rw [hu0.1]; rfl
  have hk0 : (laneDemand a.core a.key a.inst page u i).record.kind = 0 := by simp [laneDemand, laneRec, hp]
  have hl : insertLane (laneDemand a.core a.key a.inst page u i) s.demands =
      [laneDemand a.core a.key a.inst page u i] := by rw [hds, insertLane]
  rw [hf, takeFault_page (State.thread_setThread ..) hp, setThread_setThread, State.setThread_demands, hl]
  refine (settleInst_demand rfl rfl hk0).trans ?_
  rw [show (laneDemand a.core a.key a.inst page u i).record.seq = t0.seq from hseq]
  rfl

/-! ## A residency predicate -/

theorem Thread.reg_setPred (t : Thread) (p j : Nat) (b : Bool) : (t.setPred p b).reg j = t.reg j := by
  unfold Thread.setPred
  split <;> rfl

theorem Thread.setPred_frame (t : Thread) (p : Nat) (b : Bool) :
    t.setPred p b = { t with preds := (t.setPred p b).preds } := by
  unfold Thread.setPred
  split <;> rfl

/-- The thread of a .nr load whose entry is absent (R86). -/
def absentFill (dst bytes : Nat) (type : Tag) (nrp : Nat) (t : Thread) : Thread :=
  (t.fillAll dst ((dataTags type ((bytes + 3) / 4)).map fun g => (g, zeroDatum))).setPred nrp false

theorem filled_absentFill (dst bytes : Nat) (type : Tag) (nrp : Nat) (t : Thread) :
    Filled type dst ((bytes + 3) / 4) (List.replicate ((bytes + 3) / 4) zeroDatum) t (absentFill dst bytes type nrp t) := by
  have hz : (dataTags type ((bytes + 3) / 4)).map (fun g => (g, zeroDatum)) =
      (dataTags type ((bytes + 3) / 4)).zip (List.replicate ((bytes + 3) / 4) zeroDatum) := by
    refine List.ext_getElem (by simp [dataTags_length]) fun n _ _ => ?_
    simp
  have hf := t.filled_fillAll type dst _ (List.replicate ((bytes + 3) / 4) zeroDatum) List.length_replicate
  simpa only [Filled, absentFill, Thread.reg_setPred, hz] using hf

theorem absentFill_frame (dst bytes : Nat) (type : Tag) (nrp : Nat) (t : Thread) : absentFill dst bytes type nrp t =
    { t with regs := (absentFill dst bytes type nrp t).regs, preds := (absentFill dst bytes type nrp t).preds } := by
  rw [absentFill, Thread.setPred_frame, Thread.fillAll_frame]

theorem acquireAt_frame (s : State) (c : Nat) (sc : Scope) : acquireAt s c sc =
    { s with cores := (acquireAt s c sc).cores, accesses := (acquireAt s c sc).accesses } := by
  unfold acquireAt
  split <;> rfl

theorem acquireAt_accesses_nil (h : s.accesses = []) (c : Nat) (sc : Scope) : (acquireAt s c sc).accesses = [] := by
  unfold acquireAt
  split
  · simp [l1Acquire, State.modCore, State.setCore, h]
  · exact h

theorem thread_acquireAt (s : State) (c k : Nat) (sc : Scope) : (acquireAt s c sc).thread c k = s.thread c k := by
  unfold acquireAt
  split
  · have h : (l1Acquire s c).core c = { s.core c with l1 := [] } := State.core_setCore ..
    rw [State.thread, h]
    rfl
  · rfl

theorem unmapped_absent {dst bytes nrp : Nat} {type : Tag} {ldx : Bool} {acq : Scope} {t : Thread} {x : XFail}
    (ha : s.accesses = [a]) (hk : a.kind = .load dst bytes type ldx acq nrp) (ht : s.thread a.core a.key = some t)
    (hu : t.uid = a.uid) (hx : x.step = 8) (hn : nrp ≠ 7) (l : Option Leaf) : unmapped s a x l =
      acquireAt (({ s with accesses := [] } : State).setThread a.core a.key (absentFill dst bytes type nrp t)) a.core acq := by
  have ht' : accThread { s with accesses := [] } a = some t := accThread_self ht hu
  simp [unmapped, hk, AccKind.nrp, hx, hn, deliverAbsent, retire, dropAcc_self ha, ht', absentFill]

end

section
variable {s : State} {a : Access} {dst bytes nrp : Nat} {type : Tag} {ldx : Bool} {acq : Scope} {table : Nat} {e : DWord}
  (ha : s.accesses = [a]) (hds : s.demands = []) (hw : s.walks = []) (hs : a.stage = .walk)
  (hx : (s.part a.part).xlEnable = true) (hk : a.kind = .load dst bytes type ldx acq nrp)
  (hread : EntryRead s (a.core / 64) a.part a.lva table e)
include ha hds hw hs hx hk hread

/-- The walk that comes to a leaf (R74, R79, R130). -/
theorem exec_translationWalk_leaf {l : Leaf} (hdest : a.dest = none) (hh : a.holds = false) (h1 : (s.core a.core).l1 = [])
    (hl : LeafEntry a.part a.lva e l) (hf : leafFail s a.part l .load a.order none = none) (hhost : l.host = false) :
    exec (.translationWalk a.id) s = .next (leafTaken s a l (a.sent l ldx)) := by
  rw [exec_translationWalk_self ha hw hs hx (walk_leaf hread hl), walked_sent hk hdest hh h1 hf hhost,
    settleInst_nil _ _ (hds ▸ leafTaken_demands l _)]
  exact happens_same fun h => by rwa [leafTaken_stalled] at h

/-- The walk that finds no entry, for a load without a residency predicate (R86, R88, R405). -/
theorem exec_translationWalk_absent {t t0 : Thread} (hdest : a.dest = none) (hn : nrp = 7)
    (he : e.getLsbD 0 = false) (ht : s.thread a.core a.key = some t) (hu : t.uid = a.uid) (hb : a.before = some t0) :
    ∃ u, Emptied (t.backTo t0) u dst ((bytes + 3) / 4) ∧
      exec (.translationWalk a.id) s = .next (demandTaken s a (launchPart s t0.seq) u (absentFault a)) := by
  subst hn
  obtain ⟨u, hemp, hset⟩ := settleInst_failNow (i := absentFault a) ha hds hk ht hu hb rfl
  refine ⟨u, hemp, ?_⟩
  rw [exec_translationWalk_self ha hw hs hx (walk_absent hread he), walked, unmapped_fails ha hk hdest]
  refine (congrArg (happens s) hset).trans (happens_same fun h => ?_)
  rwa [demandTaken_stalled] at h

/-- The walk that finds no entry, for a load with one (R86). -/
theorem exec_translationWalk_nr {t : Thread} (hn : nrp ≠ 7) (he : e.getLsbD 0 = false)
    (ht : s.thread a.core a.key = some t) (hu : t.uid = a.uid) : exec (.translationWalk a.id) s =
      .next (acquireAt (({ s with accesses := [] } : State).setThread a.core a.key (absentFill dst bytes type nrp t))
        a.core acq) := by
  have hf := acquireAt_frame (({ s with accesses := [] } : State).setThread a.core a.key (absentFill dst bytes type nrp t))
    a.core acq
  rw [exec_translationWalk_self ha hw hs hx (walk_absent hread he)]
  simp only [walked]
  rw [unmapped_absent ha hk ht hu rfl hn, settleInst_nil _ _ (by rw [hf]; exact hds)]
  exact happens_same fun h => by rw [hf] at h; exact h

end

/-- Settles O36: the walk reads the one entry of level 0; a leaf sends the access to its home slice, an absent entry
parks the thread or fills its registers with zeros. -/
theorem walksTranslate : Obligations.WalksTranslate := by
  unfold Obligations.WalksTranslate
  rintro s a t0 t table w n y lo hi e dst bytes nrp type ldx acq ha hds hw hs hdest hk ht hu hb h0 hh h1 hbind hx hcached
    htable hwa hy hwords hlo hhi rfl rfl
  have hread : EntryRead s (a.core / 64) a.part a.lva table (hi.word ++ lo.word) :=
    ⟨hcached, htable, entryAt_hit hwa hbind hy hwords hlo hhi⟩
  refine ⟨fun l hl hfail hhost => ?_, fun he hn => ?_, fun he hn => ?_⟩
  · have hcov := leafCovers_of_page hl.part hl.page
    refine ⟨_, a.sent l ldx, exec_translationWalk_leaf ha hds hw hs hx hk hread hdest hh h1 hl hfail hhost,
      leafTaken_frame ha l rfl, rfl, ?_, ?_, ?_, fun c hc => ?_, fun c => ?_⟩
    · rw [cachedLeaf_leafTaken, cachedLeaf_core hcov]
    · rw [cachedLeaf_leafTaken, cachedLeaf_cluster hcov]
    · rw [leafTaken_core, cacheLeaf_core_same]
    · rw [leafTaken_core, cacheLeaf_core_other s a.core (a.core / 4) l hc]
    · rw [leafTaken_cluster]
      exact cacheLeaf_cluster s a.core (a.core / 4) l c
  · obtain ⟨u, ⟨hframe, hregs⟩, hexec⟩ :=
      exec_translationWalk_absent ha hds hw hs hx hk hread hdest hn he ht hu hb
    have hpc : u.pc = t0.pc := by rw [hframe]; rfl
    have hseq : u.seq = t0.seq := by rw [hframe]; rfl
    have huid : u.uid = t0.uid := by rw [hframe]; rfl
    exact ⟨_, demandParked a.core a.key u (absentFault a), laneRec a.core a.key u (absentFault a), hexec,
      demandTaken_accesses .., demandTaken_demands .., demandTaken_thread .., rfl, hpc,
      fun j hj => (hregs (dst + j)).2 (by omega) (by omega), demandTaken_batches .., rfl, rfl, rfl, rfl, hpc, rfl,
      hseq, congrArg (fun x => [x]) huid⟩
  · refine ⟨_, absentFill dst bytes type nrp t,
      exec_translationWalk_nr ha hds hw hs hx hk hread (by omega) he ht hu, ?_, ?_, filled_absentFill .., ?_,
      absentFill_frame .., fun x hne => ?_⟩
    · refine (acquireAt_frame ..).trans ?_
      rw [acquireAt_accesses_nil rfl]
      rfl
    · rw [thread_acquireAt, State.thread_setThread]
    · rw [absentFill, Thread.pred_setPred _ _ _ _ hn hn, if_pos rfl]
    · rw [thread_acquireAt, State.thread_setThread_other _ _ _ _ _ _ (.inr hne)]
      rfl

end Sys2Proof.Machine
end

section
/-! SUPPORT. The loss of the last way to a peer with a transaction in flight (R103): the access that waits for its answer
fails with the peer, which the obligation on links does not allow for. -/

namespace Sys2Proof.Machine

/-- A load that waits for the answer of position 1 to the transaction of number 0. -/
def podLoad : Access := { waitingLoad with stage := .pod 1 0, place := none }

/-- Its transaction. -/
def podRead : PodTx := ⟨0, ⟨0, 0, 0, .rc, .read 1 false, none, 0, 0⟩, none, .access podLoad.id⟩

/-- Port 0 of position 0, which leads to position 1: it is UP, and has received nothing since time 0. -/
def silentLink : Link := { Link.off with state := 2 }

/-- Position 1: ALIVE, with the load's transaction not answered. -/
def askedPeer : Peer := { Peer.off with state := 1, unacked := [podRead] }

/-- A module at position 0, 10 μs after its one link has last received a flit. -/
def cutOff : State :=
  { State.reset with time := 10 ^ 10, links := [(0, silentLink)], peers := [(1, askedPeer)], accesses := [podLoad] }

theorem calm_cutOff : Calm cutOff where
  direct t := by
    by_cases h : t = 1
    · subst h; decide
    · simp [cutOff, State.peer, tabGet, Ne.symm h, Peer.off]
  groups e he := by simp [cutOff, State.reset] at he

theorem exec_linkSilenceTimeout (k : Nat) (s : State) :
    exec (.linkSilenceTimeout k) s = happens s (silenceExpires s k) := rfl

/-- The peer is DEAD, and the load has failed with it. -/
theorem accesses_silenceExpires : (silenceExpires cutOff 0).accesses = [] := by decide +kernel

theorem stalled_silenceExpires : (silenceExpires cutOff 0).stalled = false := by decide +kernel

/-- Refutes O38: where the link to a peer goes DOWN without a relay and a load waits for that peer's answer, the load
fails and is no longer in flight, where the statement has the accesses stay as they were. -/
theorem not_linksAndPeers : ¬ Obligations.LinksAndPeers := by
  unfold Obligations.LinksAndPeers
  rintro ⟨-, hlinks, -⟩
  obtain ⟨-, -, hdown, -⟩ := hlinks cutOff 0 1 silentLink askedPeer (by decide) (by decide) rfl rfl rfl
  obtain ⟨t', he, hframe, -⟩ := hdown (.linkSilenceTimeout 0) true silentLink _ calm_cutOff rfl
    (.inl ⟨rfl, rfl, by decide, rfl⟩) rfl
  rw [exec_linkSilenceTimeout, happens_same (by simp [stalled_silenceExpires])] at he
  injection he with he
  have hkept : t'.accesses = cutOff.accesses := by rw [hframe]
  rw [← he, accesses_silenceExpires] at hkept
  exact absurd hkept.symm (List.cons_ne_nil _ _)

end Sys2Proof.Machine
end

section
/-! SUPPORT. A reduction chunk that finds every entry of its context's apply map taken (R349, R350): it waits, where the
obligation on writes has every chunk whose words have come leave the staging SRAM. -/

namespace Sys2Proof.Machine

/-- A page of partition 0 at the address 0, under key slot 0, that the unit for requests from outside has cached. -/
def homePage : Leaf := ⟨0, 0, 0, 0, 0, false, false, true, true, true, .un⟩

/-- A sector of zeros that the L2 holds. -/
def cleanSector : L2Sector := ⟨List.replicate 16 zeroDatum, false⟩

/-- A chunk of one word for collective 0 of group 0, of gate 9 of rank 1. -/
def lateChunk : FabReq := ⟨0, 0, 0, .un, .reduce 0 0 1 9 0 0 1 .add .i32 [zeroDatum], none, 0, 0⟩

/-- The collective's context: 256 gates of rank 0 hold the entries of its apply map. -/
def fullCtx : RedCtx := ⟨0, 0, 0, false, (List.range 256).map fun n => ⟨0, n, 0⟩⟩

/-- A module that has staged the chunk, which position 1 has sent. -/
def mapTaken : State :=
  { State.reset with
    clusters := [(0, { Cluster.empty with tlb := [homePage] })]
    l2Tags := [(0, ⟨0, 0⟩)], l2 := [(0, cleanSector)], peers := [(1, { Peer.off with state := 1 })]
    parts := [(0, { Part.reset with xlEnable := true, keymask := 1 })]
    dies := [(0, { Die.reset 0 with ctxs := [fullCtx], staged := [⟨.pod 1 0, lateChunk⟩] })] }

theorem homeLeaf_mapTaken : HomeLeaf mapTaken lateChunk .atomic (some .un) homePage 0 0 :=
  ⟨by decide, rfl, by decide, by decide, rfl, rfl⟩

theorem heldRun_mapTaken : HeldRun mapTaken homePage.slot 0 [zeroDatum].length cleanSector :=
  ⟨rfl, by decide, by decide, by decide, rfl, by decide +kernel⟩

theorem findCtx_mapTaken : findCtx mapTaken lateChunk.part 0 0 = some (0, fullCtx) := by rfl

/-- No entry is of rank 1. -/
theorem fullCtx_src : ∀ m ∈ fullCtx.maps, m.src ≠ 1 ∨ m.seq ≠ 9 := by
  intro m hm
  obtain ⟨n, -, rfl⟩ := List.mem_map.mp hm
  exact .inl Nat.zero_ne_one

/-- Refutes O39: of a chunk whose words have all come, and whose context has no free entry of the apply map, the
statement says both that it waits, the state being as it was, and that it has left the staging SRAM. -/
theorem not_writesAndSignalsArrive : ¬ Obligations.WritesAndSignalsArrive := by
  unfold Obligations.WritesAndSignalsArrive
  rintro ⟨-, -, hchunks⟩
  obtain ⟨-, happlies, hwaits⟩ := hchunks mapTaken lateChunk 0 0 0 0 1 9 0 1 1 0 .add .i32 [zeroDatum] homePage 0 0
    cleanSector fullCtx ⟨1, 9, 0⟩ rfl rfl (.inl rfl) rfl homeLeaf_mapTaken heldRun_mapTaken findCtx_mapTaken rfl rfl
  obtain ⟨t', -, -, hleaves, hstaged, -⟩ := happlies rfl
  rw [hwaits rfl rfl rfl fullCtx_src (by simp [fullCtx])] at hleaves
  injection hleaves with hsame
  have hempty := hstaged 0
  rw [← hsame, if_pos rfl] at hempty
  exact absurd hempty (List.cons_ne_nil _ _)

end Sys2Proof.Machine
end

section
/-! SUPPORT. A command that waits while a walk is under way whose name has not been given out yet (R80, R426): what waits
as a whole keeps the walks that have been asked for since, which the obligation on commands does not allow for. -/

namespace Sys2Proof.Machine

/-- A walk that waits under name 0. -/
def unnamedWalk : WalkReq := ⟨0, inPlace, 0, 0, none⟩

/-- A module after reset, but for that walk: name 0 is the next to be given out, and no ring holds an entry. No walk gets
its name so, but the statement is about every state. -/
def walkAhead : State := { State.reset with walks := [unnamedWalk] }

/-- A BIND_FRAME of PF0, of frame 0 and slot 0. -/
def bindZero : Cmd := ⟨0, 0, 0, none, []⟩

theorem exec_bindFrame (c : Cmd) (s : State) : exec (.bindFrame c) s = happens s (bindCmd s c) := rfl

/-- The command waits until the host has posted it. -/
theorem bindCmd_walkAhead : bindCmd walkAhead bindZero = { walkAhead with stalled := true } := by decide +kernel

/-- Refutes O42: where a walk has a name that is still to be given out, a command that waits lists that walk anew, as one
asked for since, where the statement has nothing change but that it waits. -/
theorem not_commandsTaken : ¬ Obligations.CommandsTaken := by
  unfold Obligations.CommandsTaken
  rintro ⟨⟨hcommands, -⟩, -⟩
  obtain ⟨-, hwaits, -⟩ := hcommands .bindFrame true true List.mem_cons_self walkAhead bindZero
  have he := hwaits rfl (by decide) (.inl (by decide))
  rw [exec_bindFrame, bindCmd_walkAhead, happens_waits rfl rfl] at he
  injection he with he
  have hwalks : [unnamedWalk, unnamedWalk] = [unnamedWalk] := congrArg State.walks he
  exact absurd hwalks (by decide)

end Sys2Proof.Machine
end

section
/-! SUPPORT. Answers to pod transactions (R107): what the answer to a transaction does to the access that waits for it. -/

namespace Sys2Proof.Machine

/-- The one element of a list that meets a test is what a search for it finds. -/
theorem find?_eq_of_unique {α : Type} {l : List α} {q : α → Bool} {x : α} (hx : x ∈ l) (hq : q x = true)
    (hu : ∀ z ∈ l, q z = true → z = x) : l.find? q = some x := by
  obtain ⟨y, hy⟩ := Option.isSome_iff_exists.mp (List.find?_isSome.mpr ⟨x, hx, hq⟩)
  rw [hy, hu y (List.mem_of_find?_eq_some hy) (List.find?_some hy)]

theorem peerIs_setPeer (s : State) (p : Nat) (x : Peer) : PeerIs s (s.setPeer p x) p x :=
  ⟨tabGet_set_same .., fun _ hq => tabGet_set_other _ _ _ _ _ hq⟩

theorem exec_podAckReceive (src n : Nat) (r : FabReply) (s : State) :
    exec (.podAckReceive src n r) s = happens s (podAck s src n r) := rfl

theorem podAck_unknown {s : State} {src n : Nat} (h : ∀ z ∈ (s.peer src).unacked, z.seq ≠ n) (r : FabReply) :
    podAck s src n r = s := by
  have hf : (s.peer src).unacked.find? (fun z => z.seq == n) = none :=
    List.find?_eq_none.mpr fun z hz => by simpa using h z hz
  simp only [podAck, hf]

/-- The peer without the transaction of a number. -/
def acked (s : State) (src n : Nat) : State :=
  s.setPeer src { s.peer src with unacked := (s.peer src).unacked.filter fun z => z.seq != n }

theorem podAck_known {s : State} {src n : Nat} {x : PodTx} (hx : x ∈ (s.peer src).unacked) (hn : x.seq = n)
    (hu : ∀ z ∈ (s.peer src).unacked, z.seq = n → z = x) (r : FabReply) :
    podAck s src n r = answerOwner (acked s src n) x.owner r := by
  have hf : (s.peer src).unacked.find? (fun z => z.seq == n) = some x :=
    find?_eq_of_unique hx (by simpa using hn) fun z hz h => hu z hz (by simpa using h)
  simp only [podAck, hf, acked]

/-- The words of an answer reach the load that waits for them. -/
theorem answerOwner_load {s : State} {a : Access} (ha : s.accesses = [a]) (hk : a.kind.isLoad = true) (ws : List Datum)
    (clean : Bool) : answerOwner s (.access a.id) (.data ws clean) =
      { s with accesses := [{ a with stage := .reply ws clean }] } := by
  simp only [answerOwner, findAcc_self ha, fabAnswer, hk, if_true]
  exact putAcc_self ha rfl

theorem exec_podAckReceive_load {s : State} {src n : Nat} {x : PodTx} {a : Access} (hx : x ∈ (s.peer src).unacked)
    (hn : x.seq = n) (hu : ∀ z ∈ (s.peer src).unacked, z.seq = n → z = x) (ha : s.accesses = [a])
    (ho : x.owner = .access a.id) (hk : a.kind.isLoad = true) (ws : List Datum) (clean : Bool) :
    exec (.podAckReceive src n (.data ws clean)) s =
      .next { acked s src n with accesses := [{ a with stage := .reply ws clean }] } := by
  rw [exec_podAckReceive, podAck_known hx hn hu, ho, answerOwner_load (s := acked s src n) ha hk]
  exact happens_same id

/-- The answer to a transaction that is not known changes nothing; that to a load's ends it, and the load takes its
words. -/
theorem pod_answers (s : State) (src n : Nat) (x : PodTx) (p : Peer) (a : Access) (ws : List Datum) (clean : Bool)
    (hp : p = s.peer src) (hu : ∀ z ∈ p.unacked, z.seq = n → z = x) (ha : s.accesses = [a]) :
    ((∀ z ∈ p.unacked, z.seq ≠ n) → ∀ r, exec (.podAckReceive src n r) s = .next s) ∧
    (x ∈ p.unacked → x.seq = n → x.owner = .access a.id → a.kind.isLoad = true → ∃ t',
      exec (.podAckReceive src n (.data ws clean)) s = .next t' ∧
      t' = { s with peers := t'.peers, accesses := [{ a with stage := .reply ws clean }] } ∧
      PeerIs s t' src { p with unacked := p.unacked.filter fun z => z.seq != n }) := by
  subst hp
  refine ⟨fun h r => ?_, fun hx hn ho hk =>
    ⟨_, exec_podAckReceive_load hx hn hu ha ho hk ws clean, rfl, peerIs_setPeer s src _⟩⟩
  rw [exec_podAckReceive, podAck_unknown h, happens_self]

end Sys2Proof.Machine
end

section
/-! SUPPORT. Requests of the remote fabric (R93, R94, R112 to R116): the route, the packet, and what ends a request. -/

namespace Sys2Proof.Machine

/-! ## Routes and packets -/

/-- The Ultra Ethernet address of a host id: the host id below the prefix of the rank table (R93). -/
theorem ueAddr_toNat (s : State) (p hid : Nat) : (ueAddr s p hid).toNat % 2 ^ 64 = hid % 2 ^ 32 ∧
    (ueAddr s p hid).toNat / 2 ^ 64 = rtWord s p 0x10 % 2 ^ 64 := by
  have hr : rtWord s p 0x10 < 2 ^ 64 := BitVec.isLt _
  rw [ueAddr, BitVec.toNat_ofNat]
  omega

/-- A request is kept where it is sent, with the time at which it was, and where it is not. -/
theorem mem_remotes_accepted {s : State} {x : RemoteReq} (h : x ∈ s.remotes) (b : Bool) :
    { x with sent := if b then some s.time else x.sent } ∈ (if b then transmit s x else s).remotes := by
  cases b with
  | true => exact List.mem_map.mpr ⟨x, h, if_pos (beq_self_eq_true _)⟩
  | false => exact h

/-- A request that is accepted keeps the route of its rank, and SO travels on path 0 (R94, R112). -/
theorem mem_remotes_remoteSend (s : State) (hid : Nat) (w : Route) (req : FabReq) (o : Owner) :
    ∃ z ∈ (remoteSend s hid w req o).remotes, z.id = freeRid s ∧ z.place = s.nextId ∧ z.hid = hid ∧ z.addr = w.addr ∧
      z.entropy = (w.base + z.path) % 2 ^ 16 ∧ z.req = req ∧ z.owner = o ∧ (req.cls = .so → z.path = 0) := by
  refine ⟨_, mem_remotes_accepted (List.mem_append_right _ List.mem_cons_self) _, ?_⟩
  exact ⟨rfl, rfl, rfl, rfl, rfl, rfl, rfl, fun h => if_pos (beq_iff_eq.mpr h)⟩

/-- A packet names the address, the port of the path and the entropy of its request, and the service of its class
(Table 4.13). -/
theorem remotePacket_spec (s : State) (x : RemoteReq) : ∃ rod svc, remotePacket s x =
      .packet x.addr (x.path % 4) x.place x.id x.path x.entropy svc rod x.req ∧
    (x.req.cls = .so → svc = .rod) ∧ (x.req.cls = .rc → svc = .rud) ∧
    (x.req.cls = .un → (svc = .rudi ↔ x.req.op = .probe ∨ ∃ m b, x.req.op = .read m b) ∧ svc ≠ .rod) ∧
    (rod = none ↔ x.rod = none) := by
  refine ⟨_, _, rfl, fun h => ?_, fun h => ?_, fun h => ?_, by simp⟩
  · simp [serviceOf, h]
  · simp [serviceOf, h]
  · cases ho : x.req.op <;> simp [serviceOf, h, ho]

/-! ## A request that is not known -/

theorem exec_remoteReplyReceive (id : Nat) (r : FabReply) (s : State) :
    exec (.remoteReplyReceive id r) s = happens s (remoteReply s id r) := rfl
theorem exec_remoteAckTimeout (id : Nat) (s : State) :
    exec (.remoteAckTimeout id) s = happens s (remoteExpires s id) := rfl
theorem exec_packetRetransmission (id : Nat) (s : State) :
    exec (.packetRetransmission id) s = happens s (retransmit s id) := rfl
theorem exec_remoteForcedSend (id : Nat) (s : State) :
    exec (.remoteForcedSend id) s = happens s (forceRemote s id) := rfl

theorem findRemote_unknown {s : State} {id : Nat} (h : ∀ z ∈ s.remotes, z.id ≠ id) : findRemote s id = none :=
  List.find?_eq_none.mpr fun z hz => by simpa using h z hz

theorem findRemote_known {s : State} {id : Nat} {x : RemoteReq} (hx : x ∈ s.remotes) (hid : x.id = id)
    (hu : ∀ z ∈ s.remotes, z.id = id → z = x) : findRemote s id = some x :=
  find?_eq_of_unique hx (by simpa using hid) fun z hz h => hu z hz (by simpa using h)

theorem remotes_unknown {s : State} {id : Nat} (h : ∀ z ∈ s.remotes, z.id ≠ id) :
    (∀ r, exec (.remoteReplyReceive id r) s = .next s) ∧ exec (.remoteAckTimeout id) s = .next s ∧
      exec (.packetRetransmission id) s = .next s ∧ exec (.remoteForcedSend id) s = .next s := by
  have hf := findRemote_unknown h
  refine ⟨fun r => ?_, ?_, ?_, ?_⟩
  · rw [exec_remoteReplyReceive, remoteReply, hf]; exact happens_self s
  · rw [exec_remoteAckTimeout, remoteExpires, hf]; exact happens_self s
  · rw [exec_packetRetransmission, retransmit, hf]; exact happens_self s
  · rw [exec_remoteForcedSend, forceRemote, hf]; exact happens_self s

/-! ## The end of a request -/

theorem pathState_modPath (s : State) (e p : Nat) (f : PathState → PathState) :
    pathState (modPath s e p f) e p = f (pathState s e p) := tabGet_set_same ..

theorem rodBehind_unordered {x : RemoteReq} (h : x.rod = none) (s : State) : rodBehind s x = false := by
  simp [rodBehind, h]

/-- Where no reply to a home has come early, none is delivered. -/
theorem rodDeliver_idle {s : State} {hid : Nat} (h : ∀ z ∈ s.remotes, z.hid = hid → z.early = none) (n : Nat) :
    rodDeliver hid n s = s := by
  have hf : s.remotes.find? (fun y => y.hid == hid && y.early.isSome && !rodBehind s y) = none := by
    refine List.find?_eq_none.mpr fun z hz hc => ?_
    simp only [Bool.and_eq_true, beq_iff_eq] at hc
    simp [h z hz hc.1.1] at hc
  cases n with
  | zero => rfl
  | succ n => simp only [rodDeliver, hf]

/-- The module without a request that was sent, with its place in the window of its path free again (R115). -/
def windowFreed (s : State) (x : RemoteReq) : State :=
  modPath { s with remotes := s.remotes.filter fun z => z.id != x.id } x.entry x.path fun y =>
    { y with busy := y.busy - 1, window := min 64 (y.window + 1) }

/-- The path states of an entry under which no request is left are released (R115). -/
def entryReleased (s : State) (e : Nat) : State :=
  if s.remotes.any fun z => z.entry == e then s
  else { s with congestion := s.congestion.filter fun y => y.1 / 64 != e }

theorem entryReleased_remotes (s : State) (e : Nat) : (entryReleased s e).remotes = s.remotes := by
  unfold entryReleased
  split <;> rfl

theorem entryReleased_frame (s : State) (e : Nat) :
    entryReleased s e = { s with congestion := (entryReleased s e).congestion } := by
  unfold entryReleased
  split <;> rfl

section
variable {s : State} {x : RemoteReq} (hs : x.sent.isSome = true)
  (hsent : ∀ z ∈ s.remotes, z.entry = x.entry → z.sent.isSome = true)
include hs hsent

/-- A request ends where no other of its entry is held back: no further one is sent. -/
theorem remoteDone_sent : remoteDone s x = entryReleased (windowFreed s x) x.entry := by
  have hf : (entryReleased (windowFreed s x) x.entry).remotes.find?
      (fun z => z.entry == x.entry && z.path == x.path && z.sent.isNone) = none := by
    refine List.find?_eq_none.mpr fun z hz hc => ?_
    rw [entryReleased_remotes] at hz
    simp only [Bool.and_eq_true, beq_iff_eq] at hc
    obtain ⟨⟨he, -⟩, hn⟩ := hc
    have hz' := hsent z (List.mem_of_mem_filter hz) he
    rw [Option.isNone_iff_eq_none.mp hn] at hz'
    exact absurd hz' (by decide)
  simp only [remoteDone, hs, if_true]
  split
  · next y hy => exact absurd (hf.symm.trans hy) (by simp)
  · rfl

/-- The end of a request takes it from those without an answer, and changes nothing else but its path. -/
theorem remoteDone_frame : remoteDone s x = { s with
    remotes := s.remotes.filter fun z => z.id != x.id, congestion := (remoteDone s x).congestion } := by
  rw [remoteDone_sent hs hsent, entryReleased_frame]
  rfl

/-- The path of the request has one packet less outstanding, and a window that is larger by one up to 64. -/
theorem pathState_remoteDone (h : ∃ z ∈ s.remotes, z.id ≠ x.id ∧ z.entry = x.entry) :
    pathState (remoteDone s x) x.entry x.path = { pathState s x.entry x.path with
      busy := (pathState s x.entry x.path).busy - 1, window := min 64 ((pathState s x.entry x.path).window + 1) } := by
  obtain ⟨z, hz, hid, he⟩ := h
  have hany : ((windowFreed s x).remotes.any fun z => z.entry == x.entry) = true :=
    List.any_eq_true.mpr ⟨z, List.mem_filter.mpr ⟨hz, by simpa using hid⟩, by simpa using he⟩
  rw [remoteDone_sent hs hsent, entryReleased, if_pos hany]
  exact pathState_modPath ..

end

/-! ## The reply, and its absence -/

section
variable {s : State} {id : Nat} {x : RemoteReq} (hf : findRemote s id = some x)
include hf

theorem remoteReply_known (hr : x.rod = none) (he : x.early = none) (r : FabReply) :
    remoteReply s id r = remoteEnds s x fun st => answerOwner st x.owner r := by
  simp [remoteReply, hf, he, rodBehind_unordered hr]

theorem remoteExpires_early {t0 : Nat} (hs : x.sent = some t0) (ht : s.time < t0 + 15 * 10 ^ 11) :
    remoteExpires s id = s := by
  have hl : ¬ t0 + ackTime ≤ s.time := by rw [show ackTime = 15 * 10 ^ 11 from rfl]; omega
  simp [remoteExpires, hf, hs, hl]

theorem remoteExpires_late {t0 : Nat} (hs : x.sent = some t0) (ht : t0 + 15 * 10 ^ 11 ≤ s.time) (he : x.early = none) :
    remoteExpires s id = remoteEnds s x fun st => deadOwner st x.owner := by
  have hl : t0 + ackTime ≤ s.time := ht
  simp [remoteExpires, hf, hs, hl, he]

theorem retransmit_unsent (hs : x.sent = none) : retransmit s id = s := by
  simp [retransmit, hf, hs]

theorem retransmit_sent (hs : x.sent.isSome = true) (he : x.early = none) :
    retransmit s id = modPath { s with remoteOut := s.remoteOut ++ [remotePacket s x] } x.entry x.path fun y =>
      { y with resent := y.resent + 1, window := max 1 (y.window / 2) } := by
  obtain ⟨t0, ht⟩ := Option.isSome_iff_exists.mp hs
  simp [retransmit, hf, ht, he]

theorem forceRemote_notDue (h : x.sent.isSome = true ∨ s.time < x.accepted + 5 * 10 ^ 11) : forceRemote s id = s := by
  have hc : (x.sent.isNone && x.accepted + forceTime ≤ s.time) = false := by
    rcases h with h | h
    · obtain ⟨t0, ht⟩ := Option.isSome_iff_exists.mp h
      simp [ht]
    · have hl : ¬ x.accepted + forceTime ≤ s.time := by rw [show forceTime = 5 * 10 ^ 11 from rfl]; omega
      simp [hl]
  simp [forceRemote, hf, hc]

/-- A request held for 0.5 ms is sent where no other is outside the window of its path (R115). -/
theorem forceRemote_due (hs : x.sent = none) (ht : x.accepted + 5 * 10 ^ 11 ≤ s.time)
    (ho : ∀ z ∈ s.remotes, z.entry = x.entry → z.path = x.path → z.forced = false) : forceRemote s id =
      transmit { s with remotes := s.remotes.map fun z => if z.id == id then { z with forced := true } else z }
        { x with forced := true } := by
  have hany : (s.remotes.any fun z => z.forced && z.entry == x.entry && z.path == x.path) = false := by
    refine List.any_eq_false.mpr fun z hz hc => ?_
    simp only [Bool.and_eq_true, beq_iff_eq] at hc
    simp [ho z hz hc.1.2 hc.2] at hc
  have hd : x.accepted + forceTime ≤ s.time := ht
  simp [forceRemote, hf, hs, hd, hany]

end

/-- A request that is sent for the first time, outside the window of its path: nothing else changes but its path. -/
theorem transmit_forced {s : State} {x : RemoteReq} (hr : x.rod = none) :
    transmit { s with remotes := s.remotes.map fun z => if z.id == x.id then { z with forced := true } else z }
        { x with forced := true } =
      modPath { s with
        remotes := s.remotes.map fun z => if z.id = x.id then { z with forced := true, sent := some s.time } else z
        remoteOut := s.remoteOut ++ [remotePacket s x] } x.entry x.path fun y => { y with busy := y.busy + 1 } := by
  have hm : (s.remotes.map fun z => if z.id == x.id then { z with forced := true } else z).map
      (fun z => if z.id == x.id then { z with sent := some s.time } else z) =
        s.remotes.map fun z => if z.id = x.id then { z with forced := true, sent := some s.time } else z := by
    rw [List.map_map]
    refine List.map_congr_left fun z _ => ?_
    by_cases h : z.id = x.id <;> simp [h]
  have hp : ∀ t : State, remotePacket t { x with forced := true } = remotePacket s x := fun t => by
    simp [remotePacket, hr]
  simp only [transmit, hm, hp]

/-! ## The failure of a posted store (R122) -/

theorem mem_of_tabFind {α : Type} {t : Tab α} {k : Nat} {v : α} (h : tabFind t k = some v) : (k, v) ∈ t := by
  induction t with
  | nil => simp at h
  | cons e t ih =>
    obtain ⟨j, w⟩ := e
    rw [tabFind] at h
    split at h
    · next hj =>
      obtain rfl := eq_of_beq hj
      obtain rfl := Option.some.inj h
      exact List.mem_cons_self
    · exact List.mem_cons_of_mem _ (ih h)

/-- A thread stands on a core that is listed. -/
theorem mem_cores_of_thread {s : State} {c k : Nat} {t : Thread} (h : s.thread c k = some t) :
    ∃ x, (c, x) ∈ s.cores ∧ (k, t) ∈ x.threads := by
  have hk : tabFind (s.core c).threads k = some t := h
  rw [State.core, tabGet_eq] at hk
  cases hc : tabFind s.cores c with
  | none => simp [hc, Core.empty] at hk
  | some x => exact ⟨x, mem_of_tabFind hc, mem_of_tabFind (by simpa [hc] using hk)⟩

theorem hasUid_of_thread {s : State} {c k : Nat} {t : Thread} (h : s.thread c k = some t) : hasUid s t.uid = true := by
  obtain ⟨x, hx, ht⟩ := mem_cores_of_thread h
  refine Bool.or_eq_true_iff.mpr (.inl (List.any_eq_true.mpr ⟨_, hx, List.any_eq_true.mpr ⟨_, ht, ?_⟩⟩))
  exact beq_self_eq_true _

theorem tabFind_onUid {ts : Tab Thread} {k uid : Nat} {t : Thread} (h : tabFind ts k = some t) (hu : t.uid = uid)
    (f : Thread → Thread) : tabFind (onUid uid f ts) k = some (f t) := by
  induction ts with
  | nil => simp at h
  | cons e ts ih =>
    rw [tabFind] at h
    split at h
    · next hj =>
      obtain rfl := Option.some.inj h
      simp [onUid, tabFind, hu, hj]
    · next hj =>
      have hh : tabFind (onUid uid f (e :: ts)) k = tabFind (onUid uid f ts) k := by
        by_cases hw : e.2.uid = uid <;> simp [onUid, tabFind, hw, hj]
      rw [hh, ih h]

theorem thread_modUid {s : State} {c k uid : Nat} {t : Thread} (h : s.thread c k = some t) (hu : t.uid = uid)
    (f : Thread → Thread) : (modUid s uid f).thread c k = some (f t) := by
  have hc : (modUid s uid f).core c = { s.core c with threads := onUid uid f (s.core c).threads } :=
    tabGet_mapSnd Core.empty (fun x => { x with threads := onUid uid f x.threads }) rfl s.cores c
  rw [State.thread, hc]
  exact tabFind_onUid h hu f

/-- The failure of a store that was posted: its thread keeps it, with code PEER_DEAD. -/
def storeLost (s : State) (a : Access) : State :=
  modUid { s with accesses := [] } a.uid (addPosted ⟨a.ea, fcPeerDead, 0, 1⟩)

theorem deadOwner_store {s : State} {a : Access} {t : Thread} {ds : List Datum} {b : Bool} (ha : s.accesses = [a])
    (hk : a.kind = .store ds b) (ht : s.thread a.core a.key = some t) (hu : t.uid = a.uid) :
    deadOwner s (.access a.id) = storeLost s a := by
  have hh : hasUid { s with accesses := [] } a.uid = true := by
    rw [← hu]
    exact hasUid_of_thread (s := { s with accesses := [] }) ht
  simp only [deadOwner, findAcc_self ha, fabDead, hk, AccKind.isPost, if_true, postFail, dropAcc_self ha, hh]
  rfl

end Sys2Proof.Machine
end

section
/-! SUPPORT. The obligation on answers of other modules, and their absence (R107, R112 to R116). -/

namespace Sys2Proof.Machine

section
variable {s : State} {id : Nat} {x : RemoteReq} {a : Access}

/-- A load's reply: the request ends, and the load takes its words. -/
theorem exec_remoteReply_load (hf : findRemote s id = some x) (hr : x.rod = none) (he : x.early = none)
    (ha : s.accesses = [a]) (ho : x.owner = .access a.id) (hk : a.kind.isLoad = true) (hs : x.sent.isSome = true)
    (hsent : ∀ z ∈ s.remotes, z.entry = x.entry → z.sent.isSome = true)
    (hearly : ∀ z ∈ s.remotes, z.hid = x.hid → z.early = none) (ws : List Datum) (clean : Bool) :
    exec (.remoteReplyReceive id (.data ws clean)) s =
      .next { remoteDone s x with accesses := [{ a with stage := .reply ws clean }] } := by
  have hd := remoteDone_frame hs hsent
  have hans : answerOwner (remoteDone s x) x.owner (.data ws clean) =
      { remoteDone s x with accesses := [{ a with stage := .reply ws clean }] } := by
    rw [ho]
    exact answerOwner_load (by rw [hd]; exact ha) hk ws clean
  have hidle : rodDeliver x.hid s.remotes.length { remoteDone s x with accesses := [{ a with stage := .reply ws clean }] } =
      { remoteDone s x with accesses := [{ a with stage := .reply ws clean }] } := by
    refine rodDeliver_idle (fun z hz => ?_) _
    rw [hd] at hz
    exact hearly z (List.mem_of_mem_filter hz)
  rw [exec_remoteReplyReceive, remoteReply_known hf hr he, remoteEnds, hans, hidle]
  refine happens_same fun h => ?_
  rw [hd] at h
  exact h

/-- No acknowledgement of a posted store's request within 1.5 ms: the request ends, and the store has failed. -/
theorem exec_remoteAckTimeout_store {t0 : Nat} {t : Thread} {ds : List Datum} {b : Bool} (hf : findRemote s id = some x)
    (he : x.early = none) (hs : x.sent = some t0) (htime : t0 + 15 * 10 ^ 11 ≤ s.time) (ha : s.accesses = [a])
    (ho : x.owner = .access a.id) (hk : a.kind = .store ds b) (ht : s.thread a.core a.key = some t) (hu : t.uid = a.uid)
    (hsent : ∀ z ∈ s.remotes, z.entry = x.entry → z.sent.isSome = true)
    (hearly : ∀ z ∈ s.remotes, z.hid = x.hid → z.early = none) :
    exec (.remoteAckTimeout id) s = .next (storeLost (remoteDone s x) a) := by
  have hd := remoteDone_frame (Option.isSome_iff_exists.mpr ⟨t0, hs⟩) hsent
  have hdead : deadOwner (remoteDone s x) x.owner = storeLost (remoteDone s x) a := by
    rw [ho]
    refine deadOwner_store (by rw [hd]; exact ha) hk ?_ hu
    rw [hd]
    exact ht
  have hidle : rodDeliver x.hid s.remotes.length (storeLost (remoteDone s x) a) = storeLost (remoteDone s x) a := by
    refine rodDeliver_idle (fun z hz => ?_) _
    have hz' : z ∈ (remoteDone s x).remotes := hz
    rw [hd] at hz'
    exact hearly z (List.mem_of_mem_filter hz')
  rw [exec_remoteAckTimeout, remoteExpires_late hf hs htime he, remoteEnds, hdead, hidle]
  refine happens_same fun h => ?_
  have h' : (remoteDone s x).stalled = true := h
  rw [hd] at h'
  exact h'

/-- A request held for 0.5 ms is sent outside its window. -/
theorem exec_remoteForcedSend_due (hf : findRemote s x.id = some x) (hr : x.rod = none) (hs : x.sent = none)
    (ht : x.accepted + 5 * 10 ^ 11 ≤ s.time)
    (ho : ∀ z ∈ s.remotes, z.entry = x.entry → z.path = x.path → z.forced = false) :
    exec (.remoteForcedSend x.id) s = .next (modPath { s with
      remotes := s.remotes.map fun z => if z.id = x.id then { z with forced := true, sent := some s.time } else z
      remoteOut := s.remoteOut ++ [remotePacket s x] } x.entry x.path fun y => { y with busy := y.busy + 1 }) := by
  rw [exec_remoteForcedSend, forceRemote_due hf hs ht ho, transmit_forced hr]
  exact happens_same fun h => h

/-- A request without an answer is sent again as it was. -/
theorem exec_packetRetransmission_sent (hf : findRemote s id = some x) (hs : x.sent.isSome = true)
    (he : x.early = none) : exec (.packetRetransmission id) s =
      .next (modPath { s with remoteOut := s.remoteOut ++ [remotePacket s x] } x.entry x.path fun y =>
        { y with resent := y.resent + 1, window := max 1 (y.window / 2) }) := by
  rw [exec_packetRetransmission, retransmit_sent hf hs he]
  exact happens_same fun h => h

end

/-- Settles O40: each answer by the one transaction or request that it names, and each time limit at its bound. -/
theorem answersArrive : Obligations.AnswersArrive := by
  unfold Obligations.AnswersArrive
  refine ⟨?_, ?_, remotePacket_spec, fun s id x => ⟨remotes_unknown, ?_⟩⟩
  · intro s src n x p a ws clean hp hu ha _
    exact pod_answers s src n x p a ws clean hp hu ha
  · intro s p hid prof
    obtain ⟨hlow, hhigh⟩ := ueAddr_toNat s p hid
    exact ⟨_, rfl, hlow, hhigh, rfl, fun req o => mem_remotes_remoteSend s hid _ req o⟩
  · intro hx hid hu _ hr he
    have hf := findRemote_known hx hid hu
    refine ⟨?_, ?_, fun h => ?_, fun hs => ?_, fun hs => ?_, fun t0 hs ht => ?_, ?_⟩
    · intro a ws clean t0 ha ho hk hs hsent hearly
      have hs' := Option.isSome_iff_exists.mpr ⟨t0, hs⟩
      refine ⟨_, exec_remoteReply_load hf hr he ha ho hk hs' hsent hearly ws clean, ?_, fun hz => ?_⟩
      · rw [remoteDone_frame hs' hsent, hid]
      · exact pathState_remoteDone hs' hsent (hid ▸ hz)
    · subst hid
      exact fun hs ht ho => ⟨_, exec_remoteForcedSend_due hf hr hs ht ho, rfl, pathState_modPath ..⟩
    · rw [exec_remoteForcedSend, forceRemote_notDue hf h, happens_self]
    · exact ⟨_, exec_packetRetransmission_sent hf hs he, rfl⟩
    · rw [exec_packetRetransmission, retransmit_unsent hf hs, happens_self]
    · rw [exec_remoteAckTimeout, remoteExpires_early hf hs ht, happens_self]
    · intro t0 a t ds b hs ht ha ho hk hthread huid hsent hearly
      have hd := remoteDone_frame (Option.isSome_iff_exists.mpr ⟨t0, hs⟩) hsent
      refine ⟨_, exec_remoteAckTimeout_store hf he hs ht ha ho hk hthread huid hsent hearly, rfl, ?_, ?_⟩
      · exact (congrArg State.remotes hd).trans (by rw [hid])
      · exact thread_modUid (by rw [hd]; exact hthread) huid _

end Sys2Proof.Machine
end

section
/-! SUPPORT. LDS and STS (R136, R219, R222, R224): words of the scratchpad after a write, bytes of a merged word, what a
load leaves in its registers, and the obligation. -/

namespace Sys2Proof.Machine

/-! ## Bytes of a word -/

theorem getLsbD_byteMask (start n j : Nat) : (byteMask start n).getLsbD j =
    (decide (j < 32) && (decide (8 * start ≤ j) && decide (j < 8 * (start + n)))) := by
  rw [byteMask, BitVec.getLsbD_ofNat, Nat.testBit_mul_two_pow, Nat.testBit_two_pow_sub_one]
  by_cases h : 8 * start ≤ j
  · simp [h, show j - 8 * start < 8 * n ↔ j < 8 * (start + n) by omega]
  · simp [h]

/-- The merge puts the low bytes of a word at its place, and leaves the other bytes (R24). -/
theorem byteOf_mergeSub (old : Datum) {start n i : Nat} (w : Word) (pc : Code) (hi : i < 4) :
    byteOf (mergeSub old start n w pc).word i =
      if start ≤ i ∧ i < start + n then byteOf w (i - start) else byteOf old.word i := by
  refine BitVec.eq_of_getLsbD_eq fun j hj => ?_
  have hm : (byteMask start n).getLsbD (8 * i + j) = decide (start ≤ i ∧ i < start + n) := by
    rw [getLsbD_byteMask]
    simp only [← Bool.decide_and, decide_eq_decide]
    omega
  simp only [byteOf, mergeSub, BitVec.getLsbD_extractLsb', BitVec.getLsbD_or, BitVec.getLsbD_and, BitVec.getLsbD_not,
    BitVec.getLsbD_shiftLeft, hm, hj, show 8 * i + j < 32 by omega]
  split
  · next h =>
    have hs : 8 * i + j - 8 * start = 8 * (i - start) + j := by omega
    simp [h, hs, show ¬ 8 * i + j < 8 * start by omega, hj]
  · next h => simp [h, hj]

theorem byteOf_and_byteMask (w : Word) {n i : Nat} (hi : i < n) (h4 : n ≤ 4) :
    byteOf (w &&& byteMask 0 n) i = byteOf w i := by
  refine BitVec.eq_of_getLsbD_eq fun j hj => ?_
  simp [byteOf, getLsbD_byteMask, hj, show 8 * i + j < 32 by omega, show 8 * i + j < 8 * n by omega]

/-! ## Data registers -/

theorem Got.bind_ok {α β : Type} {x : Got α} {f : α → Got β} {b : β} :
    x.bind f = .ok b ↔ ∃ a, x = .ok a ∧ f a = .ok b := by
  cases x <;> simp [Got.bind]

theorem Got.map_ok {α β : Type} {x : Got α} {f : α → β} {b : β} : x.map f = .ok b ↔ ∃ a, x = .ok a ∧ f a = b := by
  simp [Got.map, Got.bind_ok]

theorem Thread.checkAll_length {t : Thread} {r : Nat} {trap : Bool} {es : List Tag} {xs : List Reg}
    (h : t.checkAll r trap es = .ok xs) : xs.length = es.length := by
  induction es generalizing r xs with
  | nil => cases h; rfl
  | cons e es ih =>
    obtain ⟨x, -, h⟩ := Got.bind_ok.mp h
    obtain ⟨ys, hy, rfl⟩ := Got.map_ok.mp h
    rw [List.length_cons, List.length_cons, ih hy]

/-- A store reads as many data words as its size names (R195). -/
theorem srcData_length {t : Thread} {f : FmtM} {n : Nat} {rest : List Src} {xs : List (List Reg)}
    (h : t.sources (mDataSrc f n :: rest) = .ok xs) : (srcData xs 0).length = n := by
  obtain ⟨a, ha, h⟩ := Got.bind_ok.mp h
  obtain ⟨as, -, rfl⟩ := Got.map_ok.mp h
  obtain ⟨ys, hy, rfl⟩ := Got.map_ok.mp ha
  have hl := (Thread.checkAll_length hy).trans (dataTags_length f.type n)
  simp only [srcData, List.getElem?_cons_zero, Option.getD_some, List.length_map]
  split <;> simpa using hl

/-! ## Words of the scratchpad -/

theorem putScratch_frame (x : Core) (a : Nat) (ds : List Datum) :
    putScratch x a ds = { x with scratch := (putScratch x a ds).scratch } := by
  induction ds generalizing x a with
  | nil => rfl
  | cons d ds ih => rw [putScratch, ih]

theorem scratchWord_putScratch_other (x : Core) {a b : Nat} (ds : List Datum)
    (h : b / 4 < a / 4 ∨ a / 4 + ds.length ≤ b / 4) : scratchWord (putScratch x a ds) b = scratchWord x b := by
  induction ds generalizing x a with
  | nil => rfl
  | cons d ds ih =>
    rw [List.length_cons] at h
    rw [putScratch, ih _ (by omega)]
    exact tabGet_set_other _ _ _ _ _ (by omega)

theorem scratchWord_putScratch (x : Core) {a b i : Nat} {ds : List Datum} {d : Datum} (hb : b / 4 = a / 4 + i)
    (hd : ds[i]? = some d) : scratchWord (putScratch x a ds) b = d := by
  induction ds generalizing x a i with
  | nil => simp at hd
  | cons e ds ih =>
    cases i with
    | zero =>
      obtain rfl : e = d := by simpa using hd
      rw [putScratch, scratchWord_putScratch_other _ _ (by omega), scratchWord, show b / 4 = a / 4 by omega]
      exact tabGet_set_same ..
    | succ i => exact ih _ (a := a + 4) (i := i) (by omega) (by simpa using hd)

theorem scratchWords_length (x : Core) (a n : Nat) : (scratchWords x a n).length = n := by simp [scratchWords]

/-- An access within its gang's allocation (R136). -/
theorem scratchAt_within {s : State} {c k off bytes : Nat} {g : CoreGang} (hg : gangOf s c k = some g)
    (h : off + bytes ≤ g.size) : scratchAt s c k off bytes = some (g.base + off) := by simp [scratchAt, hg, h]

/-! ## LDS -/

theorem loadPart_i32 (bytes off : Nat) (w : Word) :
    loadPart .i32 bytes off w = (w.extractLsb' (8 * off) (8 * bytes)).signExtend 32 := by
  rw [loadPart, ← Nat.shiftRight_eq_div_pow, ← BitVec.extractLsb'_toNat]
  exact (congrArg i32 (sgn_toNat _)).trans (ofNat_wrap ..)

theorem loadPart_unsigned {type : Tag} (h : type ≠ .i32) (bytes off : Nat) (w : Word) :
    loadPart type bytes off w = (w.extractLsb' (8 * off) (8 * bytes)).setWidth 32 := by
  rw [loadPart, ← Nat.shiftRight_eq_div_pow, ← BitVec.extractLsb'_toNat]
  exact (if_neg (by simpa using h)).trans (BitVec.ofNat_toNat ..)

theorem Thread.filled_write (t : Thread) (type : Tag) (dst : Nat) (w : Word) :
    Filled type dst 1 [⟨w, lcc w⟩] t (t.write dst type w) := by
  have h := t.filled_fillAll type dst 1 [⟨w, lcc w⟩] rfl
  rwa [show dataTags type 1 = [type] by cases type <;> rfl] at h

theorem mBytes_sub {f : FmtM} (h : f.size = 3) : mBytes f = 1 ∨ mBytes f = 2 := by
  rw [mBytes, h]
  exact ite_eq_or_eq (f.fn == 0) 1 2

theorem mBytes_words {f : FmtM} (h : f.size ≠ 3) : mBytes f = 4 * mWords f.size := if_neg (by simpa using h)

theorem mWords_sub {f : FmtM} (h : f.size = 3) : mWords f.size = 1 := by rw [h]; rfl

/-- The thread of a load that is delivered, its residency predicate set (R86). -/
def resident (nrp : Nat) (t : Thread) : Thread := if nrp == 7 then t else t.setPred nrp true

theorem reg_resident (nrp : Nat) (t : Thread) (j : Nat) : (resident nrp t).reg j = t.reg j := by
  unfold resident
  split
  · rfl
  · exact t.reg_setPred ..

theorem resident_frame (nrp : Nat) (t : Thread) : resident nrp t = { t with preds := (resident nrp t).preds } := by
  unfold resident
  split
  · rfl
  · exact t.setPred_frame ..

theorem fillLoad_sub {bytes : Nat} (h : bytes = 1 ∨ bytes = 2) (dst : Nat) (type : Tag) (nrp : Nat) (ea : DWord)
    (d : Datum) (t : Thread) : fillLoad dst bytes type nrp ea [d] t =
      (resident nrp t).write dst type (loadPart type bytes (ea.toNat % 4) d.word) := by
  rcases h with rfl | rfl <;> rfl

theorem fillLoad_words {bytes : Nat} (h1 : bytes ≠ 1) (h2 : bytes ≠ 2) (dst : Nat) (type : Tag) (nrp : Nat) (ea : DWord)
    (ws : List Datum) (t : Thread) : fillLoad dst bytes type nrp ea ws t =
      (resident nrp t).fillAll dst ((dataTags type ws.length).zip ws) := by
  match bytes, h1, h2 with
  | 0, _, _ => rfl
  | _ + 3, _, _ => rfl

/-- A load of the words that cover its address fills its registers with them (R219). -/
theorem loadsAs_fillLoad {f : FmtM} {a ea : DWord} (ha : a.toNat % 4 = ea.toNat % 4) {ws : List Datum}
    (hw : ws.length = mWords f.size) (t : Thread) :
    LoadsAs f ea ws t (fillLoad f.dst.toNat (mBytes f) f.type f.nrp.toNat a ws t) := by
  have hpreds : (resident f.nrp.toNat t).preds =
      if f.nrp = 7 then t.preds else (t.setPred f.nrp.toNat true).preds := by
    have h7 : f.nrp.toNat = 7 ↔ f.nrp = 7 := ⟨fun h => BitVec.eq_of_toNat_eq h, fun h => by rw [h]; rfl⟩
    by_cases h : f.nrp = 7
    · rw [if_pos h, resident, if_pos (by simpa using h7.mpr h)]
    · rw [if_neg h, resident, if_neg (by simpa using mt h7.mp h)]
  have hfilled {n : Nat} {ds : List Datum} {u : Thread}
      (h : Filled f.type f.dst.toNat n ds (resident f.nrp.toNat t) u) :
      Filled f.type f.dst.toNat n ds t u := by simpa only [Filled, reg_resident] using h
  by_cases hs : f.size = 3
  · obtain ⟨d, rfl⟩ := List.length_eq_one_iff.mp (hw.trans (mWords_sub hs))
    rw [fillLoad_sub (mBytes_sub hs), Thread.write]
    refine ⟨?_, ?_, fun h => absurd hs h, ?_⟩
    · rw [Thread.modReg_frame, resident_frame]
    · rw [Thread.modReg_frame, ← hpreds]
    · rintro - e he
      obtain rfl : d = e := List.singleton_inj.mp he
      refine ⟨_, hfilled (Thread.filled_write ..), fun ht => ?_, fun ht => ?_⟩
      · rw [ht, loadPart_i32, ha]
      · rw [loadPart_unsigned ht, ha]
  · have hb : mBytes f ≠ 1 ∧ mBytes f ≠ 2 := by rw [mBytes_words hs]; omega
    rw [fillLoad_words hb.1 hb.2]
    refine ⟨?_, ?_, fun _ => ?_, fun h => absurd h hs⟩
    · rw [Thread.fillAll_frame, resident_frame]
    · rw [Thread.fillAll_frame, ← hpreds]
    · rw [hw]
      exact hfilled (Thread.filled_fillAll _ _ _ _ _ hw)

theorem ldsLane_loads {f : FmtM} {s : State} {c k off : Nat} {t : Thread} {xs : List (List Reg)} {g : CoreGang}
    (hg : t.guard f.guard = true) (hx : t.sources (mAddrSrcs false f) = .ok xs)
    (hd : t.dstReady f.dst.toNat (mWords f.size) = .ok ()) (hgang : gangOf s c k = some g)
    (hin : off + mBytes f ≤ g.size) (ha : off % mBytes f = 0) (hacq : openAcquire s t.uid = none)
    (ho : off = (effOffset f (srcW xs 0) (srcW xs 1)).toNat)
    (hok : (scratchWords (s.core c) (g.base + off) (mWords f.size)).all Datum.okay = true) :
    ldsLane f c s k t = .done (s.setThread c k ((fillLoad f.dst.toNat (mBytes f) f.type 7 (w64 (g.base + off))
      (scratchWords (s.core c) (g.base + off) (mWords f.size)) t).advance s.clock f.lit.isSome)) := by
  have hb : (off % mBytes f != 0) = false := by simpa using ha
  simp only [ldsLane, hg, Bool.not_true, Bool.false_eq_true, if_false, withSources_ok hx, withDst_ready hd, ← ho, hb,
    scratchAt_within hgang hin, hacq, hok]

/-! ## STS -/

/-- The words that STS leaves at its place: the data, or the word there with a byte or halfword merged into it (R24). -/
def stsWords (f : FmtM) (x : Core) (a : Nat) (ds : List Datum) : List Datum :=
  if f.size = 3 then
    let d := (ds.head?).getD zeroDatum
    [mergeSub (scratchWord x a) (a % 4) (mBytes f) (d.word &&& byteMask 0 (mBytes f)) (partialCode d (mBytes f))]
  else ds

theorem stsWords_eq (f : FmtM) (x : Core) (a : Nat) (ds : List Datum) :
    (match storeKind f ds false with
      | .sub b w pc _ => [mergeSub (scratchWord x a) (a % 4) b w pc]
      | _ => ds) = stsWords f x a ds := by
  unfold storeKind stsWords
  by_cases h : f.size = 3
  · rw [if_pos h, if_pos (by simpa using h)]
  · rw [if_neg h, if_neg (by simpa using h)]

theorem stsWords_length {f : FmtM} {ds : List Datum} (h : ds.length = mWords f.size) (x : Core) (a : Nat) :
    (stsWords f x a ds).length = mWords f.size := by
  unfold stsWords
  by_cases hs : f.size = 3
  · rw [if_pos hs, mWords_sub hs]
    rfl
  · rwa [if_neg hs]

/-- Words are in the scratchpad of a core, and a thread of it has gone on. -/
def scratched (s : State) (c k a : Nat) (ds : List Datum) (u : Thread) : State :=
  (s.modCore c fun x => putScratch x a ds).setThread c k u

theorem scratched_core (s : State) (c k a : Nat) (ds : List Datum) (u : Thread) : (scratched s c k a ds u).core c =
    { s.core c with threads := tabPut (s.core c).threads k u, scratch := (putScratch (s.core c) a ds).scratch } := by
  rw [scratched, State.core_setThread, State.modCore, State.core_setCore, putScratch_frame]

theorem onlyThread_scratched (s : State) (c k a : Nat) (ds : List Datum) (u : Thread) :
    OnlyThread s (scratched s c k a ds u) c k where
  others d hd := (State.core_setThread_other _ _ _ _ _ hd).trans (State.core_setCore_other _ _ hd)
  core := by rw [scratched_core]
  threads x hx := by rw [State.thread, scratched_core]; exact tabFind_put_other _ _ _ _ hx

theorem scratchWord_scratched (s : State) (c k a b : Nat) (ds : List Datum) (u : Thread) :
    scratchWord ((scratched s c k a ds u).core c) b = scratchWord (putScratch (s.core c) a ds) b := by
  rw [scratched_core]; rfl

theorem stsLane_stores {f : FmtM} {s : State} {c k off : Nat} {t : Thread} {xs : List (List Reg)} {g : CoreGang}
    (ht : s.thread c k = some t) (hg : t.guard f.guard = true)
    (hx : t.sources (mDataSrc f (mWords f.size) :: mAddrSrcs false f) = .ok xs) (hgang : gangOf s c k = some g)
    (hin : off + mBytes f ≤ g.size) (ha : off % mBytes f = 0)
    (ho : off = (effOffset f (srcW xs 1) (srcW xs 2)).toNat) :
    stsLane f c s k t = .done (scratched s c k (g.base + off)
      (stsWords f (s.core c) (g.base + off) (srcData xs 0)) (t.advance s.clock f.lit.isSome)) := by
  have hb : (off % mBytes f != 0) = false := by simpa using ha
  have ht' (ds : List Datum) : (s.modCore c fun x => putScratch x (g.base + off) ds).thread c k = some t := by
    rw [State.thread, State.modCore, State.core_setCore, putScratch_frame]
    exact ht
  simp only [stsLane, hg, Bool.not_true, Bool.false_eq_true, if_false, withSources_ok hx, ← ho, hb,
    scratchAt_within hgang hin, State.modThread_some _ _ _ _ _ (ht' _)]
  rw [← stsWords_eq]
  rfl

/-- What a byte or halfword of STS leaves of its word (R24). -/
theorem byteOf_stsWords_sub {f : FmtM} (hs : f.size = 3) (x : Core) (a : Nat) (ds : List Datum) :
    ∃ d, stsWords f x a ds = [d] ∧ ∀ i < 4, byteOf d.word i = if a % 4 ≤ i ∧ i < a % 4 + mBytes f then
      byteOf ((ds[0]?).getD zeroDatum).word (i - a % 4) else byteOf (scratchWord x a).word i := by
  refine ⟨_, if_pos hs, fun i hi => ?_⟩
  rw [byteOf_mergeSub _ _ _ hi, List.head?_eq_getElem?]
  refine if_ctx_congr Iff.rfl (fun h => byteOf_and_byteMask _ (by omega) ?_) fun _ => rfl
  rcases mBytes_sub hs with h | h <;> omega

/-- The words that an aligned STS leaves of its allocation, byte by byte: those of the data (R3, R24, R222). -/
theorem byteOf_putScratch {f : FmtM} {x : Core} {a : Nat} {ds : List Datum} (ha : a % mBytes f = 0)
    (hl : ds.length = mWords f.size) {i : Nat} (hi : i < mBytes f) :
    byteOf (scratchWord (putScratch x a (stsWords f x a ds)) (a + i)).word ((a + i) % 4) =
      byteOf ((ds[i / 4]?).getD zeroDatum).word (i % 4) := by
  by_cases hs : f.size = 3
  · obtain ⟨d, hd, hbyte⟩ := byteOf_stsWords_sub hs x a ds
    have hb := mBytes_sub hs
    have h4 : a % 4 + mBytes f ≤ 4 := by rcases hb with h | h <;> rw [h] at ha ⊢ <;> omega
    rw [hd, scratchWord_putScratch (i := 0) (d := d) x (by omega) rfl, hbyte _ (by omega), if_pos (by omega)]
    rw [show i / 4 = 0 by omega, show (a + i) % 4 - a % 4 = i % 4 by omega]
  · rw [mBytes_words hs] at ha hi
    have h4 : a % 4 = 0 := Nat.mod_eq_zero_of_dvd ((Dvd.intro _ rfl).trans (Nat.dvd_of_mod_eq_zero ha))
    have hd : (stsWords f x a ds)[i / 4]? = some ds[i / 4] := by
      rw [stsWords, if_neg hs, List.getElem?_eq_getElem (by omega)]
    rw [scratchWord_putScratch x (by omega) hd, List.getElem?_eq_getElem (by omega), Option.getD_some]
    congr 1
    omega

section
variable {f : FmtM} {s : State} {c k off : Nat} {t : Thread} {xs : List (List Reg)} {g : CoreGang} (hs : Single s c k t)
  (hg : t.guard f.guard = true) (hgang : gangOf s c k = some g) (hin : off + mBytes f ≤ g.size)
  (ha : off % mBytes f = 0)
include hs hg hgang hin ha

theorem exec_lds (hx : t.sources (mAddrSrcs false f) = .ok xs) (hd : t.dstReady f.dst.toNat (mWords f.size) = .ok ())
    (hacq : openAcquire s t.uid = none) (ho : off = (effOffset f (srcW xs 0) (srcW xs 1)).toNat)
    (hok : (scratchWords (s.core c) (g.base + off) (mWords f.size)).all Datum.okay = true) :
    exec (.lds f) s = .next (s.setThread c k ((fillLoad f.dst.toNat (mBytes f) f.type 7 (w64 (g.base + off))
      (scratchWords (s.core c) (g.base + off) (mWords f.size)) t).advance s.clock f.lit.isSome)) := by
  have hc : s.issue.core = c := by rw [hs.1]
  subst hc
  exact (runBundle_single (hold := false) hs (ldsLane_loads hg hx hd hgang hin ha hacq ho hok)).trans (happens_same id)

theorem exec_sts (hx : t.sources (mDataSrc f (mWords f.size) :: mAddrSrcs false f) = .ok xs)
    (ho : off = (effOffset f (srcW xs 1) (srcW xs 2)).toNat) :
    exec (.sts f) s = .next (scratched s c k (g.base + off)
      (stsWords f (s.core c) (g.base + off) (srcData xs 0)) (t.advance s.clock f.lit.isSome)) := by
  have hc : s.issue.core = c := by rw [hs.1]
  subst hc
  exact (runBundle_single (hold := true) hs (stsLane_stores hs.2 hg hx hgang hin ha ho)).trans (happens_same id)

end

/-- Settles O21: LDS fills its registers with the words of the allocation, and STS merges its data into them. -/
theorem scratchpad : Obligations.Scratchpad := by
  unfold Obligations.Scratchpad
  rintro f s c k off t xs g _ hs hg hgang rfl hbase hin ha
  have hbytes : mBytes f ∣ 256 := by
    unfold mBytes mWords
    split_ifs <;> decide
  have haddr : (g.base + off) % mBytes f = 0 := Nat.mod_eq_zero_of_dvd
    (Nat.dvd_add (hbytes.trans (Nat.dvd_of_mod_eq_zero hbase)) (Nat.dvd_of_mod_eq_zero ha))
  refine ⟨fun _ hx hd hacq ho hok hnrp => ?_, fun _ hx ho => ?_⟩
  · rw [← effOffset_eq] at ho
    have hloads := loadsAs_fillLoad (f := f) (a := w64 (g.base + off)) (ea := w64 off)
      (by simp only [w64, BitVec.toNat_ofNat]; omega) (scratchWords_length (s.core c) (g.base + off) _) t
    rw [hnrp] at hloads
    exact ⟨_, exec_lds hs hg hgang hin ha hx hd hacq ho hok, hloads⟩
  · rw [← effOffset_eq] at ho
    have hl := srcData_length hx
    have hlen := stsWords_length hl (s.core c) (g.base + off)
    refine ⟨_, exec_sts hs hg hgang hin ha hx ho, rfl, onlyThread_scratched .., ?_, State.thread_setThread ..,
      ?_, ?_, ?_, ?_⟩
    · rw [scratched_core]
    · intro b hb
      rw [scratchWord_scratched, scratchWord_putScratch_other _ _ (by rwa [hlen])]
    · intro i hi
      rw [scratchWord_scratched]
      exact byteOf_putScratch haddr hl hi
    · intro hs3 i hi hout
      obtain ⟨d, hd, hbyte⟩ := byteOf_stsWords_sub hs3 (s.core c) (g.base + off) (srcData xs 0)
      rw [scratchWord_scratched, hd, scratchWord_putScratch (i := 0) (d := d) _ rfl rfl, hbyte i hi, if_neg (by omega)]
    · intro hs3 i hi
      rw [scratchWord_scratched, stsWords, if_neg hs3, List.getElem?_eq_getElem (by omega)]
      exact congrArg some (scratchWord_putScratch _ (by omega) (List.getElem?_eq_getElem _)).symm

end Sys2Proof.Machine
end

section
/-! SUPPORT. One access alone in flight (R130, R195): how it starts at an address whose leaf is cached, and comes to its
slice. -/

namespace Sys2Proof.Machine

/-! ## An instruction of one lane that starts an access -/

theorem settleKind_noDemand {s : State} {n : Nat} (h : ∀ d ∈ s.demands, d.inst ≠ n) (kind : Nat) (wait : Bool) :
    settleKind s n kind wait = s := by
  have hf : s.demands.filter (fun d => d.inst == n && d.record.kind == kind) = [] :=
    List.filter_eq_nil_iff.mpr fun d hd => by simp [h d hd]
  simp only [settleKind, hf]

/-- No fault of an instance waits for a record: its settling leaves the module as it is. -/
theorem settleInst_noDemand {s : State} {n : Nat} (h : ∀ d ∈ s.demands, d.inst ≠ n) : settleInst s n = s := by
  simp only [settleInst, settleKind_noDemand h]

/-- A memory instruction whose one lane completes. -/
theorem runMem_done {hold : Bool} {eff : Nat → State → Nat → Thread → LaneEff} {s s1 : State} {c k : Nat} {t : Thread}
    (hs : Single s c k t) (h : eff s.nextId { s with nextId := s.nextId + 1 } k t = .done s1)
    (hd : ∀ d ∈ s1.demands, d.inst ≠ s.nextId) (h1 : s1.stalled = s.stalled) : runMem hold eff s = .next s1 := by
  obtain ⟨hi, ht⟩ := hs
  have ht' : ({ s with nextId := s.nextId + 1 } : State).thread c k = some t := ht
  have hl : runLanes hold c (eff s.nextId) [k] { s with nextId := s.nextId + 1 } = (s1, []) := by
    simp [runLanes, ht', h]
  rw [runMem_single hi hl, takeLanes_nil, settleInst_noDemand hd]
  exact happens_same fun hx => h1 ▸ hx

/-! ## Local addresses -/

theorem addrOf_canonical {ea : DWord} (h : ea.toNat < 2 ^ 57) : addrOf ea = .local ea.toNat := by
  have h63 : bit ea.toNat 63 = false := by
    rw [bit, Nat.div_eq_of_lt (by omega)]
    rfl
  have h57 : field ea.toNat 62 57 = 0 := by
    rw [field, Nat.div_eq_of_lt h]
    rfl
  have h0 : field ea.toNat 56 0 = ea.toNat := by
    simp only [field]
    omega
  simp [addrOf, h63, h57, h0]

theorem tlb_setThread (s : State) (c k d : Nat) (t : Thread) : ((s.setThread c k t).core d).tlb = (s.core d).tlb := by
  by_cases h : d = c
  · subst h
    rw [State.core_setThread]
  · rw [State.core_setThread_other _ _ _ _ _ h]

/-- Neither a thread's write nor a name that is given out changes what is cached and what it grants. -/
theorem Mapped.setThread {s : State} {c p dpa : Nat} {ea : DWord} {kd : AKind} {o : OrderReq} {l : Leaf}
    (h : Mapped s c p ea kd o l dpa) (d k : Nat) (t : Thread) : Mapped (s.setThread d k t) c p ea kd o l dpa where
  canonical := h.canonical
  enabled := h.enabled
  cached := by
    rw [← h.cached]
    simp only [cachedLeaf, tlb_setThread, State.setThread_cluster_eq]
  granted := h.granted
  hbm := h.hbm
  aligned := h.aligned
  place := h.place
  free := h.free

theorem Mapped.nextId {s : State} {c p dpa : Nat} {ea : DWord} {kd : AKind} {o : OrderReq} {l : Leaf}
    (h : Mapped s c p ea kd o l dpa) (n : Nat) : Mapped { s with nextId := n } c p ea kd o l dpa :=
  ⟨h.canonical, h.enabled, h.cached, h.granted, h.hbm, h.aligned, h.place, h.free⟩

section
variable {s : State} {a : Access}

/-- The access alone in flight, its thread gone on to `u`. -/
def inFlight (s : State) (a : Access) (u : Thread) : State :=
  { s.setThread a.core a.key u with accesses := [a], nextId := s.nextId + 1 }

theorem enqueue_thread {t : Thread} (ht : s.thread a.core a.key = some t) (lit : Bool) :
    enqueue s a lit = { s.setThread a.core a.key (t.advance s.clock lit) with
      accesses := s.accesses ++ [a], nextId := s.nextId + 1 } :=
  State.modThread_some { s with accesses := s.accesses ++ [a], nextId := s.nextId + 1 } _ _ _ _ ht

theorem enqueue_alone {t : Thread} (ha : s.accesses = []) (ht : s.thread a.core a.key = some t) (lit : Bool) :
    enqueue s a lit = inFlight s a (t.advance s.clock lit) := by
  rw [enqueue_thread ht, ha]
  rfl

theorem readyLeaf_mapped {l : Leaf} {dpa : Nat} (hm : Mapped s a.core a.part a.ea a.kind.check a.order l dpa)
    (hv : a.lva = a.ea.toNat) (hd : a.dest = none) : readyLeaf s a = some l := by
  have hf : leafFail s a.part l a.kind.check a.order a.asked = none := by
    rw [Access.asked, hd]
    exact hm.granted
  simp [readyLeaf, hm.enabled, hv, hm.cached, hf]

/-- An access whose leaf is cached and grants it goes on at its issue (R79). -/
theorem startLocal_mapped {l : Leaf} {dpa : Nat} {t : Thread}
    (hm : Mapped s a.core a.part a.ea a.kind.check a.order l dpa) (hv : a.lva = a.ea.toNat) (hd : a.dest = none)
    (ha : s.accesses = []) (ht : s.thread a.core a.key = some t) (lit : Bool) :
    startLocal s a lit = mapped (inFlight s a (t.advance s.clock lit)) a l := by
  rw [startLocal, readyLeaf_mapped hm hv hd, enqueue_alone ha ht]

end

theorem newAcc_lva {s : State} {c k inst : Nat} {t : Thread} {ea : DWord} {o : OrderReq} {kind : AccKind}
    (h : ea.toNat < 2 ^ 57) : (newAcc s c k t inst ea o kind).lva = ea.toNat := by
  simp only [newAcc, field]
  omega

/-! ## The home slice -/

theorem exec_sliceRequest (id : Nat) (s : State) : exec (.sliceRequest id) s = happens s (sliceActs s id) := rfl
theorem exec_loadFill (id : Nat) (evict : List Nat) (s : State) :
    exec (.loadFill id evict) s = happens s (loadFills s id evict) := rfl

/-- Nothing stands before the one access in flight (R130). -/
theorem sliceReady_self {s : State} {a : Access} {dpa : Nat} (ha : s.accesses = [a]) (hb : binding s dpa = false) :
    sliceReady s a dpa = true := by
  simp [sliceReady, behind, missAhead, writeAhead, laneAhead, ha, hb]

theorem sliceActs_self {s : State} {a : Access} {dpa slot : Nat} (ha : s.accesses = [a]) (hs : a.stage = .slice)
    (hp : a.place = some (dpa, slot)) (hb : binding s dpa = false) : sliceActs s a.id = atSlice s a dpa slot := by
  simp [sliceActs, findAcc_self ha, hs, hp, sliceReady_self ha hb]

end Sys2Proof.Machine
end

section
/-! SUPPORT. A line in the L1 and in the L2 (R129, R132, R140, Table 5.4): what CINV discards and CWB leaves. -/

namespace Sys2Proof.Machine

/-! ## The L1 -/

/-- No line of the core's L1 holds the sector. -/
def NoCopy (s : State) (c : Nat) (n : SectorName) : Prop :=
  ∀ x ∈ (s.core c).l1, x.holds n = true → tabFind x.secs (n.2.1 % 2) = none

theorem l1Find_none {s : State} {c : Nat} {n : SectorName} (h : NoCopy s c n) : l1Find s c n = none := by
  refine Option.bind_eq_none_iff.mpr fun x hx => h x (List.mem_of_find?_eq_some hx) ?_
  simpa using List.find?_some hx

theorem L1Line.without_some {n : SectorName} {x y : L1Line} (h : x.without n = some y) :
    (x.holds n = false ∧ y = x) ∨ (x.holds n = true ∧ y = { x with secs := tabDel x.secs (n.2.1 % 2) }) := by
  unfold L1Line.without at h
  split at h
  · next hn =>
    dsimp only at h
    split at h
    · cases h
    · exact .inr ⟨hn, (Option.some.inj h).symm⟩
  · next hn => exact .inl ⟨by simpa using hn, (Option.some.inj h).symm⟩

section
variable (s : State) (c : Nat) (n : SectorName)

theorem l1Remove_core : (l1Remove s c n).core c =
    { s.core c with l1 := (s.core c).l1.filterMap (L1Line.without n) } := State.core_setCore ..

theorem l1Remove_core_other {d : Nat} (h : d ≠ c) : (l1Remove s c n).core d = s.core d := State.core_setCore_other _ _ h

theorem noCopy_l1Remove : NoCopy (l1Remove s c n) c n := by
  intro y hy hn
  rw [l1Remove_core] at hy
  obtain ⟨x, -, hx⟩ := List.mem_filterMap.mp hy
  rcases L1Line.without_some hx with ⟨hx, rfl⟩ | ⟨-, rfl⟩
  · rw [hx] at hn
    cases hn
  · exact tabFind_del_same ..

variable {s c}

theorem noCopy_l1Remove_of {m : SectorName} (h : NoCopy s c m) : NoCopy (l1Remove s c n) c m := by
  intro y hy hm
  rw [l1Remove_core] at hy
  obtain ⟨x, hmem, hx⟩ := List.mem_filterMap.mp hy
  rcases L1Line.without_some hx with ⟨-, rfl⟩ | ⟨-, rfl⟩
  · exact h _ hmem hm
  · by_cases hj : m.2.1 % 2 = n.2.1 % 2
    · rw [hj]
      exact tabFind_del_same ..
    · rw [tabFind_del_other _ _ _ hj]
      exact h x hmem hm

end

/-! Cores and threads read alike where the module lists the same cores. -/

theorem core_congr {s t : State} (h : t.cores = s.cores) (c : Nat) : t.core c = s.core c := by
  rw [State.core, h]
  rfl

theorem thread_congr {s t : State} (h : t.cores = s.cores) (c k : Nat) : t.thread c k = s.thread c k := by
  rw [State.thread, core_congr h]
  rfl

theorem OnlyThread.congr {s t t' : State} {c k : Nat} (h : OnlyThread s t c k) (hc : t'.cores = t.cores) :
    OnlyThread s t' c k where
  others d hd := (core_congr hc d).trans (h.others d hd)
  core := by rw [core_congr hc]; exact h.core
  threads x hx := (thread_congr hc c x).trans (h.threads x hx)

theorem NoCopy.congr {s t : State} {c : Nat} {n : SectorName} (h : NoCopy s c n) (hc : t.cores = s.cores) :
    NoCopy t c n := by
  unfold NoCopy
  rwa [core_congr hc]

/-- A core's L1 without either sector of a line. -/
def lineRemoved (s : State) (c line slot : Nat) : State :=
  l1Remove (l1Remove s c (.local, line * 2, slot)) c (.local, line * 2 + 1, slot)

theorem lineRemoved_frame (s : State) (c line slot : Nat) :
    lineRemoved s c line slot = { s with cores := (lineRemoved s c line slot).cores } := rfl

theorem lineRemoved_cores {s t : State} (h : t.cores = s.cores) (c line slot : Nat) :
    (lineRemoved t c line slot).cores = (lineRemoved s c line slot).cores := by
  simp only [lineRemoved, l1Remove, State.modCore, State.setCore, State.core, h]

theorem lineRemoved_inFlight (s : State) (a : Access) (u : Thread) (c line slot : Nat) :
    lineRemoved (inFlight s a u) c line slot =
      { inFlight s a u with cores := (lineRemoved (s.setThread a.core a.key u) c line slot).cores } := by
  rw [lineRemoved_frame, lineRemoved_cores (t := inFlight s a u) (s := s.setThread a.core a.key u) rfl]

theorem lineRemoved_core (s : State) (c line slot : Nat) : (lineRemoved s c line slot).core c =
    { s.core c with l1 := ((lineRemoved s c line slot).core c).l1 } := by
  simp only [lineRemoved, l1Remove_core]

theorem lineRemoved_core_other (s : State) {c d : Nat} (line slot : Nat) (h : d ≠ c) :
    (lineRemoved s c line slot).core d = s.core d := by
  rw [lineRemoved, l1Remove_core_other _ _ _ h, l1Remove_core_other _ _ _ h]

theorem thread_lineRemoved (s : State) (c line slot k : Nat) :
    (lineRemoved s c line slot).thread c k = s.thread c k := by
  rw [State.thread, lineRemoved_core]
  rfl

theorem onlyThread_lineRemoved (s : State) (c k : Nat) (u : Thread) (line slot : Nat) :
    OnlyThread s (lineRemoved (s.setThread c k u) c line slot) c k where
  others d hd := by rw [lineRemoved_core_other _ _ _ hd, State.core_setThread_other _ _ _ _ _ hd]
  core := by rw [lineRemoved_core, State.core_setThread]
  threads x hx := by rw [thread_lineRemoved, State.thread_setThread_other _ _ _ _ _ _ (.inr hx)]

theorem noCopy_lineRemoved (s : State) (c line slot : Nat) {j : Nat} (hj : j < 2) :
    NoCopy (lineRemoved s c line slot) c (.local, line * 2 + j, slot) := by
  obtain rfl | rfl : j = 0 ∨ j = 1 := by omega
  · exact noCopy_l1Remove_of _ (noCopy_l1Remove _ _ _)
  · exact noCopy_l1Remove _ _ _

/-- Where no load or prefetch is in flight, none is kept from installing. -/
theorem noInstall_idle {s : State} (h : ∀ a ∈ s.accesses, a.kind.fetches = false) (c : Nat) (n : SectorName) :
    noInstall s c n = s := by
  have hm : (s.accesses.map fun a =>
      if a.core == c && a.kind.fetches && a.sector == some n then { a with sector := none } else a) = s.accesses :=
    (List.map_congr_left fun a ha => if_neg (by simp [h a ha])).trans (List.map_id' _)
  rw [noInstall, hm]

theorem l1DropLine_idle {s : State} (h : ∀ a ∈ s.accesses, a.kind.fetches = false) (c dpa slot : Nat) :
    l1DropLine s c (.local, dpa / 64, slot) = lineRemoved s c (dpa / 128) slot := by
  have hq : dpa / 64 / 2 * 2 = dpa / 128 * 2 := by omega
  have h1 : ∀ n, noInstall (l1Remove s c n) c n = l1Remove s c n := fun n => noInstall_idle (s := l1Remove s c n) h c n
  have h2 : ∀ m n, noInstall (l1Remove (l1Remove s c m) c n) c n = l1Remove (l1Remove s c m) c n := fun m n =>
    noInstall_idle (s := l1Remove (l1Remove s c m) c n) h c n
  simp only [l1DropLine, l1Drop, hq, h1, h2, lineRemoved]

/-! ## The L2 -/

/-- The line is in the L2 under the slot (R129). -/
def lineTagged (s : State) (line slot : Nat) : Bool := (tabFind s.l2Tags line).any fun x => x.slot == slot

theorem l2Hit_untagged {s : State} {a slot : Nat} (h : lineTagged s (a / 128) slot = false) :
    l2Hit s a slot = none := by
  unfold lineTagged at h
  unfold l2Hit lineOf
  split
  · next x hx =>
    rw [hx] at h
    exact if_neg (by simpa using h)
  · rfl

theorem l2Hit_tagged {s : State} {a slot : Nat} (h : lineTagged s (a / 128) slot = true) :
    l2Hit s a slot = tabFind s.l2 (a / 64) := by
  obtain ⟨x, hx, hs⟩ := (Option.any_eq_true _ _).mp h
  simp [l2Hit, lineOf, sectorOf, hx, hs]

/-- No sector of the line is dirty under the slot. -/
def LineClean (s : State) (dpa slot : Nat) : Prop :=
  ∀ j < 2, ∀ x, l2Hit s (dpa / 128 * 128 + 64 * j) slot = some x → x.dirty = false

theorem lineDirty_clean {s : State} {dpa slot : Nat} (h : LineClean s dpa slot)
    (ht : lineTagged s (dpa / 128) slot = true) : lineDirty s (dpa / 128) = false := by
  have hsec : ∀ j < 2, ∀ x, tabFind s.l2 (2 * (dpa / 128) + j) = some x → x.dirty = false := fun j hj x hx => by
    refine h j hj x ?_
    rw [l2Hit_tagged (by rwa [show (dpa / 128 * 128 + 64 * j) / 128 = dpa / 128 by omega]),
      show (dpa / 128 * 128 + 64 * j) / 64 = 2 * (dpa / 128) + j by omega, hx]
  refine List.any_eq_false.mpr fun i hi => ?_
  obtain rfl | rfl : i = 2 * (dpa / 128) + 0 ∨ i = 2 * (dpa / 128) + 1 := by simpa using hi
  · split
    · next x hx => simp [hsec 0 (by decide) x hx]
    · simp
  · split
    · next x hx => simp [hsec 1 (by decide) x hx]
    · simp

/-- The L2 without the line, where the line is in it under the slot (Table 5.4). -/
def lineGone (s : State) (line slot : Nat) : State := if lineTagged s line slot then delLine s line else s

/-- CWB leaves a clean line as it is, and CINV takes it from the L2 (Table 5.4). -/
theorem lineMaint_clean {s : State} {dpa slot : Nat} (h : LineClean s dpa slot) (remove : Bool) :
    lineMaint s dpa slot remove = if remove then lineGone s (dpa / 128) slot else s := by
  have hq : lineOf (dpa / 128 * 128) = dpa / 128 := by simp [lineOf]
  unfold lineGone
  cases ht : lineTagged s (dpa / 128) slot
  · unfold lineTagged at ht
    simp [lineMaint, hq, ht]
  · have hd := lineDirty_clean h ht
    unfold lineTagged at ht
    simp [lineMaint, hq, ht, hd]

theorem lineGone_frame (s : State) (line slot : Nat) : lineGone s line slot =
    { s with l2 := (lineGone s line slot).l2, l2Tags := (lineGone s line slot).l2Tags } := by
  unfold lineGone
  split <;> rfl

theorem l2Hit_lineGone_same (s : State) {a line : Nat} (h : a / 128 = line) (slot : Nat) :
    l2Hit (lineGone s line slot) a slot = none := by
  subst h
  refine l2Hit_untagged ?_
  unfold lineGone
  split
  · simp [lineTagged, delLine]
  · next ht => simpa using ht

theorem l2Hit_lineGone_other (s : State) {a line : Nat} (h : a / 128 ≠ line) (slot x : Nat) :
    l2Hit (lineGone s line slot) a x = l2Hit s a x := by
  unfold lineGone
  split
  · simp only [l2Hit, delLine, lineOf, sectorOf, tabFind_del_other _ _ _ h,
      tabFind_del_other _ (2 * line + 1) (a / 64) (by omega), tabFind_del_other _ (2 * line) (a / 64) (by omega)]
  · rfl

end Sys2Proof.Machine
end

section
/-! SUPPORT. CINV and CWB of a clean line (R140, R225): their issue and their slice. -/

namespace Sys2Proof.Machine

/-- The access on its way to the slice of its line, its verdict known (R140, R404). -/
def Access.toLine (a : Access) (l : Leaf) : Access :=
  { a with
    stage := .slice, cls := l.cls, leaf := some (l.vbase, l.size), place := some (leafAddr l a.lva, l.slot)
    before := none, sector := none }

section
variable {s : State} {a : Access} {l : Leaf} (ha : s.accesses = [a]) (hl : l.host = false)
include ha hl

theorem mapped_cwb (hk : a.kind = .cwb) : mapped s a l = { s with accesses := [a.toLine l] } := by
  rw [← putAcc_self ha (b := a.toLine l) rfl]
  simp only [mapped, hl, hk, Bool.false_and, Bool.false_eq_true, if_false]
  rw [← hk]
  rfl

theorem mapped_cinv (hk : a.kind = .cinv) : mapped s a l =
    { lineRemoved s a.core (leafAddr l a.lva / 128) l.slot with accesses := [a.toLine l] } := by
  have hf : ∀ b ∈ s.accesses, b.kind.fetches = false := by simp [ha, hk, AccKind.fetches]
  have hr : (lineRemoved s a.core (leafAddr l a.lva / 128) l.slot).accesses = [a] := ha
  rw [← putAcc_self hr (b := a.toLine l) rfl, ← l1DropLine_idle hf]
  simp only [mapped, hl, hk, Bool.false_and, Bool.false_eq_true, if_false]
  rw [← hk]
  rfl

end

/-- The access of a lane of CINV or CWB, which has taken two names: its instance's and its own. -/
def lineAcc (kind : AccKind) (f : FmtM) (s : State) (c k : Nat) (t : Thread) (ea : DWord) : Access :=
  newAcc { s with nextId := s.nextId + 1 } c k t s.nextId ea f.order kind

section
variable {f : FmtM} {s : State} {c k dpa : Nat} {t : Thread} {xs : List (List Reg)} {l : Leaf} {kind : AccKind}
  (hs : Single s c k t) (hg : t.guard f.guard = true) (hx : t.sources (mAddrSrcs true f) = .ok xs) (ha : Alone s)
  (hm : Mapped s c (launchPart s t.seq) (eaOf f xs 0) .load f.order l dpa)
include hs hg hx ha hm

theorem maintLane_mapped (hk : kind = .cinv ∨ kind = .cwb) :
    maintLane kind f c s.nextId { s with nextId := s.nextId + 1 } k t =
      .done (mapped (inFlight { s with nextId := s.nextId + 1 } (lineAcc kind f s c k t (eaOf f xs 0))
        (t.advance s.clock f.lit.isSome)) (lineAcc kind f s c k t (eaOf f xs 0)) l) := by
  have hp : (kind == .pref) = false := by rcases hk with rfl | rfl <;> rfl
  have hc : kind.check = .load := by rcases hk with rfl | rfl <;> rfl
  have hm' : Mapped { s with nextId := s.nextId + 1 } (lineAcc kind f s c k t (eaOf f xs 0)).core
      (lineAcc kind f s c k t (eaOf f xs 0)).part (lineAcc kind f s c k t (eaOf f xs 0)).ea
      (lineAcc kind f s c k t (eaOf f xs 0)).kind.check (lineAcc kind f s c k t (eaOf f xs 0)).order l dpa := by
    rw [show (lineAcc kind f s c k t (eaOf f xs 0)).kind.check = .load from hc]
    exact hm.nextId _
  simp only [maintLane, hg, Bool.not_true, Bool.false_eq_true, if_false, withSources_ok hx, effAddr_eq, hp,
    addrOf_canonical hm.canonical]
  exact congrArg _ (startLocal_mapped hm' (newAcc_lva hm.canonical) rfl ha.1 hs.2 f.lit.isSome)

/-- CWB at its issue: its access is on its way, and the thread has gone on. -/
theorem exec_cwb : exec (.cwb f) s = .next { s.setThread c k (t.advance s.clock f.lit.isSome) with
    accesses := [(lineAcc .cwb f s c k t (eaOf f xs 0)).toLine l], nextId := s.nextId + 2 } := by
  have hc : s.issue.core = c := by rw [hs.1]
  subst hc
  have hlane := maintLane_mapped hs hg hx ha hm (kind := .cwb) (.inr rfl)
  rw [mapped_cwb rfl hm.hbm rfl] at hlane
  exact runMem_done (hold := false) hs hlane ha.2 rfl

/-- CINV at its issue: both sectors of the line have left the core's L1 besides. -/
theorem exec_cinv : exec (.cinv f) s = .next { s with
    cores := (lineRemoved (s.setThread c k (t.advance s.clock f.lit.isSome)) c (dpa / 128) l.slot).cores
    accesses := [(lineAcc .cinv f s c k t (eaOf f xs 0)).toLine l], nextId := s.nextId + 2 } := by
  have hc : s.issue.core = c := by rw [hs.1]
  subst hc
  have hdpa : leafAddr l (lineAcc .cinv f s s.issue.core k t (eaOf f xs 0)).lva = dpa := by
    rw [hm.place]
    exact congrArg (leafAddr l) (newAcc_lva hm.canonical)
  have hlane := maintLane_mapped hs hg hx ha hm (kind := .cinv) (.inl rfl)
  rw [mapped_cinv rfl hm.hbm rfl, hdpa, lineRemoved_inFlight] at hlane
  exact runMem_done (hold := false) hs hlane ha.2 rfl

end

/-! ## At the slice -/

section
variable {s : State} {b : Access} {dpa slot : Nat} (ha : s.accesses = [b]) (hs : b.stage = .slice)
  (hp : b.place = some (dpa, slot)) (hb : binding s dpa = false) (hc : LineClean s dpa slot) {as : List Access}
  (has : as = [])
include ha hs hp hb hc has

theorem exec_sliceRequest_cwb (hk : b.kind = .cwb) :
    exec (.sliceRequest b.id) s = .next { s with accesses := as } := by
  subst has
  rw [exec_sliceRequest, sliceActs_self ha hs hp hb]
  simp only [atSlice, hk, lineMaint_clean hc, Bool.false_eq_true, if_false, dropAcc_self ha]
  exact happens_same id

theorem exec_sliceRequest_cinv (hk : b.kind = .cinv) :
    exec (.sliceRequest b.id) s = .next { s with
      l2 := (lineGone s (dpa / 128) slot).l2, l2Tags := (lineGone s (dpa / 128) slot).l2Tags, accesses := as } := by
  subst has
  have hf := lineGone_frame s (dpa / 128) slot
  have hg : (lineGone s (dpa / 128) slot).accesses = [b] := by rw [hf]; exact ha
  rw [exec_sliceRequest, sliceActs_self ha hs hp hb]
  simp only [atSlice, hk, lineMaint_clean hc, if_true, dropAcc_self hg]
  rw [hf]
  exact happens_same id

end

/-! ## From issue to slice -/

theorem place_toLine {f : FmtM} {s : State} {c k p dpa : Nat} {t : Thread} {ea : DWord} {kd : AKind} {o : OrderReq}
    {l : Leaf} (hm : Mapped s c p ea kd o l dpa) (kind : AccKind) :
    ((lineAcc kind f s c k t ea).toLine l).place = some (dpa, l.slot) := by
  have hv : (lineAcc kind f s c k t ea).lva = ea.toNat := newAcc_lva hm.canonical
  rw [hm.place, ← hv]
  rfl

section
variable {f : FmtM} {s : State} {c k dpa : Nat} {t : Thread} {xs : List (List Reg)} {l : Leaf}
  (hs : Single s c k t) (hg : t.guard f.guard = true) (hx : t.sources (mAddrSrcs true f) = .ok xs) (ha : Alone s)
  (hm : Mapped s c (launchPart s t.seq) (eaOf f xs 0) .load f.order l dpa) (hc : LineClean s dpa l.slot)
include hs hg hx ha hm hc

theorem cwb_leaves_clean_line : ∃ s1, exec (.cwb f) s = .next s1 ∧
    s1.thread c k = some (t.advance s.clock f.lit.isSome) ∧ exec (.sliceRequest (s.nextId + 1)) s1 = .next
      { s.setThread c k (t.advance s.clock f.lit.isSome) with nextId := s.nextId + 2 } := by
  refine ⟨_, exec_cwb hs hg hx ha hm, State.thread_setThread .., ?_⟩
  have hslice := exec_sliceRequest_cwb (b := (lineAcc .cwb f s c k t (eaOf f xs 0)).toLine l)
    (s := { s.setThread c k (t.advance s.clock f.lit.isSome) with
      accesses := [(lineAcc .cwb f s c k t (eaOf f xs 0)).toLine l], nextId := s.nextId + 2 })
    rfl rfl (place_toLine hm _) hm.free hc ha.1 rfl
  exact hslice

theorem cinv_discards_line : ∃ s1 t', exec (.cinv f) s = .next s1 ∧
    s1.thread c k = some (t.advance s.clock f.lit.isSome) ∧
    exec (.sliceRequest (s.nextId + 1)) s1 = .next t' ∧ OnlyThread s t' c k ∧
    t' = { s with cores := t'.cores, l2 := t'.l2, l2Tags := t'.l2Tags, nextId := t'.nextId } ∧
    t'.thread c k = some (t.advance s.clock f.lit.isSome) ∧
    (∀ j < 2, l1Find t' c (.local, dpa / 128 * 2 + j, l.slot) = none ∧
      l2Hit t' (dpa / 128 * 128 + 64 * j) l.slot = none) ∧
    ∀ a x, a / 128 ≠ dpa / 128 → l2Hit t' a x = l2Hit s a x := by
  have hissue := exec_cinv hs hg hx ha hm
  generalize t.advance s.clock f.lit.isSome = u at hissue ⊢
  have hthread : (lineRemoved (s.setThread c k u) c (dpa / 128) l.slot).thread c k = some u := by
    rw [thread_lineRemoved, State.thread_setThread]
  have honly := onlyThread_lineRemoved s c k u (dpa / 128) l.slot
  have hcopy (j : Nat) (hj : j < 2) := noCopy_lineRemoved (s.setThread c k u) c (dpa / 128) l.slot hj
  generalize lineRemoved (s.setThread c k u) c (dpa / 128) l.slot = s0 at hissue hthread honly hcopy
  generalize hb : (lineAcc .cinv f s c k t (eaOf f xs 0)).toLine l = b at hissue
  have hslice := exec_sliceRequest_cinv (b := b)
    (s := { s with cores := s0.cores, accesses := [b], nextId := s.nextId + 2 })
    rfl (hb ▸ rfl) (hb ▸ place_toLine hm _) hm.free hc ha.1 (hb ▸ rfl)
  have hid : b.id = s.nextId + 1 := hb ▸ rfl
  rw [hid] at hslice
  refine ⟨_, _, hissue, (thread_congr (s := s0) rfl c k).trans hthread, hslice, honly.congr rfl, rfl,
    (thread_congr (s := s0) rfl c k).trans hthread, fun j hj => ⟨l1Find_none ((hcopy j hj).congr rfl), ?_⟩,
    fun a x h => ?_⟩
  · exact l2Hit_lineGone_same _ (by omega) _
  · exact l2Hit_lineGone_other _ h _ _

end
end Sys2Proof.Machine
end

section
/-! SUPPORT. PREF (R225): whatever it starts reaches only accesses and what leaves the module. -/

namespace Sys2Proof.Machine

/-- Nothing has changed but accesses, names, and traffic toward the pod, the remote fabric and the host. -/
structure OutFrame (s t : State) : Prop where
  rest : t = { s with
    accesses := t.accesses, nextId := t.nextId, peers := t.peers, links := t.links, podOut := t.podOut
    remotes := t.remotes, nextRid := t.nextRid, rodTx := t.rodTx, congestion := t.congestion, remoteOut := t.remoteOut
    hostReqs := t.hostReqs, hostPosts := t.hostPosts, hostOut := t.hostOut }

namespace OutFrame

theorem refl (s : State) : OutFrame s s := ⟨rfl⟩

theorem trans {s t u : State} (h : OutFrame s t) (g : OutFrame t u) : OutFrame s u := by
  obtain ⟨h⟩ := h
  obtain ⟨g⟩ := g
  constructor
  rw [g, h]

theorem cores {s t : State} (h : OutFrame s t) : t.cores = s.cores := by rw [h.rest]
theorem stalled {s t : State} (h : OutFrame s t) : t.stalled = s.stalled := by rw [h.rest]
theorem hbm {s t : State} (h : OutFrame s t) : t.hbm = s.hbm := by rw [h.rest]
theorem hbmSide {s t : State} (h : OutFrame s t) : t.hbmSide = s.hbmSide := by rw [h.rest]
theorem l2 {s t : State} (h : OutFrame s t) : t.l2 = s.l2 := by rw [h.rest]
theorem demands {s t : State} (h : OutFrame s t) : t.demands = s.demands := by rw [h.rest]
theorem parts {s t : State} (h : OutFrame s t) : t.parts = s.parts := by rw [h.rest]

theorem putAcc (s : State) (a : Access) : OutFrame s (putAcc s a) := ⟨rfl⟩
theorem dropAcc (s : State) (id : Nat) : OutFrame s (dropAcc s id) := ⟨rfl⟩
theorem hostRead (s : State) (addr words : Nat) (o : Owner) : OutFrame s (hostRead s addr words o) := ⟨rfl⟩

theorem podPut (s : State) (port vc : Nat) (m : PodMsg) : OutFrame s (podPut s port vc m) := by
  unfold Sys2Proof.Machine.podPut
  dsimp only
  split
  · exact ⟨rfl⟩
  · split
    · exact ⟨rfl⟩
    · exact refl s

theorem podSend (s : State) (p : Nat) (r : FabReq) (o : Owner) (mc : Option Nat) : OutFrame s (podSend s p r o mc) :=
  trans (t := s.setPeer p { s.peer p with
    nextSeq := ((s.peer p).nextSeq + 1) % 2 ^ 24, unacked := (s.peer p).unacked ++ [⟨(s.peer p).nextSeq, r, mc, o⟩] })
    ⟨rfl⟩ (podPut ..)

theorem transmit (s : State) (r : RemoteReq) : OutFrame s (transmit s r) := ⟨rfl⟩

/-- Held or sent, a request that has joined the list keeps the frame. -/
theorem transmit_if {s t : State} (h : OutFrame s t) (p : Bool) (r : RemoteReq) :
    OutFrame s (if p then Sys2Proof.Machine.transmit t r else t) := by
  cases p
  · exact h
  · exact h.trans (transmit ..)

theorem remoteSend (s : State) (hid : Nat) (w : Route) (r : FabReq) (o : Owner) : OutFrame s (remoteSend s hid w r o) :=
  transmit_if ⟨rfl⟩ _ _

theorem sendAcc (s : State) (a : Access) (d : GDest) : OutFrame s (sendAcc s a d) := by
  unfold Sys2Proof.Machine.sendAcc
  split
  · exact (putAcc ..).trans (podSend ..)
  · exact (putAcc ..).trans (remoteSend ..)
  · exact refl s

end OutFrame

/-! ## A prefetch on this module -/

theorem OutFrame.enqueue {s : State} {a : Access} {t : Thread} (ht : s.thread a.core a.key = some t) (lit : Bool) :
    OutFrame (s.setThread a.core a.key (t.advance s.clock lit)) (enqueue s a lit) := by
  rw [enqueue_thread ht]
  exact ⟨rfl⟩

theorem filter_const_false {α : Type} (o : Option α) : o.filter (fun _ => false) = none := by
  cases o <;> rfl

section
variable {a : Access} (hk : a.kind = .pref)
include hk

theorem OutFrame.toHost_pref (s : State) (addr : Nat) : OutFrame s (toHost s a addr) := by
  unfold toHost
  split
  · exact putAcc ..
  · rw [hk]
    simp only [AccKind.isLoad, Bool.false_eq_true, if_false, startHost, hk]
    split
    · exact (putAcc ..).trans (hostRead ..)
    · exact dropAcc ..

theorem OutFrame.mapped_pref (s : State) (l : Leaf) : OutFrame s (mapped s a l) := by
  simp only [mapped, hk, AccKind.isLoad, Bool.false_and, filter_const_false, Option.bind_none]
  split
  · exact dropAcc ..
  · split
    · exact toHost_pref rfl s _
    · exact putAcc ..

theorem OutFrame.startLocal_pref {s : State} {t : Thread} (ht : s.thread a.core a.key = some t) (lit : Bool) :
    OutFrame (s.setThread a.core a.key (t.advance s.clock lit)) (startLocal s a lit) := by
  unfold startLocal
  dsimp only
  split
  · exact (enqueue ht lit).trans (mapped_pref hk ..)
  · exact enqueue ht lit

/-! ## A prefetch of a global address -/

/-- A prefetch that goes on is an access sent to its home, or ended at once where its class keeps no copy. -/
theorem startGlobal_done {s s1 : State} {c k : Nat} {d : GDest} {lit : Bool} (hd : ∀ g, d.dest ≠ .multicast g)
    (h : startGlobal s c k a d lit = .done s1) :
    ∃ a', a'.kind = .pref ∧ a'.core = a.core ∧ a'.key = a.key ∧ (s1 = startLocal s a' lit ∨
      ∃ p : Bool, s1 = if p then dropAcc (enqueue s a' lit) a'.id else sendAcc (enqueue s a' lit) a' d) := by
  unfold startGlobal at h
  simp only [dropAliases, hk, AccKind.isPost, AccKind.writes, Bool.false_eq_true, if_false, Bool.or_false] at h
  split at h
  · cases h
    refine ⟨_, ?_, ?_, ?_, .inl rfl⟩ <;> rfl
  · split at h
    · cases h
    · split at h
      · next g hg => exact absurd hg (hd g)
      · cases h
        refine ⟨_, ?_, ?_, ?_, .inr ⟨_, rfl⟩⟩ <;> rfl

theorem OutFrame.startGlobal_pref {s s1 : State} {t : Thread} {d : GDest} {lit : Bool}
    (ht : s.thread a.core a.key = some t) (hd : ∀ g, d.dest ≠ .multicast g)
    (h : startGlobal s a.core a.key a d lit = .done s1) :
    OutFrame (s.setThread a.core a.key (t.advance s.clock lit)) s1 := by
  obtain ⟨b, hb, hc, hx, h | ⟨p, h⟩⟩ := startGlobal_done hk hd h
  all_goals
    rw [← hc, ← hx] at ht ⊢
    subst h
  · exact startLocal_pref hb ht lit
  · cases p
    · exact (enqueue ht lit).trans (sendAcc ..)
    · exact (enqueue ht lit).trans (dropAcc ..)

end

/-- Only a store may name a multicast address (R69, R109). -/
theorem dest_of_sourceCheck_load {s : State} {p : Nat} {x : Addr} {o : OrderReq} {d : GDest}
    (h : sourceCheck s p x .load o = .ok d) (g : Nat) : d.dest ≠ .multicast g := by
  unfold sourceCheck at h
  split at h
  · cases h
  · cases h
  · split at h
    · cases h
    · split at h
      · cases h
      · cases h
      · split at h
        · cases h
        · cases h
          dsimp only
          split <;> simp
  · cases h

/-! ## The instruction -/

/-- The access of a lane of PREF, which waits for no access before it. -/
def prefAcc (f : FmtM) (s : State) (c k n : Nat) (t : Thread) (ea : DWord) : Access :=
  { newAcc s c k t n ea f.order .pref with before := none }

section
variable {f : FmtM} {s : State} {c k n : Nat} {t : Thread} {xs : List (List Reg)} (ht : s.thread c k = some t)
  (hg : t.guard f.guard = true) (hx : t.sources (mAddrSrcs true f) = .ok xs)
include ht hg hx

/-- Whatever its address, a lane of PREF goes on (R225). -/
theorem prefLane_done : ∃ s1, maintLane .pref f c n s k t = .done s1 ∧
    OutFrame (s.setThread c k (t.advance s.clock f.lit.isSome)) s1 := by
  simp only [maintLane, hg, Bool.not_true, Bool.false_eq_true, if_false, withSources_ok hx, beq_self_eq_true, if_true]
  split
  · exact ⟨_, rfl, OutFrame.startLocal_pref (a := prefAcc f s c k n t _) rfl ht _⟩
  · split
    · exact ⟨_, rfl, .refl _⟩
    · next d hd =>
      split
      · next s1 h =>
        have hmc := dest_of_sourceCheck_load hd
        exact ⟨s1, rfl, OutFrame.startGlobal_pref (a := prefAcc f s c k n t _) rfl ht hmc h⟩
      · exact ⟨_, rfl, .refl _⟩

end

theorem pref_goes_on {f : FmtM} {s : State} {c k : Nat} {t : Thread} {xs : List (List Reg)} (hs : Single s c k t)
    (hg : t.guard f.guard = true) (hx : t.sources (mAddrSrcs true f) = .ok xs) (ha : Alone s) :
    ∃ t', exec (.pref f) s = .next t' ∧ t'.thread c k = some (t.advance s.clock f.lit.isSome) ∧
      (∀ x, x ≠ k → t'.thread c x = s.thread c x) ∧ t'.hbm = s.hbm ∧ t'.hbmSide = s.hbmSide ∧ t'.l2 = s.l2 ∧
      t'.demands = s.demands ∧ t'.parts = s.parts := by
  have hc : s.issue.core = c := by rw [hs.1]
  subst hc
  obtain ⟨t', hlane, hf⟩ := prefLane_done (s := { s with nextId := s.nextId + 1 }) (n := s.nextId) hs.2 hg hx
  have hdem : ∀ d ∈ t'.demands, d.inst ≠ s.nextId := by rw [hf.demands]; exact ha.2
  have hthread (x : Nat) := thread_congr hf.cores s.issue.core x
  refine ⟨t', runMem_done (hold := false) hs hlane hdem hf.stalled, ?_, fun x h => ?_, hf.hbm, hf.hbmSide, hf.l2,
    hf.demands, hf.parts⟩
  · exact (hthread k).trans (State.thread_setThread ..)
  · exact (hthread x).trans (State.thread_setThread_other _ _ _ _ _ _ (.inr h))

end Sys2Proof.Machine
end

section
/-! SUPPORT. PROBE of an address whose leaf is cached (R226, Table 9.3): the word, and the register it fills. -/

namespace Sys2Proof.Machine

/-- The register that awaits the word is marked, the thread goes on, and the word fills it. -/
def probeFilled (t : Thread) (dst clock : Nat) (lit : Bool) (w : Word) : Thread :=
  ((t.markEmpty dst .u32).advance clock lit).write dst .u32 w

theorem probeFilled_frame (t : Thread) (dst clock : Nat) (lit : Bool) (w : Word) :
    probeFilled t dst clock lit w = { t.advance clock lit with regs := (probeFilled t dst clock lit w).regs } := by
  unfold probeFilled Thread.write Thread.markEmpty
  rw [Thread.modReg_frame, Thread.modReg_frame]
  rfl

theorem filled_probeFilled (t : Thread) (dst clock : Nat) (lit : Bool) (w : Word) :
    Filled .u32 dst 1 [⟨w, lcc w⟩] t (probeFilled t dst clock lit w) := by
  obtain ⟨hother, hfill⟩ := Thread.filled_write ((t.markEmpty dst .u32).advance clock lit) .u32 dst w
  refine ⟨fun r hr => (hother r hr).trans ?_, fun i hi hne d hd => (hfill i hi hne d hd).trans ?_⟩
  · change (t.modReg dst _).reg r = t.reg r
    by_cases h : r = dst
    · obtain rfl : r = 255 := by omega
      rfl
    · exact Thread.reg_modReg_other _ _ h
  · change { (t.modReg dst _).reg (dst + i) with
      word := d.word, code := d.code, tag := .u32, full := true, pending := false } = _
    obtain rfl : i = 0 := by omega
    rw [Nat.add_zero, Thread.reg_modReg t _ (by simpa using hne)]
    rfl

/-! ## The word of Table 9.3 -/

theorem toNat_probeWord (l : Leaf) (hs : l.size < 16) (hh : l.host = false) :
    (probeWord 0 false 0 (some l)).toNat =
      2 ^ 17 * l.size + 2 ^ 15 * (if l.cls = .so then 0 else if l.cls = .rc then 1 else 2) + 2 ^ 13 * l.x.toNat +
      2 ^ 12 * l.at_.toNat + 2 ^ 11 * l.wr.toNat + 2 ^ 10 * l.rd.toNat := by
  have hx := Bool.toNat_le l.x
  have ha := Bool.toNat_le l.at_
  have hw := Bool.toNat_le l.wr
  have hr := Bool.toNat_le l.rd
  have hb (b : Bool) : b2n b = b.toNat := by cases b <;> rfl
  have h0 : (0 : BitVec 8).toNat = 0 := rfl
  cases hc : l.cls <;>
    · simp only [probeWord, hh, hb, hc, h0, Bool.toNat_false, w32, BitVec.toNat_ofNat, reduceCtorEq, if_true, if_false]
      omega

/-! ## The instruction -/

/-- The access of a lane of PROBE, which raises nothing once it is on its way. -/
def probeAcc (f : FmtM) (s : State) (c k : Nat) (t : Thread) (ea : DWord) : Access :=
  { newAcc { s with nextId := s.nextId + 1 } c k t s.nextId ea f.order (.probe f.dst.toNat) with before := none }

theorem probeAcc_lva {f : FmtM} {s : State} {c k : Nat} {t : Thread} {ea : DWord} (h : ea.toNat < 2 ^ 57) :
    (probeAcc f s c k t ea).lva = ea.toNat :=
  newAcc_lva (s := { s with nextId := s.nextId + 1 }) (c := c) (k := k) (t := t) (inst := s.nextId) (o := f.order)
    (kind := .probe f.dst.toNat) h

theorem inFlight_setThread {a : Access} (s : State) (t u : Thread) :
    inFlight (s.setThread a.core a.key t) a u = inFlight s a u := by
  unfold inFlight
  rw [setThread_setThread]
  rfl

/-- The access whose word is known, for the leaf grants it. -/
def Access.told (a : Access) (l : Leaf) : Access := { a with stage := .probed (probeWord 0 false 0 (some l)) }

/-- PROBE has issued: its register is marked, its thread has gone on, and its access holds the word. -/
def probing (f : FmtM) (s : State) (c k : Nat) (t : Thread) (ea : DWord) (l : Leaf) : State :=
  { s.setThread c k ((t.markEmpty f.dst.toNat .u32).advance s.clock f.lit.isSome) with
    accesses := [(probeAcc f s c k t ea).told l], nextId := s.nextId + 2 }

theorem mapped_probe {s : State} {a : Access} {l : Leaf} {dst : Nat} (ha : s.accesses = [a]) (hl : l.host = false)
    (hk : a.kind = .probe dst) (hd : a.dest = none) :
    mapped s a l = { s with accesses := [a.told l] } := by
  rw [← putAcc_self ha (b := a.told l) rfl]
  simp only [mapped, hl, hk, hd, Bool.false_and, Bool.false_eq_true, if_false, Option.isSome_none, Access.told]

theorem loadFills_probed {s : State} {a : Access} {dst : Nat} {w : Word} {t : Thread} (ha : s.accesses = [a])
    (hk : a.kind = .probe dst) (hs : a.stage = .probed w) (ht : s.thread a.core a.key = some t) (hu : t.uid = a.uid)
    {as : List Access} (has : as = []) (evict : List Nat) :
    loadFills s a.id evict = { s.setThread a.core a.key (t.write dst .u32 w) with accesses := as } := by
  subst has
  have ht' : accThread { s with accesses := [] } a = some t := accThread_self ht hu
  simp only [loadFills, findAcc_self ha, hs, probeReply, hk, dropAcc_self ha, retire, List.map_nil, ht']
  rfl

section
variable {f : FmtM} {s : State} {c k dpa : Nat} {t : Thread} {xs : List (List Reg)} {l : Leaf}
  (hs : Single s c k t) (hg : t.guard f.guard = true) (hx : t.sources (mAddrSrcs true f) = .ok xs) (ha : Alone s)
  (hr : t.dstReady f.dst.toNat 1 = .ok ()) (hm : Mapped s c (launchPart s t.seq) (eaOf f xs 0) .load f.order l dpa)
include hs hg hx ha hr hm

theorem exec_probe : exec (.probe f) s = .next (probing f s c k t (eaOf f xs 0) l) := by
  have hc : s.issue.core = c := by rw [hs.1]
  subst hc
  have hlane : probeLane f s.issue.core s.nextId { s with nextId := s.nextId + 1 } k t =
      .done (probing f s s.issue.core k t (eaOf f xs 0) l) := by
    have hstart := startLocal_mapped (a := probeAcc f s s.issue.core k t (eaOf f xs 0))
      ((hm.nextId (s.nextId + 1)).setThread s.issue.core k (t.markEmpty f.dst.toNat .u32))
      (probeAcc_lva hm.canonical) rfl ha.1 (State.thread_setThread ..) f.lit.isSome
    have hback := inFlight_setThread (a := probeAcc f s s.issue.core k t (eaOf f xs 0))
      { s with nextId := s.nextId + 1 } (t.markEmpty f.dst.toNat .u32)
      ((t.markEmpty f.dst.toNat .u32).advance s.clock f.lit.isSome)
    have hmapped := (congrArg (mapped · _ l) hback).trans (mapped_probe rfl hm.hbm rfl rfl)
    simp only [probeLane, hg, Bool.not_true, Bool.false_eq_true, if_false, withSources_ok hx, withDst_ready hr,
      effAddr_eq, addrOf_canonical hm.canonical]
    exact congrArg _ (hstart.trans hmapped)
  exact runMem_done (hold := false) hs hlane ha.2 rfl

theorem probe_fills_word (hl : l.size < 16) : ∃ s1 u w, exec (.probe f) s = .next s1 ∧
    exec (.loadFill (s.nextId + 1) []) s1 = .next { s.setThread c k u with nextId := s.nextId + 2 } ∧
    u = { t.advance s.clock f.lit.isSome with regs := u.regs } ∧ Filled .u32 f.dst.toNat 1 [⟨w, lcc w⟩] t u ∧
    w.toNat = 2 ^ 17 * l.size + 2 ^ 15 * (if l.cls = .so then 0 else if l.cls = .rc then 1 else 2) +
      2 ^ 13 * l.x.toNat + 2 ^ 12 * l.at_.toNat + 2 ^ 11 * l.wr.toNat + 2 ^ 10 * l.rd.toNat := by
  have huid : ((t.markEmpty f.dst.toNat .u32).advance s.clock f.lit.isSome).uid = t.uid := by
    rw [Thread.markEmpty, Thread.modReg_frame]
    rfl
  have hfill := loadFills_probed (dst := f.dst.toNat) (w := probeWord 0 false 0 (some l))
    (a := (probeAcc f s c k t (eaOf f xs 0)).told l) (s := probing f s c k t (eaOf f xs 0) l)
    rfl rfl rfl (State.thread_setThread ..) huid ha.1 []
  have hback := setThread_setThread s c k ((t.markEmpty f.dst.toNat .u32).advance s.clock f.lit.isSome)
    (probeFilled t f.dst.toNat s.clock f.lit.isSome (probeWord 0 false 0 (some l)))
  refine ⟨_, probeFilled t f.dst.toNat s.clock f.lit.isSome (probeWord 0 false 0 (some l)), _,
    exec_probe hs hg hx ha hr hm, ?_, probeFilled_frame .., filled_probeFilled .., toNat_probeWord l hl hm.hbm⟩
  rw [exec_loadFill, ← hback]
  refine Eq.trans (congrArg (happens _) hfill) ?_
  exact happens_same id

end
end Sys2Proof.Machine
end

section
/-! SUPPORT. PGREQ (R227): the one lane of a bundle asks for its page, goes on once it has waited, or faults. -/

namespace Sys2Proof.Machine

/-! ## What the lane gives -/

theorem askLane_waited {f : FmtM} {t : Thread} (hw : t.waited = true) : askLane f t = .skip := by simp [askLane, hw]

theorem addrOf_not_local {ea : DWord} (h : ea.getLsbD 63 = true) (n : Nat) : addrOf ea ≠ .local n := by
  have hb : bit ea.toNat 63 = true := by
    rw [bit_toNat, h]
  unfold addrOf
  dsimp only
  rw [hb]
  split
  · contradiction
  · split
    · simp
    · split <;> simp

section
variable {f : FmtM} {t : Thread} {xs : List (List Reg)} (hg : t.guard f.guard = true)
  (hx : t.sources (mAddrSrcs true f) = .ok xs) (hw : t.waited = false)
include hg hx hw

theorem askLane_local (hl : (eaOf f xs 0).toNat < 2 ^ 57) :
    askLane f t = .page ((eaOf f xs 0).toNat / 4096 * 4096) := by
  simp [askLane, hg, hw, hx, effAddr_eq, addrOf_canonical hl]

theorem askLane_global (h : (eaOf f xs 0).getLsbD 63 = true) (hb : addrOf (eaOf f xs 0) ≠ .bad) :
    askLane f t = .fault (fiAt fcProtect .load (eaOf f xs 0)) := by
  simp only [askLane, hg, hw, hx, effAddr_eq, Bool.not_true, Bool.or_false, Bool.false_eq_true, if_false]
  split
  · next n hn => exact absurd hn (addrOf_not_local h n)
  · next hn => exact absurd hn hb
  · rfl

end

/-! ## What the instruction then does -/

/-- The thread after PGREQ has asked: it waits until its batch is written (R409). -/
def asked (s : State) (t : Thread) : Thread := { t.spun s.clock with status := .blocked (.queueRoom s.nextId) }

theorem blockThread_setThread (s : State) (c k : Nat) (u : Thread) (b : Block) :
    blockThread (s.setThread c k u) c k b = s.setThread c k { u with status := .blocked b } := by
  rw [blockThread, State.modThread_some _ _ _ _ _ (State.thread_setThread ..), setThread_setThread]

section
variable {f : FmtM} {s : State} {c k : Nat} {t : Thread} (hs : Single s c k t)
include hs

theorem exec_pgreq_waited (hw : t.waited = true) :
    exec (.pgreq f) s = .next (s.setThread c k (t.proceed s.clock f.lit.isSome)) := by
  obtain ⟨hi, ht⟩ := hs
  have hr : pgreqLanes f c [k] s = (s.setThread c k (t.proceed s.clock f.lit.isSome), []) := by
    simp [pgreqLanes, ht, askLane_waited hw, Thread.goOn, hw, joinAsks, pushBatch]
  change runRequests f s = _
  simp only [runRequests, hi, hr, takeLanes_nil]
  exact happens_same id

theorem exec_pgreq_fault {i : FInfo} (h : askLane f t = .fault i) :
    exec (.pgreq f) s = .next (takeLanes s c s.nextId [(k, i)]) := by
  obtain ⟨hi, ht⟩ := hs
  have hr : pgreqLanes f c [k] s = (s, [(k, i)]) := by simp [pgreqLanes, ht, h, joinAsks, pushBatch]
  change runRequests f s = _
  simp only [runRequests, hi, hr]
  exact happens_same fun hx => (FaultFrame.takeLanes s c s.nextId [(k, i)]).stalled ▸ hx

theorem exec_pgreq_page {page : Nat} (h : askLane f t = .page page) :
    exec (.pgreq f) s =
      .next (pushBatch (s.setThread c k (asked s t)) (launchPart s t.seq) [requestRec c k t page]) := by
  obtain ⟨hi, ht⟩ := hs
  have hr : pgreqLanes f c [k] s =
      (pushBatch (s.setThread c k (asked s t)) (launchPart s t.seq) [requestRec c k t page], []) := by
    have hj : joinAsks 1 [(page, requestRec c k t page)] = [requestRec c k t page] := rfl
    simp only [pgreqLanes, List.foldl_cons, List.foldl_nil, ht, h, List.nil_append, List.length_singleton, hj,
      blockThread_setThread, List.head?_cons, Option.bind_some]
    rfl
  change runRequests f s = _
  simp only [runRequests, hi, hr, takeLanes_nil]
  exact happens_same id

/-- A page request is the batch of one record for which the thread waits (R227, R409). -/
theorem exec_pgreq_batch {page : Nat} (h : askLane f t = .page page) : ∃ t',
    exec (.pgreq f) s = .next t' ∧ t'.thread c k = some (asked s t) ∧
    (t'.part (launchPart s t.seq)).batches =
      (s.part (launchPart s t.seq)).batches ++ [⟨s.nextId, [requestRec c k t page]⟩] ∧
    t' = { s with cores := t'.cores, parts := t'.parts, nextId := t'.nextId } := by
  refine ⟨_, exec_pgreq_page hs h, State.thread_setThread .., ?_, rfl⟩
  simp [pushBatch, State.part, State.setPart, State.fresh]

end
end Sys2Proof.Machine
end

section
/-! SUPPORT. The obligation on PREF, CINV, CWB, PROBE and PGREQ (R140, R225 to R227). -/

namespace Sys2Proof.Machine

/-- The address of a page request's record is the granule asked for (R227). -/
theorem requestRec_addr (c k : Nat) (t : Thread) (ea : DWord) :
    (requestRec c k t (ea.toNat / 4096 * 4096)).addr.toNat = ea.toNat / 4096 * 4096 := by
  have h := ea.isLt
  change (BitVec.ofNat 64 (ea.toNat / 4096 * 4096)).toNat = _
  rw [BitVec.toNat_ofNat]
  omega

/-- Settles O23: PREF by the frame of what leaves the module, CINV and CWB by their issue and their slice, PROBE by its
issue and its fill, and PGREQ by what its one lane gives. -/
theorem maintenanceAndProbes : Obligations.MaintenanceAndProbes := by
  unfold Obligations.MaintenanceAndProbes
  refine ⟨?_, ?_⟩
  · rintro f s c k t xs _ hs hg hx rfl ha
    exact ⟨pref_goes_on hs hg hx ha, fun l dpa hm hc =>
      ⟨cinv_discards_line hs hg hx ha hm hc, cwb_leaves_clean_line hs hg hx ha hm hc⟩⟩
  · rintro f s c k t xs _ _ hs hg hx rfl ha rfl
    refine ⟨fun l dpa hr hm hl => probe_fills_word hs hg hx ha hr hm hl, fun hw hea => ?_, exec_pgreq_waited hs,
      fun hw h63 hbad => exec_pgreq_fault hs (askLane_global hg hx hw h63 hbad)⟩
    obtain ⟨t', hexec, hthread, hbatch, hframe⟩ := exec_pgreq_batch hs (askLane_local hg hx hw hea)
    exact ⟨t', _, hexec, hthread, hbatch, hframe, rfl, rfl, rfl, requestRec_addr .., rfl, rfl, rfl, rfl, rfl, rfl⟩

end Sys2Proof.Machine
end

section
/-! SUPPORT. A CHAIN at a record whose frame is being bound (R57, R150): the walk of the chain waits as a whole, which the
obligation on copies does not allow for. -/

namespace Sys2Proof.Machine

/-- A thread whose pair v4 holds the head 0x1000 of a chain. -/
def chainThread : Thread where
  uid := 5
  seq := 1
  pc := 0x1008
  blk := 0x1000
  hdr := 0
  entered := true
  regs := [(4, ⟨0x1000, lcc 0x1000, .raw, true, false, 0⟩)]
  preds := 0
  rstk := []
  status := .ready
  since := 0
  demotedUntil := 0
  acquired := true
  waited := false
  bundle := none
  epc := 0
  eblk := 0
  ehdr := 0
  inHandler := false
  epcWritten := false
  trapinfo := 0
  frec := 0
  posted := []
  gid := []
  ext := []

/-- The page 0x1000 of partition 0, readable and writable under key slot 0, at the first frame of main memory. -/
def recordLeaf : Leaf := ⟨0, 0x1000, 0, 0, 0, false, false, true, true, false, .rc⟩

/-- A record of zeros, which the engine does not own. -/
def idleRecord : L2Sector := ⟨List.replicate 16 zeroDatum, false⟩

/-- A module in which core 0 issues to that thread, whose cluster has the page's leaf and whose L2 holds the record, while
a BIND_FRAME of the record's frame is under way. -/
def bindingRecord : State :=
  { State.reset with
    issue := ⟨0, [0]⟩, cores := [(0, { Core.empty with threads := [(0, chainThread)] })]
    clusters := [(0, { Cluster.empty with tlb := [recordLeaf] })]
    parts := [(0, { Part.reset with xlEnable := true, keymask := 1 })]
    l2Tags := [(0, ⟨0, 0⟩)], l2 := [(0, idleRecord)], binds := [(0, ⟨0, 0, 0, none, []⟩)] }

/-- A CHAIN on channel 0 from the pair v4. -/
def chainFromPair : FmtE := { plainE with srcA := 4 }

theorem bindingRecord_single : Single bindingRecord 0 0 chainThread := ⟨rfl, rfl⟩

theorem noLine_bindingRecord : NoLine bindingRecord 0 0 := by
  simp [NoLine, bindingRecord, State.core, tabGet, chanPlace, chainThread]

/-- The CHAIN waits as a whole: nothing comes about but a name that has been given out. -/
theorem exec_chain_bindingRecord :
    exec (.chain chainFromPair) bindingRecord = .next { bindingRecord with nextId := 1, stalled := true } := by rfl

/-- Refutes O26: where a BIND_FRAME of the record's frame is under way, a CHAIN whose record the engine does not own
waits, where the statement has the channel come to rest at the record. -/
theorem not_copies : ¬ Obligations.Copies := by
  unfold Obligations.Copies
  rintro ⟨-, hchain⟩
  obtain ⟨-, -, hrecord⟩ := hchain chainFromPair bindingRecord 0 0 chainThread _ 0x1000 _ bindingRecord_single rfl rfl
    (by decide +kernel) (by decide) noLine_bindingRecord (.inl rfl) ⟨by simp [bindingRecord, State.reset], rfl⟩ rfl
  obtain ⟨hidle, -⟩ := hrecord recordLeaf 0 idleRecord 0#512 (by decide) (by decide) (by decide) rfl rfl rfl rfl rfl rfl rfl
    rfl rfl rfl (by decide) (by decide +kernel)
  obtain ⟨t', he, -, -, hframe⟩ := hidle (by simp)
  rw [exec_chain_bindingRecord] at he
  cases he
  exact absurd (congrArg State.stalled hframe) (by decide)

end Sys2Proof.Machine
end

section
/-! SUPPORT. Instructions of one lane that change their core: how one lane that completes, waits or faults runs, and
what a change of the core and the thread's going on leave. -/

namespace Sys2Proof.Machine

/-! ## One lane -/

section
variable {i : Instr} {hold : Bool} {lane : Nat → State → Nat → Thread → LaneEff} {s s1 : State} {c k : Nat} {t : Thread}
  (he : exec i s = runBundle hold (lane s.issue.core) s) (hs : Single s c k t)
include he hs

theorem exec_of_done (h : lane c s k t = .done s1) (h1 : s1.stalled = s.stalled) : exec i s = .next s1 := by
  have hc : s.issue.core = c := by rw [hs.1]
  rw [he, hc, runBundle_single hs h]
  exact happens_same fun hx => h1 ▸ hx

theorem exec_of_block {b : Block} (h : lane c s k t = .block b s) :
    exec i s = .next (s.setThread c k { t with status := .blocked b }) := by
  have hc : s.issue.core = c := by rw [hs.1]
  rw [he, hc, runBundle_single_block hs h, blockThread, State.modThread_some _ _ _ _ _ hs.2]
  exact happens_same id

theorem faultsWith_of_lane {code : BitVec 8} (h : lane c s k t = .fault (fi code) s) : FaultsWith i s c k code := by
  intro u hu ho
  have hc : s.issue.core = c := by rw [hs.1]
  obtain rfl : t = u := Option.some.inj (hs.2.symm.trans hu)
  rw [he, hc]
  exact runBundle_faults hs h ho rfl

end

/-- A lane whose guard is true runs its instruction (R193). -/
theorem if_guard {t : Thread} {g : Guard} (h : t.guard g = true) (x y : LaneEff) :
    (if !t.guard g then x else y) = y := by rw [h]; rfl

/-! ## A change of the core -/

theorem modCore_frame (s : State) (c : Nat) (g : Core → Core) :
    s.modCore c g = { s with cores := (s.modCore c g).cores } := rfl

theorem setThread_frame (s : State) (c k : Nat) (u : Thread) :
    s.setThread c k u = { s with cores := (s.setThread c k u).cores } := rfl

section
variable (s : State) (c k : Nat) (g : Core → Core) (u : Thread)

/-- A core has changed, and a thread of it has gone on. -/
def coreActs : State := (s.modCore c g).setThread c k u

theorem coreActs_frame : coreActs s c k g u = { s with cores := (coreActs s c k g u).cores } := by
  rw [coreActs, setThread_frame, modCore_frame]

theorem core_coreActs : (coreActs s c k g u).core c =
    { g (s.core c) with threads := tabPut (g (s.core c)).threads k u } := by
  rw [coreActs, State.core_setThread, State.modCore, State.core_setCore]

theorem thread_coreActs : (coreActs s c k g u).thread c k = some u := State.thread_setThread ..

theorem thread_coreActs_other {j : Nat} (hg : (g (s.core c)).threads = (s.core c).threads) (hj : j ≠ k) :
    (coreActs s c k g u).thread c j = s.thread c j := by
  rw [State.thread, core_coreActs]
  exact (tabFind_put_other _ _ _ _ hj).trans (congrArg (tabFind · j) hg)

end

/-! ## Rinks (R153) -/

/-- A rink of a core as it has become. -/
def putRink (q : Nat) (r : Rink) (x : Core) : Core := { x with rk := tabPut x.rk q r }

theorem modRink_found {s : State} {c q : Nat} {r : Rink} (h : tabFind (s.core c).rk q = some r) (g : Rink → Rink) :
    modRink s c q g = s.modCore c (putRink q (g r)) := by
  simp only [modRink, h]
  rfl

theorem rink_coreActs (s : State) (c k q : Nat) (r : Rink) (u : Thread) :
    tabFind ((coreActs s c k (putRink q r) u).core c).rk q = some r := by
  rw [core_coreActs]
  exact tabFind_put_same ..

@[simp] theorem Rink.stage_setStage (r : Rink) (i : Nat) (v : StageState) : (r.setStage i v).stage i = v :=
  tabGet_set_same ..

theorem Rink.stage_setStage_other (r : Rink) {i j : Nat} (v : StageState) (h : j ≠ i) :
    (r.setStage i v).stage j = r.stage j := tabGet_set_other _ _ _ _ _ h

/-! ## Chunk maps (R151) -/

@[simp] theorem Core.map_setMap (x : Core) (i : Nat) (m : ChunkMap) : (x.setMap i m).map i = m := tabGet_set_same ..

theorem Core.map_setMap_other (x : Core) {i j : Nat} (m : ChunkMap) (h : j ≠ i) : (x.setMap i m).map j = x.map j :=
  tabGet_set_other _ _ _ _ _ h

end Sys2Proof.Machine
end

section
/-! SUPPORT. CHSTAT, CMTEST, CMCLR and CMWAIT (R233 to R236, Table 6.7). -/

namespace Sys2Proof.Machine

/-! ## Words of Table 6.7 -/

theorem Channel.status_toNat {x : Channel} (h : x.state < 4) : x.status.toNat =
    2 ^ 62 * x.state + 2 ^ 61 * x.resume.toNat + 2 ^ 48 * x.code.toNat + 2 ^ 36 * (x.row % 4096) + x.records.toNat := by
  have hr : b2n x.resume = x.resume.toNat := by cases x.resume <;> rfl
  have hb := x.resume.toNat_le
  have hc := x.code.isLt
  have hn := x.records.isLt
  rw [Channel.status, w64, BitVec.toNat_ofNat, hr]
  omega

/-- A quarter of a map (R235). -/
theorem mapQuarter_eq (bits : Nat) (v : BitVec 2) :
    w32 (bits / 2 ^ (32 * v.toNat)) = (BitVec.ofNat 128 bits).extractLsb' (32 * v.toNat) 32 := by
  refine BitVec.eq_of_getLsbD_eq fun i hi => ?_
  have hv := v.isLt
  rw [w32, BitVec.getLsbD_ofNat, Nat.testBit_div_two_pow, BitVec.getLsbD_extractLsb', BitVec.getLsbD_ofNat,
    Nat.add_comm i, decide_eq_true (show 32 * v.toNat + i < 128 by omega), Bool.true_and]

theorem mapStatus_eq (held : Bool) (code : BitVec 8) :
    w32 (b2n held * 2 ^ 31 + code.toNat) = BitVec.ofBool held ++ (0 : BitVec 23) ++ code := by
  refine BitVec.eq_of_toNat_eq ?_
  have hc := code.isLt
  have hz : ((BitVec.ofBool held).toNat <<< 23 ||| (0 : BitVec 23).toNat) = b2n held * 2 ^ 23 := by cases held <;> rfl
  rw [BitVec.toNat_append, BitVec.toNat_append, hz, ← Nat.shiftLeft_add_eq_or_of_lt hc, Nat.shiftLeft_eq, w32,
    BitVec.toNat_ofNat]
  cases held <;> simp [b2n] <;> omega

/-! ## Masks (R234) -/

theorem covers_iff (bits mask : Nat) :
    covers bits mask = true ↔ ∀ i, mask.testBit i = true → bits.testBit i = true := by
  rw [covers, beq_iff_eq]
  constructor
  · intro h i hi
    rw [← h, Nat.testBit_and, Bool.and_eq_true] at hi
    exact hi.1
  · intro h
    refine Nat.eq_of_testBit_eq fun i => ?_
    rw [Nat.testBit_and]
    cases hm : mask.testBit i
    · simp
    · simp [h i hm]

/-- The bits that CMWAIT waits for: all, or those of its quarter that the mask word names. -/
theorem testBit_cmMask (f : FmtE) (xs : List (List Reg)) (i : Nat) : (cmMask f xs).testBit i =
    (decide (i < 128) && if f.fn.getLsbD 0 then true
      else decide (32 * f.var.toNat ≤ i) && (srcW xs 0).getLsbD (i - 32 * f.var.toNat)) := by
  unfold cmMask
  split
  · rw [Nat.testBit_two_pow_sub_one, Bool.and_true]
  · have hv := f.var.isLt
    rw [Nat.testBit_mul_two_pow, BitVec.testBit_toNat]
    by_cases hi : i < 128
    · simp [hi]
    · simp [hi, BitVec.getLsbD_of_ge (srcW xs 0) (i - 32 * f.var.toNat) (by omega)]

theorem covers_cmMask_iff (bits : Nat) (f : FmtE) (xs : List (List Reg)) : covers bits (cmMask f xs) = true ↔
    ∀ i < 128, (if f.fn.getLsbD 0 then true
      else decide (32 * f.var.toNat ≤ i) && (srcW xs 0).getLsbD (i - 32 * f.var.toNat)) = true →
        bits.testBit i = true := by
  simp only [covers_iff, testBit_cmMask, Bool.and_eq_true, decide_eq_true_eq, and_imp]

/-! ## Acquires (R134) -/

theorem acquireAt_core_other (s : State) {c d : Nat} (sc : Scope) (h : d ≠ c) :
    (acquireAt s c sc).core d = s.core d := by
  unfold acquireAt
  split
  · exact State.core_setCore_other _ _ h
  · rfl

theorem acquireAt_core (s : State) (c : Nat) (sc : Scope) :
    (acquireAt s c sc).core c = { s.core c with l1 := if 2 ≤ scopeNum sc then [] else (s.core c).l1 } := by
  unfold acquireAt
  split
  · exact State.core_setCore ..
  · rfl

/-- A thread that acquires and goes on reaches nothing else but the L1 and what is on its way there. -/
theorem onlyThread_acquireAt (s : State) (c k : Nat) (sc : Scope) (u : Thread) :
    OnlyThread s ((acquireAt s c sc).setThread c k u) c k where
  others d hd := (State.core_setThread_other _ _ _ _ _ hd).trans (acquireAt_core_other _ _ hd)
  core := by rw [State.core_setThread, acquireAt_core]
  threads x hx := (State.thread_setThread_other _ _ _ _ _ _ (.inr hx)).trans (thread_acquireAt ..)

/-- The acquire of CMWAIT is at .cl where the chunks lie in memory (R155). -/
theorem acquired_acquireAt (s : State) (c k : Nat) (mem : Bool) (u : Thread) :
    Acquired s ((acquireAt s c (if mem then .cl else .co)).setThread c k u) c mem where
  l1 := by
    rw [State.core_setThread, acquireAt_core]
    cases mem <;> rfl
  flying := by
    cases mem
    · rfl
    · refine List.map_congr_left fun a _ => ?_
      simp only [Bool.and_eq_true, beq_iff_eq]

/-! ## The instructions -/

section
variable {f : FmtE} {s : State} {c k : Nat} {t : Thread} (hs : Single s c k t) (hg : t.guard f.guard = true)
include hs hg

/-- CHSTAT writes the pair that its fn names (R233). -/
theorem exec_chstat (hd : t.dstReady f.dst.toNat 2 = .ok ()) : exec (.chstat f) s = .next (s.setThread c k
    ((t.writePair f.dst.toNat (if f.fn = 0 then .u32 else if f.fn = 1 then .addrLo else .raw)
      (if f.fn = 0 then .u32 else if f.fn = 1 then .addrHi else .raw)
      (if f.fn = 0 then (chanOf s c f).status else if f.fn = 1 then (chanOf s c f).head
        else (chanOf s c f).faddr)).advance s.clock false)) := by
  refine exec_of_done (lane := chstatLane f) rfl hs ?_ rfl
  simp only [chstatLane, if_guard hg, withDst_ready hd, beq_iff_eq]
  by_cases h0 : f.fn = 0
  · simp only [h0, if_true]
    rfl
  · by_cases h1 : f.fn = 1
    · simp only [h1, if_true]
      rfl
    · simp only [h0, h1, if_false]
      rfl

/-- CMTEST writes a quarter of the map, or its status word (R235). -/
theorem exec_cmtest (hd : t.dstReady f.dst.toNat 1 = .ok ()) : exec (.cmtest f) s = .next (s.setThread c k
    ((t.write f.dst.toNat .u32 (if f.fn = 0
      then (BitVec.ofNat 128 ((s.core c).map f.unit.toNat).bits).extractLsb' (32 * f.var.toNat) 32
      else BitVec.ofBool ((s.core c).map f.unit.toNat).held ++ (0 : BitVec 23) ++
        ((s.core c).map f.unit.toNat).code)).advance s.clock false)) := by
  refine exec_of_done (lane := cmtestLane f) rfl hs ?_ rfl
  simp only [cmtestLane, if_guard hg, withDst_ready hd, beq_iff_eq, mapQuarter_eq,
    mapStatus_eq]

theorem cmclr_held (h : ((s.core c).map f.unit.toNat).held = true) : FaultsWith (.cmclr f) s c k 0x31 :=
  faultsWith_of_lane (lane := cmclrLane f) rfl hs (by
    simp only [cmclrLane, if_guard hg, h, if_true]
    rfl)

theorem exec_cmclr (h : ((s.core c).map f.unit.toNat).held = false) : exec (.cmclr f) s =
    .next (coreActs s c k (·.setMap f.unit.toNat ChunkMap.clear) (t.advance s.clock false)) := by
  refine exec_of_done (lane := cmclrLane f) rfl hs ?_ rfl
  simp only [cmclrLane, if_guard hg, h, Bool.false_eq_true, if_false, coreActs]

variable {xs : List (List Reg)} (hx : t.sources (eSrcs (ruleCmwait f) f) = .ok xs)
include hx

theorem exec_cmwait_met (h : covers ((s.core c).map f.unit.toNat).bits (cmMask f xs) = true) : exec (.cmwait f) s =
    .next ((acquireAt s c (if ((s.core c).map f.unit.toNat).mem then .cl else .co)).setThread c k
      (t.advance s.clock f.lit.isSome)) := by
  refine exec_of_done (lane := cmwaitLane f) rfl hs ?_ ?_
  · simp only [cmwaitLane, if_guard hg, withSources_ok hx, h, if_true]
  · rw [State.setThread_stalled, acquireAt_frame]

theorem cmwait_failed (h : covers ((s.core c).map f.unit.toNat).bits (cmMask f xs) = false)
    (hh : ((s.core c).map f.unit.toNat).held = false) (hc : ((s.core c).map f.unit.toNat).code ≠ 0) :
    FaultsWith (.cmwait f) s c k ((s.core c).map f.unit.toNat).code :=
  faultsWith_of_lane (lane := cmwaitLane f) rfl hs (by
    simp only [cmwaitLane, if_guard hg, withSources_ok hx, h, Bool.false_eq_true, if_false, hh,
      Bool.not_false, Bool.true_and, bne_iff_ne, ne_eq, hc, not_false_eq_true, if_true])

theorem exec_cmwait_waits (h : covers ((s.core c).map f.unit.toNat).bits (cmMask f xs) = false)
    (hh : ((s.core c).map f.unit.toNat).held = true) : exec (.cmwait f) s =
    .next (s.setThread c k { t with status := .blocked (.mapBits f.unit.toNat (cmMask f xs)) }) :=
  exec_of_block (lane := cmwaitLane f) rfl hs (by
    simp only [cmwaitLane, if_guard hg, withSources_ok hx, h, Bool.false_eq_true, if_false, hh,
      Bool.not_true, Bool.false_and])

end
end Sys2Proof.Machine
end

section
/-! SUPPORT. RKINIT, RKACQ, RKWAIT and RKREL (R153, R237 to R239). -/

namespace Sys2Proof.Machine

/-! ## RKINIT (R237) -/

/-- The limits of R237 on the stage size and the number of stages. -/
def StagesAllowed (size n : Nat) : Prop := 512 ≤ size ∧ size ≤ 65536 ∧ size % 512 = 0 ∧ 2 ≤ n ∧ n ≤ 16

theorem stagesRefused_iff (size n : Nat) :
    (decide (size < 512) || decide (65536 < size) || size % 512 != 0 || decide (n < 2) || decide (16 < n)) = true ↔
      ¬ StagesAllowed size n := by
  simp only [StagesAllowed, Bool.or_eq_true, decide_eq_true_eq, bne_iff_ne, ne_eq]
  omega

theorem scratchAt_beyond {s : State} {c k off bytes : Nat} {g : CoreGang} (hg : gangOf s c k = some g)
    (h : g.size < off + bytes) : scratchAt s c k off bytes = none := by
  simp [scratchAt, hg, show ¬ off + bytes ≤ g.size by omega]

theorem StageState.busy_eq_false {e : StageState} (h : e ≠ .acquired ∧ e ≠ .inflight ∧ e ≠ .consuming) :
    e.busy = false := by
  obtain ⟨ha, hi, hc⟩ := h
  cases e with
  | acquired => exact absurd rfl ha
  | inflight => exact absurd rfl hi
  | consuming => exact absurd rfl hc
  | _ => rfl

section
variable {f : FmtE} {s : State} {c k : Nat} {t : Thread} {xs : List (List Reg)} {g : CoreGang} {base size n : Nat}
  (hs : Single s c k t) (hg : t.guard f.guard = true) (hx : t.sources (eSrcs (ruleRkinit f) f) = .ok xs)
  (hb : base = (srcW xs 0).toNat) (hz : size = (srcW xs 1).toNat) (hn : n = (srcW xs 2).toNat)
include hs hg hx hb

theorem rkinit_unaligned (ha : base % 512 ≠ 0) : FaultsWith (.rkinit f) s c k 0x08 :=
  faultsWith_of_lane (lane := rkinitLane f) rfl hs (by
    simp only [rkinitLane, if_guard hg, withSources_ok hx, ← hb, bne_iff_ne, ne_eq,
      ha, not_false_eq_true, if_true]
    rfl)

variable (ha : base % 512 = 0)
include ha hz hn

theorem rkinit_refused (hl : ¬ StagesAllowed size n) : FaultsWith (.rkinit f) s c k 0x01 :=
  faultsWith_of_lane (lane := rkinitLane f) rfl hs (by
    simp only [rkinitLane, if_guard hg, withSources_ok hx, ← hb, ← hz, ← hn,
      bne_self_eq_false, ha, (stagesRefused_iff ..).mpr hl, if_true]
    rfl)

variable (hl : StagesAllowed size n) (hgang : gangOf s c k = some g)
include hl hgang

theorem rkinit_beyond (hin : g.size < base + n * size) : FaultsWith (.rkinit f) s c k 0x11 :=
  faultsWith_of_lane (lane := rkinitLane f) rfl hs (by
    simp only [rkinitLane, if_guard hg, withSources_ok hx, ← hb, ← hz, ← hn,
      bne_self_eq_false, ha, (stagesRefused_iff size n).not_left.mpr hl, scratchAt_beyond hgang hin,
      Option.isNone_none, if_true]
    rfl)

/-- The rink is free from its first stage on. -/
theorem exec_rkinit (hin : base + n * size ≤ g.size)
    (hfree : ∀ r, tabFind (s.core c).rk f.unit.toNat = some r → ∀ e ∈ r.stages, e.2 ≠ .acquired ∧ e.2 ≠ .inflight ∧
      e.2 ≠ .consuming) :
    exec (.rkinit f) s = .next (coreActs s c k (putRink f.unit.toNat ⟨base, size, n, 0, 0, [], []⟩)
      (t.advance s.clock f.lit.isSome)) := by
  have hidle : ((tabFind (s.core c).rk f.unit.toNat).map fun r => r.stages.any fun e => e.2.busy).getD false =
      false := by
    cases hr : tabFind (s.core c).rk f.unit.toNat with
    | none => rfl
    | some r => exact List.any_eq_false.mpr fun e he => by rw [StageState.busy_eq_false (hfree r hr e he)]; decide
  refine exec_of_done (lane := rkinitLane f) rfl hs ?_ rfl
  simp only [rkinitLane, if_guard hg, withSources_ok hx, ← hb, ← hz, ← hn,
    bne_self_eq_false, ha, (stagesRefused_iff size n).not_left.mpr hl, scratchAt_within hgang hin,
    Option.isNone_some, hidle]
  rfl

end

/-! ## RKACQ and RKWAIT (R238) -/

section
variable {f : FmtE} {s : State} {c k : Nat} {t : Thread} {r : Rink} (hs : Single s c k t) (hg : t.guard f.guard = true)
  (hr : tabFind (s.core c).rk f.unit.toNat = some r) (hd : t.dstReady f.dst.toNat 2 = .ok ())
include hg hr hd

theorem rinkLane_ready (e : Rink → LaneEff) : rinkLane f c s k t e = e r := by
  simp only [rinkLane, if_guard hg, hr, withDst_ready hd]

include hs

/-- RKACQ takes the stage at the producer index. -/
theorem exec_rkacq (h : r.stage r.producer = .free) : exec (.rkacq f) s = .next (coreActs s c k
    (putRink f.unit.toNat { r.setStage r.producer .acquired with producer := (r.producer + 1) % r.count })
    ((writeStage f r r.producer t).advance s.clock false)) := by
  refine exec_of_done (lane := rkacqLane f) rfl hs ?_ rfl
  simp only [rkacqLane, rinkLane_ready hg hr hd, h, bne_self_eq_false, Bool.false_eq_true, if_false, modRink_found hr,
    coreActs]

theorem exec_rkacq_waits (h : r.stage r.producer ≠ .free) : exec (.rkacq f) s =
    .next (s.setThread c k { t with status := .blocked (.rinkFree f.unit.toNat) }) :=
  exec_of_block (lane := rkacqLane f) rfl hs (by
    simp only [rkacqLane, rinkLane_ready hg hr hd, bne_iff_ne, ne_eq, h, not_false_eq_true, if_true])

/-- RKWAIT takes the stage at the consumer index. -/
theorem exec_rkwait (h : r.stage r.consumer = .full) : exec (.rkwait f) s = .next (coreActs s c k
    (putRink f.unit.toNat { r.setStage r.consumer .consuming with consumer := (r.consumer + 1) % r.count })
    ((writeStage f r r.consumer t).advance s.clock false)) := by
  refine exec_of_done (lane := rkwaitLane f) rfl hs ?_ rfl
  simp only [rkwaitLane, rinkLane_ready hg hr hd, h, modRink_found hr, coreActs]

theorem rkwait_faulted {code : BitVec 8} (h : r.stage r.consumer = .faulted code) :
    FaultsWith (.rkwait f) s c k code :=
  faultsWith_of_lane (lane := rkwaitLane f) rfl hs (by simp only [rkwaitLane, rinkLane_ready hg hr hd, h])

theorem exec_rkwait_waits (hf : ∀ code, r.stage r.consumer ≠ .faulted code) (h : r.stage r.consumer ≠ .full) :
    exec (.rkwait f) s = .next (s.setThread c k { t with status := .blocked (.rinkFull f.unit.toNat) }) := by
  refine exec_of_block (lane := rkwaitLane f) rfl hs ?_
  rw [rkwaitLane, rinkLane_ready hg hr hd]
  split
  · next code hc => exact absurd hc (hf code)
  · next hc => exact absurd hc h
  · rfl

end

/-! ## RKREL (R239) -/

section
variable {f : FmtE} {s : State} {c k i : Nat} {t : Thread} {xs : List (List Reg)} {r : Rink} (hs : Single s c k t)
  (hg : t.guard f.guard = true) (hx : t.sources (eSrcs (ruleRkrel f) f) = .ok xs) (hi : i = (srcW xs 0).toNat)
  (hr : tabFind (s.core c).rk f.unit.toNat = some r) (hc : i < r.count)
include hs hg hx hi hr hc

theorem exec_rkrel_consuming (h : r.stage i = .consuming) : exec (.rkrel f) s = .next (coreActs s c k
    (putRink f.unit.toNat (r.setStage i .free)) (t.advance s.clock f.lit.isSome)) := by
  refine exec_of_done (lane := rkrelLane f) rfl hs ?_ rfl
  simp only [rkrelLane, if_guard hg, withSources_ok hx, ← hi, hr,
    Nat.not_le.mpr hc, if_false, h,
    modRink_found hr, coreActs]

/-- A stage whose copy failed is freed at the consumer index, which moves on. -/
theorem exec_rkrel_faulted {code : BitVec 8} (h : r.stage i = .faulted code) (hcons : i = r.consumer) :
    exec (.rkrel f) s = .next (coreActs s c k
      (putRink f.unit.toNat { r.setStage i .free with consumer := (r.consumer + 1) % r.count })
      (t.advance s.clock f.lit.isSome)) := by
  have hb : (i == r.consumer) = true := beq_iff_eq.mpr hcons
  refine exec_of_done (lane := rkrelLane f) rfl hs ?_ rfl
  simp only [rkrelLane, if_guard hg, withSources_ok hx, ← hi, hr, Nat.not_le.mpr hc, if_false, h, hb, if_true,
    modRink_found hr, coreActs]

end
end Sys2Proof.Machine
end

section
/-! SUPPORT. A transfer submitted into a stage of a rink (R143, R151, R155, R239). -/

namespace Sys2Proof.Machine

/-! ## Channels -/

theorem chan_congr {s t : State} (h : t.clusters = s.clusters) (cl ch : Nat) : chan t cl ch = chan s cl ch := by
  rw [chan, State.cluster, h]
  rfl

theorem chan_setChan (s : State) (cl ch : Nat) (x : Channel) : chan (setChan s cl ch x) cl ch = x := by
  rw [chan, setChan, State.cluster_setCluster]
  exact tabGet_set_same ..

theorem chan_setChan_other (s : State) (cl : Nat) {ch j : Nat} (x : Channel) (h : j ≠ ch) :
    chan (setChan s cl ch x) cl j = chan s cl j := by
  rw [chan, setChan, State.cluster_setCluster]
  exact tabGet_set_other _ _ _ _ _ h

/-- No thread waits for the channel, so that none is ahead (R143). -/
theorem chanAhead_noLine {s : State} {c ch : Nat} (h : NoLine s c ch) (k : Nat) (t : Thread) :
    chanAhead s c k t ch = false :=
  List.any_eq_false.mpr fun e he => by
    rw [h e he]
    simp

theorem withChannel_free {s : State} {c ch : Nat} (h : NoLine s c ch)
    (hst : (chan s (c / 4) (4 * (c % 4) + ch)).state = 0 ∨ (chan s (c / 4) (4 * (c % 4) + ch)).state = 2) (k : Nat)
    (t : Thread) (s1 : State) : withChannel s c k t ch (.done s1) = .done s1 := by
  rcases hst with hst | hst <;> simp [withChannel, hst, chanAhead_noLine h]

/-- The core of a channel of a cluster (R142). -/
theorem chanCore_eq {c u : Nat} (h : u < 4) : chanCore (c / 4) (4 * (c % 4) + u) = c := by
  rw [chanCore]
  omega

/-! ## The release of a submission (R155, R303) -/

theorem withRelease_quiet {s : State} {t : Thread} (h : Quiet s t) (c k : Nat) (sc : Scope) (reports : Bool)
    (g : State → LaneEff) : withRelease s c k t sc reports g = g s := by
  obtain ⟨hacc, hposted⟩ := h
  have hnone (p : Access → Bool) : (s.accesses.any fun a => a.uid == t.uid && p a) = false :=
    List.any_eq_false.mpr fun a ha => by simp [hacc a ha]
  have hrel : release s c k t sc reports = .ready s := by
    simp [release, released, hnone, hposted]
  rw [withRelease, hrel]

theorem addrOf_global {ea : DWord} (h : 2 ^ 57 ≤ ea.toNat) (va : Nat) : addrOf ea ≠ .local va := by
  have hlt := ea.isLt
  by_cases h63 : ea.getLsbD 63 = true
  · exact addrOf_not_local h63 va
  · have hb : bit ea.toNat 63 = false := (bit_toNat ..).trans (by simpa using h63)
    have hlow : ea.toNat < 2 ^ 63 := by
      simp only [bit, beq_eq_false_iff_ne] at hb
      omega
    have h57 : (field ea.toNat 62 57 == 0) = false := by
      simp only [field, beq_eq_false_iff_ne]
      omega
    simp [addrOf, hb, h57]

/-- The scope of an operand that is known takes no walk (R155). -/
theorem addrScope_known {s : State} {c p : Nat} {sp : Bool} {kd : AKind} {a : DWord} (h : Known s c p sp kd a) :
    (addrScope s c p sp kd a).2 = s := by
  unfold addrScope
  split
  · rfl
  · next hsp =>
    split
    · next va hva =>
      have hlow : a.toNat < 2 ^ 57 := by
        by_contra hge
        exact addrOf_global (Nat.le_of_not_lt hge) va hva
      obtain rfl : a.toNat = va := Addr.local.inj ((addrOf_canonical hlow).symm.trans hva)
      have htr : (translate s (corePlace c) p a.toNat kd .page none).2 = s := by
        rcases h with h | h | h | ⟨l, hl, hf⟩
        · exact absurd h hsp
        · omega
        · simp [translate, h]
        · unfold translate
          split
          · rfl
          · simp [hl, hf, Option.filter]
      split
      · next hx => rw [hx] at htr; exact htr
      · next hx => rw [hx] at htr; exact htr
    · split <;> rfl

/-! ## The channel, and the stage's map -/

/-- A channel that starts afresh with work (R143). -/
def takeChannel (s : State) (cl ch : Nat) (w : Work) : State :=
  setChan (freshChan s cl ch) cl ch { chan (freshChan s cl ch) cl ch with state := 1, work := some w }

theorem chan_freshChan (s : State) (cl ch : Nat) : chan (freshChan s cl ch) cl ch =
    { chan s cl ch with state := 1, resume := false, code := 0, row := 0, head := 0, faddr := 0, work := none } :=
  chan_setChan ..

theorem chan_takeChannel (s : State) (cl ch : Nat) (w : Work) : chan (takeChannel s cl ch w) cl ch =
    { chan s cl ch with state := 1, resume := false, code := 0, row := 0, head := 0, faddr := 0, work := some w } := by
  rw [takeChannel, chan_setChan, chan_freshChan]

theorem takeChannel_frame (s : State) (cl ch : Nat) (w : Work) : takeChannel s cl ch w =
    { s with clusters := (takeChannel s cl ch w).clusters, nextId := s.nextId + 1 } := by
  rw [takeChannel, setChan, freshChan, setChan, State.setCluster, State.setCluster]

theorem core_takeChannel (s : State) (cl ch : Nat) (w : Work) (d : Nat) :
    (takeChannel s cl ch w).core d = s.core d := core_congr (by rw [takeChannel_frame]) d

theorem chan_takeChannel_other (s : State) (cl : Nat) {ch j : Nat} (w : Work) (h : j ≠ ch) :
    chan (takeChannel s cl ch w) cl j = chan s cl j := by
  rw [takeChannel, chan_setChan_other _ _ _ h]
  exact chan_setChan_other _ _ _ h

/-- The work that runs a transfer from its first chunk on. -/
def Work.running (w : Work) (tr : Transfer) : Work :=
  { w with tr := some tr, issued := [], landed := [], failed := [], buf := [], fault := none }

/-- The map that a transfer takes: a bit 0 for each of its chunks (R151). -/
def Transfer.takenMap (tr : Transfer) : ChunkMap :=
  ⟨(2 ^ 128 - 1) - (2 ^ (min tr.chunks 128) - 1), true, 0, !tr.dstSp⟩

/-- A rink whose stage reports into the map that a transfer has taken (R239). -/
def Rink.takeMap (r : Rink) (i : Nat) (tr : Transfer) : Rink :=
  { r with maps := tabSet ChunkMap.clear r.maps i tr.takenMap }

theorem startTransfer_fresh (s : State) (cl ch : Nat) (w : Work) (tr : Transfer) :
    startTransfer (freshChan s cl ch) cl ch w tr =
      modWorkMap (takeChannel s cl ch (w.running tr)) (chanCore cl ch) (w.running tr) fun _ => tr.takenMap := rfl

theorem startTransfer_rink {s : State} {cl ch c q i : Nat} {r : Rink} {w : Work} (hc : chanCore cl ch = c)
    (hw : w.rink = some (q, i)) (hr : tabFind (s.core c).rk q = some r) (tr : Transfer) :
    startTransfer (freshChan s cl ch) cl ch w tr =
      (takeChannel s cl ch (w.running tr)).modCore c (putRink q (r.takeMap i tr)) := by
  have hr' : tabFind ((takeChannel s cl ch (w.running tr)).core c).rk q = some r := hr
  have hw' : (w.running tr).rink = some (q, i) := hw
  rw [startTransfer_fresh, hc, ← modRink_found hr' fun r => r.takeMap i tr]
  simp only [modWorkMap, hw', Rink.takeMap]

/-- A submission into a stage, whose operands' scopes are known: its channel and its stage's map are taken. -/
theorem submit_rink {s : State} {c k u q i : Nat} {t : Thread} {tr : Transfer} {r : Rink} (ht : s.thread c k = some t)
    (hq : Quiet s t) (hu : u < 4) (hsrc : Known s c (launchPart s t.seq) tr.srcSp .load tr.src) (hdst : tr.dstSp = true)
    (hr : tabFind (s.core c).rk q = some r) (lit : Bool) : submit s c k t u tr (some (q, i)) lit =
      .done (coreActs (takeChannel s (c / 4) (4 * (c % 4) + u) ((newWork s c k t (some (q, i))).running tr)) c k
        (putRink q (r.takeMap i tr)) (t.advance s.clock lit)) := by
  have hd : Known s c (launchPart s t.seq) tr.dstSp .store tr.dst := .inl hdst
  have ht' : ((takeChannel s (c / 4) (4 * (c % 4) + u) ((newWork s c k t (some (q, i))).running tr)).modCore c
      (putRink q (r.takeMap i tr))).thread c k = some t := by
    rw [State.thread, State.modCore, State.core_setCore]
    exact ht
  simp only [submit, addrScope_known hsrc, addrScope_known hd, withRelease_quiet hq,
    startTransfer_rink (chanCore_eq hu) (show (newWork s c k t (some (q, i))).rink = some (q, i) from rfl) hr tr,
    State.modThread_some _ _ _ _ _ ht']
  rfl

/-! ## RKCOMMIT (R239) -/

/-- A transfer of one row into a stage is within Table 6.2. -/
theorem limits_rkcommit {r : Rink} {i n : Nat} {f : FmtE} {xs : List (List Reg)} (hn : n = (srcW xs 2).toNat)
    (h4 : 4 ≤ n) (hmax : n ≤ 65536) (hw : n % 4 = 0) : (rkcommitTransfer r i f xs).limits = true := by
  simp [Transfer.limits, rkcommitTransfer, ← hn, h4, hmax, hw]

theorem takenMap_rkcommit {r : Rink} {i n : Nat} {f : FmtE} {xs : List (List Reg)} (hn : n = (srcW xs 2).toNat)
    (hmax : n ≤ 65536) : (rkcommitTransfer r i f xs).takenMap = ⟨2 ^ 128 - 2 ^ ((n + 511) / 512), true, 0, false⟩ := by
  have hc : min (rkcommitTransfer r i f xs).chunks 128 = (n + 511) / 512 := by
    simp only [Transfer.chunks, Transfer.total, rkcommitTransfer, ← hn]
    omega
  have hp := Nat.two_pow_pos ((n + 511) / 512)
  have hbits : 2 ^ 128 - 1 - (2 ^ ((n + 511) / 512) - 1) = 2 ^ 128 - 2 ^ ((n + 511) / 512) := by omega
  rw [Transfer.takenMap, hc, hbits]
  rfl

theorem rkcommit_unit {f : FmtE} (h : WellFormed (.rkcommit f)) : f.unit.toNat < 32 := by
  simp only [WellFormed, formOk, eOk, Bool.and_eq_true, decide_eq_true_eq] at h
  obtain ⟨⟨⟨⟨⟨⟨⟨-, hunit⟩, -⟩, -⟩, -⟩, -⟩, -⟩, -⟩ := h
  exact hunit

/-- What a commit that starts a copy leaves (R239). -/
def fillingStage (s : State) (c k u q i : Nat) (r : Rink) (t : Thread) (tr : Transfer) (lit : Bool) : State :=
  (coreActs (takeChannel s (c / 4) (4 * (c % 4) + u) ((newWork s c k t (some (q, i))).running tr)) c k
    (putRink q (r.takeMap i tr)) (t.advance s.clock lit)).modCore c (putRink q ((r.takeMap i tr).setStage i .inflight))

section
variable (s : State) (c k u q i : Nat) (r : Rink) (t : Thread) (tr : Transfer) (lit : Bool)

theorem fillingStage_cores : fillingStage s c k u q i r t tr lit =
    { takeChannel s (c / 4) (4 * (c % 4) + u) ((newWork s c k t (some (q, i))).running tr) with
      cores := (fillingStage s c k u q i r t tr lit).cores } := by
  rw [fillingStage, modCore_frame, coreActs_frame]

theorem fillingStage_frame : fillingStage s c k u q i r t tr lit =
    { s with cores := (fillingStage s c k u q i r t tr lit).cores
             clusters := (fillingStage s c k u q i r t tr lit).clusters
             nextId := (fillingStage s c k u q i r t tr lit).nextId } := by
  rw [fillingStage_cores, takeChannel_frame]

theorem core_fillingStage : (fillingStage s c k u q i r t tr lit).core c = { s.core c with
    threads := tabPut (s.core c).threads k (t.advance s.clock lit)
    rk := tabPut (s.core c).rk q ((r.takeMap i tr).setStage i .inflight) } := by
  rw [fillingStage, State.modCore, State.core_setCore, core_coreActs, core_takeChannel, putRink, putRink, tabPut_put]

theorem chan_fillingStage (cl ch : Nat) : chan (fillingStage s c k u q i r t tr lit) cl ch =
    chan (takeChannel s (c / 4) (4 * (c % 4) + u) ((newWork s c k t (some (q, i))).running tr)) cl ch :=
  chan_congr (by rw [fillingStage_cores]) cl ch

/-- The copy has started, and its stage's map is its own (R143, R151, R239). -/
theorem started_fillingStage : Started s (fillingStage s c k u q i r t tr lit) c k (4 * (c % 4) + u) t lit tr
    (some (q, i)) where
  thread := by
    rw [State.thread, core_fillingStage]
    exact tabFind_put_same ..
  others j hj := by
    rw [State.thread, core_fillingStage]
    exact tabFind_put_other _ _ _ _ hj
  channel := by
    refine ⟨(newWork s c k t (some (q, i))).running tr, ?_, rfl, rfl, rfl, rfl, rfl, rfl, rfl, rfl, rfl, fun g hg => ?_⟩
    · rw [chan_fillingStage, chan_takeChannel]
    · simp only [Work.running, newWork, hg, Option.map_some, Option.getD_some, and_self]
  channels j hj := by rw [chan_fillingStage, chan_takeChannel_other _ _ _ hj]
  module := fillingStage_frame ..
  core := by rw [core_fillingStage]

end

section
variable {f : FmtE} {s : State} {c k i n : Nat} {t : Thread} {xs : List (List Reg)} {r : Rink} (hs : Single s c k t)
  (hg : t.guard f.guard = true) (hx : t.sources (eSrcs (ruleRkcommit f) f) = .ok xs) (hi : i = (srcW xs 0).toNat)
  (hn : n = (srcW xs 2).toNat) (hr : tabFind (s.core c).rk (f.unit.toNat % 8) = some r) (hc : i < r.count)
  (hst : r.stage i = .acquired) (hz : n ≤ r.size) (hq : Quiet s t)
include hs hg hx hi hn hr hc hst hz hq

/-- A commit of length 0 makes its stage FULL. -/
theorem exec_rkcommit_full (h0 : n = 0) : exec (.rkcommit f) s = .next (coreActs s c k
    (putRink (f.unit.toNat % 8) (r.setStage i .full)) (t.advance s.clock f.lit.isSome)) := by
  subst h0
  refine exec_of_done (lane := rkcommitLane f) rfl hs ?_ rfl
  simp only [rkcommitLane, if_guard hg, withSources_ok hx, ← hi, ← hn, hr, Nat.not_le.mpr hc, decide_false, hst,
    bne_self_eq_false, Nat.not_lt.mpr hz, Bool.or_self, Bool.false_eq_true, if_false, beq_self_eq_true, if_true,
    withRelease_quiet hq, modRink_found hr, coreActs]

theorem exec_rkcommit_copy (hw : WellFormed (.rkcommit f)) (h4 : 4 ≤ n) (h4n : n % 4 = 0) (hmax : n ≤ 65536)
    (hline : NoLine s c (f.unit.toNat / 8))
    (hfree : (chan s (c / 4) (4 * (c % 4) + f.unit.toNat / 8)).state = 0 ∨
      (chan s (c / 4) (4 * (c % 4) + f.unit.toNat / 8)).state = 2)
    (hsrc : Known s c (launchPart s t.seq) (rkcommitTransfer r i f xs).srcSp .load (rkcommitTransfer r i f xs).src) :
    exec (.rkcommit f) s = .next (fillingStage s c k (f.unit.toNat / 8) (f.unit.toNat % 8) i r t
      (rkcommitTransfer r i f xs) f.lit.isSome) := by
  have hu : f.unit.toNat / 8 < 4 := by
    have := rkcommit_unit hw
    omega
  refine exec_of_done (lane := rkcommitLane f) rfl hs ?_ (by rw [fillingStage_frame])
  simp only [rkcommitLane, if_guard hg, withSources_ok hx, ← hi, ← hn, hr, Nat.not_le.mpr hc, decide_false, hst,
    bne_self_eq_false, Nat.not_lt.mpr hz, Bool.or_self, Bool.false_eq_true, if_false, beq_iff_eq,
    show n ≠ 0 by omega, limits_rkcommit hn h4 hmax h4n, Bool.not_true,
    submit_rink hs.2 hq hu hsrc rfl hr, modRink_found (rink_coreActs ..), withChannel_free hline hfree, fillingStage]

end

end Sys2Proof.Machine
end

section
/-! SUPPORT. The obligation on channels, chunk maps and rinks (R153, R233 to R239). -/

namespace Sys2Proof.Machine

section
variable {f : FmtE} {s : State} {c k : Nat} {t : Thread} (hs : Single s c k t) (hg : t.guard f.guard = true)
include hs hg

/-- CHSTAT: the channel's status, its head or its fault address (R233, Table 6.7). -/
theorem chstat_reads (hd : t.dstReady f.dst.toNat 2 = .ok ()) (hst : (chanOf s c f).state < 4) : ∃ d : DWord,
    exec (.chstat f) s = .next (s.setThread c k
      ((t.writePair f.dst.toNat (if f.fn = 0 then .u32 else if f.fn = 1 then .addrLo else .raw)
        (if f.fn = 0 then .u32 else if f.fn = 1 then .addrHi else .raw) d).advance s.clock false)) ∧
    (f.fn = 0 → d.toNat = 2 ^ 62 * (chanOf s c f).state + 2 ^ 61 * (chanOf s c f).resume.toNat +
      2 ^ 48 * (chanOf s c f).code.toNat + 2 ^ 36 * ((chanOf s c f).row % 4096) + (chanOf s c f).records.toNat) ∧
    (f.fn = 1 → d = (chanOf s c f).head) ∧ (f.fn = 2 → d = (chanOf s c f).faddr) := by
  refine ⟨_, exec_chstat hs hg hd, fun h => ?_, fun h => ?_, fun h => ?_⟩
  · rw [if_pos h, Channel.status_toNat hst]
  · rw [h]; rfl
  · rw [h]; rfl

/-- CMCLR of a map that is not held: nothing but the map has changed (R236). -/
theorem cmclr_clears (h : ((s.core c).map f.unit.toNat).held = false) : ∃ t', exec (.cmclr f) s = .next t' ∧
    t' = { s with cores := t'.cores } ∧ t'.thread c k = some (t.advance s.clock false) ∧
    (∀ j, j ≠ k → t'.thread c j = s.thread c j) ∧
    t'.core c = { s.core c with threads := (t'.core c).threads, cm := (t'.core c).cm } ∧
    (t'.core c).map f.unit.toNat = ⟨2 ^ 128 - 1, false, 0, false⟩ ∧
    ∀ j, j ≠ f.unit.toNat → (t'.core c).map j = (s.core c).map j := by
  refine ⟨_, exec_cmclr hs hg h, coreActs_frame .., thread_coreActs ..,
    fun j hj => thread_coreActs_other _ _ _ _ _ rfl hj, ?_, ?_, fun j hj => ?_⟩
  · rw [core_coreActs]
    rfl
  · rw [core_coreActs]
    exact (s.core c).map_setMap f.unit.toNat ChunkMap.clear
  · rw [core_coreActs]
    exact (s.core c).map_setMap_other ChunkMap.clear hj

/-- RKACQ: the stage at the producer index, from FREE to ACQUIRED (R238). -/
theorem rkacq_acquires {r : Rink} (hr : tabFind (s.core c).rk f.unit.toNat = some r)
    (hd : t.dstReady f.dst.toNat 2 = .ok ()) (h : r.stage r.producer = .free) : ∃ t' r',
    exec (.rkacq f) s = .next t' ∧ t' = { s with cores := t'.cores } ∧
    tabFind (t'.core c).rk f.unit.toNat = some r' ∧
    r' = { r with stages := r'.stages, producer := (r.producer + 1) % r.count } ∧ r'.stage r.producer = .acquired ∧
    (∀ i, i ≠ r.producer → r'.stage i = r.stage i) ∧ t'.thread c k = some
      (((t.write f.dst.toNat .u32 (BitVec.ofNat 32 r.producer)).write (f.dst.toNat + 1) .u32
        (BitVec.ofNat 32 (r.base + r.producer * r.size))).advance s.clock false) :=
  ⟨_, _, exec_rkacq hs hg hr hd h, coreActs_frame .., rink_coreActs .., rfl, r.stage_setStage r.producer .acquired,
    fun _ hi => r.stage_setStage_other .acquired hi, thread_coreActs ..⟩

/-- RKWAIT: the stage at the consumer index, from FULL to CONSUMING (R238). -/
theorem rkwait_consumes {r : Rink} (hr : tabFind (s.core c).rk f.unit.toNat = some r)
    (hd : t.dstReady f.dst.toNat 2 = .ok ()) (h : r.stage r.consumer = .full) : ∃ t' r',
    exec (.rkwait f) s = .next t' ∧ t' = { s with cores := t'.cores } ∧
    tabFind (t'.core c).rk f.unit.toNat = some r' ∧
    r' = { r with stages := r'.stages, consumer := (r.consumer + 1) % r.count } ∧ r'.stage r.consumer = .consuming ∧
    (∀ i, i ≠ r.consumer → r'.stage i = r.stage i) ∧ t'.thread c k = some
      (((t.write f.dst.toNat .u32 (BitVec.ofNat 32 r.consumer)).write (f.dst.toNat + 1) .u32
        (BitVec.ofNat 32 (r.base + r.consumer * r.size))).advance s.clock false) :=
  ⟨_, _, exec_rkwait hs hg hr hd h, coreActs_frame .., rink_coreActs .., rfl, r.stage_setStage r.consumer .consuming,
    fun _ hi => r.stage_setStage_other .consuming hi, thread_coreActs ..⟩

/-- RKREL: a consumed stage, or a faulted one at the consumer index, back to FREE (R239). -/
theorem rkrel_frees {xs : List (List Reg)} {r : Rink} {i : Nat} (hx : t.sources (eSrcs (ruleRkrel f) f) = .ok xs)
    (hi : i = (srcW xs 0).toNat) (hr : tabFind (s.core c).rk f.unit.toNat = some r) (hc : i < r.count)
    (h : r.stage i = .consuming ∨ (∃ code, r.stage i = .faulted code) ∧ i = r.consumer) : ∃ t' r',
    exec (.rkrel f) s = .next t' ∧ t' = { s with cores := t'.cores } ∧
    t'.thread c k = some (t.advance s.clock f.lit.isSome) ∧ tabFind (t'.core c).rk f.unit.toNat = some r' ∧
    r'.stage i = .free ∧ (∀ j, j ≠ i → r'.stage j = r.stage j) ∧ r' = { r with
      stages := r'.stages, consumer := if r.stage i = .consuming then r.consumer else (r.consumer + 1) % r.count } := by
  rcases h with h | ⟨⟨code, h⟩, hcons⟩
  · refine ⟨_, _, exec_rkrel_consuming hs hg hx hi hr hc h, coreActs_frame .., thread_coreActs .., rink_coreActs ..,
      r.stage_setStage i .free, fun _ hj => r.stage_setStage_other .free hj, ?_⟩
    rw [if_pos h]
    rfl
  · refine ⟨_, _, exec_rkrel_faulted hs hg hx hi hr hc h hcons, coreActs_frame .., thread_coreActs .., rink_coreActs ..,
      r.stage_setStage i .free, fun _ hj => r.stage_setStage_other .free hj, ?_⟩
    rw [h, if_neg (by simp)]
    rfl

end

/-- Settles O27: each instruction by what its lane does, and what that leaves of the map, the rink and the channel. -/
theorem channelsMapsAndRinks : Obligations.ChannelsMapsAndRinks := by
  unfold Obligations.ChannelsMapsAndRinks
  refine ⟨?_, ?_⟩
  · rintro f s c k t x m hs hg rfl rfl
    refine ⟨chstat_reads hs hg, fun hd _ => exec_cmtest hs hg hd, cmclr_held hs hg, cmclr_clears hs hg,
      fun xs all hx hall => ?_⟩
    obtain rfl : covers _ (cmMask f xs) = all := Bool.eq_iff_iff.mpr ((covers_cmMask_iff ..).trans hall.symm)
    refine ⟨fun h => ⟨_, exec_cmwait_met hs hg hx h, ?_, onlyThread_acquireAt .., State.thread_setThread ..,
      acquired_acquireAt ..⟩, cmwait_failed hs hg hx, fun h hh => ⟨_, exec_cmwait_waits hs hg hx h hh⟩⟩
    rw [setThread_frame, acquireAt_frame]
  · intro f s c k t xs g hs hg hgang
    refine ⟨?_, fun r hr hd => ⟨rkacq_acquires hs hg hr hd, exec_rkacq_waits hs hg hr hd, rkwait_consumes hs hg hr hd,
      fun code => rkwait_faulted hs hg hr hd, exec_rkwait_waits hs hg hr hd⟩,
      fun r i hx hi hr hc => rkrel_frees hs hg hx hi hr hc, ?_⟩
    · intro base size n hx hb hz hn
      refine ⟨rkinit_unaligned hs hg hx hb, fun ha hl => rkinit_refused hs hg hx hb hz hn ha hl,
        fun ha hl => ⟨rkinit_beyond hs hg hx hb hz hn ha hl hgang, fun hin hfree =>
          ⟨_, exec_rkinit hs hg hx hb hz hn ha hl hgang hin hfree, coreActs_frame .., ?_, thread_coreActs ..,
            fun j hj => thread_coreActs_other _ _ _ _ _ rfl hj, rink_coreActs ..⟩⟩⟩
      rw [core_coreActs]
      rfl
    · intro r i n hx hw hi hn hr hc hst hz hq
      refine ⟨fun h0 => ⟨_, _, exec_rkcommit_full hs hg hx hi hn hr hc hst hz hq h0, coreActs_frame ..,
        thread_coreActs .., rink_coreActs .., r.stage_setStage .., fun j hj => r.stage_setStage_other _ hj⟩, ?_⟩
      rintro x rfl - h4n hmax hline hfree hsrc h4
      refine ⟨_, (r.takeMap i (rkcommitTransfer r i f xs)).setStage i .inflight,
        exec_rkcommit_copy hs hg hx hi hn hr hc hst hz hq hw h4 h4n hmax hline hfree hsrc,
        started_fillingStage .., ?_, Rink.stage_setStage .., fun j hj => Rink.stage_setStage_other _ .inflight hj, ?_⟩
      · rw [core_fillingStage, tabFind_put_same]
      · exact (tabGet_set_same ..).trans (takenMap_rkcommit hn hmax)

end Sys2Proof.Machine
end

section
/-! SUPPORT. NOP, YIELD and PAUSE (R169, R365), and the end of a thread (R176, R364): what each leaves of the module, and
the obligation on them. -/

namespace Sys2Proof.Machine

/-! ## NOP, YIELD and PAUSE -/

/-- An instruction that only paces its thread: the thread is what its effect gives, or steps past it. -/
theorem exec_of_pace {i : Instr} {g : Guard} {p : Nat → Thread → Thread} {s : State} {c k : Nat} {t : Thread}
    (he : exec i s = runBundle false (paceLane g p s.issue.core) s) (hs : Single s c k t) :
    exec i s = .next (s.setThread c k (if t.guard g then p s.clock t else t.advance s.clock false)) := by
  refine exec_of_done he hs ?_ rfl
  cases h : t.guard g <;> simp [paceLane, h, skipLane]

/-! ## Registers that are not complete -/

/-- No convergence register of a core is complete. -/
def NoneComplete (x : Core) : Prop := ∀ e ∈ x.rows, ∀ v ∈ e.2.cv, v.2.complete = false

theorem completeRegs_none {s : State} {c : Nat} (h : NoneComplete (s.core c)) : completeRegs s c = [] := by
  simp only [completeRegs, List.flatten_eq_nil_iff, List.mem_map, forall_exists_index, and_imp, forall_apply_eq_imp_iff₂,
    List.map_eq_nil_iff, List.filter_eq_nil_iff]
  exact fun e he v hv => by simp [h e he v hv]

/-- Nothing fires on a core without a complete register. -/
theorem settleCore_none {s : State} {c : Nat} (h : NoneComplete (s.core c)) : settleCore s c = s := by
  simp [settleCore, settleRegs, completeRegs_none h]

/-! ## The end of a thread -/

theorem modLaunch_frame (s : State) (q : Nat) (f : Launch → Launch) :
    modLaunch s q f = { s with launches := (modLaunch s q f).launches } := by
  unfold modLaunch
  split <;> rfl

theorem pushBatch_frame (s : State) (p : Nat) (rs : List FRec) :
    pushBatch s p rs = { s with parts := (pushBatch s p rs).parts, nextId := (pushBatch s p rs).nextId } := by
  unfold pushBatch
  split <;> rfl

theorem batches_pushBatch (s : State) (p : Nat) {rs : List FRec} (h : rs ≠ []) :
    ((pushBatch s p rs).part p).batches = (s.part p).batches ++ [⟨s.nextId, rs⟩] := by
  unfold pushBatch
  split
  · exact absurd rfl h
  · exact congrArg Part.batches (tabGet_set_same ..)

/-- The module once a thread has left its slot: its posted writes are reported, its launch has the flag of KILL, and
its lanes' faults are dropped. -/
def threadLeft (s : State) (c k : Nat) (t : Thread) (killed : Bool) : State :=
  let s1 := (reportPosted s c t).delThread c k
  let s2 := if killed then modLaunch s1 t.seq fun l => { l with killed := true } else s1
  { s2 with demands := s2.demands.filter fun d => d.uid != t.uid }

theorem threadLeft_frame (s : State) (c k : Nat) (t : Thread) (killed : Bool) : threadLeft s c k t killed = { s with
    cores := (s.delThread c k).cores, launches := (threadLeft s c k t killed).launches
    parts := (reportPosted s c t).parts, demands := (threadLeft s c k t killed).demands
    nextId := (reportPosted s c t).nextId } := by
  have h : reportPosted s c t =
    { s with parts := (reportPosted s c t).parts, nextId := (reportPosted s c t).nextId } := pushBatch_frame ..
  cases killed
  · simp only [threadLeft]
    rw [h]
    rfl
  · simp only [threadLeft, if_true]
    rw [modLaunch_frame, h]
    rfl

/-- A thread ends in a row where others live: it leaves its slot, and its lane the row's registers (R176, R364). -/
theorem endThread_among {s : State} {c k : Nat} {t : Thread} {r : Row} (killed : Bool) (ht : s.thread c k = some t)
    (hr : rowAt s c (k / 32) = some r) (ho : ∃ e ∈ (s.core c).threads, e.1 ≠ k ∧ e.1 / 32 = k / 32) :
    endThread s c k killed = (threadLeft s c k t killed).modCore c fun x =>
      { x with rows := tabPut x.rows (k / 32) (r.without (k % 32)) } := by
  have hc : (threadLeft s c k t killed).core c = (s.delThread c k).core c := by
    rw [threadLeft_frame]
    rfl
  have hd : (s.delThread c k).core c = { s.core c with threads := tabDel (s.core c).threads k } := State.core_setCore ..
  have hrow : tabFind ((threadLeft s c k t killed).core c).rows (k / 32) = some r := by
    rw [hc, hd]
    exact hr
  have hlive : (((threadLeft s c k t killed).core c).threads.any fun e => e.1 / 32 == k / 32) = true := by
    obtain ⟨e, he, hk, hrow⟩ := ho
    rw [hc, hd]
    exact List.any_eq_true.mpr ⟨e, List.mem_filter.mpr ⟨he, by simpa using hk⟩, by simpa using hrow⟩
  simp only [threadLeft] at hrow hlive ⊢
  simp only [endThread, ht, hrow, hlive, if_true]

theorem mem_tabPut_of_ne {α : Type} {t : Tab α} {k : Nat} {v : α} {e : Nat × α} (he : e ∈ t) (hk : e.1 ≠ k) :
    e ∈ tabPut t k v := by
  induction t with
  | nil => exact absurd he List.not_mem_nil
  | cons x t ih =>
    simp only [tabPut]
    split
    · exact List.mem_cons_of_mem _ he
    · rcases List.mem_cons.mp he with rfl | he
      · split
        · next h => exact absurd (beq_iff_eq.mp h) hk
        · exact List.mem_cons_self
      · split
        · exact List.mem_cons_of_mem _ he
        · exact List.mem_cons_of_mem _ (ih he)

theorem mem_tabMap {α : Type} [DecidableEq α] {d : α} {f : α → α} {t : Tab α} {e : Nat × α} (h : e ∈ tabMap d f t) :
    ∃ v, (e.1, v) ∈ t ∧ e.2 = f v := by
  induction t with
  | nil => exact absurd h List.not_mem_nil
  | cons x t ih =>
    have htail : e ∈ tabMap d f t → ∃ v, (e.1, v) ∈ x :: t ∧ e.2 = f v := fun h =>
      (ih h).imp fun v hv => ⟨List.mem_cons_of_mem _ hv.1, hv.2⟩
    simp only [tabMap] at h
    split at h
    · exact htail (mem_tabDel h)
    · rcases List.mem_cons.mp h with rfl | h
      · exact ⟨x.2, List.mem_cons_self, rfl⟩
      · exact htail h

/-- A convergence register without a lane. -/
def CvReg.without (v : CvReg) (l : Nat) : CvReg :=
  { v with decl := clearLane v.decl l, signed := clearLane v.signed l, gmask := clearLane v.gmask l }

theorem cleared_without (v : CvReg) (l : Nat) : Cleared l v (v.without l) := ⟨rfl, rfl, rfl, rfl⟩

theorem reg_rowWithout (r : Row) (l cv : Nat) : (r.without l).reg cv = (r.reg cv).without l :=
  tabGet_map _ (fun v : CvReg => v.without l) (by simp [CvReg.without, CvReg.zero, clearLane]) _ _

theorem mem_rowWithout {r : Row} {l : Nat} {e : Nat × CvReg} (h : e ∈ (r.without l).cv) :
    ∃ v, (e.1, v) ∈ r.cv ∧ e.2 = v.without l := mem_tabMap h

section
variable {s : State} {c k : Nat} {t : Thread} {r : Row} {i : Instr} {g : Guard} {killed : Bool}

/-- The state that an EXIT or a KILL of one thread leaves. -/
def endedIn (s : State) (c k : Nat) (t : Thread) (r : Row) (killed : Bool) : State :=
  (threadLeft (s.setThread c k (t.issued s.clock)) c k (t.issued s.clock) killed).modCore c fun x =>
    { x with rows := tabPut x.rows (k / 32) (r.without (k % 32)) }

theorem core_endedIn : (endedIn s c k t r killed).core c = { s.core c with
    threads := tabDel (tabPut (s.core c).threads k (t.issued s.clock)) k
    rows := tabPut (s.core c).rows (k / 32) (r.without (k % 32)) } := by
  have h : (threadLeft (s.setThread c k (t.issued s.clock)) c k (t.issued s.clock) killed).core c =
      { s.core c with threads := tabDel (tabPut (s.core c).threads k (t.issued s.clock)) k } := by
    rw [threadLeft_frame]
    refine (State.core_setCore ..).trans ?_
    rw [State.core_setThread]
  rw [endedIn, State.modCore, State.core_setCore, h]

theorem core_endedIn_other {d : Nat} (h : d ≠ c) : (endedIn s c k t r killed).core d = s.core d := by
  rw [endedIn, State.modCore, State.core_setCore_other _ _ h, threadLeft_frame]
  exact (State.core_setCore_other _ _ h).trans (State.core_setThread_other _ _ _ _ _ h)

theorem noneComplete_endedIn (ha : NoneComplete (s.core c))
    (hr : ∀ v v', v ∈ r.cv → Cleared (k % 32) v.2 v' → v'.complete = false) :
    NoneComplete ((endedIn s c k t r killed).core c) := by
  intro e he v hv
  rw [core_endedIn] at he
  rcases mem_tabPut he with rfl | he
  · obtain ⟨w, hw, hv⟩ := mem_rowWithout hv
    rw [hv]
    exact hr _ _ hw (cleared_without w _)
  · exact ha e he v hv

theorem launches_endedIn {l : Launch} (hl : tabFind s.launches t.seq = some l) :
    (endedIn s c k t r killed).launches =
      if killed then tabPut s.launches t.seq { l with killed := true } else s.launches := by
  have h : ∀ z : State, z.launches = s.launches →
      (modLaunch z t.seq fun l => { l with killed := true }).launches = tabPut s.launches t.seq { l with killed := true } :=
    fun z hz => by simp only [modLaunch, hz, hl]
  have hp : (reportPosted (s.setThread c k (t.issued s.clock)) c (t.issued s.clock)).launches = s.launches := by
    rw [reportPosted, pushBatch_frame]
    rfl
  rw [endedIn, modCore_frame, threadLeft]
  cases killed
  · exact hp
  · exact h _ hp

theorem parts_endedIn {l : Launch} (hl : tabFind s.launches t.seq = some l) : (endedIn s c k t r killed).parts =
    (pushBatch (s.setThread c k (t.issued s.clock)) l.part
      (t.posted.map fun p => launchRec c t.seq p.code p.detail p.access p.addr)).parts := by
  have h : launchPart (s.setThread c k (t.issued s.clock)) t.seq = l.part := by simp [launchPart, hl]
  rw [← h, endedIn, modCore_frame, threadLeft_frame]
  rfl

theorem exec_end (he : exec i s = runEnd killed g s) (hs : Single s c k t) (hg : t.guard g = true)
    (hrow : rowAt s c (k / 32) = some r) (ho : ∃ e ∈ (s.core c).threads, e.1 ≠ k ∧ e.1 / 32 = k / 32)
    (ha : NoneComplete (s.core c)) (hr : ∀ v v', v ∈ r.cv → Cleared (k % 32) v.2 v' → v'.complete = false) :
    exec i s = .next (endedIn s c k t r killed) := by
  have hrow' : rowAt (s.setThread c k (t.issued s.clock)) c (k / 32) = some r := by
    rw [rowAt, State.core_setThread]
    exact hrow
  have ho' : ∃ e ∈ ((s.setThread c k (t.issued s.clock)).core c).threads, e.1 ≠ k ∧ e.1 / 32 = k / 32 := by
    obtain ⟨e, he, hk, hq⟩ := ho
    rw [State.core_setThread]
    exact ⟨e, mem_tabPut_of_ne he hk, hk, hq⟩
  have hl : endLane killed g c s k t = .done (endedIn s c k t r killed) := by
    rw [endLane, if_guard hg, endThread_among killed (State.thread_setThread ..) hrow' ho']
    rfl
  have hstalled : (endedIn s c k t r killed).stalled = s.stalled := by
    rw [endedIn, threadLeft_frame]
    rfl
  obtain ⟨hi, ht⟩ := hs
  rw [he]
  simp only [runEnd, hi, runLanes, ht, hl, takeLanes_nil, settleCore_none (noneComplete_endedIn ha hr)]
  exact happens_same hstalled.le

end

/-- Settles O14: NOP, YIELD and PAUSE by what their lane does; EXIT and KILL by the state that they leave. -/
theorem pacingAndEnds : Obligations.PacingAndEnds := by
  unfold Obligations.PacingAndEnds
  refine ⟨fun f s c k t hs => ⟨?_, fun hg => ⟨?_, ?_⟩, fun hg => ⟨?_, ?_⟩⟩, ?_⟩
  · rw [exec_of_pace (p := nopThread) rfl hs, nopThread, ite_self]
  · rw [exec_of_pace (p := yieldThread) rfl hs, if_pos hg, yieldThread]
  · rw [exec_of_pace (p := pauseThread) rfl hs, if_pos hg, pauseThread]
  · rw [exec_of_pace (p := yieldThread) rfl hs, if_neg (by simp [hg])]
  · rw [exec_of_pace (p := pauseThread) rfl hs, if_neg (by simp [hg])]
  · intro killed i g s c k t r l hi hs hg hrow hl ho ha hr
    have he : exec i s = runEnd killed g s := by
      rcases hi with ⟨f, rfl, rfl, rfl⟩ | ⟨f, rfl, rfl, rfl⟩ <;> rfl
    refine ⟨_, exec_end he hs hg hrow ho ha hr, ?_, ?_, fun x hx => ?_, fun d hd => core_endedIn_other hd, ?_,
      ⟨r.without (k % 32), ?_, fun cv => ?_⟩, ?_, fun hp => ?_, fun hp => ⟨s.nextId, ?_⟩⟩
    · rw [endedIn, modCore_frame, threadLeft_frame]
      rfl
    · rw [State.thread, core_endedIn]
      exact tabFind_del_same ..
    · rw [State.thread, core_endedIn]
      exact (tabFind_del_other _ _ _ hx).trans (tabFind_put_other _ _ _ _ hx)
    · rw [core_endedIn]
    · rw [rowAt, core_endedIn]
      exact tabFind_put_same ..
    · rw [reg_rowWithout]
      exact cleared_without ..
    · exact launches_endedIn hl
    · rw [parts_endedIn hl, hp]
      rfl
    · rw [State.part, parts_endedIn hl]
      exact batches_pushBatch _ _ (by simpa using hp)

end Sys2Proof.Machine
end

section
/-! SUPPORT. A barrier of two rows on a core whose table of rows is not in ascending order (R368, R369): signing puts a
second entry of the signer's row into that table, and the row counts twice among those that the phase waits for. -/

namespace Sys2Proof.Machine

/-- The thread that signs, in row 0, and the row that has arrived, row 1. Both belong to launch 1, of which level 1 is bound
to cores. -/
def lastThread : Thread := slotThread 0 1 (slotHeader false)

def unorderedRows : Core :=
  { Core.empty with threads := [(0, lastThread)], rows := [(1, slotRow 1), (0, slotRow 1)], launch := some 1 }

/-- The barrier of level 1, at which one row has arrived. -/
def halfArrived : Barrier := ⟨1, (slotRow 1).path, 0, 1⟩

/-- Core 0 issues to the thread. The statement is about every state, also one whose tables are not in canonical form. -/
def rowsUnordered : State :=
  { State.reset with
    issue := ⟨0, [0]⟩, cores := [(0, unorderedRows)], launches := [(1, { slotLaunch with barriers := [halfArrived] })] }

/-- BARA at level 1 on convergence register 0. -/
def baraOne : FmtE := { plainE with unit := 1 }

theorem lastSigner_rowsUnordered : LastSigner rowsUnordered 0 0 0 lastThread (slotRow 1) where
  single := ⟨rfl, rfl⟩
  runs := rfl
  row := rfl
  idle := rfl
  missing := rfl
  last := rfl
  same h := absurd rfl h
  live j hj h := by
    have hlane : (1#32).getLsbD j = true := h
    obtain rfl : j = 0 := by simpa using hlane
    rfl
  alone := by decide

/-- The state that the instruction leaves. -/
def bothArrived : State := settleCore (takeLanes
  (runLanes false 0 (signLane (.bara baraOne) baraOne.guard 0 [] 0) [0] rowsUnordered).1 0 rowsUnordered.nextId []) 0

theorem runSign_of_issue {i : Instr} {g : Guard} {cv c k : Nat} {ks : List Nat} {srcs : List Src} {s : State}
    (h : s.issue = ⟨c, k :: ks⟩) : runSign i g cv srcs s = happens s (settleCore (takeLanes
      (runLanes false c (signLane i g cv srcs c) (k :: ks) s).1 c s.nextId
      (runLanes false c (signLane i g cv srcs c) (k :: ks) s).2) c) := by
  simp [runSign, h]

theorem exec_baraOne : exec (.bara baraOne) rowsUnordered = .next bothArrived :=
  have hrun : exec (.bara baraOne) rowsUnordered = happens rowsUnordered bothArrived :=
    runSign_of_issue (i := .bara baraOne) (s := rowsUnordered) rfl
  have hstalled : bothArrived.stalled = false := by decide +kernel
  hrun.trans (happens_same fun h => by simp [hstalled] at h)

theorem barrierOf_rowsUnordered : barrierOf rowsUnordered (slotRow 1) 1 = halfArrived := by decide +kernel

theorem rowsOf_rowsUnordered : rowsOf rowsUnordered 1 1 (slotRow 1).path = 2 := by decide +kernel

/-- The phase is left with two arrivals, where the two rows have arrived. -/
theorem arrivals_bothArrived : (barrierOf bothArrived (slotRow 1) 1).arrivals = 2 := by decide +kernel

/-- Refutes O15, by BARA of the last signer of the last row. Where the core's table of rows is not in ascending order, the
signature puts a second entry of its row into the table, the phase waits for three arrivals, and it does not complete. -/
theorem not_convergence : ¬ Obligations.Convergence := by
  unfold Obligations.Convergence
  intro h
  obtain ⟨-, hbarriers⟩ := h.2 baraOne rowsUnordered 0 0 lastThread (slotRow 1) _ halfArrived lastSigner_rowsUnordered
    rfl barrierOf_rowsUnordered.symm
  have hquiet : ∀ e ∈ maskKeys (0 / 32) ((slotRow 1).reg baraOne.cv.toNat).decl, ∀ u,
      rowsUnordered.thread 0 e = some u → Quiet rowsUnordered u := by
    intro e he u hu
    have hmem : (e, u) ∈ [(0, lastThread)] := mem_of_tabFind (hu : tabFind unorderedRows.threads e = some u)
    obtain ⟨rfl, rfl⟩ : e = 0 ∧ u = lastThread := by simpa using hmem
    exact ⟨List.forall_mem_nil _, rfl⟩
  obtain ⟨hbara, -⟩ := hbarriers (by decide) (by decide +kernel) (by decide +kernel) hquiet rfl
  obtain ⟨t', r', b', hexec, -, -, -, -, hb', heq, -⟩ := hbara (by decide +kernel)
  obtain rfl : bothArrived = t' := by simpa using exec_baraOne.symm.trans hexec
  rw [if_pos (by rw [show (slotRow 1).seq = 1 from rfl, show halfArrived.level = 1 from rfl,
    show halfArrived.node = (slotRow 1).path from rfl, rowsOf_rowsUnordered]; rfl)] at heq
  have harrivals := congrArg Barrier.arrivals (hb'.symm.trans heq)
  rw [show baraOne.unit.toNat = 1 from rfl, arrivals_bothArrived] at harrivals
  cases harrivals

end Sys2Proof.Machine
end

section
/-! SUPPORT. What the firing of a rendezvous leaves (R174, R175): the threads of one core alone change, the signers go on,
the register is re-armed, and nothing else fires; and the ends of waits (R169, R172), with the obligation on them. -/

namespace Sys2Proof.Machine

/-! ## Threads of one core -/

namespace OnlyThreads

theorem refl (s : State) (c : Nat) : OnlyThreads s s c := ⟨rfl, fun _ _ => rfl, rfl⟩

theorem trans {s t u : State} {c : Nat} (h : OnlyThreads s t c) (g : OnlyThreads t u c) : OnlyThreads s u c where
  module := by rw [g.module, h.module]
  others d hd := (g.others d hd).trans (h.others d hd)
  core := by rw [g.core, h.core]

theorem setThread (s : State) (c k : Nat) (t : Thread) : OnlyThreads s (s.setThread c k t) c where
  module := rfl
  others d hd := State.core_setThread_other s c d k t hd
  core := by rw [State.core_setThread]

theorem modThread (s : State) (c k : Nat) (f : Thread → Thread) : OnlyThreads s (s.modThread c k f) c := by
  cases h : s.thread c k with
  | none => simpa [h] using refl s c
  | some t => simpa [h] using setThread s c k (f t)

theorem foldl {α : Type} {c : Nat} {f : State → α → State} (hf : ∀ s a, OnlyThreads s (f s a) c) (xs : List α) (s : State) :
    OnlyThreads s (xs.foldl f s) c := by
  induction xs generalizing s with
  | nil => exact refl s c
  | cons a xs ih => exact (hf s a).trans (ih _)

theorem clusters {s t : State} {c : Nat} (h : OnlyThreads s t c) : t.clusters = s.clusters := by rw [h.module]

end OnlyThreads

theorem thread_modThread (s : State) (c k j : Nat) (f : Thread → Thread) :
    (s.modThread c k f).thread c j = if j = k then (s.thread c j).map f else s.thread c j := by
  cases h : s.thread c k with
  | none => by_cases hj : j = k <;> simp_all
  | some t =>
    by_cases hj : j = k
    · subst hj
      simp [h]
    · simp [h, hj, State.thread_setThread_other]

theorem thread_foldl_modThread (s : State) (c : Nat) (f : Thread → Thread) {ks : List Nat} (hn : ks.Nodup) (j : Nat) :
    (ks.foldl (fun st k => st.modThread c k f) s).thread c j =
      if j ∈ ks then (s.thread c j).map f else s.thread c j := by
  induction ks generalizing s with
  | nil => simp
  | cons k ks ih =>
    obtain ⟨hk, hn⟩ := List.nodup_cons.mp hn
    rw [List.foldl_cons, ih _ hn, thread_modThread]
    by_cases hj : j = k
    · subst hj
      simp [hk]
    · simp [hj]

/-! ## Rows and their registers -/

theorem mem_maskKeys {row e : Nat} {m : BitVec 32} : e ∈ maskKeys row m ↔ e / 32 = row ∧ m.getLsbD (e % 32) = true := by
  simp only [maskKeys, List.mem_map, List.mem_filter, List.mem_range]
  constructor
  · rintro ⟨j, ⟨hj, hm⟩, rfl⟩
    rw [Nat.mul_add_mod, Nat.mod_eq_of_lt hj]
    exact ⟨by omega, hm⟩
  · rintro ⟨rfl, hm⟩
    exact ⟨e % 32, ⟨by omega, hm⟩, by omega⟩

theorem nodup_maskKeys (row : Nat) (m : BitVec 32) : (maskKeys row m).Nodup :=
  (List.nodup_range.filter _).map fun _ _ h => by simpa using h

theorem maskKeys_ne_nil {row : Nat} {m : BitVec 32} (h : m ≠ 0) : maskKeys row m ≠ [] := by
  intro hnil
  refine h (BitVec.eq_of_getLsbD_eq fun j hj => ?_)
  have hmem : 32 * row + j ∉ maskKeys row m := by simp [hnil]
  rw [mem_maskKeys, Nat.mul_add_mod, Nat.mod_eq_of_lt hj] at hmem
  simpa [show (32 * row + j) / 32 = row by omega] using hmem

theorem Row.reg_setReg (r : Row) (cv : Nat) (v : CvReg) : (r.setReg cv v).reg cv = v := tabGet_set_same ..

theorem Row.setReg_setReg (r : Row) (cv : Nat) {v w : CvReg} (hv : v ≠ CvReg.zero) (hw : w ≠ CvReg.zero) :
    (r.setReg cv v).setReg cv w = r.setReg cv w := by
  simp only [Row.setReg, tabSet_put _ _ _ _ hv, tabSet_put _ _ _ _ hw, tabPut_put]

theorem mem_tabSet {α : Type} [DecidableEq α] {d : α} {t : Tab α} {k : Nat} {v : α} {e : Nat × α}
    (h : e ∈ tabSet d t k v) : e = (k, v) ∨ e ∈ t := by
  unfold tabSet at h
  split at h
  · exact .inr (mem_tabDel h)
  · exact mem_tabPut h

section
variable {s : State} {m : MSet} {r : Row} (hr : rowAt s m.core m.row = some r) (v : CvReg)
include hr

theorem cvReg_of_row : cvReg s m = r.reg m.cv := by simp [cvReg, hr]

theorem setCv_of_row : setCv s m v =
    s.modCore m.core fun x => { x with rows := tabPut x.rows m.row (r.setReg m.cv v) } := by
  simp [setCv, modRow, hr]

theorem core_setCv : (setCv s m v).core m.core =
    { s.core m.core with rows := tabPut (s.core m.core).rows m.row (r.setReg m.cv v) } := by
  rw [setCv_of_row hr]
  exact State.core_setCore ..

theorem core_setCv_other {d : Nat} (hd : d ≠ m.core) : (setCv s m v).core d = s.core d := by
  rw [setCv_of_row hr]
  exact State.core_setCore_other _ _ hd

theorem setCv_frame : setCv s m v = { s with cores := (setCv s m v).cores } := by
  rw [setCv_of_row hr]
  rfl

theorem rowAt_setCv : rowAt (setCv s m v) m.core m.row = some (r.setReg m.cv v) := by
  simp [rowAt, core_setCv hr]

theorem rowAt_setCv_other {x : Nat} (hx : x ≠ m.row) : rowAt (setCv s m v) m.core x = rowAt s m.core x := by
  simp [rowAt, core_setCv hr, tabFind_put_other _ _ _ _ hx]

theorem thread_setCv (c k : Nat) : (setCv s m v).thread c k = s.thread c k := by
  by_cases hc : c = m.core
  · subst hc
    simp [State.thread, core_setCv hr]
  · simp [State.thread, core_setCv_other hr v hc]

end

/-! ## The end of a firing -/

/-- A register of a row is about to execute: the state differs from `s` in the threads of its declared lanes and in its
row, which re-arming it makes equal again. -/
structure Firing (s s1 : State) (m : MSet) (r : Row) : Prop where
  module : s1 = { s with cores := s1.cores }
  others : ∀ d, d ≠ m.core → s1.core d = s.core d
  core : s1.core m.core =
    { s.core m.core with threads := (s1.core m.core).threads, rows := (s1.core m.core).rows }
  rows : ∀ x, x ≠ m.row → rowAt s1 m.core x = rowAt s m.core x
  threads : ∀ x, x ∉ maskKeys m.row (r.reg m.cv).decl → s1.thread m.core x = s.thread m.core x
  rearms : ∃ r1, rowAt s1 m.core m.row = some r1 ∧ (r1.reg m.cv).decl = (r.reg m.cv).decl ∧
    tabPut (s1.core m.core).rows m.row (r1.setReg m.cv { CvReg.zero with decl := (r.reg m.cv).decl }) =
      tabPut (s.core m.core).rows m.row (r.setReg m.cv { CvReg.zero with decl := (r.reg m.cv).decl })

/-- It has executed: threads of its declared lanes have changed, the cluster's state, and the names given out. -/
structure Executed (s1 s2 : State) (m : MSet) (decl : BitVec 32) : Prop where
  module : s2 = { s1 with cores := s2.cores, clusters := s2.clusters, nextId := s2.nextId }
  others : ∀ d, d ≠ m.core → s2.core d = s1.core d
  clusters : ∀ d, d ≠ m.core / 4 → s2.cluster d = s1.cluster d
  core : s2.core m.core = { s1.core m.core with threads := (s2.core m.core).threads }
  threads : ∀ x, x ∉ maskKeys m.row decl → s2.thread m.core x = s1.thread m.core x

/-- The signers resume, and the register is re-armed. -/
theorem endFiring_nil (s : State) (m : MSet) (ss : List Nat) (lit : Bool) : endFiring s m ss lit [] =
    ss.foldl (fun st k => st.modThread m.core k fun t => t.proceed s.clock lit)
      (setCv s m { CvReg.zero with decl := (cvReg s m).decl }) := by
  simp [endFiring]

section
variable {s s1 s2 : State} {m : MSet} {r : Row} {lit : Bool} (hf : Firing s s1 m r)
  (he : Executed s1 s2 m (r.reg m.cv).decl)
include hf he

theorem Firing.rearmed : ∃ s3, OnlyThreads s3 (endFiring s2 m (maskKeys m.row (r.reg m.cv).decl) lit []) m.core ∧
    s3 = { s with cores := s3.cores, clusters := s2.clusters, nextId := s2.nextId } ∧
    (∀ d, d ≠ m.core → s3.core d = s.core d) ∧
    s3.core m.core = { s.core m.core with
      threads := (s3.core m.core).threads
      rows := tabPut (s.core m.core).rows m.row (r.setReg m.cv { CvReg.zero with decl := (r.reg m.cv).decl }) } := by
  obtain ⟨r1, hr1, hdecl, hrows⟩ := hf.rearms
  have hr2 : rowAt s2 m.core m.row = some r1 := by rw [rowAt, he.core]; exact hr1
  have hcv : (cvReg s2 m).decl = (r.reg m.cv).decl := by rw [cvReg_of_row hr2, hdecl]
  refine ⟨setCv s2 m { CvReg.zero with decl := (r.reg m.cv).decl }, ?_, ?_, fun d hd => ?_, ?_⟩
  · rw [endFiring_nil, hcv]
    exact OnlyThreads.foldl (fun _ _ => OnlyThreads.modThread ..) _ _
  · rw [setCv_frame hr2, he.module, hf.module]
  · rw [core_setCv_other hr2 _ hd, he.others d hd, hf.others d hd]
  · rw [core_setCv hr2, he.core]
    simp only [hrows]
    rw [hf.core]

theorem Firing.thread_endFiring (e : Nat) :
    (endFiring s2 m (maskKeys m.row (r.reg m.cv).decl) lit []).thread m.core e =
      if e ∈ maskKeys m.row (r.reg m.cv).decl then (s2.thread m.core e).map fun t => t.proceed s.clock lit
      else s.thread m.core e := by
  obtain ⟨r1, hr1, -⟩ := hf.rearms
  have hr2 : rowAt s2 m.core m.row = some r1 := by rw [rowAt, he.core]; exact hr1
  have hclock : s2.clock = s.clock := by rw [he.module, hf.module]
  rw [endFiring_nil, thread_foldl_modThread _ _ _ (nodup_maskKeys ..), thread_setCv hr2, hclock]
  split
  · rfl
  · next h => rw [he.threads e h, hf.threads e h]

theorem Firing.rows_endFiring : ((endFiring s2 m (maskKeys m.row (r.reg m.cv).decl) lit []).core m.core).rows =
    tabPut (s.core m.core).rows m.row (r.setReg m.cv { CvReg.zero with decl := (r.reg m.cv).decl }) := by
  obtain ⟨s3, hresume, -, -, hcore⟩ := hf.rearmed (lit := lit) he
  rw [hresume.core, hcore]

theorem Firing.firedFrame :
    FiredFrame s (endFiring s2 m (maskKeys m.row (r.reg m.cv).decl) lit []) m.core m.row m.cv r := by
  obtain ⟨s3, hresume, hmodule, hothers, hcore⟩ := hf.rearmed (lit := lit) he
  have hrows := hf.rows_endFiring (lit := lit) he
  refine ⟨?_, fun d hd => ?_, fun d hd => ?_, ?_, ?_, fun x hx => ?_, fun x hx => ?_⟩
  · rw [hresume.module, hmodule]
  · rw [hresume.others d hd, hothers d hd]
  · rw [State.cluster, hresume.clusters, hmodule]
    exact (he.clusters d hd).trans (by rw [hf.module]; rfl)
  · rw [hresume.core, hcore]
  · rw [rowAt, hrows, tabFind_put_same]
  · rw [rowAt, hrows, tabFind_put_other _ _ _ _ hx]
    rfl
  · rw [hf.thread_endFiring he, if_neg]
    rw [mem_maskKeys]
    rintro ⟨hrow, hlane⟩
    rcases hx with hx | hx
    · exact hx hrow
    · simp [hlane] at hx

theorem Firing.clusters_endFiring :
    (endFiring s2 m (maskKeys m.row (r.reg m.cv).decl) lit []).clusters = s2.clusters := by
  obtain ⟨s3, hresume, hmodule, -⟩ := hf.rearmed (lit := lit) he
  rw [hresume.clusters, hmodule]

/-- Nothing fires behind it, on a core where no register of another set is complete. -/
theorem Firing.noneComplete (hr : rowAt s m.core m.row = some r) (hnone : NoneComplete (s.core m.core)) :
    NoneComplete ((endFiring s2 m (maskKeys m.row (r.reg m.cv).decl) lit []).core m.core) := by
  intro e hmem v hv
  rw [hf.rows_endFiring he] at hmem
  rcases mem_tabPut hmem with rfl | hold
  · rcases mem_tabSet hv with rfl | hv
    · rfl
    · exact hnone _ (mem_of_tabFind hr) v hv
  · exact hnone e hold v hv

end

/-- A set about to execute without a step of its own before: a fired register that has waited. -/
theorem Firing.refl {s : State} {m : MSet} {r : Row} (hr : rowAt s m.core m.row = some r) : Firing s s m r :=
  ⟨rfl, fun _ _ => rfl, rfl, fun _ _ => rfl, fun _ _ => rfl, r, hr, rfl, rfl⟩

theorem tryFire_go {s s2 : State} {m : MSet} {r : Row} {o : Nat} {i : Instr} (hr : rowAt s m.core m.row = some r)
    (ho : (r.reg m.cv).fired = some o) (hi : (r.reg m.cv).instr = some i)
    (hgo : fireInstr s m r (r.reg m.cv) o (maskKeys m.row (r.reg m.cv).gmask) (maskKeys m.row (r.reg m.cv).signed) i =
      .go s2 []) :
    tryFire s m = endFiring s2 m (maskKeys m.row (r.reg m.cv).signed) (rendezvousLit i) [] := by
  simp [tryFire, hr, ho, hi, hgo]

/-- What a step of the tiles' owner does is an execution that touches no core. -/
theorem Executed.setTile (s : State) (m : MSet) (i : Nat) (x : Tile) (decl : BitVec 32) :
    Executed s (setTile s (m.core / 4) i x) m decl :=
  ⟨rfl, fun _ _ => rfl, fun _ hd => State.cluster_setCluster_other _ _ hd, rfl, fun _ _ => rfl⟩

/-! ## TACQ -/

theorem waitsBefore_of_first {s : State} {cl o : Nat} (p : Instr → Bool)
    (h : ∀ i < 4, ∀ e ∈ (s.core (4 * cl + i)).rows, ∀ v ∈ e.2.cv, ∀ o', v.2.fired = some o' → o ≤ o') :
    waitsBefore s cl o p = false := by
  rw [waitsBefore, List.any_eq_false]
  intro i hi
  simp only [List.any_eq_true, not_exists, not_and]
  intro e he v hv
  split
  · next o' x ho' _ => simp [Nat.not_lt.mpr (h i (List.mem_range.mp hi) e he v hv o' ho')]
  · simp

section
variable {s : State} {m : MSet} {seq order : Nat} {f : FmtE} {bs : List Nat}

theorem fireTacq_free (hbs : bs ≠ []) (hfree : (tileOf s m.cluster f.unit.toNat).held = false)
    (hclock : order / 32768 < s.clock)
    (hfirst : ∀ i < 4, ∀ e ∈ (s.core (4 * m.cluster + i)).rows, ∀ v ∈ e.2.cv, ∀ o', v.2.fired = some o' → order ≤ o') :
    fireTacq s m seq order f bs = .go (takeBib s m seq f.unit.toNat) [] := by
  simp [fireTacq, hbs, Tile.heldBy, hfree, Nat.not_le.mpr hclock, waitsBefore_of_first _ hfirst]

theorem tileOf_takeBib (t : Nat) : tileOf (takeBib s m seq t) m.cluster t =
    { (if (tileOf s m.cluster t).lastSeq == some seq then tileOf s m.cluster t
        else { tileOf s m.cluster t with elems := [], tag := .f32, code := 0 }) with
      held := true, core := m.core % 4, row := m.row, cv := m.cv, lastSeq := some seq } := tileOf_setTile_same ..

theorem tileOf_takeBib_other {t j : Nat} (h : j ≠ t) : tileOf (takeBib s m seq t) m.cluster j = tileOf s m.cluster j :=
  tileOf_setTile_other _ _ _ h

end

/-! ## The ends of waits -/

theorem happens_of_stalled {s t : State} (h : t.stalled = s.stalled) : happens s t = .next t := happens_same fun hx => h ▸ hx

theorem exec_reconvergenceTimeout {s : State} {c k since : Nat} {p : DWord} {t : Thread} (ht : s.thread c k = some t)
    (hp : t.status = .reconv p since) : exec (.reconvergenceTimeout c k) s = .next
      (if since + 1024 ≤ s.clock then s.setThread c k { t with status := .ready, since := s.clock } else s) := by
  have h : reconvExpires s c k =
      if since + 1024 ≤ s.clock then s.setThread c k { t with status := .ready, since := s.clock } else s := by
    simp [reconvExpires, ht, hp]
  rw [← h]
  refine happens_of_stalled ?_
  rw [h]
  split <;> rfl

theorem exec_demotionExpire {s : State} {c k : Nat} {t : Thread} (ht : s.thread c k = some t) :
    exec (.demotionExpire c k) s =
      .next (if t.demotedUntil ≤ s.clock then s.setThread c k { t with demotedUntil := 0 } else s) := by
  have h : demotionEnds s c k = if t.demotedUntil ≤ s.clock then s.setThread c k { t with demotedUntil := 0 } else s := by
    simp [demotionEnds, ht]
  rw [← h]
  refine happens_of_stalled ?_
  rw [h]
  split <;> rfl

/-- A fired register that executes at its turn, on a core where nothing else is complete. -/
theorem exec_firedRendezvousProceed {s s2 : State} {m : MSet} {r : Row} {o : Nat} {i : Instr}
    (hh : (s.core m.core).halting = false) (hr : rowAt s m.core m.row = some r) (ho : (r.reg m.cv).fired = some o)
    (hi : (r.reg m.cv).instr = some i) (hsigned : (r.reg m.cv).signed = (r.reg m.cv).decl)
    (hnone : NoneComplete (s.core m.core))
    (hgo : fireInstr s m r (r.reg m.cv) o (maskKeys m.row (r.reg m.cv).gmask) (maskKeys m.row (r.reg m.cv).signed) i =
      .go s2 []) (he : Executed s s2 m (r.reg m.cv).decl) :
    exec (.firedRendezvousProceed m.core m.row m.cv) s =
      .next (endFiring s2 m (maskKeys m.row (r.reg m.cv).decl) (rendezvousLit i) []) := by
  have hnext : firedProceeds s m.core m.row m.cv =
      endFiring s2 m (maskKeys m.row (r.reg m.cv).decl) (rendezvousLit i) [] := by
    have hfired : (cvReg s m).fired.isSome = true := by rw [cvReg_of_row hr, ho]; rfl
    simp only [firedProceeds, hh, hfired, Bool.not_false, Bool.and_true, if_true]
    rw [show (⟨m.core, m.row, m.cv⟩ : MSet) = m from rfl, tryFire_go hr ho hi hgo, hsigned]
    exact settleCore_none ((Firing.refl hr).noneComplete he hr hnone)
  refine (happens_of_stalled (s := s) ?_).trans (congrArg _ hnext)
  rw [hnext, ((Firing.refl hr).firedFrame he).module]

/-- Settles O33: a wait is ended by what it waits for, and a fired TACQ executes at its turn as at its firing. -/
theorem waitsEnd : Obligations.WaitsEnd := by
  unfold Obligations.WaitsEnd
  refine ⟨fun s c k t ht => ⟨fun p since hp => ?_, fun h => ?_, fun h => ?_⟩, ?_⟩
  · rw [exec_reconvergenceTimeout ht hp]
    exact ⟨fun h => by rw [if_pos h], fun h => by rw [if_neg (by omega)]⟩
  · rw [exec_demotionExpire ht, if_pos h]
  · rw [exec_demotionExpire ht, if_neg (by omega)]
  · intro s c row cv o f r x hh hclock hr ho hi hg hsigned hlive hnone hfirst hx hfree
    let m : MSet := ⟨c, row, cv⟩
    have hgo := fireTacq_free (s := s) (m := m) (seq := r.seq) (f := f) (maskKeys_ne_nil (row := row) hg)
      (hx ▸ hfree) hclock hfirst
    have he : Executed s (takeBib s m r.seq f.unit.toNat) m (r.reg cv).decl := Executed.setTile ..
    have hf : Firing s s m r := Firing.refl hr
    have htiles : ∀ j, tileOf (endFiring (takeBib s m r.seq f.unit.toNat) m (maskKeys row (r.reg cv).decl) false []) (c / 4) j =
        tileOf (takeBib s m r.seq f.unit.toNat) m.cluster j := fun j => by
      rw [tileOf, State.cluster, hf.clusters_endFiring he]
      rfl
    refine ⟨_, _, exec_firedRendezvousProceed (m := m) hh hr ho hi hsigned hnone hgo he, hf.firedFrame he,
      fun j hj => ?_, fun e hmem u hu => ?_, rfl, ?_⟩
    · rw [show rendezvousLit (.tacq f) = false from rfl, htiles, tileOf_takeBib_other hj]
      exact ⟨rfl, rfl, rfl⟩
    · rw [hf.thread_endFiring he, if_pos hmem, show (takeBib s m r.seq f.unit.toNat).thread c e = s.thread c e from rfl, hu]
      rfl
    · rw [show rendezvousLit (.tacq f) = false from rfl, htiles, tileOf_takeBib]
      refine ⟨rfl, rfl, rfl, rfl, fun hseq => ?_⟩
      have hother : ¬ ((tileOf s m.cluster f.unit.toNat).lastSeq == some r.seq) = true := by
        rw [beq_iff_eq]
        exact hx ▸ hseq
      rw [if_neg hother]
      exact ⟨rfl, rfl, rfl⟩

end Sys2Proof.Machine
end

section
/-! SUPPORT. The last signer of a rendezvous (R174, R175): its lane signs, the register is complete and fires, and what the
instruction does to the set is all that is left to say. -/

namespace Sys2Proof.Machine

/-- A register with one more signature. -/
def CvReg.signedBy (v : CvReg) (l : Nat) (t : Thread) (i : Instr) (g : Guard) : CvReg :=
  { v with
    pc := t.pc, signed := v.signed ||| (1#32 <<< l)
    gmask := if t.guard g then v.gmask ||| (1#32 <<< l) else v.gmask, instr := some i }

/-- The state in which thread `k` has signed. -/
def signedIn (s : State) (m : MSet) (k : Nat) (t : Thread) (i : Instr) (g : Guard) : State :=
  (setCv s m ((cvReg s m).signedBy (k % 32) t i g)).setThread m.core k { t.spun s.clock with status := .signed m.cv }

/-- The register once it has fired. -/
def CvReg.firedBy (s : State) (m : MSet) (k : Nat) (t : Thread) (i : Instr) (g : Guard) : CvReg :=
  { (cvReg s m).signedBy (k % 32) t i g with fired := some (fireOrder s m) }

/-- The state in which the set executes. -/
def firedIn (s : State) (m : MSet) (k : Nat) (t : Thread) (i : Instr) (g : Guard) : State :=
  setCv (signedIn s m k t i g) m (CvReg.firedBy s m k t i g)

theorem fireOne_idle {s : State} {m : MSet} (h : (cvReg s m).complete = false) : fireOne s m = s := by simp [fireOne, h]

/-- The registers that fire are one register, which fires once. -/
theorem foldl_fireOne {s s1 : State} {m : MSet} {ms : List MSet} (hms : ms ≠ []) (h : ∀ x ∈ ms, x = m)
    (hfire : fireOne s m = s1) (hidle : (cvReg s1 m).complete = false) : ms.foldl fireOne s = s1 := by
  have hrest : ∀ xs : List MSet, (∀ x ∈ xs, x = m) → xs.foldl fireOne s1 = s1 := by
    intro xs hxs
    induction xs with
    | nil => rfl
    | cons x xs ih =>
      obtain ⟨rfl, hxs⟩ := List.forall_mem_cons.mp hxs
      rw [List.foldl_cons, fireOne_idle hidle, ih hxs]
  cases ms with
  | nil => exact absurd rfl hms
  | cons x xs =>
    obtain ⟨rfl, hxs⟩ := List.forall_mem_cons.mp h
    rw [List.foldl_cons, hfire, hrest xs hxs]

theorem mem_completeRegs {s : State} {c : Nat} {m : MSet} : m ∈ completeRegs s c ↔
    ∃ e ∈ (s.core c).rows, ∃ v ∈ e.2.cv, v.2.complete = true ∧ m = ⟨c, e.1, v.1⟩ := by
  simp only [completeRegs, List.mem_flatten, List.mem_map]
  constructor
  · rintro ⟨_, ⟨e, he, rfl⟩, hm⟩
    obtain ⟨v, hv, rfl⟩ := List.mem_map.mp hm
    obtain ⟨hv, hc⟩ := List.mem_filter.mp hv
    exact ⟨e, he, v, hv, hc, rfl⟩
  · rintro ⟨e, he, v, hv, hc, rfl⟩
    exact ⟨_, ⟨e, he, rfl⟩, List.mem_map.mpr ⟨v, List.mem_filter.mpr ⟨hv, hc⟩, rfl⟩⟩

theorem settleRegs_fires (n : Nat) {s : State} {c : Nat} (h : completeRegs s c ≠ []) :
    settleRegs (n + 1) s c = settleRegs n ((completeRegs s c).foldl fireOne s) c := by
  rw [settleRegs]
  split
  · next hnil => exact absurd hnil h
  · rfl

theorem settleRegs_idle (n : Nat) {s : State} {c : Nat} (h : NoneComplete (s.core c)) : settleRegs n s c = s := by
  cases n with
  | zero => rfl
  | succ n => rw [settleRegs, completeRegs_none h]

/-- One register of a core is complete, it fires, and nothing is complete behind it. -/
theorem settleCore_one {s s1 : State} {m : MSet} (hh : (s.core m.core).halting = false)
    (hc : (cvReg s m).complete = true) (hall : ∀ x ∈ completeRegs s m.core, x = m) (hne : completeRegs s m.core ≠ [])
    (hfire : tryFire (setCv s m { cvReg s m with fired := some (fireOrder s m) }) m = s1)
    (hidle : (cvReg s1 m).complete = false) (hnone : NoneComplete (s1.core m.core)) : settleCore s m.core = s1 := by
  have hone : fireOne s m = s1 := by simp only [fireOne, hc, if_true, hfire]
  rw [settleCore, hh, if_neg Bool.false_ne_true, settleRegs_fires _ hne, foldl_fireOne hne hall hone hidle,
    settleRegs_idle _ hnone]

namespace LastSigner

section
variable {s : State} {c k cv : Nat} {t : Thread} {r : Row} (hL : LastSigner s c k cv t r) {i : Instr} {g : Guard}
include hL

theorem cvReg_eq : cvReg s ⟨c, k / 32, cv⟩ = r.reg cv := cvReg_of_row hL.row

theorem halting : (s.core c).halting = false := by
  have h := hL.runs
  simp only [Core.issues, Bool.and_eq_true, Bool.not_eq_true'] at h
  exact h.2

theorem declared : (r.reg cv).decl.getLsbD (k % 32) = true := by
  have hk : k % 32 < 32 := Nat.mod_lt _ (by decide)
  rw [← hL.last]
  simp [hk]

theorem mem_declared : k ∈ maskKeys (k / 32) (r.reg cv).decl := mem_maskKeys.mpr ⟨rfl, hL.declared⟩

theorem decl_ne_zero : (r.reg cv).decl ≠ 0 := by
  intro h
  have hk := hL.declared
  simp [h] at hk

theorem signedIn_core : (signedIn s ⟨c, k / 32, cv⟩ k t i g).core c = { s.core c with
    threads := tabPut (s.core c).threads k { t.spun s.clock with status := .signed cv }
    rows := tabPut (s.core c).rows (k / 32) (r.setReg cv ((r.reg cv).signedBy (k % 32) t i g)) } := by
  rw [signedIn, State.core_setThread, core_setCv (m := ⟨c, k / 32, cv⟩) hL.row, hL.cvReg_eq]

theorem signedIn_row : rowAt (signedIn s ⟨c, k / 32, cv⟩ k t i g) c (k / 32) =
    some (r.setReg cv ((r.reg cv).signedBy (k % 32) t i g)) := by
  rw [rowAt, hL.signedIn_core, tabFind_put_same]

theorem signedIn_cvReg : cvReg (signedIn s ⟨c, k / 32, cv⟩ k t i g) ⟨c, k / 32, cv⟩ =
    (r.reg cv).signedBy (k % 32) t i g := by
  rw [cvReg_of_row (m := ⟨c, k / 32, cv⟩) hL.signedIn_row, Row.reg_setReg]

theorem signedIn_fireOrder :
    fireOrder (signedIn s ⟨c, k / 32, cv⟩ k t i g) ⟨c, k / 32, cv⟩ = fireOrder s ⟨c, k / 32, cv⟩ := by
  rw [signedIn, setThread_frame, setCv_frame (m := ⟨c, k / 32, cv⟩) hL.row]
  rfl

theorem complete : ((r.reg cv).signedBy (k % 32) t i g).complete = true := by
  have hs : (r.reg cv).signed ||| (1#32 <<< (k % 32)) = (r.reg cv).decl := hL.last
  simp only [CvReg.complete, CvReg.signedBy, hs, hL.idle, Option.isNone_none, Bool.and_true, beq_self_eq_true,
    bne_iff_ne]
  exact hL.decl_ne_zero

theorem completeRegs_signedIn :
    (∀ x ∈ completeRegs (signedIn s ⟨c, k / 32, cv⟩ k t i g) c, x = ⟨c, k / 32, cv⟩) ∧
      completeRegs (signedIn s ⟨c, k / 32, cv⟩ k t i g) c ≠ [] := by
  constructor
  · intro x hx
    obtain ⟨e, he, v, hv, hc, rfl⟩ := mem_completeRegs.mp hx
    rw [hL.signedIn_core] at he
    rcases mem_tabPut he with rfl | he
    · rcases mem_tabSet hv with rfl | hv
      · rfl
      · rw [hL.alone _ (mem_of_tabFind hL.row) v hv] at hc
        cases hc
    · rw [hL.alone e he v hv] at hc
      cases hc
  · refine List.ne_nil_of_mem (a := ⟨c, k / 32, cv⟩) (mem_completeRegs.mpr ⟨_, mem_of_tabFind hL.signedIn_row,
      (cv, (r.reg cv).signedBy (k % 32) t i g), ?_, hL.complete, rfl⟩)
    refine mem_of_tabFind ?_
    simp only [Row.setReg]
    rw [tabSet_put _ _ _ _ (fun h => by simpa [CvReg.signedBy, CvReg.zero] using congrArg CvReg.instr h), tabFind_put_same]

theorem firedBy_eq : CvReg.firedBy s ⟨c, k / 32, cv⟩ k t i g = { (r.reg cv).signedBy (k % 32) t i g with
    fired := some (fireOrder s ⟨c, k / 32, cv⟩) } := by rw [CvReg.firedBy, hL.cvReg_eq]

/-- The row in which the register has fired. -/
theorem firedIn_row : rowAt (firedIn s ⟨c, k / 32, cv⟩ k t i g) c (k / 32) =
    some (r.setReg cv (CvReg.firedBy s ⟨c, k / 32, cv⟩ k t i g)) := by
  refine (rowAt_setCv (m := ⟨c, k / 32, cv⟩) hL.signedIn_row _).trans ?_
  rw [Row.setReg_setReg _ _ (fun h => by simpa [CvReg.signedBy, CvReg.zero] using congrArg CvReg.instr h)
    (fun h => by simpa [CvReg.firedBy, CvReg.zero] using congrArg CvReg.fired h)]

theorem firedIn_core : (firedIn s ⟨c, k / 32, cv⟩ k t i g).core c = { s.core c with
    threads := tabPut (s.core c).threads k { t.spun s.clock with status := .signed cv }
    rows := tabPut (s.core c).rows (k / 32) (r.setReg cv (CvReg.firedBy s ⟨c, k / 32, cv⟩ k t i g)) } := by
  refine (core_setCv (m := ⟨c, k / 32, cv⟩) hL.signedIn_row _).trans ?_
  rw [hL.signedIn_core, tabPut_put,
    Row.setReg_setReg _ _ (fun h => by simpa [CvReg.signedBy, CvReg.zero] using congrArg CvReg.instr h)
    (fun h => by simpa [CvReg.firedBy, CvReg.zero] using congrArg CvReg.fired h)]

theorem firedIn_others {d : Nat} (hd : d ≠ c) : (firedIn s ⟨c, k / 32, cv⟩ k t i g).core d = s.core d := by
  rw [firedIn, core_setCv_other (m := ⟨c, k / 32, cv⟩) hL.signedIn_row _ hd, signedIn,
    State.core_setThread_other _ _ _ _ _ hd, core_setCv_other (m := ⟨c, k / 32, cv⟩) hL.row _ hd]

theorem firedIn_frame : firedIn s ⟨c, k / 32, cv⟩ k t i g =
    { s with cores := (firedIn s ⟨c, k / 32, cv⟩ k t i g).cores } := by
  rw [firedIn, setCv_frame (m := ⟨c, k / 32, cv⟩) hL.signedIn_row, signedIn, setThread_frame,
    setCv_frame (m := ⟨c, k / 32, cv⟩) hL.row]

theorem firedIn_thread (e : Nat) : (firedIn s ⟨c, k / 32, cv⟩ k t i g).thread c e =
    if e = k then some { t.spun s.clock with status := .signed cv } else s.thread c e := by
  rw [State.thread, hL.firedIn_core]
  split
  · next h => rw [h, tabFind_put_same]
  · next h => exact tabFind_put_other _ _ _ _ h

theorem firing : Firing s (firedIn s ⟨c, k / 32, cv⟩ k t i g) ⟨c, k / 32, cv⟩ r where
  module := hL.firedIn_frame
  others _ hd := hL.firedIn_others hd
  core := by rw [hL.firedIn_core]
  rows x hx := by rw [rowAt, hL.firedIn_core]; exact tabFind_put_other _ _ _ _ hx
  threads x hx := by
    refine (hL.firedIn_thread x).trans (if_neg ?_)
    rintro rfl
    exact hx hL.mem_declared
  rearms := by
    refine ⟨_, hL.firedIn_row, ?_, ?_⟩
    · rw [Row.reg_setReg, hL.firedBy_eq]
      rfl
    · rw [hL.firedIn_core, tabPut_put, Row.setReg_setReg]
      · exact fun h => by simpa [CvReg.firedBy, CvReg.zero] using congrArg CvReg.fired h
      · exact fun h => hL.decl_ne_zero (by simpa [CvReg.zero] using congrArg CvReg.decl h)

/-- What fires at the last signer is what is left of its instruction: `B` is the lanes with a true guard, and every
declared lane has signed. -/
theorem exec_go {srcs : List Src} {s2 : State} (hexec : exec i s = runSign i g cv srcs s)
    (hsrc : t.guard g = true → ∃ xs, t.sources srcs = .ok xs)
    (hgo : fireInstr (firedIn s ⟨c, k / 32, cv⟩ k t i g) ⟨c, k / 32, cv⟩
      (r.setReg cv (CvReg.firedBy s ⟨c, k / 32, cv⟩ k t i g)) (CvReg.firedBy s ⟨c, k / 32, cv⟩ k t i g)
      (fireOrder s ⟨c, k / 32, cv⟩) (setB r cv k t g) (maskKeys (k / 32) (r.reg cv).decl) i = .go s2 [])
    (he : Executed (firedIn s ⟨c, k / 32, cv⟩ k t i g) s2 ⟨c, k / 32, cv⟩ (r.reg cv).decl) :
    exec i s = .next (endFiring s2 ⟨c, k / 32, cv⟩ (maskKeys (k / 32) (r.reg cv).decl) (rendezvousLit i) []) := by
  have hlane : signLane i g cv srcs c s k t = .done (signedIn s ⟨c, k / 32, cv⟩ k t i g) := by
    have hfresh : ¬ (((r.reg cv).signed != 0) && ((r.reg cv).pc != t.pc)) = true := by
      simp only [Bool.and_eq_true, bne_iff_ne, not_and, not_not]
      exact hL.same
    obtain ⟨xs, hxs⟩ : ∃ xs, t.sources (if t.guard g then srcs else []) = .ok xs := by
      split
      · next hg => exact hsrc hg
      · exact ⟨[], rfl⟩
    simp only [signLane, hL.cvReg_eq, hL.declared, Bool.not_true, Bool.false_or, if_neg hfresh, withSources_ok hxs]
    rw [signedIn, hL.cvReg_eq]
    rfl
  have hrun : exec i s = happens s (settleCore (signedIn s ⟨c, k / 32, cv⟩ k t i g) c) := by
    rw [hexec, runSign_of_issue hL.single.1]
    simp [runLanes, hL.single.2, hlane]
  have hbs : maskKeys (k / 32) (CvReg.firedBy s ⟨c, k / 32, cv⟩ k t i g).gmask = setB r cv k t g := by
    rw [hL.firedBy_eq]
    rfl
  have hss : (CvReg.firedBy s ⟨c, k / 32, cv⟩ k t i g).signed = (r.reg cv).decl := by
    rw [hL.firedBy_eq]
    exact hL.last
  have hfire : tryFire (firedIn s ⟨c, k / 32, cv⟩ k t i g) ⟨c, k / 32, cv⟩ =
      endFiring s2 ⟨c, k / 32, cv⟩ (maskKeys (k / 32) (r.reg cv).decl) (rendezvousLit i) [] := by
    have h := tryFire_go (m := ⟨c, k / 32, cv⟩) (o := fireOrder s ⟨c, k / 32, cv⟩) (i := i) (s2 := s2) hL.firedIn_row
      (by rw [Row.reg_setReg]; rfl) (by rw [Row.reg_setReg]; rfl)
      (by rw [Row.reg_setReg, hbs, hss]; exact hgo)
    rw [h, Row.reg_setReg, hss]
  have hf : Firing s (firedIn s ⟨c, k / 32, cv⟩ k t i g) ⟨c, k / 32, cv⟩ r := hL.firing
  have hsettle : settleCore (signedIn s ⟨c, k / 32, cv⟩ k t i g) c =
      endFiring s2 ⟨c, k / 32, cv⟩ (maskKeys (k / 32) (r.reg cv).decl) (rendezvousLit i) [] := by
    refine settleCore_one (m := ⟨c, k / 32, cv⟩) ?_ ?_ hL.completeRegs_signedIn.1 hL.completeRegs_signedIn.2 ?_ ?_
      (hf.noneComplete he hL.row hL.alone)
    · rw [hL.signedIn_core]
      exact hL.halting
    · rw [hL.signedIn_cvReg]
      exact hL.complete
    · refine Eq.trans ?_ hfire
      rw [firedIn, hL.firedBy_eq, hL.signedIn_cvReg, hL.signedIn_fireOrder]
    · rw [cvReg_of_row (hf.firedFrame he).armed, Row.reg_setReg]
      rfl
  rw [hrun, hsettle]
  exact happens_of_stalled (by rw [(hf.firedFrame he).module])

end

end LastSigner

end Sys2Proof.Machine
end

section
/-! SUPPORT. The requests of MMA and MMAX (R184, R287): what the last signer's set lends and enters, and the obligation on
them. -/

namespace Sys2Proof.Machine

/-! ## What acts on the register file alone -/

/-- An action on a thread's registers and predicates, which neither sees nor changes how the thread is held. -/
structure ActsOnFile (h : Thread → Thread) : Prop where
  held : ∀ t st d, h { t with status := st, demotedUntil := d } = { h t with status := st, demotedUntil := d }
  hdr : ∀ t, (h t).hdr = t.hdr
  waited : ∀ t, (h t).waited = t.waited

namespace ActsOnFile

theorem id : ActsOnFile fun t => t := ⟨fun _ _ _ => rfl, fun _ => rfl, fun _ => rfl⟩

theorem comp {g h : Thread → Thread} (hg : ActsOnFile g) (hh : ActsOnFile h) : ActsOnFile fun t => g (h t) :=
  ⟨fun t st d => by rw [hh.held, hg.held], fun t => (hg.hdr _).trans (hh.hdr t), fun t => (hg.waited _).trans (hh.waited t)⟩

theorem foldl {α : Type} {h : Thread → α → Thread} (hh : ∀ a, ActsOnFile (h · a)) (xs : List α) :
    ActsOnFile fun t => xs.foldl h t := by
  induction xs with
  | nil => exact id
  | cons a xs ih => exact ih.comp (hh a)

theorem modReg (r : Nat) (f : Reg → Reg) : ActsOnFile fun t => t.modReg r f := by
  by_cases hr : r = 255
  · subst hr
    exact id
  · refine ⟨fun t st d => ?_, fun t => ?_, fun t => ?_⟩ <;> simp [Thread.modReg, Thread.setReg, Thread.reg, hr]

theorem setPred (p : Nat) (v : Bool) : ActsOnFile fun t => t.setPred p v := by
  by_cases hp : 7 ≤ p
  · simpa [Thread.setPred, hp] using id
  · refine ⟨fun t st d => ?_, fun t => ?_, fun t => ?_⟩ <;> simp [Thread.setPred, hp]

/-- The signer's hold between its signature and its resumption leaves no trace but the demotion from its issue. -/
theorem proceed_signed {h : Thread → Thread} (hh : ActsOnFile h) (t : Thread) (st : Status) (k clock : Nat) (lit : Bool) :
    (h { t.spun clock with status := st }).proceed clock lit = goneOn k k (h t) clock lit := by
  have hself : h t = { h t with status := t.status, demotedUntil := t.demotedUntil } := hh.held t t.status t.demotedUntil
  have hdemoted : (h t).demotedUntil = t.demotedUntil := by rw [hself]
  have hspins : (hdrSpin (h t).hdr && !(h t).waited) = (hdrSpin t.hdr && !t.waited) := by rw [hh.hdr, hh.waited]
  have hspun : ({ t.spun clock with status := st } : Thread) = { t with
      status := st, demotedUntil := if (hdrSpin t.hdr && !t.waited) = true then clock + 256 else t.demotedUntil } := by
    unfold Thread.spun
    split <;> rfl
  rw [hspun, hh.held, goneOn, if_pos rfl, Thread.spun, hspins]
  split
  · rfl
  · rw [← hdemoted]
    rfl

end ActsOnFile

/-- A signer that acts on its file while its set executes, once it has resumed. -/
theorem proceed_firedIn {s : State} {c k cv e : Nat} {t : Thread} {r : Row} (hL : LastSigner s c k cv t r) {i : Instr}
    {g : Guard} {u : Thread} (hu : s.thread c e = some u) {h : Thread → Thread} (hh : ActsOnFile h) (lit : Bool) :
    ((firedIn s ⟨c, k / 32, cv⟩ k t i g).thread c e).map (fun x => (h x).proceed s.clock lit) =
      some (goneOn k e (h u) s.clock lit) := by
  rw [hL.firedIn_thread]
  by_cases he : e = k
  · subst he
    obtain rfl : t = u := Option.some.inj (hL.single.2.symm.trans hu)
    simp [hh.proceed_signed t _ e]
  · simp [he, hu, goneOn]

/-! ## Lending -/

theorem actsOnFile_lend (rs : List Nat) : ActsOnFile fun t => rs.foldl lendReg t :=
  ActsOnFile.foldl (fun r => ActsOnFile.modReg r _) rs

theorem lendReg_frame (t : Thread) (r : Nat) : lendReg t r = { t with regs := (lendReg t r).regs } :=
  Thread.modReg_frame ..

theorem lend_frame (rs : List Nat) (t : Thread) : rs.foldl lendReg t = { t with regs := (rs.foldl lendReg t).regs } := by
  induction rs generalizing t with
  | nil => rfl
  | cons r rs ih =>
    rw [List.foldl_cons, ih, lendReg_frame t r]

theorem reg_lend (rs : List Nat) (t : Thread) {i : Nat} (hi : i ≠ 255) :
    (rs.foldl lendReg t).reg i = { t.reg i with lent := (t.reg i).lent + rs.count i } := by
  induction rs generalizing t with
  | nil => rfl
  | cons r rs ih =>
    rw [List.foldl_cons, ih]
    by_cases hr : i = r
    · subst hr
      simp [lendReg, Thread.reg_modReg _ _ hi, Nat.add_assoc, Nat.add_comm 1]
    · simp [lendReg, Thread.reg_modReg_other _ _ hr, Ne.symm hr]

/-! ## Entering a pass -/

/-- The request without its lanes. -/
def passHead (s : State) (f : FmtE) (scaled : Bool) (prio : Nat) : Pass :=
  ⟨[], f.srcA.toNat, f.srcB.toNat, if scaled then some f.srcC.toNat else none, f.fn.getLsbD 0, f.type, prio, s.clock, true⟩

/-- The lanes of a request and what they lend. -/
def passLanes (s : State) (c : Nat) (rs ks : List Nat) : List PassLane :=
  ks.filterMap fun k => (s.thread c k).map fun u => ⟨k, u.uid, regWords u rs⟩

def lentIn (s : State) (c : Nat) (rs ks : List Nat) : State :=
  ks.foldl (fun st k => st.modThread c k fun u => rs.foldl lendReg u) s

theorem onlyThreads_lentIn (s : State) (c : Nat) (rs ks : List Nat) : OnlyThreads s (lentIn s c rs ks) c :=
  OnlyThreads.foldl (fun _ _ => OnlyThreads.modThread ..) _ _

theorem enterPass_eq (s : State) (m : MSet) (i : Nat) (f : FmtE) (scaled : Bool) (prio : Nat) (ks : List Nat) :
    enterPass s m i f scaled prio ks = pushOp (lentIn s m.core (passHead s f scaled prio).regs ks) m i
      (.pass { passHead s f scaled prio with
        lanes := passLanes s m.core (passHead s f scaled prio).regs ks }) := rfl

theorem cluster_of_clusters {s t : State} (h : t.clusters = s.clusters) (d : Nat) : t.cluster d = s.cluster d := by
  rw [State.cluster, h]
  rfl

theorem tileOf_of_clusters {s t : State} (h : t.clusters = s.clusters) (d i : Nat) : tileOf t d i = tileOf s d i := by
  rw [tileOf, cluster_of_clusters h]
  rfl

theorem Executed.pushOp {s s1 : State} {m : MSet} {decl : BitVec 32} (h : OnlyThreads s s1 m.core)
    (ht : ∀ x, x ∉ maskKeys m.row decl → s1.thread m.core x = s.thread m.core x) (i : Nat) (o : TileOpKind) :
    Executed s (pushOp s1 m i o) m decl where
  module := by
    have hmodule := h.module
    rw [hmodule]
    rfl
  others := h.others
  clusters d hd := (State.cluster_setCluster_other _ _ hd).trans (cluster_of_clusters h.clusters d)
  core := h.core
  threads := ht

theorem tileOf_pushOp (s : State) (m : MSet) (i : Nat) (o : TileOpKind) : tileOf (pushOp s m i o) m.cluster i =
    { tileOf s m.cluster i with
      queue := (tileOf s m.cluster i).queue ++ [⟨s.nextId, m.core, m.row, m.cv, o⟩] } := tileOf_setTile_same ..

theorem tileOf_pushOp_other (s : State) (m : MSet) {i j : Nat} (o : TileOpKind) (h : j ≠ i) :
    tileOf (pushOp s m i o) m.cluster j = tileOf s m.cluster j := tileOf_setTile_other _ _ _ h

/-- The set holds the tile, its checks pass, and there is room: the request enters. -/
theorem fireMma_enters {s : State} {m : MSet} {r : Row} {order : Nat} {scaled : Bool} {f : FmtE} {bs : List Nat}
    (hbs : bs ≠ []) (hheld : (tileOf s m.cluster f.unit.toNat).heldBy m = true)
    (htag : (tileOf s m.cluster f.unit.toNat).tag = .f32 ∨ (tileOf s m.cluster f.unit.toNat).tag = .raw)
    (hcode : (tileOf s m.cluster f.unit.toNat).code = 0) (hcount : passCount s m.cluster < 16)
    (hroom : (tileOf s m.cluster f.unit.toNat).queue.length < 255)
    (hfirst : ∀ i < 4, ∀ e ∈ (s.core (4 * m.cluster + i)).rows, ∀ v ∈ e.2.cv, ∀ o', v.2.fired = some o' → order ≤ o') :
    fireMma s m r order scaled f bs = .go (enterPass s m f.unit.toNat f scaled (rowPrio s r) bs) [] := by
  have htagOk : tileTagOk (tileOf s m.cluster f.unit.toNat) = true := by
    rcases htag with h | h <;> simp [tileTagOk, h]
  simp [fireMma, hbs, hheld, htagOk, hcode, queueFull, Nat.not_le.mpr hcount, Nat.not_le.mpr hroom,
    waitsBefore_of_first _ hfirst]

/-- No set of the cluster has fired before one that fires while none waits. -/
theorem LastSigner.firstIn {s : State} {c k cv : Nat} {t : Thread} {r : Row} (hL : LastSigner s c k cv t r) {i : Instr}
    {g : Guard} (hidle : ∀ i < 4, ∀ e ∈ (s.core (4 * (c / 4) + i)).rows, ∀ v ∈ e.2.cv, v.2.fired = none) :
    ∀ j < 4, ∀ e ∈ ((firedIn s ⟨c, k / 32, cv⟩ k t i g).core (4 * (c / 4) + j)).rows, ∀ v ∈ e.2.cv,
      ∀ o', v.2.fired = some o' → fireOrder s ⟨c, k / 32, cv⟩ ≤ o' := by
  intro j hj e he v hv o' ho'
  by_cases hc : 4 * (c / 4) + j = c
  · have hidle := hidle j hj
    rw [hc] at he hidle
    rw [hL.firedIn_core] at he
    rcases mem_tabPut he with rfl | he
    · rcases mem_tabSet hv with rfl | hv
      · exact (Option.some.inj ho').le
      · rw [hidle _ (mem_of_tabFind hL.row) v hv] at ho'
        cases ho'
    · rw [hidle e he v hv] at ho'
      cases ho'
  · rw [hL.firedIn_others hc] at he
    rw [hidle j hj e he v hv] at ho'
    cases ho'

/-- B is among the declared lanes. -/
theorem LastSigner.declared_of_mem_setB {s : State} {c k cv e : Nat} {t : Thread} {r : Row} (hL : LastSigner s c k cv t r)
    {g : Guard} (hmask : ∀ j < 32, (r.reg cv).gmask.getLsbD j = true → (r.reg cv).signed.getLsbD j = true)
    (he : e ∈ setB r cv k t g) : e ∈ maskKeys (k / 32) (r.reg cv).decl := by
  obtain ⟨hrow, hlane⟩ := mem_maskKeys.mp he
  refine mem_maskKeys.mpr ⟨hrow, ?_⟩
  have hlt : e % 32 < 32 := Nat.mod_lt _ (by decide)
  rw [← hL.last, BitVec.getLsbD_or, Bool.or_eq_true]
  split at hlane
  · rw [BitVec.getLsbD_or, Bool.or_eq_true] at hlane
    exact hlane.imp_left (hmask _ hlt)
  · exact .inl (hmask _ hlt hlane)

/-! ## The obligation -/

/-- What the executing set of an MMA leaves is a step of the declared lanes and the cluster. -/
theorem executed_enterPass (s : State) {m : MSet} {decl : BitVec 32} {ks : List Nat}
    (hks : ∀ e ∈ ks, e ∈ maskKeys m.row decl) (hn : ks.Nodup) (j : Nat) (f : FmtE) (scaled : Bool) (prio : Nat) :
    Executed s (enterPass s m j f scaled prio ks) m decl := by
  rw [enterPass_eq]
  refine Executed.pushOp (onlyThreads_lentIn ..) (fun x hx => ?_) _ _
  rw [lentIn, thread_foldl_modThread _ _ _ hn, if_neg fun h => hx (hks x h)]

theorem thread_enterPass (s : State) (m : MSet) (j : Nat) (f : FmtE) (scaled : Bool) (prio : Nat) {ks : List Nat}
    (hn : ks.Nodup) (e : Nat) : (enterPass s m j f scaled prio ks).thread m.core e = if e ∈ ks
      then (s.thread m.core e).map (fun u => (passHead s f scaled prio).regs.foldl lendReg u) else s.thread m.core e :=
  thread_foldl_modThread _ _ _ hn _

/-- The lanes of the request of a fired set, by the threads as they were before the signature. -/
theorem LastSigner.passLanes_firedIn {s : State} {c k cv : Nat} {t : Thread} {r : Row} (hL : LastSigner s c k cv t r)
    {i : Instr} {g : Guard} {th : Nat → Thread} {ks : List Nat} (hth : ∀ e ∈ ks, s.thread c e = some (th e))
    (rs : List Nat) : passLanes (firedIn s ⟨c, k / 32, cv⟩ k t i g) c rs ks =
      ks.map fun e => ⟨e, (th e).uid, regWords (th e) rs⟩ := by
  rw [passLanes, ← List.filterMap_eq_map]
  refine List.filterMap_congr fun e he => ?_
  rw [hL.firedIn_thread]
  by_cases hk : e = k
  · subst hk
    obtain rfl : t = th e := Option.some.inj (hL.single.2.symm.trans (hth e he))
    have hspun : ((th e).spun s.clock).uid = (th e).uid ∧ ((th e).spun s.clock).regs = (th e).regs := by
      unfold Thread.spun
      split <;> exact ⟨rfl, rfl⟩
    simp [regWords, Thread.reg, hspun]
  · simp [hk, hth e he]

theorem enters_of_lastSigner {i : Instr} {scaled : Bool} {srcs : List Src} {f : FmtE} {s : State} {c k : Nat} {t : Thread}
    {r : Row} {x : Tile} {th : Nat → Thread} {B rs : List Nat}
    (hexec : exec i s = runSign i f.guard f.cv.toNat srcs s)
    (hfires : ∀ st m r v o bs ss, fireInstr st m r v o bs ss i = fireMma st m r o scaled f bs)
    (hlit : rendezvousLit i = false) (hL : LastSigner s c k f.cv.toNat t r)
    (hB : B = setB r f.cv.toNat k t f.guard) (hne : B ≠ [])
    (hth : ∀ j < 32, (r.reg f.cv.toNat).decl.getLsbD j = true →
      s.thread c (32 * (k / 32) + j) = some (th (32 * (k / 32) + j)))
    (hmask : ∀ j < 32, (r.reg f.cv.toNat).gmask.getLsbD j = true → (r.reg f.cv.toNat).signed.getLsbD j = true)
    (hsrc : t.guard f.guard = true → ∃ xs, t.sources srcs = .ok xs)
    (hx : x = tileOf s (c / 4) f.unit.toNat) (hholds : Holds s c k f) (htag : x.tag = .f32 ∨ x.tag = .raw)
    (hcode : x.code = 0) (hcount : passCount s (c / 4) < 16) (hroom : x.queue.length < 255)
    (hidle : ∀ i < 4, ∀ e ∈ (s.core (4 * (c / 4) + i)).rows, ∀ v ∈ e.2.cv, v.2.fired = none)
    (hrs : rs = (List.range 4).map (f.srcA.toNat + ·) ++ (List.range 4).map (f.srcB.toNat + ·) ++
      (if scaled then [f.srcC.toNat] else [])) :
    ∃ t' id p, exec i s = .next t' ∧ FiredFrame s t' c (k / 32) f.cv.toNat r ∧
      OnlyTile s t' (c / 4) f.unit.toNat ∧ tileOf t' (c / 4) f.unit.toNat = { x with
        queue := x.queue ++ [⟨id, c, k / 32, f.cv.toNat, .pass p⟩] } ∧
      p.a = f.srcA.toNat ∧ p.b = f.srcB.toNat ∧ p.scale = (if scaled then some f.srcC.toNat else none) ∧
      p.z = f.fn.getLsbD 0 ∧ p.type = f.type ∧ p.entered = s.clock ∧ p.inTable = true ∧
      p.lanes.map (fun e => (e.key, e.uid)) = B.map (fun e => (e, (th e).uid)) ∧
      (∀ e ∈ p.lanes, e.words = rs.map fun i => ⟨((th e.key).reg i).word, ((th e.key).reg i).code⟩) ∧
      (∀ e ∈ maskKeys (k / 32) (r.reg f.cv.toNat).decl, e ∉ B →
        t'.thread c e = some (goneOn k e (th e) s.clock false)) ∧
      ∀ e ∈ B, ∃ u : Thread, t'.thread c e = some (goneOn k e u s.clock false) ∧ u = { th e with regs := u.regs } ∧
        ∀ i, i ≠ 255 → u.reg i = { (th e).reg i with lent := ((th e).reg i).lent + rs.count i } := by
  subst hx hB
  let m : MSet := ⟨c, k / 32, f.cv.toNat⟩
  let s1 := firedIn s m k t i f.guard
  let prio := rowPrio s1 (r.setReg f.cv.toNat (CvReg.firedBy s m k t i f.guard))
  have hframe : s1 = { s with cores := s1.cores } := hL.firedIn_frame
  have hclusters : s1.clusters = s.clusters := by rw [hframe]
  have hclock : s1.clock = s.clock := by rw [hframe]
  have hf : Firing s s1 m r := hL.firing
  have htile : tileOf s1 m.cluster f.unit.toNat = tileOf s (c / 4) f.unit.toNat := tileOf_of_clusters hclusters ..
  have hregs : (passHead s1 f scaled prio).regs = rs := by
    rw [hrs]
    cases scaled <;> rfl
  have hdecl : ∀ e ∈ maskKeys (k / 32) (r.reg f.cv.toNat).decl, s.thread c e = some (th e) := fun e he => by
    obtain ⟨hrow, hlane⟩ := mem_maskKeys.mp he
    have h := hth (e % 32) (Nat.mod_lt _ (by decide)) hlane
    rwa [← hrow, Nat.div_add_mod] at h
  have hin : ∀ e ∈ setB r f.cv.toNat k t f.guard, e ∈ maskKeys (k / 32) (r.reg f.cv.toNat).decl := fun e he =>
    hL.declared_of_mem_setB hmask he
  have hnodup : (setB r f.cv.toNat k t f.guard).Nodup := nodup_maskKeys ..
  have he : Executed s1 _ m _ := executed_enterPass s1 hin hnodup f.unit.toNat f scaled prio
  have hgo := fireMma_enters (s := s1) (m := m) (r := r.setReg f.cv.toNat (CvReg.firedBy s m k t i f.guard))
    (order := fireOrder s m) (scaled := scaled) (f := f) hne
    (by rw [htile]; simp [Tile.heldBy, hholds.held, hholds.core, hholds.row, hholds.cv, m])
    (by rw [htile]; exact htag) (by rw [htile]; exact hcode)
    (by rw [passCount, cluster_of_clusters hclusters]; exact hcount) (by rw [htile]; exact hroom) (hL.firstIn hidle)
  have hnext := hL.exec_go hexec hsrc ((hfires ..).trans hgo) he
  rw [hlit] at hnext
  have hafter : ∀ j, tileOf (endFiring (enterPass s1 m f.unit.toNat f scaled prio (setB r f.cv.toNat k t f.guard)) m
      (maskKeys (k / 32) (r.reg f.cv.toNat).decl) false []) (c / 4) j =
      tileOf (enterPass s1 m f.unit.toNat f scaled prio (setB r f.cv.toNat k t f.guard)) m.cluster j := fun j =>
    tileOf_of_clusters (hf.clusters_endFiring he) ..
  have hlent : ∀ j, tileOf (lentIn s1 c (passHead s1 f scaled prio).regs (setB r f.cv.toNat k t f.guard)) m.cluster j =
      tileOf s (c / 4) j := fun j =>
    (tileOf_of_clusters (onlyThreads_lentIn ..).clusters ..).trans (tileOf_of_clusters hclusters ..)
  let p : Pass := { passHead s1 f scaled prio with
    lanes := passLanes s1 c (passHead s1 f scaled prio).regs (setB r f.cv.toNat k t f.guard) }
  have hlanes : p.lanes = (setB r f.cv.toNat k t f.guard).map fun e => ⟨e, (th e).uid, regWords (th e) rs⟩ := by
    rw [← hregs]
    exact hL.passLanes_firedIn (fun e he => hdecl e (hin e he)) _
  refine ⟨_, s1.nextId, p, hnext, hf.firedFrame he, fun j hj => ?_, ?_, rfl, rfl, rfl, rfl, rfl, hclock, rfl, ?_,
    fun e hmem => ?_, fun e hmem hout => ?_,
    fun e hmem => ⟨rs.foldl lendReg (th e), ?_, lend_frame .., fun i hi => reg_lend _ _ hi⟩⟩
  · rw [hafter, enterPass_eq, tileOf_pushOp_other _ _ _ hj, hlent]
    exact ⟨rfl, rfl, rfl⟩
  · rw [hafter, enterPass_eq, tileOf_pushOp, hlent, (onlyThreads_lentIn ..).module]
  · simp [hlanes]
  · rw [hlanes] at hmem
    obtain ⟨k', -, rfl⟩ := List.mem_map.mp hmem
    rfl
  · rw [hf.thread_endFiring he, if_pos hmem, thread_enterPass _ _ _ _ _ _ hnodup, if_neg hout]
    exact proceed_firedIn hL (hdecl e hmem) ActsOnFile.id false
  · rw [hf.thread_endFiring he, if_pos (hin e hmem), thread_enterPass _ _ _ _ _ _ hnodup, if_pos hmem, hregs, Option.map_map]
    exact proceed_firedIn hL (hdecl e (hin e hmem)) (actsOnFile_lend rs) false

/-- Settles O29: the set of the last signer executes at once, lends what the pass reads and enters its request. -/
theorem matrixRequests : Obligations.MatrixRequests := by
  unfold Obligations.MatrixRequests
  intro mk rule scaled hmk f s c k t r x th xs B rs _ hL hB hne hth hmask hsrc hx hholds htag hcode hcount hroom hidle hrs
  have hread : t.guard f.guard = true → ∃ xs, t.sources (eSrcs (rule f) f) = .ok xs := fun hg => ⟨xs, hsrc hg⟩
  simp only [List.mem_cons, List.not_mem_nil, or_false, Prod.mk.injEq] at hmk
  rcases hmk with ⟨rfl, rfl, rfl⟩ | ⟨rfl, rfl, rfl⟩
  · exact enters_of_lastSigner rfl (fun _ _ _ _ _ _ _ => rfl) rfl hL hB hne hth hmask hread hx hholds htag hcode hcount
      hroom hidle hrs
  · exact enters_of_lastSigner rfl (fun _ _ _ _ _ _ _ => rfl) rfl hL hB hne hth hmask hread hx hholds htag hcode hcount
      hroom hidle hrs

end Sys2Proof.Machine
end

section
/-! SUPPORT. Sums rounded once (R259, R266) and the lesser and greater of two numbers (R261), as the model computes them. -/

namespace Sys2Proof.Machine

/-! ## Rounding once -/

/-- What the model gives for a finite value is the number rounded as R15 and R17 have it. -/
theorem rounds_rndT (f : FFmt) (hf : f.frac ≠ 0) (md : RMode) (neg : Bool) (m : Nat) (e : ℤ) :
    Rounds f md neg ((m : ℝ) * 2 ^ e) (rndT f md (.fin neg m e)) := by
  obtain ⟨lo, hle, hlt, h⟩ := roundMag_spec f hf md neg m e
  exact ⟨lo, roundMag f (.mode md) neg m e, hle, hlt, h, rndT_fin ..⟩

/-- A zero keeps its sign. -/
theorem rndT_zero (f : FFmt) (md : RMode) (neg : Bool) (e : ℤ) : rndT f md (.fin neg 0 e) = signed f neg 0 := by
  rw [rndT_fin]
  simp [roundMag]

theorem rndT_inf (f : FFmt) (hf : f.inf ≠ none) (md : RMode) (neg : Bool) :
    rndT f md (.inf neg) = signed f neg (overMag f) := by
  simp [rndT, roundTo, hf]

/-! ## The exact sum -/

theorem minExp_le (ts : List FVal) (a : ℤ) : minExp ts a ≤ a := by
  induction ts generalizing a with
  | nil => exact le_rfl
  | cons t ts ih =>
    cases t with
    | fin n m e => exact (ih _).trans (min_le_left ..)
    | nan => exact ih a
    | inf n => exact ih a

theorem minExp_le_exp {ts : List FVal} {a e : ℤ} {n : Bool} {m : Nat} (h : FVal.fin n m e ∈ ts) : minExp ts a ≤ e := by
  induction ts generalizing a with
  | nil => exact absurd h List.not_mem_nil
  | cons t ts ih =>
    rcases List.mem_cons.mp h with rfl | hts
    · exact (minExp_le ts _).trans (min_le_right ..)
    · cases t with
      | fin n' m' e' => exact ih hts
      | nan => exact ih hts
      | inf n' => exact ih hts

/-- A term over the least exponent is what it was. -/
theorem scaledTo_rat {lo : ℤ} {t : FVal} (h : ∀ n m e, t = .fin n m e → lo ≤ e) : (scaledTo lo t : ℚ) * 2 ^ lo = t.rat := by
  cases t with
  | nan => simp [scaledTo, FVal.rat]
  | inf n => simp [scaledTo, FVal.rat]
  | fin n m e =>
    obtain ⟨d, hd⟩ := Int.le.dest (h n m e rfl)
    have hpow : (2 : ℚ) ^ d * 2 ^ lo = 2 ^ e := by rw [← hd, zpow_add₀ two_ne_zero, zpow_natCast, mul_comm]
    have hexp : (e - lo).toNat = d := by omega
    cases n <;> simp [scaledTo, FVal.rat, hexp, mul_assoc, hpow]

/-- The terms over the least exponent sum to the exact sum. -/
theorem scaledSum_rat (ts : List FVal) :
    (((ts.map (scaledTo (minExp ts 0))).foldl (· + ·) 0 : ℤ) : ℚ) * 2 ^ minExp ts 0 = (ts.map FVal.rat).sum := by
  have hterms : ∀ lo, (∀ t ∈ ts, ∀ n m e, t = .fin n m e → lo ≤ e) →
      (((ts.map (scaledTo lo)).sum : ℤ) : ℚ) * 2 ^ lo = (ts.map FVal.rat).sum := by
    intro lo hlo
    induction ts with
    | nil => simp
    | cons t ts ih =>
      obtain ⟨ht, hts⟩ := List.forall_mem_cons.mp hlo
      simp only [List.map_cons, List.sum_cons, Int.cast_add, add_mul, scaledTo_rat ht, ih hts]
  rw [← List.sum_eq_foldl]
  exact hterms _ fun t ht n m e h => minExp_le_exp (h ▸ ht)

/-- The model's sum, rounded, is the exact sum rounded once, in a format with infinities. -/
theorem sumRounds_sumF (f : FFmt) (hf : f.frac ≠ 0) (hi : f.inf ≠ none) (md : RMode) (ts : List FVal) :
    SumRounds f md ts (rndT f md (sumF md ts)) := by
  have hnan : ts.any FVal.isNan = true ↔ FVal.nan ∈ ts := by
    rw [List.any_eq_true]
    constructor
    · rintro ⟨t, ht, h⟩
      cases t with
      | nan => exact ht
      | inf n => cases h
      | fin n m e => cases h
    · exact fun h => ⟨_, h, rfl⟩
  have hinf : ∀ n, ts.any (· == .inf n) = true ↔ FVal.inf n ∈ ts := fun n => by simp [List.any_eq_true]
  have hsum := scaledSum_rat ts
  set lo := minExp ts 0 with hlo
  set v := (ts.map (scaledTo lo)).foldl (· + ·) 0 with hv
  have hzero : v = 0 ↔ (ts.map FVal.rat).sum = 0 := by
    rw [← hsum, mul_eq_zero, Int.cast_eq_zero, or_iff_left (zpow_ne_zero _ two_ne_zero)]
  have hneg : v < 0 ↔ (ts.map FVal.rat).sum < 0 := by
    rw [← hsum, mul_neg_iff, Int.cast_lt_zero, Int.cast_pos]
    simp [(zpow_pos two_pos lo : (0 : ℚ) < 2 ^ lo).not_gt, (zpow_pos two_pos lo : (0 : ℚ) < 2 ^ lo)]
  have hmag : |((ts.map FVal.rat).sum : ℝ)| = (v.natAbs : ℝ) * 2 ^ lo := by
    rw [← hsum]
    push_cast
    rw [abs_mul, abs_of_pos (zpow_pos (two_pos : (0 : ℝ) < 2) lo), Nat.cast_natAbs, Int.cast_abs]
  unfold SumRounds sumF
  simp only [← hnan, ← hinf, Bool.and_eq_true, ← hlo, ← hv]
  by_cases hN : ts.any FVal.isNan = true
  · simp [hN, rndT, roundTo]
  by_cases hP : ts.any (· == .inf false) = true
  · by_cases hQ : ts.any (· == .inf true) = true
    · simp [hN, hP, hQ, rndT, roundTo]
    · simp [hN, hP, hQ, rndT_inf f hi, signed]
  by_cases hQ : ts.any (· == .inf true) = true
  · simp [hN, hP, hQ, rndT_inf f hi]
  by_cases hv0 : v = 0
  · have hneg : ts ≠ [] ∧ (∀ t ∈ ts, t.isZero = true ∧ t.isNeg = true) ↔
        (ts.all (fun t => t.isZero && t.isNeg) = true ∧ (!ts.isEmpty) = true) := by
      simp [and_comm]
    have hpos : (∀ t ∈ ts, t.isZero = true ∧ t.isNeg = false) ↔ ts.all (fun t => t.isZero && !t.isNeg) = true := by
      simp
    simp only [hN, hP, hQ, hzero.mp hv0, hv0, and_self, if_false, if_true, hneg, hpos, beq_self_eq_true,
      Bool.false_eq_true, or_self]
    split
    · exact rndT_zero ..
    · split <;> exact rndT_zero ..
  · have hz0 : (ts.map FVal.rat).sum ≠ 0 := fun h => hv0 (hzero.mpr h)
    simp only [hN, hP, hQ, hz0, and_self, if_false, beq_iff_eq, hv0, hmag,
      Bool.false_eq_true, or_self]
    have h := rounds_rndT f hf md (decide (v < 0)) v.natAbs lo
    simpa only [hneg] using h

/-! ## The lesser and the greater -/

/-- The extended real magnitude of an encoding's magnitude field. -/
noncomputable def FFmt.extent (f : FFmt) (g : Nat) : EReal := if g ≤ f.maxFin then ((f.mag g : ℝ) : EReal) else ⊤

theorem FFmt.extent_mono (f : FFmt) : Monotone f.extent := by
  intro a b h
  unfold extent
  by_cases hb : b ≤ f.maxFin
  · rw [if_pos (h.trans hb), if_pos hb]
    exact EReal.coe_le_coe_iff.mpr (f.mag_strictMono.monotone h)
  · rw [if_neg hb]
    exact le_top

theorem FFmt.extent_nonneg (f : FFmt) (g : Nat) : 0 ≤ f.extent g := by
  refine le_trans ?_ (f.extent_mono g.zero_le)
  rw [extent, if_pos f.maxFin.zero_le, f.mag_zero]
  exact le_rfl

/-- An encoding that is not a NaN has its sign and the extent of its magnitude field. -/
theorem valueOf_decode {f : FFmt} {a : Nat} {x : EReal} (hn : decodeF f a ≠ .nan) (hx : ValueOf (decodeF f a) x) :
    x = (if negOf f a then -f.extent (magOf f a) else f.extent (magOf f a)) ∧ (decodeF f a).isNeg = negOf f a := by
  by_cases h : magOf f a ≤ f.maxFin
  · obtain ⟨m, e, hd, hm⟩ := decodeF_finite f h
    rw [hd] at hx ⊢
    refine ⟨?_, rfl⟩
    rw [FFmt.extent, if_pos h, hm, show x = _ from hx, FVal.rat]
    cases negOf f a <;> simp
  · have hd : decodeF f a = .inf (negOf f a) := by
      by_cases hi : f.inf = some (magOf f a)
      · simp [decodeF, h, hi]
      · exact absurd (by simp [decodeF, h, hi]) hn
    rw [hd] at hx ⊢
    refine ⟨?_, rfl⟩
    rw [FFmt.extent, if_neg h, show x = _ from hx]
    cases negOf f a <;> simp

/-- The order of values is that of their keys. -/
theorem fKey_lt_of_lt {f : FFmt} {a b : Nat} {x y : EReal} (ha : decodeF f a ≠ .nan) (hb : decodeF f b ≠ .nan)
    (hx : ValueOf (decodeF f a) x) (hy : ValueOf (decodeF f b) y) (h : x < y) : fKey f a < fKey f b := by
  rw [(valueOf_decode ha hx).1, (valueOf_decode hb hy).1] at h
  unfold fKey
  cases hna : negOf f a <;> cases hnb : negOf f b <;> simp only [hna, hnb, if_true, Bool.false_eq_true, if_false] at h ⊢
  · have := f.extent_mono.reflect_lt h
    omega
  · refine absurd (h.trans_le ?_) (f.extent_nonneg _).not_gt
    exact EReal.neg_le_zero.mpr (f.extent_nonneg _)
  · omega
  · have := f.extent_mono.reflect_lt (EReal.neg_lt_neg_iff.mp h)
    omega

theorem fKey_of_signs {f : FFmt} {a b : Nat} (ha : negOf f a = true) (hb : negOf f b = false) : fKey f a < fKey f b := by
  simp only [fKey, ha, hb, if_true, Bool.false_eq_true, if_false]
  omega

theorem isNan_eq (x : FVal) : x.isNan = decide (x = .nan) := by cases x <;> simp [FVal.isNan]

/-- The choice of the model between two encodings, the lesser or the greater. -/
def pickNum (f : FFmt) (greater : Bool) (a b : Nat) : Nat := if greater then maxNum f a b else minNum f a b

theorem pickNum_of_numbers {f : FFmt} {greater : Bool} {a b : Nat} (ha : decodeF f a ≠ .nan) (hb : decodeF f b ≠ .nan) :
    pickNum f greater a b = if fKey f a ≤ fKey f b then (if greater then b else a) else if greater then a else b := by
  cases greater <;> simp [pickNum, minNum, maxNum, isNan_eq, ha, hb]

theorem minNumber_pickNum (f : FFmt) (greater : Bool) (a b : Nat) : MinNumber f greater a b (pickNum f greater a b) := by
  refine ⟨fun ha hb => ?_, fun ha hb => ?_, fun ha hb => ?_, fun ha hb x y hx hy => ⟨fun h => ?_, fun h => ?_, fun h => ?_⟩⟩
  · cases greater <;> simp [pickNum, minNum, maxNum, isNan_eq, ha, hb]
  · cases greater <;> simp [pickNum, minNum, maxNum, isNan_eq, ha, hb]
  · cases greater <;> simp [pickNum, minNum, maxNum, isNan_eq, ha, hb]
  · rw [pickNum_of_numbers ha hb, if_pos (fKey_lt_of_lt ha hb hx hy h).le]
  · rw [pickNum_of_numbers ha hb, if_neg (fKey_lt_of_lt hb ha hy hx h).not_ge]
  · rw [pickNum_of_numbers ha hb, (valueOf_decode ha hx).2, (valueOf_decode hb hy).2]
    refine ⟨by cases greater <;> split <;> simp, ?_⟩
    cases hna : negOf f a <;> cases hnb : negOf f b
    · exact .inl rfl
    · rw [if_neg (fKey_of_signs hnb hna).not_ge]
      cases greater <;> simp [(valueOf_decode ha hx).2, (valueOf_decode hb hy).2, hna, hnb]
    · rw [if_pos (fKey_of_signs hna hnb).le]
      cases greater <;> simp [(valueOf_decode ha hx).2, (valueOf_decode hb hy).2, hna, hnb]
    · exact .inl rfl

end Sys2Proof.Machine
end

section
/-! SUPPORT. What the cross-lane instructions make of an executing set (R251 to R255): each lane's result by the tables, and
the set that a bundle or a fired rendezvous gives them. -/

namespace Sys2Proof.Machine

/-! ## Lane masks -/

theorem getLsbD_laneMask (P : List PLane) (g : PLane → Bool) {i : Nat} (hi : i < 32) :
    (laneMask P g).getLsbD i = true ↔ ∃ q ∈ P, q.lane = i ∧ g q = true := by
  have hfold : ∀ m : Word, (P.foldl (fun m p => if g p then m ||| (1#32 <<< p.lane) else m) m).getLsbD i = true ↔
      m.getLsbD i = true ∨ ∃ q ∈ P, q.lane = i ∧ g q = true := by
    induction P with
    | nil => simp
    | cons p P ih =>
      intro m
      have hbit : (1#32 <<< p.lane).getLsbD i = true ↔ p.lane = i := by
        simp only [BitVec.getLsbD_shiftLeft, BitVec.getLsbD_one]
        simp [hi]
        omega
      rw [List.foldl_cons, ih, List.exists_mem_cons_iff]
      by_cases hg : g p = true
      · simp only [hg, if_true, BitVec.getLsbD_or, Bool.or_eq_true, hbit, and_true, or_assoc]
      · simp [hg]
  rw [laneMask, hfold]
  simp

/-! ## The results of Table 10.5 -/

theorem w32_toNat {n : Nat} (h : n < 2 ^ 32) : (w32 n).toNat = n := by
  rw [w32, BitVec.toNat_ofNat, Nat.mod_eq_of_lt h]

theorem pickNum_eq (f : FFmt) (greater : Bool) (a b : Nat) :
    pickNum f greater a b = nanOf f ∨ pickNum f greater a b = a ∨ pickNum f greater a b = b := by
  have hmin : minNum f a b = nanOf f ∨ minNum f a b = a ∨ minNum f a b = b := by
    unfold minNum
    split
    · exact .inl rfl
    · exact .inr (.inr rfl)
    · exact .inr (.inl rfl)
    · split <;> simp
  have hmax : maxNum f a b = nanOf f ∨ maxNum f a b = a ∨ maxNum f a b = b := by
    unfold maxNum
    split
    · exact .inl rfl
    · exact .inr (.inr rfl)
    · exact .inr (.inl rfl)
    · split <;> simp
  cases greater
  · exact hmin
  · exact hmax

theorem scanOp_foldOp (t : Tag) (n : Nat) : ScanOp t n (foldOp n t) := by
  intro a b
  have hpick : ∀ greater, pickNum fmtF32 greater a.toNat b.toNat < 2 ^ 32 := fun greater => by
    have hnan : nanOf fmtF32 < 2 ^ 32 := by decide
    rcases pickNum_eq fmtF32 greater a.toNat b.toNat with h | h | h <;> rw [h]
    · exact hnan
    · exact a.isLt
    · exact b.isLt
  refine ⟨?_, ?_, ?_, ?_, ?_, ?_, ?_, ?_, ?_, ?_, ?_⟩
  · rintro rfl ht
    simp [foldOp, ht]
  · rintro rfl rfl
    have hlt : rndT fmtF32 .rne (sumF .rne [f32Val a, f32Val b]) < 2 ^ 32 := roundTo_lt (by decide) ..
    simp only [foldOp, beq_self_eq_true, if_true, w32_toNat hlt]
    exact sumRounds_sumF fmtF32 (by decide) (by decide) _ _
  · rintro rfl rfl
    simp only [foldOp, beq_self_eq_true, if_true, reduceCtorEq, beq_iff_eq, if_false, decide_eq_true_eq]
    split <;> omega
  · rintro rfl rfl
    simp only [foldOp, reduceCtorEq, beq_iff_eq, if_false, decide_eq_true_eq]
    split <;> omega
  · rintro rfl rfl
    have h := minNumber_pickNum fmtF32 false a.toNat b.toNat
    rwa [← w32_toNat (hpick false)] at h
  · rintro rfl rfl
    simp only [foldOp, beq_self_eq_true, if_true, reduceCtorEq, beq_iff_eq, if_false, decide_eq_true_eq]
    split <;> omega
  · rintro rfl rfl
    simp only [foldOp, reduceCtorEq, beq_iff_eq, if_false, decide_eq_true_eq]
    split <;> omega
  · rintro rfl rfl
    have h := minNumber_pickNum fmtF32 true a.toNat b.toNat
    rwa [← w32_toNat (hpick true)] at h
  · rintro rfl
    rfl
  · rintro rfl
    rfl
  · rintro rfl
    rfl

theorem foldIdentity_eq {n : Nat} {t : Tag} (hn : scanOpOk n t = true) (ht : t = .i32 ∨ t = .u32 ∨ t = .f32) :
    foldIdentity n t = scanIdentity n t := by
  have hlt : n < 6 := by
    simp only [scanOpOk, Bool.or_eq_true, Bool.and_eq_true, decide_eq_true_eq] at hn
    omega
  have hall : ∀ m < 6, ∀ u ∈ [Tag.i32, .u32, .f32], scanOpOk m u = true → foldIdentity m u = scanIdentity m u := by decide
  exact hall n hlt t (by simpa using ht) hn

/-- The lanes of a set in ascending order. -/
def Rising (P : List PLane) : Prop := P.Pairwise fun a b => a.lane < b.lane

theorem Rising.unique {P : List PLane} (h : Rising P) {p q : PLane} (hp : p ∈ P) (hq : q ∈ P) (he : p.lane = q.lane) :
    p = q := by
  have hnodup : (P.map PLane.lane).Nodup := List.pairwise_map.mpr (h.imp fun hlt => hlt.ne)
  exact List.inj_on_of_nodup_map hnodup hp hq he

/-- The lanes up to one of a set are those below it, and itself. -/
theorem filter_upTo {P : List PLane} (h : Rising P) {p : PLane} (hp : p ∈ P) :
    P.filter (fun q => decide (q.lane < p.lane) || q.lane == p.lane) = P.filter (fun q => q.lane < p.lane) ++ [p] := by
  induction P with
  | nil => exact absurd hp List.not_mem_nil
  | cons a P ih =>
    obtain ⟨ha, hP⟩ := List.pairwise_cons.mp h
    rcases List.mem_cons.mp hp with rfl | hp
    · rw [List.filter_cons_of_pos (by simp), List.filter_cons_of_neg (by simp),
        List.filter_eq_nil_iff.mpr fun q hq => ?_, List.filter_eq_nil_iff.mpr fun q hq => ?_]
      · rfl
      · have := ha q hq
        simp
        omega
      · have := ha q hq
        simp
        omega
    · have hlt := ha p hp
      rw [List.filter_cons_of_pos (by simp [hlt]), List.filter_cons_of_pos (by simp [hlt]), ih hP hp, List.cons_append]

/-! ## What each lane becomes -/

theorem permx_does (cv : Bool) (f : FmtA) {P : List PLane} (hP : Rising P) (p : PLane) :
    PermxDoes f P p ((crossPermx cv f).eff P p) := by
  have htag : ∀ x : Reg, carriedTag f.type x = if f.type = .raw then x.tag else f.type := fun x => by simp [carriedTag]
  constructor
  · intro q hq hlane
    have hin : inSet P (p.word 1).toNat = some q := by
      cases h : inSet P (p.word 1).toNat with
      | none => exact absurd (beq_iff_eq.mpr hlane) (List.find?_eq_none.mp h q hq)
      | some x =>
        have hx : x.lane = (p.word 1).toNat := by simpa using List.find?_some h
        rw [hP.unique (List.mem_of_find?_eq_some h) hq (hx.trans hlane.symm)]
    simp only [crossPermx, hin, htag]
  · intro hnone
    have hin : inSet P (p.word 1).toNat = none := List.find?_eq_none.mpr fun q hq => by simpa using hnone q hq
    simp only [crossPermx, hin, htag]

theorem ballot_does (f : FmtA) (P : List PLane) (p : PLane) : BallotDoes f P p ((crossBallot f).eff P p) :=
  ⟨_, rfl, fun _ hi => getLsbD_laneMask P _ hi⟩

theorem vote_does (f : FmtA) (P : List PLane) (p : PLane) : VoteDoes f P p ((crossVote f).eff P p) := by
  refine ⟨_, rfl, fun h => ?_, fun h => ?_, fun h => ?_⟩
  · simp [h]
  · simp [h]
  · rw [if_neg (by simp [h]), if_neg (by simp [h])]
    simp only [Bool.or_eq_true, Bool.not_eq_true', List.all_eq_true, List.any_eq_false]
    constructor
    · rintro (hall | hnone) q hq q' hq'
      · rw [hall q hq, hall q' hq']
      · rw [Bool.eq_false_iff.mpr (hnone q hq), Bool.eq_false_iff.mpr (hnone q' hq')]
    · intro hsame
      cases P with
      | nil => exact .inl fun _ h => absurd h List.not_mem_nil
      | cons a P =>
        cases ha : a.thread.pred f.srcA.toNat
        · exact .inr fun q hq => by rw [hsame q hq a List.mem_cons_self, ha]; exact Bool.false_ne_true
        · exact .inl fun q hq => by rw [hsame q hq a List.mem_cons_self, ha]

theorem match_does (cv : Bool) (f : FmtA) (P : List PLane) (p : PLane) :
    MatchDoes f P p ((crossMatch cv f).eff P p) :=
  ⟨_, rfl, fun _ hi => (getLsbD_laneMask P _ hi).trans (by simp)⟩

theorem elect_does (f : FmtA) (P : List PLane) (p : PLane) : ElectDoes f P p ((crossElect f).eff P p) :=
  ⟨_, rfl, by simp⟩

theorem foldLanes_cons {n : Nat} {t : Tag} {ws as : List Word} {a : Word} (h : ws = a :: as) :
    foldLanes n t ws = as.foldl (foldOp n t) a := by rw [h, foldLanes]

theorem lred_does (cv : Bool) (f : FmtA) (P : List PLane) (p : PLane) : LredDoes f P p ((crossLred cv f).eff P p) :=
  ⟨foldOp (f.srcB.toNat % 8) f.type, _, scanOp_foldOp _ _, rfl, fun _ _ h => foldLanes_cons h⟩

theorem lscan_does (cv : Bool) (f : FmtA) (hop : scanOpOk (f.srcB.toNat % 8) f.type = true)
    (ht : f.type = .i32 ∨ f.type = .u32 ∨ f.type = .f32) {P : List PLane} (hP : Rising P) {p : PLane} (hp : p ∈ P) :
    LscanDoes f P p ((crossLscan cv f).eff P p) := by
  refine ⟨foldOp (f.srcB.toNat % 8) f.type, _, scanOp_foldOp _ _, rfl, fun below hbelow => ⟨fun hex a as h => ?_,
    fun hex hnil => ?_, fun hex a as h => ?_⟩⟩
  · refine foldLanes_cons ?_
    simp only [hex, Bool.not_false, Bool.true_and]
    rw [filter_upTo hP hp, List.map_append, ← hbelow]
    exact h
  · simp only [hex, Bool.not_true, Bool.false_and, Bool.or_false, ← hbelow, hnil]
    exact foldIdentity_eq hop ht
  · refine foldLanes_cons ?_
    simp only [hex, Bool.not_true, Bool.false_and, Bool.or_false, ← hbelow]
    exact h

/-! ## The set that executes -/

/-- A thread is ready for a cross-lane form: its sources read and its destination is free. -/
def CrossReady (x : Cross) (t : Thread) (xs : List (List Reg)) : Prop :=
  t.sources x.srcs = .ok xs ∧ (x.dst.bind fun d => t.dstBlock d 1) = none

theorem plainSet_ready {x : Cross} {g : Guard} {s : State} {c : Nat} {xs : Nat → List (List Reg)}
    {us : List (Nat × Thread)} (hth : ∀ e ∈ us, s.thread c e.1 = some e.2)
    (hok : ∀ e ∈ us, e.2.guard g = true → CrossReady x e.2 (xs e.1)) :
    plainSet x g s c (us.map Prod.fst) = (planes xs (us.filter fun e => e.2.guard g), [], [],
      (us.filter fun e => !e.2.guard g).map Prod.fst) := by
  induction us with
  | nil => rfl
  | cons e us ih =>
    obtain ⟨he, hth⟩ := List.forall_mem_cons.mp hth
    obtain ⟨hready, hok⟩ := List.forall_mem_cons.mp hok
    simp only [List.map_cons, plainSet, ih hth hok, he]
    cases hg : e.2.guard g
    · simp [hg]
    · obtain ⟨hs, hd⟩ := hready hg
      simp [hg, hs, hd, planes]

theorem onlyThreads_crossWrite (x : Cross) (c : Nat) (P : List PLane) (s : State) : OnlyThreads s (crossWrite x c P s) c :=
  OnlyThreads.foldl (fun _ _ => OnlyThreads.setThread ..) _ _

/-- Threads written under distinct keys. -/
theorem thread_foldl_setThread (c : Nat) (eff : PLane → Thread) {P : List PLane} (hn : (P.map PLane.key).Nodup) (s : State) :
    (∀ p ∈ P, (P.foldl (fun st p => st.setThread c p.key (eff p)) s).thread c p.key = some (eff p)) ∧
      ∀ k, (∀ p ∈ P, p.key ≠ k) → (P.foldl (fun st p => st.setThread c p.key (eff p)) s).thread c k = s.thread c k := by
  induction P generalizing s with
  | nil => simp
  | cons a P ih =>
    obtain ⟨ha, hn⟩ := List.nodup_cons.mp hn
    obtain ⟨hin, hout⟩ := ih hn (s.setThread c a.key (eff a))
    have hna : ∀ p ∈ P, p.key ≠ a.key := fun p hp h => ha (h ▸ List.mem_map_of_mem hp)
    refine ⟨fun p hp => ?_, fun k hk => ?_⟩
    · rcases List.mem_cons.mp hp with rfl | hp
      · exact (hout _ hna).trans (State.thread_setThread ..)
      · exact hin p hp
    · obtain ⟨hak, hk⟩ := List.forall_mem_cons.mp hk
      exact (hout k hk).trans (State.thread_setThread_other _ _ _ _ _ _ (.inr hak.symm))

theorem thread_crossWrite (x : Cross) (c : Nat) {P : List PLane} (hn : (P.map PLane.key).Nodup) (s : State) :
    (∀ p ∈ P, (crossWrite x c P s).thread c p.key = some (x.eff P p)) ∧
      ∀ k, (∀ p ∈ P, p.key ≠ k) → (crossWrite x c P s).thread c k = s.thread c k :=
  thread_foldl_setThread c (x.eff P) hn s

theorem onlyThreads_advanceAll (c : Nat) (lit : Bool) (ks : List Nat) (s : State) :
    OnlyThreads s (advanceAll c lit ks s) c :=
  OnlyThreads.foldl (fun _ _ => OnlyThreads.modThread ..) _ _

theorem thread_advanceAll (c : Nat) (lit : Bool) {ks : List Nat} (hn : ks.Nodup) (s : State) (k : Nat) :
    (advanceAll c lit ks s).thread c k =
      if k ∈ ks then (s.thread c k).map fun t => t.advance s.clock lit else s.thread c k :=
  thread_foldl_modThread _ _ _ hn k

/-! ## The plain forms -/

theorem rising_planes {us : List (Nat × Thread)} (h : us.Pairwise fun a b => a.1 % 32 < b.1 % 32)
    (xs : Nat → List (List Reg)) (p : Nat × Thread → Bool) : Rising (planes xs (us.filter p)) :=
  List.pairwise_map.mpr ((h.filter p).imp fun hlt => hlt)

theorem keys_planes (xs : Nat → List (List Reg)) (us : List (Nat × Thread)) :
    (planes xs us).map PLane.key = us.map Prod.fst := by
  simp [planes]

/-- A plain form whose lanes are ready gives what its effect is related to. -/
theorem givesCross_of {mk : FmtA → Instr} {rule : FmtA → ARule} {R : FmtA → List PLane → PLane → Thread → Prop}
    {x : FmtA → Cross} (hexec : ∀ f s, exec (mk f) s = runCross (x f) f.guard f.lit.isSome s)
    (hready : ∀ f t xs, AReady (rule f) f t xs → CrossReady (x f) t xs)
    (hR : ∀ f P p, WellFormed (mk f) → Rising P → p ∈ P → R f P p ((x f).eff P p)) : GivesCross mk rule R := by
  intro f s c us xs hw hb hrising hlanes
  obtain ⟨hissue, hne, hnodup, hth⟩ := hb
  let P := planes xs (us.filter fun e => e.2.guard f.guard)
  let skips := (us.filter fun e => !e.2.guard f.guard).map Prod.fst
  let written := crossWrite (x f) c P s
  have hset : plainSet (x f) f.guard s c (us.map Prod.fst) = (P, [], [], skips) :=
    plainSet_ready hth fun e he hg => hready f _ _ (hlanes e he hg)
  have hnext : exec (mk f) s = .next (advanceAll c f.lit.isSome (skips ++ P.map PLane.key) written) := by
    rw [hexec, runCross, hissue]
    split
    · next h => exact absurd (List.map_eq_nil_iff.mp h) hne
    · simp only [hset, List.foldl_nil, takeLanes_nil]
      rfl
  have hkeysP : (P.map PLane.key).Nodup := by
    rw [keys_planes]
    exact hnodup.sublist (List.filter_sublist.map _)
  have hdisjoint : ∀ e ∈ us, ∀ e' ∈ us, e.1 = e'.1 → e = e' := fun e he e' he' h =>
    List.inj_on_of_nodup_map hnodup he he' h
  have hkeys : (skips ++ P.map PLane.key).Nodup := by
    rw [keys_planes]
    refine List.nodup_append.mpr ⟨hnodup.sublist (List.filter_sublist.map _), hnodup.sublist (List.filter_sublist.map _), ?_⟩
    intro a ha b hb hab
    obtain ⟨e, he, rfl⟩ := List.mem_map.mp ha
    obtain ⟨e', he', rfl⟩ := List.mem_map.mp hb
    obtain ⟨he, hg⟩ := List.mem_filter.mp he
    obtain ⟨he', hg'⟩ := List.mem_filter.mp he'
    obtain rfl := hdisjoint e he e' he' hab
    simp [hg'] at hg
  have hwritten : OnlyThreads s written c := onlyThreads_crossWrite ..
  have hclock : written.clock = s.clock := by rw [hwritten.module]
  have hmem : ∀ e ∈ us, e.1 ∈ skips ++ P.map PLane.key := fun e he => by
    rw [keys_planes, List.mem_append, List.mem_map, List.mem_map]
    cases hg : e.2.guard f.guard
    · exact .inl ⟨e, List.mem_filter.mpr ⟨he, by simp [hg]⟩, rfl⟩
    · exact .inr ⟨e, List.mem_filter.mpr ⟨he, hg⟩, rfl⟩
  have hafter := thread_advanceAll c f.lit.isSome hkeys written
  refine ⟨_, hnext, hwritten.trans (onlyThreads_advanceAll ..), fun k hk => ?_, fun e he hg => ?_, fun e he hg => ?_⟩
  · have hout : k ∉ skips ++ P.map PLane.key := by
      rw [keys_planes, List.mem_append, List.mem_map, List.mem_map]
      rintro (⟨e, he, rfl⟩ | ⟨e, he, rfl⟩) <;> exact hk e (List.mem_of_mem_filter he) rfl
    rw [hafter, if_neg hout]
    refine (thread_crossWrite (x f) c hkeysP s).2 k fun p hp => ?_
    obtain ⟨e, he, rfl⟩ := List.mem_map.mp hp
    exact hk e (List.mem_of_mem_filter he)
  · have hskip : ∀ p ∈ P, p.key ≠ e.1 := fun p hp h => by
      obtain ⟨e', he', rfl⟩ := List.mem_map.mp hp
      obtain ⟨he', hg'⟩ := List.mem_filter.mp he'
      obtain rfl := hdisjoint e' he' e he h
      simp [hg] at hg'
    rw [hafter, if_pos (hmem e he), (thread_crossWrite (x f) c hkeysP s).2 _ hskip, hth e he, hclock]
    rfl
  · have hp : (⟨e.1, e.2, xs e.1⟩ : PLane) ∈ P := List.mem_map.mpr ⟨e, List.mem_filter.mpr ⟨he, hg⟩, rfl⟩
    refine ⟨_, hR f P _ hw (rising_planes hrising ..) hp, ?_⟩
    rw [hafter, if_pos (hmem e he), (thread_crossWrite (x f) c hkeysP s).1 _ hp, hclock]
    rfl

/-! ## The forms of a fired rendezvous -/

theorem sources_congr {t u : Thread} (h : u.regs = t.regs) (srcs : List Src) : u.sources srcs = t.sources srcs := by
  have hreg : ∀ r, u.reg r = t.reg r := fun r => by simp [Thread.reg, h]
  have hcheck : ∀ (es : List Tag) (r : Nat) (trap : Bool), u.checkAll r trap es = t.checkAll r trap es := by
    intro es
    induction es with
    | nil => exact fun _ _ => rfl
    | cons e es ih => exact fun r trap => by simp only [Thread.checkAll, Thread.check, hreg, ih]
  have hsource : ∀ src, u.source src = t.source src := fun src => by
    cases src with
    | imm ws => rfl
    | regs r es trap sel => simp only [Thread.source, hcheck]
  induction srcs with
  | nil => rfl
  | cons src srcs ih => simp only [Thread.sources, hsource, ih]

theorem crossReady_congr {x : Cross} {t u : Thread} (h : u.regs = t.regs) {xs : List (List Reg)}
    (ht : CrossReady x t xs) : CrossReady x u xs := by
  have hblock : ∀ d, u.dstBlock d 1 = t.dstBlock d 1 := fun d => by
    simp [Thread.dstBlock, Thread.reg, h]
  refine ⟨(sources_congr h _).trans ht.1, ?_⟩
  simp only [hblock]
  exact ht.2

/-- A change of a set's threads that a cross-lane form does not see. -/
def Unseen (m : PLane → PLane) : Prop :=
  ∀ p, (m p).key = p.key ∧ (m p).srcs = p.srcs ∧ (m p).thread.preds = p.thread.preds

/-- A form whose lanes act on their own files, by what the set has read. -/
def Cross.OnFiles (x : Cross) : Prop := ∀ m, Unseen m → ∀ P p, ∃ h, ActsOnFile h ∧
  x.eff P p = h p.thread ∧ x.eff (P.map m) (m p) = h (m p).thread

section
variable {m : PLane → PLane} (hm : Unseen m)
include hm

theorem Unseen.lane (p : PLane) : (m p).lane = p.lane := by simp [PLane.lane, (hm p).1]
theorem Unseen.word (p : PLane) (i : Nat) : (m p).word i = p.word i := by simp [PLane.word, (hm p).2.1]
theorem Unseen.reg (p : PLane) (i : Nat) : (m p).reg i = p.reg i := by simp [PLane.reg, (hm p).2.1]
theorem Unseen.pred (p : PLane) (i : Nat) : (m p).thread.pred i = p.thread.pred i := by simp [Thread.pred, (hm p).2.2]

theorem Unseen.laneMask (P : List PLane) {g g' : PLane → Bool} (hg : ∀ p, g' (m p) = g p) :
    laneMask (P.map m) g' = laneMask P g := by
  simp only [Sys2Proof.Machine.laneMask, List.foldl_map, hg, hm.lane]

theorem Unseen.inSet (P : List PLane) (i : Nat) : inSet (P.map m) i = (inSet P i).map m := by
  rw [Sys2Proof.Machine.inSet, List.find?_map]
  simp only [Function.comp_def, hm.lane]
  rfl

end

theorem actsOnFile_write (r : Nat) (tag : Tag) (w : Word) : ActsOnFile fun t => t.write r tag w := ActsOnFile.modReg r _

theorem crossPermx_onFiles (cv : Bool) (f : FmtA) : (crossPermx cv f).OnFiles := by
  intro m hm P p
  cases h : inSet P (p.word 1).toNat with
  | none =>
    refine ⟨fun t => (t.write f.dst.toNat (carriedTag f.type (p.reg 2)) (p.word 2)).setPred (4 + f.modB.toNat / 2) false,
      (ActsOnFile.setPred ..).comp (actsOnFile_write ..), ?_, ?_⟩
    · simp [crossPermx, h]
    · simp [crossPermx, hm.inSet, hm.word, hm.reg, h]
  | some q =>
    refine ⟨fun t => (t.write f.dst.toNat (carriedTag f.type (q.reg 0)) (q.word 0)).setPred (4 + f.modB.toNat / 2) true,
      (ActsOnFile.setPred ..).comp (actsOnFile_write ..), ?_, ?_⟩
    · simp [crossPermx, h]
    · simp [crossPermx, hm.inSet, hm.word, hm.reg, h]

theorem crossBallot_onFiles (f : FmtA) : (crossBallot f).OnFiles := fun m hm P p =>
  ⟨_, actsOnFile_write .., rfl, by
    simp only [crossBallot]
    rw [hm.laneMask P fun q => hm.pred q f.srcA.toNat]⟩

theorem crossVote_onFiles (f : FmtA) : (crossVote f).OnFiles := fun m hm P p =>
  ⟨_, ActsOnFile.setPred .., rfl, by simp only [crossVote, List.all_map, List.any_map, Function.comp_def, hm.pred]⟩

theorem crossMatch_onFiles (cv : Bool) (f : FmtA) : (crossMatch cv f).OnFiles := fun m hm P p =>
  ⟨_, actsOnFile_write .., rfl, by
    simp only [crossMatch]
    rw [hm.laneMask (g := fun q => q.word 0 == p.word 0) P fun q => by rw [hm.word, hm.word]]⟩

theorem crossElect_onFiles (f : FmtA) : (crossElect f).OnFiles := fun m hm P p =>
  ⟨_, ActsOnFile.setPred .., rfl, by simp only [crossElect, List.all_map, Function.comp_def, hm.lane]⟩

theorem crossLscan_onFiles (cv : Bool) (f : FmtA) : (crossLscan cv f).OnFiles := fun m hm P p =>
  ⟨_, actsOnFile_write .., rfl, by
    simp only [crossLscan, List.filter_map, List.map_map, Function.comp_def, hm.lane, hm.word]⟩

theorem crossLred_onFiles (cv : Bool) (f : FmtA) : (crossLred cv f).OnFiles := fun m hm P p =>
  ⟨_, actsOnFile_write .., rfl, by simp only [crossLred, List.map_map, Function.comp_def, hm.word]⟩

theorem rising_maskKeys (row : Nat) (m : BitVec 32) : (maskKeys row m).Pairwise fun a b => a % 32 < b % 32 := by
  refine List.pairwise_map.mpr ((List.pairwise_lt_range.filter _).imp_of_mem fun ha hb hlt => ?_)
  have ha := List.mem_range.mp (List.mem_of_mem_filter ha)
  have hb := List.mem_range.mp (List.mem_of_mem_filter hb)
  omega

theorem Executed.of_onlyThreads {s s1 : State} {m : MSet} {decl : BitVec 32} (h : OnlyThreads s s1 m.core)
    (ht : ∀ x, x ∉ maskKeys m.row decl → s1.thread m.core x = s.thread m.core x) : Executed s s1 m decl where
  module := by
    have hmodule := h.module
    rw [hmodule]
  others := h.others
  clusters d _ := cluster_of_clusters h.clusters d
  core := h.core
  threads := ht

/-- A lane as it stands between its signature and its resumption: `k` is the last signer, and only it has changed. -/
def PLane.asSigned (k cv clock : Nat) (p : PLane) : PLane :=
  { p with thread := if p.key = k then { p.thread.spun clock with status := .signed cv } else p.thread }

theorem spun_file (t : Thread) (clock : Nat) : (t.spun clock).regs = t.regs ∧ (t.spun clock).preds = t.preds := by
  unfold Thread.spun
  split <;> exact ⟨rfl, rfl⟩

theorem asSigned_regs (k cv clock : Nat) (p : PLane) : (p.asSigned k cv clock).thread.regs = p.thread.regs := by
  unfold PLane.asSigned
  split
  · exact (spun_file p.thread clock).1
  · rfl

theorem unseen_asSigned (k cv clock : Nat) : Unseen (PLane.asSigned k cv clock) := by
  refine fun p => ⟨rfl, rfl, ?_⟩
  unfold PLane.asSigned
  split
  · exact (spun_file p.thread clock).2
  · rfl

/-- A fired form whose lanes are ready gives the set B what its effect is related to. -/
theorem firesCross_of {mk : FmtA → Instr} {rule : FmtA → ARule} {R : FmtA → List PLane → PLane → Thread → Prop}
    {x : FmtA → Cross}
    (hexec : ∀ f s, exec (mk f) s = runSign (mk f) f.guard f.var.toNat (aSrcs (rule f) f) s)
    (hfires : ∀ f st m r v o bs ss, fireInstr st m r v o bs ss (mk f) = fireCross (x f) st m.core bs)
    (hlit : ∀ f, WellFormed (mk f) → rendezvousLit (mk f) = f.lit.isSome)
    (hready : ∀ f t xs, AReady (rule f) f t xs → CrossReady (x f) t xs) (hfiles : ∀ f, (x f).OnFiles)
    (hR : ∀ f P p, WellFormed (mk f) → Rising P → p ∈ P → R f P p ((x f).eff P p)) : FiresCross mk rule R := by
  intro f s c k t r th xs hw hL hth hlanes hmask
  let cv := f.var.toNat
  let ms : MSet := ⟨c, k / 32, cv⟩
  let B := setB r cv k t f.guard
  let s1 := firedIn s ms k t (mk f) f.guard
  let P : List PLane := B.map fun e => ⟨e, th e, xs e⟩
  let m := PLane.asSigned k cv s.clock
  have hf : Firing s s1 ms r := hL.firing
  have hdecl : ∀ e ∈ maskKeys (k / 32) (r.reg cv).decl, s.thread c e = some (th e) := fun e he => by
    obtain ⟨hrow, hlane⟩ := mem_maskKeys.mp he
    have h := hth (e % 32) (Nat.mod_lt _ (by decide)) hlane
    rwa [← hrow, Nat.div_add_mod] at h
  have hin : ∀ e ∈ B, e ∈ maskKeys (k / 32) (r.reg cv).decl := fun e he => hL.declared_of_mem_setB hmask he
  have hfired : ∀ p : PLane, p.key ∈ B → p.thread = th p.key → s1.thread c p.key = some (m p).thread := fun p hp ht => by
    refine (hL.firedIn_thread p.key).trans ?_
    simp only [m, PLane.asSigned, ht]
    split
    · next hk =>
      have h := hdecl p.key (hin _ hp)
      rw [hk, hL.single.2] at h
      rw [hk, Option.some.inj h]
    · exact hdecl p.key (hin _ hp)
  have hset : plainSet (x f) always s1 c B = (P.map m, [], [], []) := by
    have hus := plainSet_ready (x := x f) (g := always) (s := s1) (c := c) (xs := xs)
      (us := B.map fun e => (e, (m ⟨e, th e, xs e⟩).thread)) ?_ ?_
    · have hguard : ∀ u : Thread, u.guard always = true := fun u => rfl
      simp only [List.map_map, Function.comp_def, List.map_id', hguard, List.filter_true, Bool.not_true,
        List.filter_false, planes, List.map_nil] at hus
      rw [hus]
      simp only [P, List.map_map]
      rfl
    · rintro e he
      obtain ⟨e', he', rfl⟩ := List.mem_map.mp he
      exact hfired ⟨e', th e', xs e'⟩ he' rfl
    · rintro e he -
      obtain ⟨e', he', rfl⟩ := List.mem_map.mp he
      exact crossReady_congr (asSigned_regs k cv s.clock ⟨e', th e', xs e'⟩) (hready f _ _ (hlanes e' he'))
  have hkeys : ((P.map m).map PLane.key).Nodup := by
    have hB : (P.map m).map PLane.key = B := by
      simp only [P, List.map_map]
      exact List.map_id' B
    rw [hB]
    exact nodup_maskKeys ..
  have hout : ∀ e, e ∉ B → (crossWrite (x f) c (P.map m) s1).thread c e = s1.thread c e := fun e he => by
    refine (thread_crossWrite (x f) c hkeys s1).2 e fun p hp h => he ?_
    obtain ⟨q, hq, rfl⟩ := List.mem_map.mp hp
    obtain ⟨e', he', rfl⟩ := List.mem_map.mp hq
    exact h ▸ he'
  have hgo : fireInstr s1 ms (r.setReg cv (CvReg.firedBy s ms k t (mk f) f.guard)) (CvReg.firedBy s ms k t (mk f) f.guard)
      (fireOrder s ms) B (maskKeys (k / 32) (r.reg cv).decl) (mk f) = .go (crossWrite (x f) c (P.map m) s1) [] := by
    rw [hfires, fireCross]
    simp only [ms, hset]
    rfl
  have hmod : OnlyThreads s1 (crossWrite (x f) c (P.map m) s1) ms.core := onlyThreads_crossWrite ..
  have he : Executed s1 (crossWrite (x f) c (P.map m) s1) ms (r.reg cv).decl :=
    Executed.of_onlyThreads hmod fun e hd => hout e fun hb => hd (hin e hb)
  have hsrc : t.guard f.guard = true → ∃ ys, t.sources (aSrcs (rule f) f) = .ok ys := fun hg => by
    have hk : k ∈ B := by
      refine mem_maskKeys.mpr ⟨rfl, ?_⟩
      rw [if_pos hg]
      simp [Nat.mod_lt k (by decide : 0 < 32)]
    have ht : t = th k := Option.some.inj (hL.single.2.symm.trans (hdecl k (hin k hk)))
    obtain ⟨-, hys, -⟩ := hlanes k hk
    exact ⟨xs k, ht ▸ hys⟩
  have hnext := hL.exec_go (hexec f s) hsrc hgo he
  rw [hlit f hw] at hnext
  refine ⟨_, hnext, hf.firedFrame he, ?_, fun e hmem hnot => ?_, fun e hmem => ?_⟩
  · rw [hf.clusters_endFiring he, hmod.clusters, hf.module]
  · rw [hf.thread_endFiring he, if_pos hmem, hout e hnot]
    exact proceed_firedIn hL (hdecl e hmem) ActsOnFile.id f.lit.isSome
  · have hp : (⟨e, th e, xs e⟩ : PLane) ∈ P := List.mem_map.mpr ⟨e, hmem, rfl⟩
    have hrising : Rising P := List.pairwise_map.mpr (rising_maskKeys ..)
    obtain ⟨h, hacts, heff, heffm⟩ := hfiles f m (unseen_asSigned k cv s.clock) P ⟨e, th e, xs e⟩
    refine ⟨_, hR f P _ hw hrising hp, ?_⟩
    have hwritten := (thread_crossWrite (x f) c hkeys s1).1 _ (List.mem_map_of_mem hp)
    have hsigned : s1.thread c e = some (m ⟨e, th e, xs e⟩).thread := hfired ⟨e, th e, xs e⟩ hmem rfl
    have hgone : (s1.thread c e).map (fun u => (h u).proceed s.clock f.lit.isSome) =
        some (goneOn k e (h (th e)) s.clock f.lit.isSome) :=
      proceed_firedIn hL (hdecl e (hin e hmem)) hacts f.lit.isSome
    rw [hsigned] at hgone
    rw [hf.thread_endFiring he, if_pos (hin e hmem)]
    refine (congrArg (Option.map _) hwritten).trans ?_
    rw [heff, heffm]
    exact hgone

/-! ## The obligation -/

theorem dstBlock_of_ready {t : Thread} {r n : Nat} (h : t.dstReady r n = .ok ()) : t.dstBlock r n = none := by
  unfold Thread.dstReady at h
  split at h
  · cases h
  · assumption

/-- A form without register fields reads nothing. -/
theorem aSrcs_eq_nil {r : ARule} (f : FmtA) (ha : r.a.isReg = false) (hb : r.b.isReg = false) (hc : r.c.isReg = false) :
    aSrcs r f = [] := by
  have hlast : replacedAt r f = none := by simp [replacedAt, lastReg, ha, hb, hc]
  have hat : ∀ i reg m, (kindAt r i).isReg = false → aSrcAt r f i reg m = [] := fun i reg m h => by
    rw [aSrcAt, hlast]
    cases hk : kindAt r i <;> simp_all [SrcKind.isReg]
  rw [aSrcs, hat 0 _ _ ha, hat 1 _ _ hb, hat 2 _ _ hc]
  rfl

theorem aSrcs_ballot (cv : Bool) (f : FmtA) : aSrcs (ruleBallot cv f) f = [] := aSrcs_eq_nil f rfl rfl rfl
theorem aSrcs_vote (cv : Bool) (f : FmtA) : aSrcs (ruleVote cv f) f = [] := aSrcs_eq_nil f rfl rfl rfl
theorem aSrcs_elect (cv : Bool) (f : FmtA) : aSrcs (ruleElect cv f) f = [] := aSrcs_eq_nil f rfl rfl rfl

/-- A form that writes one register. -/
theorem crossReady_writes {x : Cross} {r : ARule} {f : FmtA} {t : Thread} {xs : List (List Reg)} (h : AReady r f t xs)
    (hs : x.srcs = aSrcs r f) (hx : x.dst = some f.dst.toNat) (hr : r.dst = .regs 1) : CrossReady x t xs := by
  obtain ⟨-, hxs, hd⟩ := h
  rw [hr] at hd
  exact ⟨hs ▸ hxs, by rw [hx]; exact dstBlock_of_ready hd⟩

/-- A form that writes a predicate. -/
theorem crossReady_predicate {x : Cross} {r : ARule} {f : FmtA} {t : Thread} {xs : List (List Reg)} (h : AReady r f t xs)
    (hs : x.srcs = aSrcs r f) (hx : x.dst = none) : CrossReady x t xs := by
  obtain ⟨-, hxs, -⟩ := h
  exact ⟨hs ▸ hxs, by rw [hx]; rfl⟩

/-- The fields of a well-formed word of format A that its rule bounds. -/
theorem aOk_fields {r : ARule} {f : FmtA} (h : aOk r f = true) :
    f.type ∈ r.types ∧ r.extra = true ∧ (r.lit = false → f.lit = none) := by
  simp only [aOk, Bool.and_eq_true] at h
  obtain ⟨⟨⟨⟨⟨⟨⟨⟨⟨⟨htype, -⟩, -⟩, -⟩, -⟩, -⟩, hlit⟩, -⟩, -⟩, -⟩, hextra⟩ := h
  refine ⟨List.contains_iff_mem.mp htype, hextra, fun hr => ?_⟩
  cases hl : f.lit with
  | none => rfl
  | some l => simp [hl, hr] at hlit

/-- A form without a literal is one word long, as a rendezvous and else. -/
theorem lit_isSome_of_aOk {r : ARule} {f : FmtA} (h : aOk r f = true) (hr : r.lit = false) : false = f.lit.isSome := by
  rw [(aOk_fields h).2.2 hr]
  rfl

/-- An LSCAN's operator and type. -/
theorem lscan_does_of_wf {cv : Bool} {f : FmtA} (hw : aOk (ruleLscan cv f) f = true) {P : List PLane} (hP : Rising P)
    {p : PLane} (hp : p ∈ P) : LscanDoes f P p ((crossLscan cv f).eff P p) := by
  obtain ⟨htype, hextra, -⟩ := aOk_fields hw
  have htypes : f.type ∈ [Tag.i32, .u32, .f32] := htype
  exact lscan_does cv f hextra (by simpa using htypes) hP hp

/-- Settles O7. Both forms of each instruction make the same of their set: a plain form has the lanes of its bundle
whose guard is true, a .cv form those that signed with a true guard. -/
theorem crossLane : Obligations.CrossLane := by
  unfold Obligations.CrossLane
  refine ⟨⟨?_, ?_, ?_, ?_, ?_, ?_, ?_⟩, ?_, ?_, ?_, ?_, ?_, ?_, ?_⟩
  · exact givesCross_of (x := crossPermx false) (fun _ _ => rfl) (fun _ _ _ h => crossReady_writes h rfl rfl rfl)
      fun f _ p _ hP _ => permx_does false f hP p
  · exact givesCross_of (x := crossBallot) (fun _ _ => rfl)
      (fun f _ _ h => crossReady_writes h (aSrcs_ballot false f).symm rfl rfl) fun f P p _ _ _ => ballot_does f P p
  · exact givesCross_of (x := crossVote) (fun _ _ => rfl)
      (fun f _ _ h => crossReady_predicate h (aSrcs_vote false f).symm rfl) fun f P p _ _ _ => vote_does f P p
  · exact givesCross_of (x := crossMatch false) (fun _ _ => rfl) (fun _ _ _ h => crossReady_writes h rfl rfl rfl)
      fun f P p _ _ _ => match_does false f P p
  · exact givesCross_of (x := crossLscan false) (fun _ _ => rfl) (fun _ _ _ h => crossReady_writes h rfl rfl rfl)
      fun f P p hw hP hp => lscan_does_of_wf hw hP hp
  · exact givesCross_of (x := crossLred false) (fun _ _ => rfl) (fun _ _ _ h => crossReady_writes h rfl rfl rfl)
      fun f P p _ _ _ => lred_does false f P p
  · exact givesCross_of (x := crossElect) (fun _ _ => rfl)
      (fun f _ _ h => crossReady_predicate h (aSrcs_elect false f).symm rfl) fun f P p _ _ _ => elect_does f P p
  · exact firesCross_of (x := crossPermx true) (fun _ _ => rfl) (fun _ _ _ _ _ _ _ _ => rfl) (fun _ _ => rfl)
      (fun _ _ _ h => crossReady_writes h rfl rfl rfl) (crossPermx_onFiles true)
      fun f _ p _ hP _ => permx_does true f hP p
  · exact firesCross_of (x := crossBallot) (fun _ _ => rfl) (fun _ _ _ _ _ _ _ _ => rfl)
      (fun f hw => lit_isSome_of_aOk (r := ruleBallot true f) hw rfl)
      (fun f _ _ h => crossReady_writes h (aSrcs_ballot true f).symm rfl rfl) crossBallot_onFiles
      fun f P p _ _ _ => ballot_does f P p
  · exact firesCross_of (x := crossVote) (fun _ _ => rfl) (fun _ _ _ _ _ _ _ _ => rfl)
      (fun f hw => lit_isSome_of_aOk (r := ruleVote true f) hw rfl)
      (fun f _ _ h => crossReady_predicate h (aSrcs_vote true f).symm rfl) crossVote_onFiles
      fun f P p _ _ _ => vote_does f P p
  · exact firesCross_of (x := crossMatch true) (fun _ _ => rfl) (fun _ _ _ _ _ _ _ _ => rfl)
      (fun f hw => lit_isSome_of_aOk (r := ruleMatch true f) hw rfl) (fun _ _ _ h => crossReady_writes h rfl rfl rfl)
      (crossMatch_onFiles true) fun f P p _ _ _ => match_does true f P p
  · exact firesCross_of (x := crossLscan true) (fun _ _ => rfl) (fun _ _ _ _ _ _ _ _ => rfl) (fun _ _ => rfl)
      (fun _ _ _ h => crossReady_writes h rfl rfl rfl) (crossLscan_onFiles true)
      fun f P p hw hP hp => lscan_does_of_wf hw hP hp
  · exact firesCross_of (x := crossLred true) (fun _ _ => rfl) (fun _ _ _ _ _ _ _ _ => rfl) (fun _ _ => rfl)
      (fun _ _ _ h => crossReady_writes h rfl rfl rfl) (crossLred_onFiles true) fun f P p _ _ _ => lred_does true f P p
  · exact firesCross_of (x := crossElect) (fun _ _ => rfl) (fun _ _ _ _ _ _ _ _ => rfl)
      (fun f hw => lit_isSome_of_aOk (r := ruleElect true f) hw rfl)
      (fun f _ _ h => crossReady_predicate h (aSrcs_elect true f).symm rfl) crossElect_onFiles
      fun f P p _ _ _ => elect_does f P p

end Sys2Proof.Machine
end

section
/-! SUPPORT. The abacus (R178, R179, R273 to R275): what is added to a register, what a read of one gives, and the lanes of an
abacus instruction one after another. -/

namespace Sys2Proof.Machine

/-! ## Values modulo 2^656 -/

theorem sgn_emod (w n : Nat) : sgn w n % 2 ^ w = (n : ℤ) % 2 ^ w := by
  unfold sgn
  split
  · push_cast
    exact Int.emod_emod_of_dvd _ dvd_rfl
  · push_cast
    rw [Int.sub_emod_right]
    exact Int.emod_emod_of_dvd _ dvd_rfl

theorem wrap_cast (w : Nat) (x : ℤ) : (wrap w x : ℤ) = x % 2 ^ w :=
  Int.toNat_of_nonneg (Int.emod_nonneg _ (pow_ne_zero _ two_ne_zero))

/-- A register with an amount added to its value, in two's complement. -/
def Abacus.plus (q : Abacus) (z : ℤ) : Abacus := { q with val := wrap 656 (q.value + z) }

theorem Abacus.plus_val (q : Abacus) (z : ℤ) : ((q.plus z).val : ℤ) = (q.val + z) % 2 ^ 656 := by
  rw [plus, wrap_cast, value, Int.add_emod, sgn_emod, ← Int.add_emod]

theorem Abacus.plus_frame (q : Abacus) (z : ℤ) : q.plus z = { q with val := (q.plus z).val } := by
  simp only [plus]

theorem Abacus.plus_comm (q : Abacus) (y z : ℤ) : (q.plus y).plus z = (q.plus z).plus y := by
  have hval : (((q.plus y).plus z).val : ℤ) = ((q.plus z).plus y).val := by
    rw [plus_val, plus_val, plus_val, plus_val, Int.emod_add_emod, Int.emod_add_emod, Int.add_right_comm]
  rw [plus_frame (q.plus y), plus_frame (q.plus z), Int.ofNat_inj.mp hval, plus_frame q y, plus_frame q z]

/-- An exact number over 2^298, of either sign. -/
def fixedPoint (n : Bool) (m : Nat) (e : ℤ) : ℤ := if n then -((m : ℤ) * 2 ^ (e + 298).toNat) else (m : ℤ) * 2 ^ (e + 298).toNat

theorem addTerm_fin (q : Abacus) (n : Bool) (m : Nat) (e : ℤ) : q.addTerm (.fin n m e) = q.plus (fixedPoint n m e) := rfl

theorem addSeg_eq (q : Abacus) (k : Nat) (w : Word) : q.addSeg k w =
    q.plus ((if k < 19 then (w.toNat : ℤ) else w.toInt) * 2 ^ (32 * k)) := by
  rw [Abacus.addSeg, sgn_toNat]
  rfl

theorem fixedPoint_rat (n : Bool) (m : Nat) {e : ℤ} (he : -298 ≤ e) :
    (fixedPoint n m e : ℚ) = (FVal.fin n m e).rat * 2 ^ 298 := by
  have hpow : (2 : ℚ) ^ (e + 298).toNat = 2 ^ e * 2 ^ 298 := by
    rw [← zpow_natCast, Int.toNat_of_nonneg (by omega), zpow_add₀ two_ne_zero]
    rfl
  cases n <;> simp [fixedPoint, FVal.rat, hpow, mul_assoc]

/-- A finite value whose exponent an abacus register reaches. -/
def InReach (x : FVal) : Prop := ∀ n m e, x = .fin n m e → -298 ≤ e

theorem adds_addTerm (q : Abacus) {x : FVal} (hx : InReach x) : Adds q x (q.addTerm x) := by
  refine ⟨fun h => h ▸ rfl, fun h => h ▸ rfl, fun h => h ▸ rfl, fun n m e h => ?_⟩
  subst h
  exact ⟨fixedPoint n m e, fixedPoint_rat n m (hx n m e rfl), q.plus_frame _, q.plus_val _⟩

theorem f32Val_exp (w : Word) : ∀ n m e, f32Val w = .fin n m e → -149 ≤ e := by
  intro n m e h
  simp only [f32Val, decodeF, show fmtF32.bias = 127 from rfl, show fmtF32.frac = 23 from rfl, beq_iff_eq] at h
  generalize magOf fmtF32 w.toNat / 2 ^ 23 = g at h
  split at h
  · split at h
    · injection h
      omega
    · injection h
      omega
  · split at h <;> cases h

theorem termVal_exp (t : Tag) (w : Word) : ∀ n m e, termVal t w = .fin n m e → -149 ≤ e := by
  intro n m e h
  unfold termVal at h
  split at h
  · exact f32Val_exp w n m e h
  · injection h
    omega

theorem inReach_termVal (t : Tag) (w : Word) : InReach (termVal t w) := fun n m e h =>
  (by decide : (-298 : ℤ) ≤ -149).trans (termVal_exp t w n m e h)

theorem inReach_product (t : Tag) (a b : Word) : InReach (mulF (termVal t a) (termVal t b)) := by
  intro n m e h
  cases ha : termVal t a <;> cases hb : termVal t b <;> simp only [ha, hb, mulF, reduceCtorEq] at h
  case fin.fin n' m' e' n'' m'' e'' =>
    injection h
    have := termVal_exp t a _ _ _ ha
    have := termVal_exp t b _ _ _ hb
    omega
  all_goals split at h <;> cases h

theorem termOf_eq (t : Tag) (w : Word) : termOf t w = termVal t w := by simp [termOf, termVal]

/-! ## The order of additions -/

/-- An addition raises one flag, or the value. -/
theorem addition_cases (x : FVal ⊕ Nat × Word) :
    (∀ q : Abacus, x.elim q.addTerm (fun y => q.addSeg y.1 y.2) = { q with nan := true }) ∨
    (∀ q : Abacus, x.elim q.addTerm (fun y => q.addSeg y.1 y.2) = { q with pinf := true }) ∨
    (∀ q : Abacus, x.elim q.addTerm (fun y => q.addSeg y.1 y.2) = { q with ninf := true }) ∨
    ∃ z, ∀ q : Abacus, x.elim q.addTerm (fun y => q.addSeg y.1 y.2) = q.plus z := by
  rcases x with x | y
  · cases x with
    | nan => exact .inl fun _ => rfl
    | inf n =>
      cases n
      · exact .inr (.inl fun _ => rfl)
      · exact .inr (.inr (.inl fun _ => rfl))
    | fin n m e => exact .inr (.inr (.inr ⟨_, fun q => addTerm_fin q n m e⟩))
  · exact .inr (.inr (.inr ⟨_, fun q => addSeg_eq q y.1 y.2⟩))

theorem addition_comm (x y : FVal ⊕ Nat × Word) (q : Abacus) :
    y.elim (x.elim q.addTerm fun y => q.addSeg y.1 y.2).addTerm
        (fun z => (x.elim q.addTerm fun y => q.addSeg y.1 y.2).addSeg z.1 z.2) =
      x.elim (y.elim q.addTerm fun y => q.addSeg y.1 y.2).addTerm
        (fun z => (y.elim q.addTerm fun y => q.addSeg y.1 y.2).addSeg z.1 z.2) := by
  rcases addition_cases x with hx | hx | hx | ⟨z, hx⟩ <;> rcases addition_cases y with hy | hy | hy | ⟨z', hy⟩ <;>
    simp only [hx, hy]
  case inr.inr.inr.inr.inr.inr => exact q.plus_comm z z'
  all_goals simp only [Abacus.plus, Abacus.value]

/-! ## Reads -/

theorem notes_noteRead (q : Abacus) : Notes q q.noteRead := by
  have hrange : (decide (-2 ^ 639 ≤ sgn 656 q.val) && decide (sgn 656 q.val < 2 ^ 639)) = q.inRange := rfl
  rw [Notes, hrange, Abacus.noteRead]
  cases q.inRange <;> simp

theorem bit_eq_testBit (n i : Nat) : bit n i = n.testBit i := by
  rw [bit, Nat.testBit_eq_decide_div_mod_eq]
  rfl

theorem i32_clamp (x : ℤ) : (i32 (clampTo .i32 x)).toInt = max (-2 ^ 31) (min (2 ^ 31 - 1) x) := by
  simp only [i32, ofNat_wrap, BitVec.toInt_ofInt, clampTo, intMin, intMax]
  exact Int.bmod_eq_of_le (by omega) (by omega)

/-- The first condition of Table 11.13 that holds decides, in the meaning and in the model. -/
theorem readsAs_readWord (t : Tag) (md : RMode) (q : Abacus) : ReadsAs t md q (q.readWord t md) := by
  have hvalue : q.value = sgn 656 q.val := rfl
  unfold ReadsAs Abacus.readWord
  simp only [hvalue, beq_iff_eq, bit_eq_testBit, Bool.or_eq_true, Bool.and_eq_true]
  by_cases ht : t = .i32
  · subst ht
    simp only [if_true, reduceCtorEq, if_false]
    split
    · rfl
    split
    · rfl
    split
    · rfl
    split
    · rfl
    split
    · rfl
    intro v hv
    rw [hv]
    exact ⟨fun _ => i32_clamp _, fun h => absurd rfl h⟩
  · have hlt : ∀ f ∈ [fmtBF16, fmtF32], ∀ x, (w32 (rndT f md x)).toNat = rndT f md x := by
      intro f hf x
      have hfmts : ∀ g ∈ [fmtBF16, fmtF32], g ∈ allFmts ∧ 2 ^ g.width ≤ 2 ^ 32 := by decide
      exact w32_toNat ((roundTo_lt (hfmts f hf).1 _ _ _).trans_le (hfmts f hf).2)
    have hf : (if t = .bf16x2 then fmtBF16 else fmtF32) ∈ [fmtBF16, fmtF32] := by split <;> simp
    have hfrac : ∀ f ∈ [fmtBF16, fmtF32], f.frac ≠ 0 := by decide
    generalize (if t = .bf16x2 then fmtBF16 else fmtF32) = f at hf ⊢
    simp only [ht, if_false]
    split
    · exact hlt f hf .nan
    split
    · exact hlt f hf _
    split
    · exact hlt f hf _
    split
    · exact hlt f hf _
    split
    · rfl
    intro v hv
    rw [hv]
    refine ⟨fun h => h.elim, fun _ => ?_⟩
    rw [hlt f hf]
    exact rounds_rndT f (hfrac f hf) md _ _ _
/-! ## Lanes one after another -/

/-- The lanes of an abacus form: each acts on the registers that the one before it has left. -/
theorem runLanes_abacus {r : ARule} {f : FmtA} {eff : Core → Thread → List (List Reg) → Core × Thread} {c clk : Nat}
    {xs : Nat → List (List Reg)} {R : Nat × Thread → Tab Abacus → Tab Abacus → Thread → Prop}
    (hcore : ∀ x t ys, ∃ q, (eff x t ys).1 = { x with q := q })
    (us : List (Nat × Thread)) : (∀ e ∈ us, AReady r f e.2 (xs e.1)) →
    (∀ e ∈ us, ∀ x, R e x.q (eff x e.2 (xs e.1)).1.q (eff x e.2 (xs e.1)).2) →
    ∀ st : State, st.clock = clk → (us.map Prod.fst).Nodup → (∀ e ∈ us, st.thread c e.1 = some e.2) →
    ∃ t, runLanes false c (abacusEff r f eff c) (us.map Prod.fst) st = (t, []) ∧ t.stalled = st.stalled ∧
      LaneByLane c clk f.lit.isSome R us st t := by
  induction us with
  | nil => exact fun _ _ st _ _ _ => ⟨st, rfl, rfl, rfl⟩
  | cons e us ih =>
    intro hready hR st hclk hn hth
    obtain ⟨he, hready⟩ := List.forall_mem_cons.mp hready
    obtain ⟨hRe, hR⟩ := List.forall_mem_cons.mp hR
    obtain ⟨hte, hth⟩ := List.forall_mem_cons.mp hth
    obtain ⟨hout, hn⟩ := List.nodup_cons.mp hn
    obtain ⟨hg, hs, hd⟩ := he
    let y := eff (st.core c) e.2 (xs e.1)
    have hy : y.1 = { st.core c with q := y.1.q } := by
      obtain ⟨q, hq⟩ := hcore (st.core c) e.2 (xs e.1)
      rw [show y.1 = _ from hq]
    let st1 := (st.setCore c y.1).setThread c e.1 (y.2.advance st.clock f.lit.isSome)
    have hlane : abacusEff r f eff c st e.1 e.2 = .done st1 := by
      simp only [abacusEff, hg, Bool.not_true, Bool.false_eq_true, if_false, withSources_ok hs]
      cases hdst : r.dst with
      | regs n => exact withDst_ready (by simpa only [hdst] using hd) _ _
      | none => rfl
      | pred => rfl
      | index n => rfl
    have hnext : ∀ e' ∈ us, st1.thread c e'.1 = some e'.2 := fun e' he' => by
      have hne : e'.1 ≠ e.1 := fun h => hout (h ▸ List.mem_map_of_mem he')
      refine (State.thread_setThread_other _ _ _ _ _ _ (.inr hne)).trans ?_
      rw [State.thread, State.core_setCore, hy]
      exact hth e' he'
    obtain ⟨t, hrun, hstalled, hlanes⟩ := ih hready hR st1 hclk hn hnext
    refine ⟨t, ?_, hstalled, y.1.q, y.2, hRe (st.core c), ?_⟩
    · simp only [List.map_cons, runLanes, hte, hlane]
      exact hrun
    · rw [← hy]
      subst hclk
      exact hlanes

theorem givesAbacus_of {mk : FmtA → Instr} {rule : FmtA → ARule}
    {eff : FmtA → Core → Thread → List (List Reg) → Core × Thread}
    {R : FmtA → Thread → List (List Reg) → Tab Abacus → Tab Abacus → Thread → Prop}
    (hexec : ∀ f s, exec (mk f) s = runAbacus (rule f) f (eff f) s)
    (hcore : ∀ f x t ys, ∃ q, (eff f x t ys).1 = { x with q := q })
    (hR : ∀ f x t ys, WellFormed (mk f) → R f t ys x.q (eff f x t ys).1.q (eff f x t ys).2) : GivesAbacus mk rule R := by
  intro f s c us xs hw hb hready
  obtain ⟨hissue, hne, hn, hth⟩ := hb
  obtain ⟨t, hrun, hstalled, hlanes⟩ := runLanes_abacus (hcore f) us hready
    (R := fun e q q' u => R f e.2 (xs e.1) q q' u) (fun e _ x => hR f x e.2 (xs e.1) hw) s rfl hn hth
  refine ⟨t, ?_, hlanes⟩
  have hbundle : runBundle false (abacusEff (rule f) f (eff f) c) s = happens s t := by
    rw [runBundle, hissue]
    split
    · next h => exact absurd (List.map_eq_nil_iff.mp h) hne
    · simp only [hrun, markBundle_free, takeLanes_nil]
  rw [hexec, runAbacus, hissue, hbundle]
  exact happens_of_stalled hstalled

/-! ## The obligation -/

theorem onlyQ_setAbacus (x : Core) (n : Nat) (a : Abacus) : OnlyQ x.q n a (x.setAbacus n a).q :=
  ⟨tabGet_set_same .., fun _ hm => tabGet_set_other _ _ _ _ _ hm⟩

theorem flagWord_toNat (q : Abacus) :
    q.flagWord.toNat = q.ovf.toNat + 2 * q.pinf.toNat + 4 * q.ninf.toNat + 8 * q.nan.toNat := by
  obtain ⟨v, o, p, n, a⟩ := q
  cases o <;> cases p <;> cases n <;> cases a <;> rfl

theorem segment_eq (n : Nat) {k : Nat} (hk : k < 20) :
    w32 (n / 2 ^ (32 * k)) = (BitVec.ofNat 656 n).extractLsb' (32 * k) 32 := by
  refine BitVec.eq_of_getLsbD_eq fun i hi => ?_
  simp only [w32, BitVec.getLsbD_ofNat, BitVec.getLsbD_extractLsb', hi, decide_true, Bool.true_and, Nat.testBit_div_two_pow]
  rw [decide_eq_true (by omega : 32 * k + i < 656), Bool.true_and, Nat.add_comm]

/-- The segment's place that a well-formed QMOV.seg names. -/
theorem segment_index {f : FmtA} (h : aOk (ruleQmovSeg f) f = true) : f.srcB.toNat < 20 := by
  simp only [aOk, Bool.and_eq_true] at h
  obtain ⟨⟨⟨-, hb⟩, -⟩, -⟩ := h
  have hrep : replacedAt (ruleQmovSeg f) f = none := by simp [replacedAt, lastReg, ruleQmovSeg, baseA, SrcKind.isReg]
  have hindex : srcOk (.index 20) f.srcB f.modB = true := by
    rw [aSrcOkAt, hrep] at hb
    exact hb
  simp only [srcOk, Bool.and_eq_true, decide_eq_true_eq] at hindex
  exact hindex.1

/-- What a read notes in a core's register. -/
theorem notes_abacus (x : Core) (n : Nat) : Notes (regQ x.q n) (x.abacus n).noteRead := notes_noteRead (x.abacus n)

theorem setAbacus_twice (x : Core) (n m : Nat) (a : Abacus) :
    ∃ q, (x.setAbacus n a).setAbacus m a = { x with q := q } := ⟨_, rfl⟩

/-- QMOV leaves both registers with what has been read. -/
theorem qmov_does (f : FmtA) (x : Core) (t : Thread) (ys : List (List Reg)) : ∃ a, Notes (regQ x.q f.srcA.toNat) a ∧
    regQ (effQmov f x t ys).1.q f.srcA.toNat = a ∧ regQ (effQmov f x t ys).1.q f.dst.toNat = a ∧
    ∀ m, m ≠ f.srcA.toNat → m ≠ f.dst.toNat → regQ (effQmov f x t ys).1.q m = regQ x.q m := by
  obtain ⟨hsrc, hother⟩ := onlyQ_setAbacus x f.srcA.toNat (x.abacus f.srcA.toNat).noteRead
  obtain ⟨hdst, hother'⟩ := onlyQ_setAbacus (x.setAbacus f.srcA.toNat (x.abacus f.srcA.toNat).noteRead) f.dst.toNat
    (x.abacus f.srcA.toNat).noteRead
  refine ⟨_, notes_noteRead _, ?_, hdst, fun m hm hm' => (hother' m hm').trans (hother m hm)⟩
  by_cases h : f.srcA.toNat = f.dst.toNat
  · exact (congrArg (regQ _) h).trans hdst
  · exact (hother' _ h).trans hsrc

/-- A register as a read finds and rounds it. It is named, so that no proof evaluates whether its value is in range. -/
theorem reads_noted (t : Tag) (md : RMode) (x : Core) (n : Nat) : ∃ a w, a = (x.abacus n).noteRead ∧ w = a.readWord t md ∧
    Notes (regQ x.q n) a ∧ ReadsAs t md a w := by
  obtain ⟨a, ha⟩ : ∃ a, a = (x.abacus n).noteRead := ⟨_, rfl⟩
  exact ⟨a, _, ha, rfl, ha ▸ notes_abacus x n, readsAs_readWord t md a⟩

theorem qscan_does (f : FmtA) (x : Core) (t : Thread) (ys : List (List Reg)) : ∃ a y w, Notes (regQ x.q f.srcB.toNat) a ∧
    ReadsAs f.type (rmodeOf f.var) a w ∧ (effQscan f x t ys).2 = t.write f.dst.toNat f.type w ∧
    Adds a (termVal f.type (srcW ys 0)) y ∧ OnlyQ x.q f.srcB.toNat y (effQscan f x t ys).1.q := by
  obtain ⟨a, w, ha, hw, hnotes, hreads⟩ := reads_noted f.type (rmodeOf f.var) x f.srcB.toNat
  refine ⟨a, a.addTerm (termVal f.type (srcW ys 0)), w, hnotes, hreads, ?_, adds_addTerm a (inReach_termVal _ _), ?_⟩
  · rw [hw, ha]
    rfl
  · rw [ha, ← termOf_eq]
    exact onlyQ_setAbacus ..

theorem qrnd_does (f : FmtA) (x : Core) (t : Thread) (ys : List (List Reg)) : ∃ a w, Notes (regQ x.q f.srcA.toNat) a ∧
    ReadsAs f.type (rmodeOf f.var) a w ∧ (effQrnd f x t ys).2 = t.write f.dst.toNat f.type w ∧
    OnlyQ x.q f.srcA.toNat a (effQrnd f x t ys).1.q := by
  obtain ⟨a, w, ha, hw, hnotes, hreads⟩ := reads_noted f.type (rmodeOf f.var) x f.srcA.toNat
  refine ⟨a, w, hnotes, hreads, ?_, ?_⟩
  · rw [hw, ha]
    rfl
  · rw [ha]
    exact onlyQ_setAbacus ..

/-- Settles O12. Additions commute since each raises one flag or adds to the value modulo 2^656. -/
theorem abacusForms : Obligations.AbacusForms := by
  unfold Obligations.AbacusForms
  refine ⟨⟨?_, ?_, ?_, ?_, ?_, ?_, ?_, ?_, ?_⟩, fun q xs ys h => h.foldl_eq' (fun x _ y _ z => (addition_comm x y z)) q⟩
  · exact givesAbacus_of (eff := effQclr) (fun _ _ => rfl) (fun _ _ _ _ => ⟨_, rfl⟩) fun f x t ys _ => ⟨rfl, onlyQ_setAbacus ..⟩
  · exact givesAbacus_of (eff := effQadd) (fun _ _ => rfl) (fun _ _ _ _ => ⟨_, rfl⟩) fun f x t ys _ =>
      ⟨rfl, _, onlyQ_setAbacus .., by rw [termOf_eq]; exact adds_addTerm _ (inReach_termVal _ _)⟩
  · exact givesAbacus_of (eff := effQaddSeg) (fun _ _ => rfl) (fun _ _ _ _ => ⟨_, rfl⟩) fun f x t ys _ =>
      ⟨rfl, _, onlyQ_setAbacus .., by rw [addSeg_eq]; exact Abacus.plus_frame .., by rw [addSeg_eq]; exact Abacus.plus_val ..⟩
  · exact givesAbacus_of (eff := effQmac) (fun _ _ => rfl) (fun _ _ _ _ => ⟨_, rfl⟩) fun f x t ys _ =>
      ⟨rfl, _, onlyQ_setAbacus .., by rw [qmacTerm, termOf_eq, termOf_eq]; exact adds_addTerm _ (inReach_product _ _ _)⟩
  · exact givesAbacus_of (eff := effQscan) (fun _ _ => rfl) (fun _ _ _ _ => ⟨_, rfl⟩) fun f x t ys _ =>
      qscan_does f x t ys
  · exact givesAbacus_of (eff := effQrnd) (fun _ _ => rfl) (fun _ _ _ _ => ⟨_, rfl⟩) fun f x t ys _ =>
      qrnd_does f x t ys
  · exact givesAbacus_of (eff := effQmov) (fun _ _ => rfl) (fun f x _ _ => setAbacus_twice x f.srcA.toNat f.dst.toNat _) fun f x t ys _ =>
      ⟨rfl, qmov_does f x t ys⟩
  · exact givesAbacus_of (eff := effQmovSeg) (fun _ _ => rfl) (fun _ _ _ _ => ⟨_, rfl⟩) fun f x t ys hw =>
      ⟨_, notes_abacus x _, by rw [← segment_eq _ (segment_index hw)]; rfl, onlyQ_setAbacus ..⟩
  · exact givesAbacus_of (eff := effQflag) (fun _ _ => rfl) (fun _ _ _ _ => ⟨_, rfl⟩) fun f x t ys _ =>
      ⟨_, notes_abacus x _, onlyQ_setAbacus .., _, rfl, flagWord_toNat _⟩

end Sys2Proof.Machine
end

section
/-! SUPPORT. What the memory path may change (R45 to R54, R129 to R131): the engines, the keys, the L2, main memory, the fills
and what waits for them, and the reports; and what a walk and a fetch may change besides (R72, R80, R206). -/

namespace Sys2Proof.Machine

/-! ## Lists of steps -/

theorem foldl_rel {α : Type} {r : State → State → Prop} (hrefl : ∀ s, r s s) (htrans : ∀ {s t u}, r s t → r t u → r s u)
    {f : State → α → State} (hf : ∀ s a, r s (f s a)) (xs : List α) (s : State) : r s (xs.foldl f s) := by
  induction xs generalizing s with
  | nil => exact hrefl s
  | cons a xs ih => exact htrans (hf s a) (ih _)

/-! ## The memory path -/

/-- Only what the engines and the L2 keep has changed. -/
structure MemFrame (s t : State) : Prop where
  rest : t = { s with
    dies := t.dies, keys := t.keys, hbm := t.hbm, hbmSide := t.hbmSide, l2Tags := t.l2Tags, l2 := t.l2, fills := t.fills
    accesses := t.accesses, reports := t.reports }

namespace MemFrame

theorem refl (s : State) : MemFrame s s := ⟨rfl⟩

theorem trans {s t u : State} (h : MemFrame s t) (g : MemFrame t u) : MemFrame s u := ⟨by rw [g.rest, h.rest]⟩

theorem setDie (s : State) (d : Nat) (x : Die) : MemFrame s (s.setDie d x) := ⟨rfl⟩
theorem setKey (s : State) (k : Nat) (x : KeySlot) : MemFrame s (s.setKey k x) := ⟨rfl⟩
theorem hbmWrite (s : State) (a : Nat) (bs : List Byte) : MemFrame s (hbmWrite s a bs) := ⟨rfl⟩
theorem sideWrite (s : State) (a : Nat) (bs : List Byte) : MemFrame s (sideWrite s a bs) := ⟨rfl⟩

/-! ### Metadata units -/

theorem storeUnit (s : State) (d level n ver : Nat) (u : MUnit) :
    MemFrame s (storeUnit s d level n ver u) :=
  (hbmWrite ..).trans (sideWrite ..)
theorem putUnit (s : State) (d level n : Nat) (u : MUnit) (c : Bool) : MemFrame s (putUnit s d level n u c) := ⟨rfl⟩
theorem exhaustNode (s : State) (d level n : Nat) : MemFrame s (exhaustNode s d level n) := ⟨rfl⟩

theorem getUnit {fuel d level n : Nat} {s s1 : State} {u : MUnit} (h : getUnit fuel s d level n = .ok (u, s1)) :
    MemFrame s s1 := by
  induction fuel generalizing level n u s1 with
  | zero => cases h
  | succ fuel ih =>
    rw [Sys2Proof.Machine.getUnit] at h
    split at h
    · injection h with h
      injection h with _ h
      exact h ▸ refl s
    · dsimp only at h
      split at h
      · cases h
      · next ver fresh s' hup =>
        have hs' : MemFrame s s' := by
          split at hup
          · injection hup with hup
            injection hup with _ hup
            injection hup with _ hup
            exact hup ▸ refl s
          · split at hup
            · next p s'' hparent =>
              injection hup with hup
              injection hup with _ hup
              injection hup with _ hup
              exact hup ▸ ih hparent
            · cases hup
        split at h
        · injection h with h
          injection h with _ h
          exact h ▸ hs'.trans (putUnit ..)
        · split at h
          · injection h with h
            injection h with _ h
            exact h ▸ hs'.trans (putUnit ..)
          · cases h

theorem restartChildren (s : State) (d level n major : Nat) (p : MUnit) (k : Nat) :
    MemFrame s (restartChildren s d level n major p k).1 := by
  induction k with
  | zero => exact refl s
  | succ k ih =>
    rw [Sys2Proof.Machine.restartChildren]
    dsimp only
    split
    · exact ih
    · exact ih.trans (storeUnit ..)

theorem writeBackUnit (s : State) (d level n : Nat) : MemFrame s (writeBackUnit s d level n) := by
  unfold Sys2Proof.Machine.writeBackUnit
  split
  · exact refl s
  · split
    · exact refl s
    · split
      · exact ((setDie ..).trans (storeUnit ..)).trans (putUnit ..)
      · split
        · exact refl s
        · next p s1 hparent =>
          have h1 : MemFrame s s1 := getUnit hparent
          dsimp only
          split
          · exact ((h1.trans (putUnit ..)).trans (storeUnit ..)).trans (putUnit ..)
          · split
            · exact (((h1.trans (putUnit ..)).trans (restartChildren ..)).trans (putUnit ..)).trans (putUnit ..)
            · exact h1.trans (exhaustNode ..)

theorem evictUnit (s : State) (d unit : Nat) : MemFrame s (evictUnit s d unit) := by
  unfold Sys2Proof.Machine.evictUnit
  split
  · exact refl s
  · dsimp only
    split
    · split
      · exact writeBackUnit ..
      · exact (writeBackUnit ..).trans (setDie ..)
    · exact writeBackUnit ..

theorem trimKind (d cap keep : Nat) (blocks : Bool) (s : State) : MemFrame s (trimKind d cap keep blocks s) := by
  unfold Sys2Proof.Machine.trimKind
  split
  · exact refl s
  · refine foldl_rel refl trans (fun st u => ?_) _ s
    split
    · exact refl st
    · exact evictUnit ..

theorem trimCache (s : State) (d keep : Nat) : MemFrame s (trimCache s d keep) := (trimKind ..).trans (trimKind ..)

theorem holdBlock (s : State) (d g : Nat) (vb : MUnit) : MemFrame s (holdBlock s d g vb) := (putUnit ..).trans (trimCache ..)

theorem versionBlock {s s1 : State} {dpa : Nat} {u : MUnit} (h : versionBlock s dpa = .ok (u, s1)) : MemFrame s s1 := by
  unfold Sys2Proof.Machine.versionBlock at h
  split at h
  · next v s' hu =>
    injection h with h
    injection h with _ h
    exact h ▸ (getUnit hu).trans (trimCache ..)
  · cases h

/-- The state of one result. -/
theorem state_of_ok {ε α : Type} {a b : α} {s t : State} (h : (Except.ok (a, s) : Except ε (α × State)) = .ok (b, t)) :
    s = t := (Prod.mk.inj (Except.ok.inj h)).2

/-! ### The L2 -/

theorem delSector (s : State) (dpa : Nat) : MemFrame s (delSector s dpa) := ⟨rfl⟩
theorem delLine (s : State) (line : Nat) : MemFrame s (delLine s line) := ⟨rfl⟩

theorem placeSector (s : State) (sec : Nat) (ws : List Datum) : MemFrame s (placeSector s sec ws) := by
  unfold Sys2Proof.Machine.placeSector
  split
  · split
    · exact refl s
    · exact ⟨rfl⟩
  · exact ⟨rfl⟩

theorem placeLine (s : State) (line slot way : Nat) (ws : List Datum) : MemFrame s (placeLine s line slot way ws) := by
  unfold Sys2Proof.Machine.placeLine
  split
  · split
    · exact (placeSector ..).trans (placeSector ..)
    · exact refl s
  · exact (MemFrame.trans (t := { s with l2Tags := tabPut s.l2Tags line ⟨slot, way⟩ }) ⟨rfl⟩ (placeSector ..)).trans
      (placeSector ..)

theorem cleanTile (s : State) (dpa k : Nat) : MemFrame s (cleanTile s dpa k) := by
  induction k generalizing s with
  | zero => exact refl s
  | succ k ih =>
    rw [Sys2Proof.Machine.cleanTile]
    refine trans ?_ (ih _)
    split
    · exact ⟨rfl⟩
    · exact refl s

theorem dropDirty (s : State) (dpa k : Nat) : MemFrame s (dropDirty s dpa k) := by
  induction k generalizing s with
  | zero => exact refl s
  | succ k ih =>
    rw [Sys2Proof.Machine.dropDirty]
    refine trans ?_ (ih _)
    split
    · split
      · exact delSector ..
      · exact refl s
    · exact refl s

/-! ### Fills and seals -/

theorem teFail (s : State) (dpa slot stage : Nat) (code : BitVec 8) : MemFrame s (teFail s dpa slot stage code) :=
  setDie ..

theorem failJoined (s : State) (tile slot : Nat) (code : BitVec 8) : MemFrame s (failJoined s tile slot code) := ⟨rfl⟩

theorem report (s : State) (xs : List Nat) : MemFrame s { s with reports := xs } := ⟨rfl⟩

theorem failFill (s : State) (dpa slot : Nat) (code : BitVec 8) (stage : Nat) (u : Option Nat) :
    MemFrame s (failFill s dpa slot code stage u) := by
  have h1 := (teFail s dpa slot stage code).trans (failJoined _ (dpa / 1024) slot code)
  unfold Sys2Proof.Machine.failFill
  dsimp only
  split
  · exact h1
  · split
    · exact h1.trans (report ..)
    · exact (h1.trans (setDie ..)).trans (report ..)

/-- The state that the reading of a tile leaves, whatever it gives. -/
def left : Except (BitVec 8 × Nat × Option Nat × State) (List Datum × State) → State
  | .ok (_, s) => s
  | .error (_, _, _, s) => s

theorem readTile (s : State) (dpa slot : Nat) : MemFrame s (left (readTile s dpa slot)) := by
  unfold Sys2Proof.Machine.readTile
  split
  · exact refl s
  · next vb s1 hv =>
    have h1 : MemFrame s s1 := versionBlock hv
    split
    · exact h1
    · dsimp only
      split
      · exact h1
      · split
        · exact h1
        · split <;> exact h1

theorem readTile_ok {s s1 : State} {dpa slot : Nat} {ws : List Datum}
    (h : Sys2Proof.Machine.readTile s dpa slot = .ok (ws, s1)) : MemFrame s s1 := by
  have hleft := readTile s dpa slot
  rwa [h] at hleft

theorem readTile_error {s s1 : State} {dpa slot stage : Nat} {code : BitVec 8} {u : Option Nat}
    (h : Sys2Proof.Machine.readTile s dpa slot = .error (code, stage, u, s1)) : MemFrame s s1 := by
  have hleft := readTile s dpa slot
  rwa [h] at hleft

theorem writeTile (s : State) (dpa slot major minor : Nat) (ws : List Datum) :
    MemFrame s (writeTile s dpa slot major minor ws) := by
  unfold Sys2Proof.Machine.writeTile
  split
  · exact (hbmWrite ..).trans (setDie ..)
  · exact ((hbmWrite ..).trans (sideWrite ..)).trans (hbmWrite ..)

theorem sealWords_ok {s s1 : State} {dpa slot : Nat} {ws : List Datum} (h : sealWords s dpa slot = .ok (ws, s1)) :
    MemFrame s s1 := by
  unfold sealWords at h
  dsimp only at h
  split at h
  · exact state_of_ok h ▸ refl s
  · split at h
    · next hread => exact state_of_ok h ▸ readTile_ok hread
    · simp only [reduceCtorEq] at h

theorem sealWords_error {s s1 : State} {dpa slot : Nat} (h : sealWords s dpa slot = .error s1) : MemFrame s s1 := by
  unfold sealWords at h
  dsimp only at h
  split at h
  · simp only [reduceCtorEq] at h
  · split at h
    · simp only [reduceCtorEq] at h
    · next hread => exact Except.error.inj h ▸ ((readTile_error hread).trans (failFill ..)).trans (dropDirty ..)

theorem resealWords_ok {s s1 : State} {dpa slot : Nat} {ws : List Datum} (h : resealWords s dpa slot = .ok (ws, s1)) :
    MemFrame s s1 := by
  unfold resealWords at h
  dsimp only at h
  split at h
  · exact state_of_ok h ▸ refl s
  · split at h
    · next hread => exact state_of_ok h ▸ readTile_ok hread
    · simp only [reduceCtorEq] at h

theorem resealWords_error {s s1 : State} {dpa slot : Nat} (h : resealWords s dpa slot = .error s1) : MemFrame s s1 := by
  unfold resealWords at h
  dsimp only at h
  split at h
  · simp only [reduceCtorEq] at h
  · split at h
    · simp only [reduceCtorEq] at h
    · next hread => exact Except.error.inj h ▸ ((readTile_error hread).trans (failFill ..)).trans (dropDirty ..)

theorem gatherTiles (base slot : Nat) (vb : MUnit) (given : Option (Nat × List Datum)) (is : List Nat) (s : State)
    (acc : List (Nat × List Datum)) : MemFrame s (gatherTiles base slot vb given is s acc).1 := by
  induction is generalizing s acc with
  | nil => exact refl s
  | cons i is ih =>
    rw [Sys2Proof.Machine.gatherTiles]
    split
    · exact ih ..
    · split
      · exact ih ..
      · split
        · next hread => exact (resealWords_ok hread).trans (ih ..)
        · next hread => exact (resealWords_error hread).trans (ih ..)

theorem resealGroup (s : State) (d g : Nat) (vb : MUnit) (major : Nat) (given : Option (Nat × List Datum)) :
    MemFrame s (resealGroup s d g vb major given id) := by
  unfold Sys2Proof.Machine.resealGroup
  dsimp only [id]
  refine ((gatherTiles ..).trans (foldl_rel refl trans (fun st e => ?_) _ _)).trans ((setKey ..).trans (holdBlock ..))
  exact (writeTile ..).trans (cleanTile ..)

theorem sealTile (s : State) (dpa slot : Nat) : MemFrame s (sealTile s dpa slot) := by
  unfold Sys2Proof.Machine.sealTile
  split
  · next hwords => exact sealWords_error hwords
  · next ws s0 hwords =>
    have h0 : MemFrame s s0 := sealWords_ok hwords
    split
    · exact (h0.trans (failFill ..)).trans (dropDirty ..)
    · next vb s1 hv =>
      have h1 : MemFrame s s1 := h0.trans (versionBlock hv)
      split
      · exact (h1.trans (failFill ..)).trans (dropDirty ..)
      · dsimp only
        split
        · split
          · exact (h1.trans (resealGroup ..)).trans (setDie ..)
          · exact h1.trans (dropDirty ..)
        · have h3 : MemFrame s (Sys2Proof.Machine.cleanTile (Sys2Proof.Machine.writeTile s1 dpa slot vb.major
              (tabGet 0 vb.ctr (tileIn dpa) + 1) ws) dpa 16) := (h1.trans (writeTile ..)).trans (cleanTile ..)
          split
          · exact (h3.trans (holdBlock ..)).trans (setDie ..)
          · exact h3.trans (holdBlock ..)

theorem evictLine (s : State) (line : Nat) : MemFrame s (evictLine s line) := by
  unfold Sys2Proof.Machine.evictLine
  split
  · exact refl s
  · refine trans ?_ (delLine ..)
    split
    · exact sealTile ..
    · exact refl s

theorem installLine (mask : BitVec 24) (ask slot : Nat) (s : State) (line : Nat) (ws : List Datum) :
    MemFrame s (installLine mask ask slot s line ws) := by
  unfold Sys2Proof.Machine.installLine
  dsimp only
  split
  · exact placeLine ..
  · refine trans ?_ (placeLine ..)
    split
    · exact evictLine ..
    · exact refl s

theorem installTile (mask : BitVec 24) (ask slot k : Nat) (s : State) (line : Nat) (ws : List Datum) :
    MemFrame s (installTile mask ask slot k s line ws) := by
  induction k generalizing s line ws with
  | zero => exact refl s
  | succ k ih => exact (installLine ..).trans (ih ..)

theorem endFill (s : State) (tile slot : Nat) : MemFrame s (endFill s tile slot) := ⟨rfl⟩

theorem fillTile_ok {s s1 : State} {dpa slot ask : Nat} {mask : BitVec 24} (h : fillTile s dpa slot mask ask = .ok s1) :
    MemFrame s s1 := by
  unfold fillTile at h
  split at h
  · next hread => exact FillRes.ok.inj h ▸ ((readTile_ok hread).trans (installTile ..)).trans (endFill ..)
  · simp only [reduceCtorEq] at h

theorem fillTile_fail {s s1 : State} {dpa slot ask : Nat} {mask : BitVec 24} {code : BitVec 8}
    (h : fillTile s dpa slot mask ask = .fail s1 code) : MemFrame s s1 := by
  unfold fillTile at h
  split at h
  · simp only [reduceCtorEq] at h
  · next hread => exact (FillRes.fail.inj h).1 ▸ (readTile_error hread).trans (failFill ..)

end MemFrame

/-! ## Walks and fetches -/

/-- Besides the memory path, only the cached translations, the walks in flight, the names given out, and whether the
event has to wait. -/
structure FetchFrame (s t : State) : Prop where
  rest : t = { s with
    dies := t.dies, keys := t.keys, hbm := t.hbm, hbmSide := t.hbmSide, l2Tags := t.l2Tags, l2 := t.l2, fills := t.fills
    accesses := t.accesses, reports := t.reports, stalled := t.stalled, walks := t.walks, nextId := t.nextId
    cores := t.cores, clusters := t.clusters }
  core : ∀ c, t.core c = { s.core c with tlb := (t.core c).tlb }
  cluster : ∀ c, t.cluster c = { s.cluster c with tlb := (t.cluster c).tlb }

theorem MemFrame.fetch {s t : State} (h : MemFrame s t) : FetchFrame s t where
  rest := by rw [h.rest]
  core c := by rw [h.rest]; rfl
  cluster c := by rw [h.rest]; rfl

theorem MemFrame.stalled {s t : State} (h : MemFrame s t) : t.stalled = s.stalled := by rw [h.rest]

namespace FetchFrame

theorem refl (s : State) : FetchFrame s s := (MemFrame.refl s).fetch

theorem trans {s t u : State} (h : FetchFrame s t) (g : FetchFrame t u) : FetchFrame s u where
  rest := by rw [g.rest, h.rest]
  core c := by rw [g.core, h.core]
  cluster c := by rw [g.cluster, h.cluster]

theorem stall (s : State) (walks : List WalkReq) (n : Nat) :
    FetchFrame s { s with stalled := true, walks := walks, nextId := n } := ⟨rfl, fun _ => rfl, fun _ => rfl⟩

theorem setWalks (s : State) (walks : List WalkReq) : FetchFrame s { s with walks := walks } :=
  ⟨rfl, fun _ => rfl, fun _ => rfl⟩

theorem cacheLeaf (s : State) (core : Option Nat) (cl : Nat) (l : Leaf) : FetchFrame s (cacheLeaf s core cl l) := by
  have h1 : FetchFrame s (s.setCluster cl { s.cluster cl with tlb := clusterTlbPut (s.cluster cl).tlb l }) := by
    refine ⟨rfl, fun _ => rfl, fun d => ?_⟩
    by_cases hd : d = cl
    · subst hd
      rw [State.cluster_setCluster]
    · rw [State.cluster_setCluster_other _ _ hd]
  unfold Sys2Proof.Machine.cacheLeaf
  cases core with
  | none => exact h1
  | some c =>
    refine h1.trans ⟨rfl, fun d => ?_, fun _ => rfl⟩
    by_cases hd : d = c
    · subst hd
      exact State.core_setCore .. ▸ rfl
    · exact (State.core_setCore_other _ _ hd).trans (State.core_setCore_other _ _ hd ▸ rfl)

end FetchFrame

/-- What a result at the home leaves: a success sets nothing to wait. -/
def HomeRes.Framed {α : Type} (s : State) : HomeRes α → Prop
  | .ok _ t => FetchFrame s t ∧ t.stalled = s.stalled
  | .fail _ t => FetchFrame s t

theorem MemFrame.both {s t : State} (h : MemFrame s t) : FetchFrame s t ∧ t.stalled = s.stalled := ⟨h.fetch, h.stalled⟩

theorem homeSector_framed (s : State) (dpa slot : Nat) (mask : BitVec 24) : (homeSector s dpa slot mask).Framed s := by
  unfold homeSector
  split
  · exact FetchFrame.stall s s.walks s.nextId
  · split
    · exact (MemFrame.refl s).both
    · split
      · next s1 hfill =>
        split
        · exact (MemFrame.fillTile_ok hfill).both
        · exact (MemFrame.fillTile_ok hfill).fetch
      · next hfill => exact (MemFrame.fillTile_fail hfill).fetch

theorem refetchWords_framed (s : State) (dpa slot n : Nat) (mask : BitVec 24) (x : L2Sector) :
    (refetchWords s dpa slot n mask x).Framed s := by
  unfold refetchWords
  dsimp only
  split
  · exact (MemFrame.refl s).both
  · have h := homeSector_framed (delSector s dpa) dpa slot mask
    have hdel := (MemFrame.delSector s dpa).both
    split
    · next heq =>
      rw [heq] at h
      exact ⟨hdel.1.trans h.1, h.2.trans hdel.2⟩
    · next heq =>
      rw [heq] at h
      exact hdel.1.trans h

theorem homeReadChecked_framed (s : State) (dpa slot n : Nat) (mask : BitVec 24) :
    (homeReadChecked s dpa slot n mask).Framed s := by
  unfold homeReadChecked
  have h := homeSector_framed s dpa slot mask
  split
  · next heq =>
    rw [heq] at h
    exact h
  · next x s1 heq =>
    rw [heq] at h
    have hr := refetchWords_framed s1 dpa slot n mask x
    split
    · next heq' =>
      rw [heq'] at hr
      exact h.1.trans hr
    · next heq' =>
      rw [heq'] at hr
      split
      · exact ⟨h.1.trans hr.1, hr.2.trans h.2⟩
      · exact h.1.trans hr.1

theorem entryAt_framed (s : State) (p va level table : Nat) : (walkFrom.entryAt s p va level table).Framed s := by
  unfold walkFrom.entryAt
  dsimp only
  have h := homeReadChecked_framed s (table + 8 * (va / 2 ^ levelShift level % 512))
    (field (s.part p).xlRoot.toNat 7 0) 2 (s.part p).l2Ways
  split
  · next heq =>
    rw [heq] at h
    exact h
  · next heq =>
    rw [heq] at h
    split
    · exact h
    · exact h.1

/-- What a walk or a translation leaves. -/
def WalkFramed (s : State) (r : Except XFail Leaf × State) : Prop :=
  FetchFrame s r.2 ∧ ((∃ l, r.1 = .ok l) → r.2.stalled = s.stalled)

theorem WalkFramed.of_error {s t : State} (x : XFail) (h : FetchFrame s t) : WalkFramed s (.error x, t) :=
  ⟨h, fun ⟨_, hl⟩ => by simp only [reduceCtorEq] at hl⟩

theorem WalkFramed.trans {s t : State} {r : Except XFail Leaf × State} (h : FetchFrame s t ∧ t.stalled = s.stalled)
    (g : WalkFramed t r) : WalkFramed s r := ⟨h.1.trans g.1, fun hl => (g.2 hl).trans h.2⟩

theorem walkRead_framed (s : State) (p va level table : Nat) : WalkFramed s (walkFrom.walkRead s p va level table) := by
  unfold walkFrom.walkRead
  have h := entryAt_framed s p va level table
  split
  · next heq =>
    rw [heq] at h
    exact .of_error _ h
  · next heq =>
    rw [heq] at h
    split
    · exact .of_error _ h.1
    · exact ⟨h.1, fun _ => h.2⟩
    · exact .of_error _ h.1

theorem walkFrom_framed (level : Nat) (s : State) (d p va table : Nat) :
    WalkFramed s (walkFrom level s d p va table) := by
  induction level generalizing s table with
  | zero => exact walkRead_framed ..
  | succ level ih =>
    rw [walkFrom]
    split
    · exact ih ..
    · have h := entryAt_framed s p va (level + 1) table
      split
      · next heq =>
        rw [heq] at h
        exact .of_error _ h
      · next s1 heq =>
        rw [heq] at h
        split
        · exact .of_error _ h.1
        · exact .of_error _ h.1
        · exact ⟨h.1, fun _ => h.2⟩
        · refine .trans h (.trans (MemFrame.setDie s1 d _).both (ih ..))

theorem translate_framed (s : State) (w : Place) (p va : Nat) (k : AKind) (o : OrderReq) (cls : Option OrdClass) :
    WalkFramed s (translate s w p va k o cls) := by
  unfold translate
  split
  · exact .of_error _ (.refl s)
  · split
    · exact ⟨.refl s, fun _ => rfl⟩
    · split
      · split
        · exact .of_error _ (FetchFrame.stall s s.walks s.nextId)
        · exact ⟨FetchFrame.setWalks .., fun _ => rfl⟩
      · dsimp only
        split
        · exact .of_error _ (FetchFrame.stall ..)
        · have h : WalkFramed s (walk s w.die p va) := walkFrom_framed ..
          split
          · next heq =>
            rw [heq] at h
            exact .of_error _ h.1
          · next l s1 heq =>
            rw [heq] at h
            have hcache := FetchFrame.cacheLeaf s1 w.core w.cluster l
            refine ⟨h.1.trans hcache, fun _ => ?_⟩
            refine Eq.trans ?_ (h.2 ⟨l, rfl⟩)
            unfold cacheLeaf
            cases w.core <;> rfl

/-- What a fetch leaves: a word that is fetched sets nothing to wait. -/
def FetchRes.Framed (s : State) : FetchRes → Prop
  | .ok _ t => FetchFrame s t ∧ t.stalled = s.stalled
  | .fail _ t => FetchFrame s t

theorem fetchAt_framed (s : State) (c p : Nat) (a : DWord) : (fetchAt s c p a).Framed s := by
  unfold fetchAt
  split
  · next va _ =>
    have h := translate_framed s (corePlace c) p va .fetch .page none
    split
    · next heq =>
      rw [heq] at h
      split
      · exact h.1
      · exact h.1
    · next l s1 heq =>
      rw [heq] at h
      split
      · exact h.1
      · have hr := homeReadChecked_framed s1 (leafAddr l va) l.slot 2 (s1.part p).l2Ways
        split
        · next heq' =>
          rw [heq'] at hr
          exact h.1.trans hr
        · next heq' =>
          rw [heq'] at hr
          split
          · exact ⟨h.1.trans hr.1, hr.2.trans (h.2 ⟨l, rfl⟩)⟩
          · exact h.1.trans hr.1
  · exact FetchFrame.refl s

theorem checkTarget_framed (s : State) (c p : Nat) (a : DWord) : (checkTarget s c p a).Framed s := by
  unfold checkTarget
  have h := fetchAt_framed s c p a
  split
  · exact FetchFrame.refl s
  · split
    · next heq =>
      rw [heq] at h
      exact h
    · next heq =>
      rw [heq] at h
      split
      · exact h.1
      · split
        · exact h.1
        · exact h

theorem checkFallen_framed (s : State) (c p : Nat) (first : Bool) (a : DWord) : (checkFallen s c p first a).Framed s := by
  unfold checkFallen
  have h := fetchAt_framed s c p a
  split
  · next heq =>
    rw [heq] at h
    exact h
  · next heq =>
    rw [heq] at h
    split
    · exact h.1
    · split
      · exact h.1
      · exact h

theorem checkPoint_framed (s : State) (c p : Nat) (a : DWord) : (checkPoint s c p a).Framed s := by
  unfold checkPoint
  have h := checkTarget_framed s c p a
  split
  · next heq =>
    rw [heq] at h
    exact h
  · next heq =>
    rw [heq] at h
    split
    · exact h
    · exact h.1

end Sys2Proof.Machine
end

section
/-! SUPPORT. Branches, calls and returns (R171, R188, R362): what the one lane of a branch comes to, and the obligation on
them. -/

namespace Sys2Proof.Machine

/-- The reconvergence stack after a push (R171). -/
def pushedTo (old : List DWord) (p : Option DWord) : List DWord :=
  match p with
  | none => old
  | some a => if old.head? = some a then old else (a :: old).take 4

theorem pushed_pushedTo (old : List DWord) (p : Option DWord) : Pushed old p (pushedTo old p) := by
  refine ⟨fun h => h ▸ rfl, fun a h => ⟨fun ha => ?_, fun ha => ?_⟩⟩
  · rw [h, pushedTo, if_pos ha]
  · rw [h, pushedTo, if_neg ha]

theorem Thread.push_eq (t : Thread) (p : Option DWord) : t.push p = { t with rstk := pushedTo t.rstk p } := by
  cases p with
  | none => rfl
  | some a =>
    by_cases h : t.rstk.head? = some a
    · simp [Thread.push, pushedTo, h]
    · simp [Thread.push, pushedTo, h]

theorem Thread.write_frame (t : Thread) (r : Nat) (g : Tag) (w : Word) :
    t.write r g w = { t with regs := (t.write r g w).regs } := Thread.modReg_frame ..

theorem Thread.rstk_writePair (t : Thread) (r : Nat) (g h : Tag) (d : DWord) : (t.writePair r g h d).rstk = t.rstk := by
  rw [Thread.writePair, Thread.write_frame, Thread.write_frame t]

/-- The displacement of a branch counts words of eight bytes (R362). -/
theorem displacement_eq (d : BitVec 32) : w64 (wrap 64 (8 * sgn 32 d.toNat)) = 8 * d.signExtend 64 := by
  rw [w64, ofNat_wrap, sgn_toNat, BitVec.ofInt_mul]
  rfl

/-- Where a branch goes. -/
def branchTo (reg : Bool) (f : FmtB) (t : Thread) (xs : List (List Reg)) : DWord :=
  if reg then srcPair xs 0 else t.pc + 8 * f.disp.signExtend 64

section
variable {reg push link : Bool} {f : FmtB} {s s1 : State} {c k : Nat} {t : Thread} {xs : List (List Reg)}
  (hpoint : PointOk s c (launchPart s t.seq) (if push then t.point else none) s1)
  (hxs : t.sources (if reg then [.regs f.target [.addrLo, .addrHi] f.trap 0] else []) = .ok xs)
include hpoint

theorem PointOk.stalled : s1.stalled = s.stalled := by
  cases hp : (if push then t.point else none) with
  | none => rw [hpoint.1 hp]
  | some a =>
    obtain ⟨w, hw⟩ := hpoint.2 a hp
    have h := checkPoint_framed s c (launchPart s t.seq) a
    rw [hw] at h
    exact h.2

include hxs

theorem branchLane_skips (hg : t.guard f.guard = false) : branchLane reg push link f c s k t =
    .done (s1.setThread c k ({ t with rstk := pushedTo t.rstk (if push then t.point else none) }.advance s1.clock false)) := by
  rw [branchLane, withSources_ok hxs]
  simp only [hg, Bool.not_false, if_true, Thread.push_eq]
  generalize hp : (if push = true then t.point else none) = p at hpoint ⊢
  cases p with
  | none => rw [hpoint.1 rfl]
  | some a =>
    obtain ⟨w, hw⟩ := hpoint.2 a rfl
    simp only [hw]

theorem branchLane_goes (hg : t.guard f.guard = true) (hd : t.dstReady f.dst.toNat (if link then 2 else 0) = .ok ())
    {w : DWord} {s2 : State} (htarget : checkTarget s1 c (launchPart s t.seq) (branchTo reg f t xs) = .ok w s2) :
    branchLane reg push link f c s k t = .done (s2.setThread c k
      { (if link then t.writePair f.dst.toNat .addrLo .addrHi t.blockEnd else t).issued s2.clock with
        rstk := pushedTo t.rstk (if push then t.point else none), pc := branchTo reg f t xs, blk := branchTo reg f t xs
        hdr := w, entered := true }) := by
  have hrstk : (if link then t.writePair f.dst.toNat .addrLo .addrHi t.blockEnd else t).rstk = t.rstk := by
    cases link
    · rfl
    · exact Thread.rstk_writePair ..
  have hto : (if reg then srcPair xs 0 else t.pc + w64 (wrap 64 (8 * sgn 32 f.disp.toNat))) = branchTo reg f t xs := by
    rw [displacement_eq, branchTo]
  rw [branchLane, withSources_ok hxs]
  simp only [hg, Bool.not_true, Bool.false_eq_true, if_false, Thread.push_eq, hto, withDst_ready hd, hrstk]
  generalize hp : (if push = true then t.point else none) = p at hpoint ⊢
  cases p with
  | none =>
    rw [hpoint.1 rfl] at htarget
    simp only [htarget]
    rfl
  | some a =>
    obtain ⟨w', hw⟩ := hpoint.2 a rfl
    simp only [hw, htarget]
    rfl

end

/-- Settles O13: the one lane fetches at most the point that it pushes and its target, and neither fetch, where it
succeeds, makes the instruction wait. -/
theorem branches : Obligations.Branches := by
  unfold Obligations.Branches
  intro mk reg push link hmk f s s1 c k t xs p hs hp hpoint hxs
  subst hp
  have hexec : exec (mk f) s = runBundle false (branchLane reg push link f s.issue.core) s := by
    simp only [List.mem_cons, List.not_mem_nil, or_false, Prod.mk.injEq] at hmk
    rcases hmk with ⟨rfl, rfl, rfl, rfl⟩ | ⟨rfl, rfl, rfl, rfl⟩ | ⟨rfl, rfl, rfl, rfl⟩ | ⟨rfl, rfl, rfl, rfl⟩ |
      ⟨rfl, rfl, rfl, rfl⟩ | ⟨rfl, rfl, rfl, rfl⟩ <;> rfl
  have hstalled : s1.stalled = s.stalled := hpoint.stalled
  refine ⟨fun hg => ⟨_, pushed_pushedTo .., exec_of_done hexec hs (branchLane_skips hpoint hxs hg) hstalled⟩,
    fun hg hd a w s2 ha htarget => ⟨_, _, pushed_pushedTo .., rfl, ?_⟩⟩
  subst ha
  have hfetched := checkTarget_framed s1 c (launchPart s t.seq) (branchTo reg f t xs)
  rw [branchTo, htarget] at hfetched
  exact exec_of_done hexec hs (branchLane_goes hpoint hxs hg hd htarget) (hfetched.2.trans hstalled)

end Sys2Proof.Machine
end

section
/-! SUPPORT. What a step runs (R167, R187, R193, R204): a core that is prepared has issued in the pipes in which it had
issued before; a word without a literal bit decodes alike whatever follows it; and the lanes that the gates let through. -/

namespace Sys2Proof.Machine

/-! ## Firing stays within the frame of a fault -/

/-- What a firing leaves, whether it waits or executes. -/
def FireRes.state : FireRes → State
  | .wait s => s
  | .go s _ => s

namespace FaultFrame

theorem modRow (s : State) (c r : Nat) (f : Row → Row) : FaultFrame s (modRow s c r f) := by
  unfold Sys2Proof.Machine.modRow
  split
  · exact modCore ..
  · exact refl s

theorem setCv (s : State) (m : MSet) (v : CvReg) : FaultFrame s (setCv s m v) := modRow ..
theorem setFlag (s : State) (m : MSet) (k : Nat) (f : BarFlag) : FaultFrame s (setFlag s m k f) := modRow ..
theorem setTile (s : State) (cl t : Nat) (x : Tile) : FaultFrame s (setTile s cl t x) := setCluster ..

theorem acquireAt (s : State) (c : Nat) (sc : Scope) : FaultFrame s (acquireAt s c sc) := by
  unfold Sys2Proof.Machine.acquireAt
  split
  · exact ⟨rfl⟩
  · exact refl s

theorem arrive (s : State) (m : MSet) (r : Row) (k : Nat) (w : Bool) : FaultFrame s (arrive s m r k w) :=
  ((setFlag ..).trans (modLaunch ..)).trans (checkBarriers ..)

theorem enterPass (s : State) (m : MSet) (t : Nat) (f : FmtE) (scaled : Bool) (prio : Nat) (ks : List Nat) :
    FaultFrame s (enterPass s m t f scaled prio ks) :=
  (FaultFrame.foldl _ (fun _ _ => modThread ..) ks s).trans ((setTile ..).trans ⟨rfl⟩)

theorem fireTacq (s : State) (m : MSet) (seq o : Nat) (f : FmtE) (bs : List Nat) :
    FaultFrame s (fireTacq s m seq o f bs).state := by
  unfold Sys2Proof.Machine.fireTacq
  dsimp only
  split
  · exact refl s
  · split
    · exact refl s
    · exact setTile ..

theorem fireTrel (s : State) (m : MSet) (f : FmtE) (bs : List Nat) : FaultFrame s (fireTrel s m f bs).state := by
  unfold Sys2Proof.Machine.fireTrel
  dsimp only
  split
  · exact refl s
  · split
    · exact refl s
    · split
      · exact refl s
      · exact setTile ..

theorem fireMma (s : State) (m : MSet) (r : Row) (o : Nat) (scaled : Bool) (f : FmtE) (bs : List Nat) :
    FaultFrame s (fireMma s m r o scaled f bs).state := by
  unfold Sys2Proof.Machine.fireMma
  dsimp only
  split
  · exact refl s
  · split
    · exact refl s
    · split
      · exact refl s
      · split
        · exact refl s
        · split
          · exact refl s
          · exact enterPass ..

theorem fireBar (s : State) (m : MSet) (r : Row) (v : CvReg) (arr waits : Bool) (f : FmtE) (bs ss : List Nat) :
    FaultFrame s (fireBar s m r v arr waits f bs ss).state := by
  have harr : FaultFrame s
      (if arr && !v.arrived then Sys2Proof.Machine.arrive s m r f.unit.toNat waits else s) := by
    split
    · exact arrive ..
    · exact refl s
  unfold Sys2Proof.Machine.fireBar
  dsimp only
  generalize (if arr && !v.arrived then Sys2Proof.Machine.arrive s m r f.unit.toNat waits else s) = s1 at harr ⊢
  split
  · exact refl s
  · split
    · exact refl s
    · split
      · exact refl s
      · split
        · exact refl s
        · split
          · exact harr
          · split
            · exact (harr.trans (acquireAt ..)).trans (setFlag ..)
            · exact (harr.trans (setCv ..)).trans (setFlag ..)

theorem fireCross (x : Cross) (s : State) (c : Nat) (bs : List Nat) : FaultFrame s (fireCross x s c bs).state := by
  unfold Sys2Proof.Machine.fireCross
  dsimp only
  split
  · exact refl s
  · exact FaultFrame.foldl _ (fun _ _ => setThread ..) _ s

theorem fireInstr (s : State) (m : MSet) (r : Row) (v : CvReg) (o : Nat) (bs ss : List Nat) (i : Instr) :
    FaultFrame s (fireInstr s m r v o bs ss i).state := by
  unfold Sys2Proof.Machine.fireInstr
  split
  case h_1 => exact fireTacq ..
  case h_2 => exact fireTrel ..
  case h_3 | h_4 => exact fireMma ..
  case h_5 | h_6 | h_7 => exact fireBar ..
  case h_8 | h_9 | h_10 | h_11 | h_12 | h_13 | h_14 => exact fireCross ..
  case h_15 => exact refl s

theorem bundleFaults (s : State) (c n : Nat) (fs : List (Nat × FInfo)) : FaultFrame s (bundleFaults s c n fs) := by
  unfold Sys2Proof.Machine.bundleFaults
  split
  · exact refl s
  · exact takeFaults ..

theorem endFiring (s : State) (m : MSet) (ss : List Nat) (lit : Bool) (fs : List (Nat × FInfo)) :
    FaultFrame s (endFiring s m ss lit fs) :=
  ((setCv ..).trans (FaultFrame.foldl _ (fun _ _ => modThread ..) _ _)).trans (bundleFaults ..)

theorem tryFire (s : State) (m : MSet) : FaultFrame s (tryFire s m) := by
  unfold Sys2Proof.Machine.tryFire
  split
  · exact refl s
  · next r _ =>
    dsimp only
    split
    · next o i _ _ =>
      have h := fireInstr s m r (r.reg m.cv) o (maskKeys m.row (r.reg m.cv).gmask) (maskKeys m.row (r.reg m.cv).signed) i
      split
      · next heq => exact (heq ▸ h :)
      · next heq => exact (heq ▸ h :).trans (endFiring ..)
    · exact refl s

theorem fireOne (s : State) (m : MSet) : FaultFrame s (fireOne s m) := by
  unfold Sys2Proof.Machine.fireOne
  dsimp only
  split
  · exact (setCv ..).trans (tryFire ..)
  · exact refl s

theorem settleRegs (n : Nat) (s : State) (c : Nat) : FaultFrame s (settleRegs n s c) := by
  induction n generalizing s with
  | zero => exact refl s
  | succ n ih =>
    rw [Sys2Proof.Machine.settleRegs]
    split
    · exact refl s
    · exact (FaultFrame.foldl _ (fun _ _ => fireOne ..) _ s).trans (ih _)

theorem settleCore (s : State) (c : Nat) : FaultFrame s (settleCore s c) := by
  unfold Sys2Proof.Machine.settleCore
  split
  · exact refl s
  · exact settleRegs ..

theorem wake (s : State) (c : Nat) : FaultFrame s (wake s c) := by
  unfold Sys2Proof.Machine.wake
  split
  · exact modCore ..
  · exact refl s

end FaultFrame

/-! ## What has issued -/

theorem FaultFrame.issued {s t : State} (h : FaultFrame s t) : t.issued = s.issued := by rw [h.rest]
theorem FetchFrame.issued {s t : State} (h : FetchFrame s t) : t.issued = s.issued := by rw [h.rest]

/-- The state that one lane leaves. -/
def LaneEff.state : LaneEff → State
  | .done s => s
  | .block _ s => s
  | .fault _ s => s

/-- What every lane keeps, as a block of the lane does, a bundle keeps. -/
theorem runLanes_rel {r : State → State → Prop} (hrefl : ∀ s, r s s) (htrans : ∀ {s t u}, r s t → r t u → r s u)
    {hold : Bool} {c : Nat} {eff : State → Nat → Thread → LaneEff} (hblock : ∀ s k b, r s (blockThread s c k b))
    (heff : ∀ s k t, r s (eff s k t).state) (ks : List Nat) (s : State) : r s (runLanes hold c eff ks s).1 := by
  induction ks generalizing s with
  | nil => exact hrefl s
  | cons k ks ih =>
    have hrest : ∀ s1 uid, r s1 (ks.foldl (fun st j => blockThread st c j (.lane k uid)) s1) := fun s1 uid =>
      foldl_rel hrefl htrans (fun st j => hblock st j _) ks s1
    rw [runLanes]
    split
    · exact ih s
    · next t _ =>
      have he := heff s k t
      split
      · next heq => exact htrans (heq ▸ he :) (ih _)
      · next b s1 heq =>
        have hb := htrans (u := blockThread s1 c k b) (heq ▸ he :) (hblock _ k _)
        dsimp only
        split
        · exact htrans hb (hrest _ _)
        · exact htrans hb (ih _)
      · next heq =>
        have hb := hblock s k .verdict
        dsimp only
        split
        · split
          · exact htrans hb (hrest _ _)
          · exact htrans hb (ih _)
        · exact htrans (heq ▸ he :) (ih _)

theorem enterThread_issued (c : Nat) (s : State) (k : Nat) (t : Thread) :
    (enterThread c s k t).state.issued = s.issued := by
  unfold enterThread
  split
  · have h := checkFallen_framed s c (launchPart s t.seq) (!t.acquired) t.pc
    split
    · next heq =>
      have h1 : FetchFrame s _ := (heq ▸ h :)
      split
      · rfl
      · exact h1.issued
    · next heq =>
      have h1 : FetchFrame s _ ∧ _ := (heq ▸ h :)
      exact h1.1.issued
  · split <;> rfl

theorem enterBlocks_issued (s : State) (c : Nat) : (enterBlocks s c).issued = s.issued := by
  unfold enterBlocks
  dsimp only
  split
  · exact (FaultFrame.bundleFaults ..).issued.trans
      (runLanes_rel (r := fun s t => t.issued = s.issued) (fun _ => rfl) (fun h g => g.trans h)
        (fun _ _ _ => (FaultFrame.blockThread ..).issued) (enterThread_issued c) _ s)
  · rfl

theorem prepare_issued (s : State) (c : Nat) : (prepare s c).issued = s.issued :=
  (enterBlocks_issued ..).trans ((FaultFrame.settleCore ..).trans (FaultFrame.wake ..)).issued

/-! ## Decoding with the word behind -/

theorem litOf_of_unset {w : DWord} (h : litBit w = false) (x y : Option DWord) : litOf w x = litOf w y := by
  simp [litOf, h]

/-- A word without a literal bit decodes alike whatever follows it. -/
theorem decodeWord_of_unset {w : DWord} (h : hasLitBit w = false) (x y : Option DWord) : decodeWord w x = decodeWord w y := by
  unfold hasLitBit at h
  unfold decodeWord
  dsimp only
  split at h <;> rename_i heq
  · simp only [heq, parseA, litOf_of_unset h x y]
  · simp only [heq, parseM, litOf_of_unset h x y]
  · simp only [heq, parseE, litOf_of_unset h x y]
  · generalize formatOf (w.extractLsb' 60 4).toNat (w.extractLsb' 54 6).toNat = fo at *
    match fo with
    | none | some .b | some .s => rfl
    | some .a => exact absurd rfl (by assumption)
    | some .m => exact absurd rfl (by assumption)
    | some .e => exact absurd rfl (by assumption)

theorem decodeWord_of_decode {w : DWord} {ws rest : List DWord} {i : Instr} (h : decode (w :: ws) = .ok (i, rest)) :
    decodeWord w ws.head? = .ok i := by
  rw [decode] at h
  split at h
  · next heq =>
    injection h with h
    injection h with h _
    exact h ▸ heq
  · cases h

/-! ## The gates -/

/-- No lane is held back: the instruction runs in all of them. -/
theorem runGated_all {s : State} {c : Nat} {ks : List Nat} {i : Instr} (hne : ks ≠ [])
    (h : ∀ j ∈ ks, (s.thread c j).bind (laneGate s i) = none) : runGated s c ks i = .run i [] { s with issue := ⟨c, ks⟩ } := by
  have hgo : ks.takeWhile (fun k => ((s.thread c k).bind (laneGate s i)).isNone) = ks :=
    List.takeWhile_eq_self_iff.mpr fun j hj => by simp [h j hj]
  have hg : gateLanes s c i ks = (ks, s) := by
    unfold gateLanes
    dsimp only
    rw [hgo, List.drop_length]
  unfold runGated
  rw [hg]
  cases ks with
  | nil => exact absurd rfl hne
  | cons k ks => rfl

/-- The first lane that is held back blocks, and the later ones behind it. -/
theorem gateLanes_held {s : State} {c j : Nat} {go behind : List Nat} {i : Instr} {u : Thread} {b : Block}
    (h : ∀ e ∈ go, (s.thread c e).bind (laneGate s i) = none) (hu : s.thread c j = some u) (hb : laneGate s i u = some b) :
    gateLanes s c i (go ++ j :: behind) = (go, behind.foldl (fun st e => blockThread st c e (.lane j u.uid))
      (blockThread (nameBundle s c (go ++ j :: behind)) c j b)) := by
  have hj : (s.thread c j).bind (laneGate s i) = some b := by rw [hu]; exact hb
  have hgo : (go ++ j :: behind).takeWhile (fun k => ((s.thread c k).bind (laneGate s i)).isNone) = go := by
    rw [List.takeWhile_append_of_pos fun e he => by simp [h e he]]
    simp [hj]
  unfold gateLanes
  dsimp only
  rw [hgo, List.drop_left]
  dsimp only
  rw [hj, hu]
  rfl

theorem runGated_held {s s1 : State} {c : Nat} {ks go : List Nat} {i : Instr} (h : gateLanes s c i ks = (go, s1)) :
    (go = [] → runGated s c ks i = .rest s1) ∧ (go ≠ [] → runGated s c ks i = .run i [] { s1 with issue := ⟨c, go⟩ }) := by
  unfold runGated
  rw [h]
  cases go with
  | nil => exact ⟨fun _ => rfl, fun h => absurd rfl h⟩
  | cons k ks => exact ⟨fun h => (List.cons_ne_nil _ _ h).elim, fun _ => rfl⟩

/-! ## The plan of a bundle -/

section
variable {s s1 : State} {c k : Nat} {ks : List Nat} {t : Thread}

theorem planBundle_fetch_fails {i : FInfo} (hk : ks.head? = some k) (ht : s.thread c k = some t)
    (hf : fetchAt (firstAcquire s c ks) c (launchPart s t.seq) t.pc = .fail i s1) :
    planBundle s c ks = fetchFails s s1 c ks i := by
  unfold planBundle
  simp only [hk, Option.bind_some, ht, hf]

theorem planBundle_undecoded {w : DWord} {e : Reject} (hk : ks.head? = some k) (ht : s.thread c k = some t)
    (hf : fetchAt (firstAcquire s c ks) c (launchPart s t.seq) t.pc = .ok w s1) (hd : decodeWord w (some 0) = .error e) :
    planBundle s c ks = .rest (faultBundle s1 c ks (fi fcIllegal)) := by
  unfold planBundle
  simp only [hk, Option.bind_some, ht, hf, hd]

theorem planBundle_none_permitted {w : DWord} {i : Instr} (hk : ks.head? = some k) (ht : s.thread c k = some t)
    (hf : fetchAt (firstAcquire s c ks) c (launchPart s t.seq) t.pc = .ok w s1) (hd : decodeWord w (some 0) = .ok i)
    (hg : lanesOk s1 c i (hasLitBit w) ks = []) :
    planBundle s c ks = .rest (faultBundle s1 c (ks.filter fun j => !([] : List Nat).contains j) (fi fcIllegal)) := by
  unfold planBundle
  simp only [hk, Option.bind_some, ht, hf, hd, hg, List.isEmpty_nil, if_true]

/-- The word and its literal word, if it has one, decode: the gates are next. -/
theorem planBundle_permitted {w : DWord} {i0 i : Instr} {good : List Nat} {s2 s3 : State} (hk : ks.head? = some k)
    (ht : s.thread c k = some t) (hf : fetchAt (firstAcquire s c ks) c (launchPart s t.seq) t.pc = .ok w s1)
    (hd : decodeWord w (some 0) = .ok i0) (hg : good = lanesOk s1 c i0 (hasLitBit w) ks) (hne : good ≠ [])
    (h2 : s2 = faultBundle s1 c (ks.filter fun j => !good.contains j) (fi fcIllegal))
    (hi : (hasLitBit w = false ∧ decode [w] = .ok (i, []) ∧ s3 = s2) ∨
      (∃ l, hasLitBit w = true ∧ fetchAt s2 c (launchPart s t.seq) (t.pc + 8) = .ok l s3 ∧ decode [w, l] = .ok (i, []))) :
    planBundle s c ks = runGated s3 c good i := by
  have hgood : good.isEmpty = false := List.isEmpty_eq_false_iff.mpr hne
  unfold planBundle
  simp only [hk, Option.bind_some, ht, hf, hd, ← hg, ← h2, hgood, Bool.false_eq_true, if_false]
  rcases hi with ⟨hl, hdec, h3⟩ | ⟨l, hl, hfl, hdec⟩
  · have hw : i0 = i := Except.ok.inj (hd.symm.trans
      ((decodeWord_of_unset hl (some 0) none).trans (decodeWord_of_decode hdec)))
    simp only [hl, Bool.not_false, if_true, h3, hw]
  · have hw : decodeWord w (some l) = .ok i := decodeWord_of_decode hdec
    simp only [hl, Bool.not_true, Bool.false_eq_true, if_false, hfl, hw]

end

/-! ## Clocks -/

theorem foldl_min_pos (xs : List Nat) (n : Nat) (hn : 0 < n) (h : ∀ x ∈ xs, 0 < x) : 0 < xs.foldl min n := by
  induction xs generalizing n with
  | nil => exact hn
  | cons x xs ih => exact ih _ (Nat.lt_min.mpr ⟨hn, h x (by simp)⟩) fun y hy => h y (List.mem_cons_of_mem _ hy)

/-- A clock may pass where no thread is at the bound (R170). -/
theorem clocksFree_pos (s : State) : 0 < clocksFree s := by
  refine foldl_min_pos _ _ (by decide) fun x hx => ?_
  obtain ⟨xs, hxs, hx⟩ := List.mem_flatten.mp hx
  obtain ⟨e, _, rfl⟩ := List.mem_map.mp hxs
  obtain ⟨t, _, rfl⟩ := List.mem_map.mp hx
  split <;> omega

theorem tick_of_pos {n : Nat} (h : 0 < n) (s : State) : tick n s = { s with
    clock := s.clock + n, time := s.time + n * (10 ^ 9 / s.mhz), turn := 0, issued := []
    walks := s.walks.filter fun x => x.result.isNone } := by
  have h0 : (n == 0) = false := beq_eq_false_iff_ne.mpr (by omega)
  simp [tick, h0]

/-! ## Steps -/

theorem step_of_rest {s t : State} (h : plan s = .rest t) : step s = .next (serveReports t) := by simp [step, h]
theorem step_of_run {s t : State} {i : Instr} {behind : List Instr} (h : plan s = .run i behind t) :
    step s = afterRun i behind (exec i t) := by simp [step, h]

theorem serveReports_nil {s : State} (h : s.reports = []) : serveReports s = s := by simp [serveReports, h]

section
variable {s s0 : State} {c p : Nat} {rest : List Act} {ks : List Nat}

theorem plan_issue (hp : s.powered = true) (ha : s.agenda = .issue c p :: rest) :
    plan s = planIssue (prepare { s with agenda := rest } c) c p := by simp [plan, hp, planOn, ha]

/-- A pipe that has issued in the clock issues no more. -/
theorem planIssue_again (h : (c, p) ∈ s0.issued) : planIssue s0 c p = .rest s0 := by
  simp [planIssue, h]

theorem planIssue_first (h : (c, p) ∉ s0.issued) (hks : bundle s0 c p = ks) (hne : ks ≠ []) :
    planIssue s0 c p = planBundle { s0 with issued := (c, p) :: s0.issued } c ks := by
  cases ks with
  | nil => exact absurd rfl hne
  | cons k ks => simp [planIssue, h, hks]

end

/-! ## O57 -/

/-- Settles O57: each plan read off the state, the pipes that have issued being kept while the core is prepared. -/
theorem stepsRun : Obligations.StepsRun := by
  unfold Obligations.StepsRun
  refine ⟨?_, ?_, ?_, ?_, ?_, ?_⟩
  · intro s s0 s1 x0 c p rest ks k t hp ha hs0 hb hk ht
    have hplan : plan s = planIssue s0 c p := by rw [plan_issue hp ha, hs0]
    have hiss : s0.issued = s.issued := by rw [hs0, prepare_issued]
    have hne : ks ≠ [] := fun h => by simp [h] at hk
    refine ⟨fun hin => step_of_rest (hplan.trans (planIssue_again (hiss ▸ hin))), fun hout hx0 => ?_⟩
    have hbundle : plan s = planBundle x0 c ks := by
      rw [hplan, planIssue_first (hiss ▸ hout) hb hne, hiss, hx0]
    have hxt : x0.thread c k = some t := by rw [hx0]; exact ht
    have hxp : launchPart x0 t.seq = launchPart s0 t.seq := by rw [hx0]; rfl
    rw [← hxp]
    refine ⟨fun i hf => ?_, fun w hf => ⟨fun e hd => ?_, fun i0 i good s2 s3 hd hg h2 => ⟨fun hnil => ?_, fun hgne hi => ?_⟩⟩⟩
    · have h := hbundle.trans (planBundle_fetch_fails hk hxt hf)
      refine ⟨fun hst => step_of_rest (h.trans ?_), fun hst => step_of_rest (h.trans ?_)⟩
      · simp [fetchFails, hst]
      · simp [fetchFails, hst]
    · exact step_of_rest (hbundle.trans (planBundle_undecoded hk hxt hf hd))
    · have h := planBundle_none_permitted hk hxt hf hd (hg ▸ hnil)
      exact step_of_rest (hbundle.trans (h.trans (by rw [h2, hnil]; rfl)))
    · have h := hbundle.trans (planBundle_permitted hk hxt hf hd hg hgne h2 hi)
      refine ⟨fun hall => step_of_run (h.trans (runGated_all hgne hall)), ?_⟩
      intro go behind j u b s4 hgo hbefore hu hheld hs4
      have hgate := runGated_held (gateLanes_held (behind := behind) hbefore hu hheld)
      rw [← hgo, ← hs4] at hgate
      exact ⟨fun hnil => step_of_rest (h.trans (hgate.1 hnil)), fun hcons => step_of_run (h.trans (hgate.2 hcons))⟩
  · intro s i rest hp ha
    have hplan : plan s = if isEvent i && formOk i then .run i [] { s with agenda := rest } else .rest { s with agenda := rest } := by
      simp [plan, hp, planOn, ha]
    refine ⟨fun he hw => step_of_run (hplan.trans (if_pos ?_)), fun h => step_of_rest (hplan.trans (if_neg ?_))⟩
    · exact (Bool.and_eq_true ..).mpr ⟨he, hw⟩
    · rcases h with h | h
      · simp [h]
      · exact fun hb => h ((Bool.and_eq_true ..).mp hb).2
  · intro s n rest hp ha hr
    refine ⟨fun hn => ?_, fun hn hdue m hm => ?_, fun hn e hdue => ?_⟩
    · have hplan : plan s = .rest { s with agenda := rest } := by simp [plan, hp, planOn, ha, hn]
      exact (step_of_rest hplan).trans (by rw [serveReports_nil]; exact hr)
    · obtain ⟨n, rfl⟩ := Nat.exists_eq_succ_of_ne_zero hn.ne'
      have hpos : 0 < m := hm ▸ Nat.lt_min.mpr ⟨hn, clocksFree_pos s⟩
      have hplan : plan s = .rest (tick m { s with agenda := if m < n + 1 then .tick (n + 1 - m) :: rest else rest }) := by
        simp [plan, hp, planOn, ha, planTick, hdue, hm]
      refine ⟨hpos, (step_of_rest hplan).trans ?_⟩
      rw [tick_of_pos hpos, serveReports_nil]
      exact hr
    · obtain ⟨n, rfl⟩ := Nat.exists_eq_succ_of_ne_zero hn.ne'
      have hplan : plan s = planIssue (prepare s e.1) e.1 e.2 := by simp [plan, hp, planOn, ha, planTick, hdue]
      have hissue : plan { s with agenda := .issue e.1 e.2 :: s.agenda } = planIssue (prepare s e.1) e.1 e.2 :=
        plan_issue (s := { s with agenda := .issue e.1 e.2 :: s.agenda }) hp rfl
      rw [step, step, hplan, hissue]
  · intro s hp ha ht hr hnext
    have hplan : plan s = planEvent s := by simp [plan, hp, planOn, ha, planAuto, ht, hnext]
    refine ⟨fun i ahead behind hw => step_of_run (hplan.trans ?_), fun hw => ⟨fun i ho => step_of_run (hplan.trans ?_), fun ho => ?_⟩⟩
    · simp [planEvent, hw]
    · simp [planEvent, hw, ho]
    · have htick : plan s = .rest (tick 1 s) := hplan.trans (by simp [planEvent, hw, ho])
      rw [step_of_rest htick, tick_of_pos Nat.one_pos, serveReports_nil, Nat.one_mul]
      exact hr
  · intro s hp hr
    refine ⟨fun ha => ?_, fun a rest ha => ⟨fun pos cxl ok hx => step_of_run ?_, fun hx => ?_⟩⟩
    · exact (step_of_rest (t := s) (by simp [plan, hp, ha])).trans (by rw [serveReports_nil hr])
    · simp [plan, hp, ha, hx, powersOn]
    · have hplan : plan s = .rest { s with agenda := rest } := by
        unfold plan
        rw [hp, ha]
        cases a with
        | event i =>
          have hi : powersOn i = false := by
            unfold powersOn
            split
            · exact (hx _ _ _ rfl).elim
            · rfl
          simp [hi]
        | issue => rfl
        | tick => rfl
      exact (step_of_rest hplan).trans (by rw [serveReports_nil]; exact hr)
  · intro s i behind hr
    have h : afterRun i behind (.next s) = .next (serveReports (putOff i behind s)) := rfl
    rw [h, serveReports_nil (by exact hr), putOff]
    simp

end Sys2Proof.Machine
end

section
/-! SUPPORT. Returning what a pass was lent (R184), and a pass from its grant to its end (R181, R182, R185, R279, R281, R287). -/

namespace Sys2Proof.Machine

/-! ## What returning registers changes -/

theorem returnReg_frame (t : Thread) (r : Nat) : returnReg t r = { t with regs := (returnReg t r).regs } :=
  Thread.modReg_frame ..

theorem return_frame (rs : List Nat) (t : Thread) :
    rs.foldl returnReg t = { t with regs := (rs.foldl returnReg t).regs } := by
  induction rs generalizing t with
  | nil => rfl
  | cons r rs ih => rw [List.foldl_cons, ih, returnReg_frame t r]

theorem reg_return (rs : List Nat) (t : Thread) {i : Nat} (hi : i ≠ 255) :
    (rs.foldl returnReg t).reg i = { t.reg i with lent := (t.reg i).lent - rs.count i } := by
  induction rs generalizing t with
  | nil => rfl
  | cons r rs ih =>
    rw [List.foldl_cons, ih]
    by_cases hr : i = r
    · subst hr
      simp [returnReg, Thread.reg_modReg _ _ hi, Nat.sub_sub, Nat.add_comm 1]
    · simp [returnReg, Thread.reg_modReg_other _ _ hr, Ne.symm hr]

/-- Nothing of a register but its count of loans has changed. -/
theorem reg_return_but_lent (rs : List Nat) (t : Thread) (i : Nat) :
    (rs.foldl returnReg t).reg i = { t.reg i with lent := ((rs.foldl returnReg t).reg i).lent } := by
  by_cases hi : i = 255
  · subst hi
    rfl
  · rw [reg_return rs t hi]

/-- Registers of threads of one core are returned, also in what accesses keep of them; nothing else changes. -/
structure LentFrame (s t : State) (c : Nat) : Prop where
  rest : t = { s with cores := t.cores, accesses := t.accesses }
  others : ∀ d, d ≠ c → t.core d = s.core d
  core : t.core c = { s.core c with threads := (t.core c).threads }
  accesses : (t.accesses.map fun a => { a with before := none }) = s.accesses.map fun a => { a with before := none }
  threads : ∀ k u, s.thread c k = some u → ∃ v, t.thread c k = some v ∧ v = { u with regs := v.regs } ∧
    ∀ j, v.reg j = { u.reg j with lent := (v.reg j).lent }

namespace LentFrame

theorem refl (s : State) (c : Nat) : LentFrame s s c := ⟨rfl, fun _ _ => rfl, rfl, rfl, fun _ u h => ⟨u, h, rfl, fun _ => rfl⟩⟩

theorem trans {s t u : State} {c : Nat} (h : LentFrame s t c) (g : LentFrame t u c) : LentFrame s u c where
  rest := by rw [g.rest, h.rest]
  others d hd := (g.others d hd).trans (h.others d hd)
  core := by rw [g.core, h.core]
  accesses := g.accesses.trans h.accesses
  threads k x hx := by
    obtain ⟨v, hv, hvx, hvr⟩ := h.threads k x hx
    obtain ⟨w, hw, hwv, hwr⟩ := g.threads k v hv
    exact ⟨w, hw, by rw [hwv, hvx], fun j => by rw [hwr, hvr]⟩

theorem modEver (s : State) (c k uid : Nat) (rs : List Nat) :
    LentFrame s (modEver s c k uid fun u => rs.foldl returnReg u) c := by
  have h := OnlyThreads.modThread s c k fun u => rs.foldl returnReg u
  refine ⟨?_, h.others, h.core, ?_, fun j u hu => ?_⟩
  · rw [Sys2Proof.Machine.modEver, h.module]
  · rw [Sys2Proof.Machine.modEver, List.map_map]
    refine List.map_congr_left fun a _ => ?_
    rw [Function.comp_apply]
    split <;> rfl
  · refine ⟨if j = k then rs.foldl returnReg u else u, ?_, ?_, fun i => ?_⟩
    · refine (thread_modThread s c k j fun u => rs.foldl returnReg u).trans ?_
      split <;> simp [hu]
    · split
      · exact return_frame rs u
      · rfl
    · split
      · exact reg_return_but_lent rs u i
      · rfl

end LentFrame

/-- One lane of a pass returns what it was lent. -/
def returnLane (c : Nat) (rs : List Nat) (st : State) (l : PassLane) : State :=
  match passThread st c l with
  | some _ => modEver st c l.key l.uid fun u => rs.foldl returnReg u
  | none => st

theorem returnLent_eq (s : State) (c : Nat) (p : Pass) : returnLent s c p = p.lanes.foldl (returnLane c p.regs) s := rfl

theorem lentFrame_returnLane (c : Nat) (rs : List Nat) (s : State) (l : PassLane) : LentFrame s (returnLane c rs s l) c := by
  unfold returnLane
  split
  · exact LentFrame.modEver ..
  · exact LentFrame.refl s c

theorem lentFrame_returnLent (s : State) (c : Nat) (p : Pass) : LentFrame s (returnLent s c p) c :=
  foldl_rel (r := fun s t => LentFrame s t c) (fun s => LentFrame.refl s c) LentFrame.trans (lentFrame_returnLane c p.regs) _ s

theorem thread_returnLane_other (s : State) (c : Nat) (rs : List Nat) (l : PassLane) {k : Nat} (h : k ≠ l.key) :
    (returnLane c rs s l).thread c k = s.thread c k := by
  unfold returnLane
  split
  · exact (thread_modThread s c l.key k fun u => rs.foldl returnReg u).trans (if_neg h)
  · rfl

theorem thread_returnLane_own {s : State} {c : Nat} (rs : List Nat) {l : PassLane} {u : Thread}
    (hu : s.thread c l.key = some u) (huid : u.uid = l.uid) :
    (returnLane c rs s l).thread c l.key = some (rs.foldl returnReg u) := by
  have hp : passThread s c l = some u := by simp [passThread, hu, huid]
  unfold returnLane
  rw [hp]
  refine (thread_modThread s c l.key l.key fun u => rs.foldl returnReg u).trans ?_
  rw [if_pos rfl, hu]
  rfl

theorem thread_foldl_returnLane_other (c : Nat) (rs : List Nat) (ls : List PassLane) {k : Nat}
    (h : k ∉ ls.map PassLane.key) (s : State) : (ls.foldl (returnLane c rs) s).thread c k = s.thread c k := by
  induction ls generalizing s with
  | nil => rfl
  | cons l ls ih =>
    rw [List.map_cons, List.mem_cons, not_or] at h
    rw [List.foldl_cons, ih h.2, thread_returnLane_other _ _ _ _ h.1]

/-- A lane of its own returns each register once for each use of it. -/
theorem thread_foldl_returnLane_own {c : Nat} (rs : List Nat) {ls : List PassLane} (hn : (ls.map PassLane.key).Nodup)
    {e : PassLane} (he : e ∈ ls) {u : Thread} (huid : u.uid = e.uid) {s : State} (hu : s.thread c e.key = some u) :
    (ls.foldl (returnLane c rs) s).thread c e.key = some (rs.foldl returnReg u) := by
  induction ls generalizing s with
  | nil => exact absurd he List.not_mem_nil
  | cons l ls ih =>
    rw [List.map_cons, List.nodup_cons] at hn
    rw [List.foldl_cons]
    rcases List.mem_cons.mp he with rfl | he
    · rw [thread_foldl_returnLane_other c rs ls hn.1]
      exact thread_returnLane_own rs hu huid
    · have hne : e.key ≠ l.key := fun h => hn.1 (h ▸ List.mem_map_of_mem he)
      exact ih hn.2 he ((thread_returnLane_other s c rs l hne).trans hu)

/-! ## The elements that a pass writes -/

theorem tabGet_putElems (ds : List Datum) (e : Tab Datum) (a : Nat) {i : Nat} (hi : i < ds.length) :
    tabGet zeroDatum (putElems e a ds) (a + i) = ds[i] := by
  have hlow : ∀ (ds : List Datum) (e : Tab Datum) (a j : Nat), j < a →
      tabGet zeroDatum (putElems e a ds) j = tabGet zeroDatum e j := fun ds => by
    induction ds with
    | nil => exact fun _ _ _ _ => rfl
    | cons d ds ih =>
      intro e a j hj
      rw [putElems, ih _ _ _ (by omega), tabGet_set_other _ _ _ _ _ (by omega)]
  induction ds generalizing e a i with
  | nil => exact absurd hi (Nat.not_lt_zero i)
  | cons d ds ih =>
    rw [putElems]
    cases i with
    | zero => rw [hlow _ _ _ _ (by omega)]; exact tabGet_set_same ..
    | succ i =>
      rw [show a + (i + 1) = a + 1 + i by omega]
      exact ih _ _ (by simpa using hi)

/-- The terms of one element: the products that are not omitted, and the old element unless `.z`. -/
def passTerms (p : Pass) (ins : Nat → Option (List Datum)) (old : Tab Datum) (m n : Nat) : List FVal :=
  (List.range (8 * tagElems p.type)).filterMap (passTerm p ins m n) ++
    if p.z then [] else [f32Val (tabGet zeroDatum old (8 * (16 * (n / 8) + m) + n % 8)).word]

/-- Element (m, n) of a result, at its place in element order (R279). -/
theorem passResult_get (p : Pass) (ins : Nat → Option (List Datum)) (old : Tab Datum) {m n : Nat} (hm : m < 16)
    (h : 8 * (16 * (n / 8) + m) + n % 8 < (passResult p ins old).length) :
    (passResult p ins old)[8 * (16 * (n / 8) + m) + n % 8] =
      mk (w32 (rndT fmtF32 .rne (sumF .rne (passTerms p ins old m n)))) := by
  have hl : (8 * (16 * (n / 8) + m) + n % 8) / 8 = 16 * (n / 8) + m := by omega
  have hm' : (16 * (n / 8) + m) % 16 = m := by omega
  have hn' : 8 * ((16 * (n / 8) + m) / 16) + (8 * (16 * (n / 8) + m) + n % 8) % 8 = n := by omega
  simp only [passResult, List.getElem_map, List.getElem_range, hl, hm', hn', passTerms, passK]
  cases p.z <;> simp

theorem length_passResult (p : Pass) (ins : Nat → Option (List Datum)) (old : Tab Datum) :
    (passResult p ins old).length = 256 := by simp [passResult]

/-- Each element that is written is the exact sum of its terms, rounded once (R287). -/
theorem passResult_rounds (p : Pass) (ins : Nat → Option (List Datum)) (old : Tab Datum) {m n : Nat} (hm : m < 16)
    (hn : n < 16) : ∃ w : Word,
      tabGet zeroDatum (putElems [] 0 (passResult p ins old)) (8 * (16 * (n / 8) + m) + n % 8) = ⟨w, lcc w⟩ ∧
      SumRounds fmtF32 .rne (passTerms p ins old m n) w.toNat := by
  have hi : 8 * (16 * (n / 8) + m) + n % 8 < (passResult p ins old).length := by
    rw [length_passResult]
    omega
  refine ⟨w32 (rndT fmtF32 .rne (sumF .rne (passTerms p ins old m n))), ?_, ?_⟩
  · have h := tabGet_putElems (passResult p ins old) [] 0 hi
    rw [Nat.zero_add] at h
    rw [h, passResult_get p ins old hm]
    rfl
  · rw [w32_toNat (roundTo_lt (by decide) ..)]
    exact sumRounds_sumF fmtF32 (by decide) (by decide) .rne _

/-! ## The checks at the grant -/

/-- A lane whose key no other lane of the row shares is the one found at its place. -/
theorem find_lane {ls : List PassLane} {row : Nat} (hn : (ls.map PassLane.key).Nodup) (hrow : ∀ e ∈ ls, e.key / 32 = row)
    {e : PassLane} (he : e ∈ ls) : (ls.find? fun x => x.key % 32 == e.key % 32) = some e := by
  induction ls with
  | nil => exact absurd he List.not_mem_nil
  | cons l ls ih =>
    rw [List.map_cons, List.nodup_cons] at hn
    rcases List.mem_cons.mp he with rfl | he'
    · simp
    · have hne : l.key % 32 ≠ e.key % 32 := fun h => hn.1 (by
        have h1 := hrow l (by simp)
        have h2 := hrow e he
        have hk : l.key = e.key := by omega
        exact hk ▸ List.mem_map_of_mem he')
      rw [List.find?_cons_of_neg (by simpa using hne)]
      exact ih hn.2 (fun x hx => hrow x (List.mem_cons_of_mem _ hx)) he'

/-- The words that the lanes of a pass give, by lane (R185). -/
def passIns (s : State) (c : Nat) (p : Pass) (l : Nat) : Option (List Datum) :=
  (p.lanes.find? fun e => e.key % 32 == l).map (laneInputs s c p)

theorem laneInputs_eq (s : State) (c : Nat) (p : Pass) (e : PassLane) : laneInputs s c p e =
    match s.thread c e.key with
    | some u => if u.uid = e.uid then p.regs.map fun r => ⟨(u.reg r).word, (u.reg r).code⟩ else e.words
    | none => e.words := by
  unfold laneInputs passThread
  cases hu : s.thread c e.key with
  | none => rfl
  | some u =>
    by_cases h : u.uid = e.uid
    · simp [Option.filter_some, h, regWords]
    · simp [Option.filter_some, h]

theorem findLane_eq (s : State) (c : Nat) (p : Pass) :
    findLane (p.lanes.map fun l => (l.key % 32, laneInputs s c p l)) = passIns s c p := by
  funext l
  simp only [findLane, passIns, List.find?_map, Option.map_map]
  rfl

/-- Every input and every element that the pass reads is in order. -/
def PassGood (s : State) (c : Nat) (x : Tile) (p : Pass) : Prop :=
  (∀ e ∈ p.lanes, ((laneInputs s c p e).all Datum.okay) = true) ∧ (p.z = false → ∀ e ∈ x.elems, Datum.okay e.2 = true)

theorem passGood_iff (s : State) (c : Nat) (x : Tile) (p : Pass) : PassGood s c x p ↔
    (((p.lanes.map fun l => (l.key % 32, laneInputs s c p l)).any fun e => !e.2.all Datum.okay) ||
      (!p.z && x.elems.any fun e => !Datum.okay e.2)) = false := by
  unfold PassGood
  cases p.z <;> simp [List.any_eq_false]

theorem grantPass_of_good {s : State} {c : Nat} {x : Tile} {p : Pass} (h : PassGood s c x p) (hc : x.code = 0) :
    grantPass s c x p = some (passResult p (passIns s c p) x.elems) := by
  unfold grantPass
  simp only [(passGood_iff s c x p).mp h, hc, findLane_eq]
  rfl

theorem grantPass_of_bad {s : State} {c : Nat} {x : Tile} {p : Pass} (h : ¬ PassGood s c x p) : grantPass s c x p = none := by
  unfold grantPass
  simp only [Bool.not_eq_false _ ▸ mt (passGood_iff s c x p).mpr h, Bool.true_or, if_true]

/-! ## The grant -/

/-- One pass is pending in the cluster, at the head of its one tile's queue, and holds its bib. -/
structure OnePass (s : State) (cl i : Nat) (x : Tile) (o : TileOp) (p : Pass) : Prop where
  tiles : (s.cluster cl).tiles = [(i, x)]
  queue : x.queue = [o]
  kind : o.kind = .pass p
  inTable : p.inTable = true
  halting : (s.core o.core).halting = false

section
variable {s : State} {cl i : Nat} {x : Tile} {o : TileOp} {p : Pass}

theorem OnePass.tileOf (h : OnePass s cl i x o p) : tileOf s cl i = x := by
  simp [Sys2Proof.Machine.tileOf, h.tiles, tabGet]

theorem OnePass.arbiter (h : OnePass s cl i x o p) (hr : (s.cluster cl).running = none) :
    arbiter s cl = some ⟨i, true, o, p⟩ := by
  have hreq : requests s cl = [⟨i, true, o, p⟩] := by
    simp [requests, h.tiles, h.queue, h.kind, h.inTable, hr]
  simp [Sys2Proof.Machine.arbiter, hreq, oldestOf, h.halting]

/-- The arbiter's one request is granted (R182). -/
theorem OnePass.grant (h : OnePass s cl i x o p) (hr : (s.cluster cl).running = none) :
    grant s cl = (returnLent s o.core p).setCluster cl { s.cluster cl with
      running := some ⟨i, o.id, grantPass s o.core x p, s.clock⟩ } := by
  have hcl : (returnLent s o.core p).cluster cl = s.cluster cl :=
    cluster_of_clusters (by rw [(lentFrame_returnLent s o.core p).rest]) cl
  unfold Sys2Proof.Machine.grant
  rw [hr, h.arbiter hr]
  dsimp only
  rw [hcl, h.tileOf]

end

/-! ## The end of a pass -/

theorem finishPass_running {s : State} {cl : Nat} (h : ∀ r, (s.cluster cl).running = some r → s.clock < r.since + 32) :
    finishPass s cl = s := by
  have hf : ((s.cluster cl).running.filter fun r => r.since + passClocks ≤ s.clock) = none := by
    rw [Option.filter_eq_none_iff]
    intro r hr
    have hlt := h r hr
    exact decide_eq_true_iff.not.mpr (Nat.not_le_of_lt hlt)
  unfold finishPass
  dsimp only
  rw [hf]

/-- The tile that a pass leaves, by its result. -/
def Tile.written (x : Tile) : Option (List Datum) → Tile
  | some ds => { x with elems := putElems [] 0 ds, tag := .f32, queue := [] }
  | none => { x with code := fcDatum, queue := [] }

theorem Tile.written_some (x : Tile) (ds : List Datum) :
    x.written (some ds) = { x with elems := (x.written (some ds)).elems, tag := .f32, queue := [] } := rfl

theorem Tile.written_elems (x : Tile) (ds : List Datum) : (x.written (some ds)).elems = putElems [] 0 ds := rfl

theorem settleTiles_single {s : State} {cl i : Nat} {x : Tile} (ht : (s.cluster cl).tiles = [(i, x)]) (hx : x.held = true)
    (hrow : (tabFind (s.core (4 * cl + x.core)).rows x.row).isSome = true) :
    settleTiles s cl = s.setCluster cl (s.cluster cl) := by
  have hne : x ≠ Tile.zero := fun h => by simp [h, Tile.zero] at hx
  have hn : (tabFind (s.core (4 * cl + x.core)).rows x.row).isNone = false := by
    rw [← Option.not_isSome, hrow]
    rfl
  have hmap : ∀ f : Tile → Tile, f x = x → tabMap Tile.zero f (s.cluster cl).tiles = (s.cluster cl).tiles := fun f hf => by
    rw [ht, tabMap, hf, if_neg hne, tabMap]
  unfold settleTiles
  dsimp only
  rw [hmap _ (by simp [hn])]

theorem fillTable_none {s : State} {cl i : Nat} {x : Tile} (ht : (s.cluster cl).tiles = [(i, x)]) (hx : x.queue = [])
    (n : Nat) : fillTable n s cl = s := by
  have hnone : nextWithdrawn s cl = none := by simp [nextWithdrawn, ht, hx]
  cases n with
  | zero => rfl
  | succ n => rw [fillTable, hnone]

/-- A pass ends 32 clocks after its grant: its tile is written by its result, and the engine is free. -/
theorem finishPass_due {s : State} {cl i : Nat} {x : Tile} {o : TileOp} {res : Option (List Datum)} {since : Nat}
    {y : Cluster} (ht : (s.cluster cl).tiles = [(i, x)]) (hq : x.queue = [o])
    (hr : (s.cluster cl).running = some ⟨i, o.id, res, since⟩) (hdue : since + 32 ≤ s.clock) (hx : x.held = true)
    (hc : x.code = 0) (hrow : (tabFind (s.core (4 * cl + x.core)).rows x.row).isSome = true)
    (hy : y = { s.cluster cl with running := none, tiles := [(i, x.written res)] }) :
    finishPass s cl = (s.setCluster cl y).setCluster cl y := by
  have hf : ((s.cluster cl).running.filter fun r => r.since + passClocks ≤ s.clock) = some ⟨i, o.id, res, since⟩ := by
    rw [hr, Option.filter_some]
    simp [passClocks, hdue]
  have hheld : (x.written res).held = true := by cases res <;> exact hx
  have hne : x.written res ≠ Tile.zero := fun h => by simp [h, Tile.zero] at hheld
  have htab : tabSet Tile.zero (s.cluster cl).tiles i (x.written res) = [(i, x.written res)] := by
    rw [tabSet_put _ _ _ _ hne, ht]
    simp [tabPut]
  have htiles : ((s.setCluster cl y).cluster cl).tiles = [(i, x.written res)] := by
    rw [State.cluster_setCluster, hy]
  have hsettle : settleTiles (s.setCluster cl y) cl = (s.setCluster cl y).setCluster cl y := by
    rw [settleTiles_single htiles hheld, State.cluster_setCluster]
    cases res <;> exact hrow
  have htile : tabGet Tile.zero (s.cluster cl).tiles i = x := by rw [ht]; simp [tabGet]
  have hwritten : finishPass s cl = fillTable 16 (settleTiles (s.setCluster cl { s.cluster cl with
      running := none, tiles := tabSet Tile.zero (s.cluster cl).tiles i (x.written res) }) cl) cl := by
    unfold finishPass
    simp only [hf, htile]
    cases res <;> simp [Tile.written, hc, hq]
  rw [hwritten, htab, ← hy, hsettle]
  refine fillTable_none (i := i) (x := x.written res) ?_ ?_ 16
  · rw [State.cluster_setCluster, hy]
  · cases res <;> rfl

/-! ## O31 -/

/-- Settles O31: the grant lends back and keeps what the pass will write; its end writes it. -/
theorem matrixPasses : Obligations.MatrixPasses := by
  unfold Obligations.MatrixPasses
  intro s cl i x o p ins good ht hrun hq hk hin hcl hhalt hheld hxc hcode hrow _ hn hrows hins hgood
  have hone : OnePass s cl i x o p := ⟨ht, hq, hk, hin, hhalt⟩
  have hins' : ins = passIns s o.core p := by
    rw [hins]
    funext l
    exact congrArg (fun f => (p.lanes.find? fun e => e.key % 32 == l).map f) (funext fun e => (laneInputs_eq s o.core p e).symm)
  have hgood' : good ↔ PassGood s o.core x p := by
    rw [hgood, PassGood, hins']
    refine and_congr_left fun _ => forall₂_congr fun e he => ?_
    simp [passIns, find_lane hn hrows he]
  have hlent := lentFrame_returnLent s o.core p
  have hcore : 4 * cl + x.core = o.core := by omega
  generalize hg : grantPass s o.core x p = res
  have hgrant := hone.grant hrun
  rw [hg] at hgrant
  generalize hy1 : { s.cluster cl with running := some ⟨i, o.id, res, s.clock⟩ } = y1 at hgrant
  generalize hs1 : (returnLent s o.core p).setCluster cl y1 = s1 at hgrant
  have hs1c : s1.cluster cl = y1 := by rw [← hs1, State.cluster_setCluster]
  have hmodule : s1 = { s with cores := s1.cores, clusters := s1.clusters, accesses := s1.accesses } := by
    rw [← hs1, hlent.rest]
    rfl
  have hclock : s1.clock = s.clock := by rw [hmodule]
  refine ⟨s1, ?_, ?_, hmodule, ?_, ?_, ?_⟩
  · exact (happens_same fun h => by rw [hgrant, hmodule] at h; exact h).trans (by rw [hgrant])
  · have hfin : finishPass s1 cl = s1 := finishPass_running fun r hr => by
      rw [hs1c, ← hy1] at hr
      have hr' : (⟨i, o.id, res, s.clock⟩ : Running) = r := Option.some.inj hr
      rw [hclock, ← hr']
      exact Nat.lt_add_of_pos_right (by decide)
    have h : exec (.passComplete cl) s1 = happens s1 (finishPass s1 cl) := rfl
    rw [h, hfin, happens_self]
  · rw [← hs1]
    exact hlent.accesses
  · intro e he u hu huid
    refine ⟨p.regs.foldl returnReg u, ?_, return_frame .., fun r hr => reg_return _ _ hr⟩
    rw [← hs1]
    exact thread_foldl_returnLane_own p.regs hn he huid hu
  · intro s2 hs2 hdue
    have hs2c : s2.cluster cl = y1 := by rw [hs2]; exact hs1c
    generalize hy : { y1 with running := none, tiles := [(i, x.written res)] } = y
    have hfin : finishPass s2 cl = (s2.setCluster cl y).setCluster cl y := by
      refine finishPass_due (o := o) (res := res) (since := s.clock) (by rw [hs2c, ← hy1]; exact ht) hq
        (by rw [hs2c, ← hy1]) hdue hheld hcode ?_ (by rw [hs2c, hy])
      rw [hcore, hs2]
      have hrows1 : ((returnLent s o.core p).core o.core).rows = (s.core o.core).rows := by rw [hlent.core]
      have hr : (s1.core o.core).rows = (s.core o.core).rows := by rw [← hs1]; exact hrows1
      exact (congrArg (fun r => (tabFind r x.row).isSome) hr).trans hrow
    have htile : tileOf ((s2.setCluster cl y).setCluster cl y) cl i = x.written res := by
      rw [tileOf, State.cluster_setCluster, ← hy]
      simp [tabGet]
    refine ⟨(s2.setCluster cl y).setCluster cl y, x.written res, ?_, rfl, htile.symm, ?_, ?_, fun hb => ?_, fun hgd => ?_⟩
    · have h : exec (.passComplete cl) s2 = happens s2 (finishPass s2 cl) := rfl
      rw [h, hfin]
      exact happens_same id
    · rw [State.cluster_setCluster, ← hy]
    · cases res <;> rfl
    · rw [← hg, grantPass_of_bad (fun h => hb (hgood'.mpr h))]
      rfl
    · rw [← hg, grantPass_of_good (hgood'.mp hgd) hcode, hins']
      refine ⟨Tile.written_some .., fun m hm n hn => ?_⟩
      obtain ⟨w, hw, hr⟩ := passResult_rounds p (passIns s o.core p) x.elems hm hn
      refine ⟨w, ?_, ?_⟩
      · rw [Tile.written_elems]
        exact hw
      · exact hr

end Sys2Proof.Machine
end

section
/-! SUPPORT. Context switches: what is changed of a gang by name, the requests that are withdrawn (R186), and the cores that
halt (R397 to R399). -/

namespace Sys2Proof.Machine

/-! ## Gangs of launches -/

theorem tabFind_modLaunch (s : State) (q j : Nat) (f : Launch → Launch) :
    tabFind (modLaunch s q f).launches j = if j = q then (tabFind s.launches j).map f else tabFind s.launches j := by
  cases h : tabFind s.launches q with
  | none =>
    have hnone : (tabFind s.launches q).map f = none := by rw [h]; rfl
    simp only [modLaunch, h]
    split
    · next hj => rw [hj, hnone, h]
    · rfl
  | some l =>
    simp only [modLaunch, h]
    by_cases hj : j = q
    · subst hj
      simp [h]
    · simp [hj, tabFind_put_other]

/-- A gang that is changed under its own name. -/
theorem findGang_modGang (s : State) (q i : Nat) (f : TopGang → TopGang) (hf : ∀ g, (f g).idx = g.idx) (q' i' : Nat) :
    findGang (modGang s q i f) q' i' = if q' = q ∧ i' = i then (findGang s q' i').map f else findGang s q' i' := by
  have hidx : ∀ g : TopGang, (if g.idx == i then f g else g).idx = g.idx := fun g => by
    split
    · exact hf g
    · rfl
  have hgangs : ∀ gs : List TopGang, (gs.map fun g => if g.idx == i then f g else g).find? (fun g => g.idx == i') =
      (gs.find? fun g => g.idx == i').map fun g => if i' = i then f g else g := fun gs => by
    rw [List.find?_map, show ((fun g : TopGang => g.idx == i') ∘ fun g => if g.idx == i then f g else g) =
      fun g => g.idx == i' from funext fun g => by rw [Function.comp_apply, hidx]]
    refine Option.map_congr fun g hg => ?_
    have hgi : g.idx = i' := by simpa using List.find?_some hg
    simp [hgi]
  unfold findGang modGang
  rw [tabFind_modLaunch]
  by_cases hq : q' = q
  · subst hq
    cases tabFind s.launches q' with
    | none => simp
    | some l =>
      by_cases hi : i' = i
      · rw [if_pos rfl, if_pos ⟨rfl, hi⟩, Option.map_some, Option.bind_some, hgangs]
        simp [hi]
      · rw [if_pos rfl, if_neg fun h => hi h.2, Option.map_some, Option.bind_some, hgangs]
        simp [hi]
  · simp [hq]

theorem modGang_frame (s : State) (q i : Nat) (f : TopGang → TopGang) :
    modGang s q i f = { s with launches := (modGang s q i f).launches } := modLaunch_frame ..

/-- A placed gang halts. -/
def TopGang.halt (y : TopGang) : TopGang := { y with state := match y.state with | .placed cs => .halting cs | z => z }

def haltGangs (gs : List (Nat × Nat)) (s : State) : State := gs.foldl (fun st x => modGang st x.1 x.2 TopGang.halt) s

theorem haltGangs_frame (gs : List (Nat × Nat)) (s : State) :
    haltGangs gs s = { s with launches := (haltGangs gs s).launches } :=
  foldl_rel (r := fun s t => t = { s with launches := t.launches }) (fun _ => rfl) (fun h g => by rw [g, h])
    (fun _ _ => modGang_frame ..) gs s

theorem findGang_haltGangs_halting (gs : List (Nat × Nat)) {s : State} {q i : Nat} {y : TopGang} {cs : List Nat}
    (h : findGang s q i = some { y with state := .halting cs }) :
    findGang (haltGangs gs s) q i = some { y with state := .halting cs } := by
  induction gs generalizing s with
  | nil => exact h
  | cons g gs ih =>
    refine ih ((findGang_modGang s g.1 g.2 TopGang.halt (fun _ => rfl) q i).trans ?_)
    rw [h]
    split <;> rfl

theorem findGang_haltGangs {gs : List (Nat × Nat)} {s : State} {x : Nat × Nat} {y : TopGang} {cs : List Nat}
    (hx : x ∈ gs) (h : findGang s x.1 x.2 = some y) (hy : y.state = .placed cs) :
    findGang (haltGangs gs s) x.1 x.2 = some { y with state := .halting cs } := by
  have hhalt : y.halt = { y with state := .halting cs } := by simp [TopGang.halt, hy]
  induction gs generalizing s with
  | nil => exact absurd hx List.not_mem_nil
  | cons g gs ih =>
    have hstep := findGang_modGang s g.1 g.2 TopGang.halt (fun _ => rfl) x.1 x.2
    by_cases hg : x.1 = g.1 ∧ x.2 = g.2
    · rw [if_pos hg, h, Option.map_some, hhalt] at hstep
      exact findGang_haltGangs_halting gs hstep
    · rw [if_neg hg, h] at hstep
      exact ih ((List.mem_cons.mp hx).resolve_left fun e => hg (by simp [e])) hstep

/-! ## Withdrawn requests (R186) -/

/-- Requests of the cores have left the table: threads of theirs were returned registers, and tiles' queues changed. -/
structure WithdrawFrame (s t : State) (cs : List Nat) : Prop where
  rest : t = { s with cores := t.cores, clusters := t.clusters, accesses := t.accesses }
  core : ∀ d, t.core d = { s.core d with threads := (t.core d).threads }
  others : ∀ d, d ∉ cs → t.core d = s.core d
  cluster : ∀ k, t.cluster k = { s.cluster k with tiles := (t.cluster k).tiles }
  accesses : (t.accesses.map fun a => { a with before := none }) = s.accesses.map fun a => { a with before := none }
  threads : ∀ d k u, s.thread d k = some u → ∃ v, t.thread d k = some v ∧ v = { u with regs := v.regs } ∧
    ∀ j, v.reg j = { u.reg j with lent := (v.reg j).lent }

namespace WithdrawFrame

theorem refl (s : State) (cs : List Nat) : WithdrawFrame s s cs :=
  ⟨rfl, fun _ => rfl, fun _ _ => rfl, fun _ => rfl, rfl, fun _ _ u h => ⟨u, h, rfl, fun _ => rfl⟩⟩

theorem trans {s t u : State} {cs : List Nat} (h : WithdrawFrame s t cs) (g : WithdrawFrame t u cs) :
    WithdrawFrame s u cs where
  rest := by rw [g.rest, h.rest]
  core d := by rw [g.core, h.core]
  others d hd := (g.others d hd).trans (h.others d hd)
  cluster k := by rw [g.cluster, h.cluster]
  accesses := g.accesses.trans h.accesses
  threads d k x hx := by
    obtain ⟨v, hv, hvx, hvr⟩ := h.threads d k x hx
    obtain ⟨w, hw, hwv, hwr⟩ := g.threads d k v hv
    exact ⟨w, hw, by rw [hwv, hvx], fun j => by rw [hwr, hvr]⟩

theorem of_lent {s t : State} {c : Nat} {cs : List Nat} (h : LentFrame s t c) (hc : c ∈ cs) : WithdrawFrame s t cs where
  rest := by rw [h.rest]
  core d := by
    by_cases hd : d = c
    · exact hd ▸ h.core
    · rw [h.others d hd]
  others d hd := h.others d fun e => hd (e ▸ hc)
  cluster k := by
    have hk : t.cluster k = s.cluster k := cluster_of_clusters (by rw [h.rest]) k
    rw [hk]
  accesses := h.accesses
  threads d k u hu := by
    by_cases hd : d = c
    · subst hd
      exact h.threads k u hu
    · refine ⟨u, ?_, rfl, fun _ => rfl⟩
      rw [State.thread, h.others d hd]
      exact hu

theorem setTiles (s : State) (k : Nat) (ts : Tab Tile) (cs : List Nat) :
    WithdrawFrame s (s.setCluster k { s.cluster k with tiles := ts }) cs := by
  refine ⟨rfl, fun _ => rfl, fun _ _ => rfl, fun j => ?_, rfl, fun _ _ u h => ⟨u, h, rfl, fun _ => rfl⟩⟩
  by_cases hj : j = k
  · subst hj
    rw [State.cluster_setCluster]
  · rw [State.cluster_setCluster_other _ _ hj]

end WithdrawFrame

/-- What a core's queued passes were lent is returned. -/
def returnQueued (s : State) (c : Nat) : State := (queuedPasses s c).foldl (fun st e => returnLent st c e.2) s

theorem lentFrame_returnQueued (s : State) (c : Nat) : LentFrame s (returnQueued s c) c :=
  foldl_rel (r := fun s t => LentFrame s t c) (fun s => LentFrame.refl s c) LentFrame.trans
    (f := fun st (e : TileOp × Pass) => returnLent st c e.2) (fun st e => lentFrame_returnLent st c e.2) (queuedPasses s c) s

/-- A request as the withdrawal of a list of requests leaves it. -/
def TileOp.withdrawnIn (os : List (TileOp × Pass)) (o : TileOp) : TileOp :=
  if os.any fun y => y.1.id == o.id then o.withdraw else o

/-- The tiles after the withdrawal of a core's requests. -/
def withdrawnTiles (s : State) (c : Nat) : Tab Tile :=
  (s.cluster (c / 4)).tiles.map fun e => (e.1, { e.2 with queue := e.2.queue.map (TileOp.withdrawnIn (queuedPasses s c)) })

theorem withdrawCore_eq (s : State) (c : Nat) : withdrawCore s c = (returnQueued s c).setCluster (c / 4)
    { (returnQueued s c).cluster (c / 4) with tiles := withdrawnTiles s c } := by
  have hcl : (returnQueued s c).cluster (c / 4) = s.cluster (c / 4) :=
    cluster_of_clusters (by rw [(lentFrame_returnQueued s c).rest]) _
  rw [withdrawnTiles, ← hcl]
  rfl

theorem withdrawFrame_withdrawCore (s : State) {c : Nat} {cs : List Nat} (hc : c ∈ cs) :
    WithdrawFrame s (withdrawCore s c) cs := by
  rw [withdrawCore_eq]
  exact (WithdrawFrame.of_lent (lentFrame_returnQueued s c) hc).trans (WithdrawFrame.setTiles ..)

theorem withdrawFrame_foldl (cs ds : List Nat) (h : ∀ c ∈ ds, c ∈ cs) (s : State) :
    WithdrawFrame s (ds.foldl withdrawCore s) cs := by
  induction ds generalizing s with
  | nil => exact WithdrawFrame.refl s cs
  | cons d ds ih =>
    exact (withdrawFrame_withdrawCore s (h d (by simp))).trans (ih (fun c hc => h c (List.mem_cons_of_mem _ hc)) _)

/-- A pass that is queued for a core and holds an entry. -/
theorem mem_queuedPasses {s : State} {c : Nat} {o : TileOp} {p : Pass} : (o, p) ∈ queuedPasses s c ↔
    o.kind = .pass p ∧ o.core = c ∧ p.inTable = true ∧ ((s.cluster (c / 4)).running.any fun r => r.op == o.id) = false ∧
      ∃ e ∈ (s.cluster (c / 4)).tiles, o ∈ e.2.queue := by
  simp only [queuedPasses, List.mem_flatten, List.mem_map]
  constructor
  · rintro ⟨_, ⟨e, he, rfl⟩, ho⟩
    obtain ⟨o', ho', h⟩ := List.mem_filterMap.mp ho
    split at h
    · next p' hk =>
      split at h
      · next hcond =>
        simp only [Bool.and_eq_true, beq_iff_eq, Bool.not_eq_true'] at hcond
        obtain ⟨⟨hc, ht⟩, hr⟩ := hcond
        injection h with h
        injection h with h1 h2
        subst h1 h2
        exact ⟨hk, hc, ht, hr, e, he, ho'⟩
      · cases h
    · cases h
  · rintro ⟨hk, hc, ht, hr, e, he, ho⟩
    exact ⟨_, ⟨e, he, rfl⟩, List.mem_filterMap.mpr ⟨o, ho, by simp [hk, hc, ht, hr]⟩⟩

/-- A withdrawn request holds no entry. -/
theorem withdraw_inTable {o : TileOp} {p : Pass} (h : o.withdraw.kind = .pass p) : p.inTable = false := by
  unfold TileOp.withdraw at h
  split at h
  · injection h with h
    rw [← h]
  · next hk => exact absurd h (hk p)

/-- A withdrawal leaves queued only what was queued, and nothing of the core itself. -/
theorem queuedPasses_withdrawCore {s : State} {c d : Nat} {o : TileOp} {p : Pass}
    (h : (o, p) ∈ queuedPasses (withdrawCore s c) d) : (o, p) ∈ queuedPasses s d ∧ d ≠ c := by
  obtain ⟨hk, hc, ht, hr, e, he, ho⟩ := mem_queuedPasses.mp h
  have hframe := withdrawFrame_withdrawCore s (c := c) (cs := [c]) (by simp)
  have hr' : ((s.cluster (d / 4)).running.any fun r => r.op == o.id) = false := by
    rw [hframe.cluster] at hr
    exact hr
  by_cases hd : d / 4 = c / 4
  · have htiles : ((withdrawCore s c).cluster (d / 4)).tiles = withdrawnTiles s c := by
      rw [hd, withdrawCore_eq, State.cluster_setCluster]
    rw [htiles, withdrawnTiles, List.mem_map] at he
    obtain ⟨e0, he0, rfl⟩ := he
    obtain ⟨o0, ho0, rfl⟩ := List.mem_map.mp ho
    unfold TileOp.withdrawnIn at hk hc hr' ⊢
    split at hk
    · rw [withdraw_inTable hk] at ht
      cases ht
    · next hany =>
      rw [if_neg hany] at hc hr' ⊢
      have hmem : (o0, p) ∈ queuedPasses s d := mem_queuedPasses.mpr ⟨hk, hc, ht, hr', e0, hd ▸ he0, ho0⟩
      refine ⟨hmem, fun hdc => hany (List.any_eq_true.mpr ⟨(o0, p), hdc ▸ hmem, by simp⟩)⟩
  · have htiles : (withdrawCore s c).cluster (d / 4) = s.cluster (d / 4) := by
      rw [withdrawCore_eq, State.cluster_setCluster_other _ _ hd]
      exact cluster_of_clusters (by rw [(lentFrame_returnQueued s c).rest]) _
    rw [htiles] at he
    exact ⟨mem_queuedPasses.mpr ⟨hk, hc, ht, hr', e, he, ho⟩, fun h => hd (by rw [h])⟩

theorem queuedPasses_foldl_withdrawCore {ds : List Nat} {s : State} {d : Nat} (h : d ∈ ds ∨ queuedPasses s d = []) :
    queuedPasses (ds.foldl withdrawCore s) d = [] := by
  induction ds generalizing s with
  | nil => exact h.resolve_left List.not_mem_nil
  | cons c ds ih =>
    refine ih ?_
    by_cases hdc : d = c ∨ queuedPasses s d = []
    · refine .inr (List.eq_nil_iff_forall_not_mem.mpr fun e he => ?_)
      obtain ⟨hmem, hne⟩ := queuedPasses_withdrawCore (o := e.1) (p := e.2) he
      exact hdc.elim hne fun hnil => List.not_mem_nil (hnil ▸ hmem)
    · rw [not_or] at hdc
      exact .inl ((List.mem_cons.mp (h.resolve_right hdc.2)).resolve_left hdc.1)

/-! ## The halt -/

/-- Cores stop issuing (R399). -/
def haltCores (cs : List Nat) (s : State) : State := cs.foldl (fun st c => st.modCore c fun x => { x with halting := true }) s

theorem haltCores_frame (cs : List Nat) (s : State) : haltCores cs s = { s with cores := (haltCores cs s).cores } :=
  foldl_rel (r := fun s t => t = { s with cores := t.cores }) (fun _ => rfl) (fun h g => by rw [g, h]) (fun _ _ => rfl) cs s

theorem core_haltCores (cs : List Nat) (s : State) (d : Nat) :
    (haltCores cs s).core d = { s.core d with halting := decide (d ∈ cs) || (s.core d).halting } := by
  induction cs generalizing s with
  | nil => simp [haltCores]
  | cons c cs ih =>
    have hstep : haltCores (c :: cs) s = haltCores cs (s.modCore c fun x => { x with halting := true }) := rfl
    rw [hstep, ih]
    by_cases hd : d = c
    · subst hd
      simp [State.modCore]
    · rw [State.modCore, State.core_setCore_other _ _ hd]
      simp [hd]

theorem haltGroup_eq (s : State) (g : Group) :
    haltGroup s g = haltGangs g.gangs (g.cores.foldl withdrawCore (haltCores g.cores s)) := rfl

end Sys2Proof.Machine
end

section
/-! SUPPORT. What a save keeps of a core and leaves of it (R191, R399, R413), and the scrub of a world (R424). -/

namespace Sys2Proof.Machine

/-! ## The saved thread -/

theorem tabFind_map {α β : Type} (f : Nat × α → β) (t : Tab α) (k : Nat) :
    tabFind (t.map fun e => (e.1, f e)) k = (tabFind t k).map fun v => f (k, v) := by
  induction t with
  | nil => rfl
  | cons e t ih =>
    simp only [List.map_cons, tabFind]
    split
    · next h => rw [← beq_iff_eq.mp h]; rfl
    · exact ih

/-- What a save keeps of a table of registers: those below the live count. -/
theorem tabGet_saveReg (m : Nat) (t : Tab Reg) (j : Nat) : tabGet Reg.zero (t.filterMap (saveReg m)) j =
    if j < m then { tabGet Reg.zero t j with pending := false, lent := 0 } else Reg.zero := by
  induction t with
  | nil => split <;> rfl
  | cons e t ih =>
    by_cases he : e.1 < m
    · have hs : saveReg m e = some (e.1, { e.2 with pending := false, lent := 0 }) := by simp [saveReg, he]
      rw [List.filterMap_cons_some hs, tabGet, tabGet]
      by_cases hj : e.1 = j
      · subst hj
        simp [he]
      · simp only [beq_iff_eq, hj, if_false, ih]
    · have hs : saveReg m e = none := by simp [saveReg, he]
      rw [List.filterMap_cons_none hs, ih, tabGet]
      by_cases hj : e.1 = j
      · subst hj
        simp [he]
      · simp only [beq_iff_eq, hj, if_false]

section
variable (s : State) (ls : Tab Nat) (t : Thread)

theorem saveThread_reg (j : Nat) :
    (j < liveOf ls t → (saveThread s ls t).reg j = { (haltedAt s t).reg j with pending := false, lent := 0 }) ∧
    (liveOf ls t ≤ j → j ≠ 255 → (saveThread s ls t).reg j = Reg.zero) := by
  have hregs : (saveThread s ls t).regs = (haltedAt s t).regs.filterMap (saveReg (liveOf ls t)) := rfl
  refine ⟨fun hj => ?_, fun hj h255 => ?_⟩
  · unfold Thread.reg
    split
    · rfl
    · rw [hregs, tabGet_saveReg, if_pos hj]
  · unfold Thread.reg
    rw [if_neg (by simpa using h255), hregs, tabGet_saveReg, if_neg (by omega)]

theorem saveThread_frame : saveThread s ls t = { haltedAt s t with
    regs := (saveThread s ls t).regs, status := (saveThread s ls t).status, waited := (saveThread s ls t).waited
    bundle := none } := rfl

theorem saveThread_status :
    (∀ z, (haltedAt s t).status = .blocked z → (saveThread s ls t).status = .ready ∧ (saveThread s ls t).waited = false) ∧
    ((∀ z, (haltedAt s t).status ≠ .blocked z) →
      (saveThread s ls t).status = (haltedAt s t).status ∧ (saveThread s ls t).waited = (haltedAt s t).waited) := by
  simp only [saveThread]
  cases (haltedAt s t).status <;> simp

theorem haltedAt_of_nil (h : openStates s t = []) : haltedAt s t = t := by simp [haltedAt, h]

theorem haltedAt_of_cons {o : Thread} {os : List Thread} (h : openStates s t = o :: os) :
    (haltedAt s t).pc = o.pc ∧ (haltedAt s t).regs = o.regs ∧ (haltedAt s t).status = .ready := by
  simp [haltedAt, h, Thread.backTo]

end

/-! ## The core that is left -/

@[simp] theorem State.part_setPart (s : State) (p : Nat) (x : Part) : (s.setPart p x).part p = x := tabGet_set_same ..

/-- Only cluster `k` has changed, and there only the tiles' queues. -/
structure QueueFrame (s t : State) (k : Nat) : Prop where
  rest : t = { s with clusters := t.clusters }
  others : ∀ j, j ≠ k → t.cluster j = s.cluster j
  cluster : t.cluster k = { s.cluster k with tiles := (t.cluster k).tiles }
  tiles : ∀ e ∈ (t.cluster k).tiles, ∃ e0 ∈ (s.cluster k).tiles, e.1 = e0.1 ∧ e.2 = { e0.2 with queue := e.2.queue }

theorem queueFrame_fillTable (n : Nat) (s : State) (k : Nat) : QueueFrame s (fillTable n s k) k := by
  have hrefl : ∀ s : State, QueueFrame s s k := fun s => ⟨rfl, fun _ _ => rfl, rfl, fun e he => ⟨e, he, rfl, rfl⟩⟩
  induction n generalizing s with
  | zero => exact hrefl s
  | succ n ih =>
    rw [fillTable]
    split
    · exact hrefl s
    · next i _ =>
      split
      · exact hrefl s
      · dsimp only
        generalize hy : ({ s.cluster k with tiles := (s.cluster k).tiles.map fun e =>
          (e.1, { e.2 with queue := e.2.queue.map fun o => if o.id == i then o.enter else o }) } : Cluster) = y
        have h := ih (s.setCluster k y)
        refine ⟨?_, fun j hj => ?_, ?_, fun e he => ?_⟩
        · exact h.rest
        · rw [h.others j hj, State.cluster_setCluster_other _ _ hj]
        · rw [h.cluster, State.cluster_setCluster, ← hy]
        · obtain ⟨e1, he1, hk1, hq1⟩ := h.tiles e he
          rw [State.cluster_setCluster, ← hy] at he1
          obtain ⟨e0, he0, rfl⟩ := List.mem_map.mp he1
          exact ⟨e0, he0, hk1, hq1⟩

theorem dropCore_cores (s : State) (c : Nat) : dropCore s c = { s with clusters := (dropCore s c).clusters } :=
  (queueFrame_fillTable 16 (s.setCluster (c / 4) ((s.cluster (c / 4)).dropCore c)) (c / 4)).rest

/-- A core that has left its cluster holds no tile. -/
theorem coreTiles_dropCore (s : State) (c : Nat) : coreTiles (dropCore s c) c = [] := by
  have hframe := queueFrame_fillTable 16 (s.setCluster (c / 4) ((s.cluster (c / 4)).dropCore c)) (c / 4)
  refine List.filter_eq_nil_iff.mpr fun e he => ?_
  obtain ⟨e0, he0, _, hq⟩ := hframe.tiles e he
  rw [State.cluster_setCluster] at he0
  obtain ⟨v, _, hv⟩ := mem_tabMap he0
  rw [hq, hv]
  dsimp only
  split
  · simp [Tile.returned]
  · next h => simpa using h

section
variable (p : Nat) (s : State) (c : Nat)

theorem leaveCore_frame : leaveCore p s c = { s with
    cores := (leaveCore p s c).cores, clusters := (leaveCore p s c).clusters, parts := (leaveCore p s c).parts
    accesses := (leaveCore p s c).accesses, demands := (leaveCore p s c).demands } := by
  unfold leaveCore
  dsimp only
  rw [dropCore_cores]
  rfl

theorem core_leaveCore (d : Nat) : (leaveCore p s c).core d = if d = c then (s.core c).torn else s.core d := by
  unfold leaveCore
  dsimp only
  rw [dropCore_cores]
  by_cases hd : d = c
  · rw [if_pos hd, hd]
    exact State.core_setCore ..
  · rw [if_neg hd]
    exact State.core_setCore_other _ _ hd

theorem accesses_leaveCore : (leaveCore p s c).accesses = s.accesses.filter fun a => a.core != c := by
  unfold leaveCore
  dsimp only
  rw [dropCore_cores]
  rfl

theorem part_leaveCore : ((leaveCore p s c).part p).preemptCount = (s.part p).preemptCount := by
  unfold leaveCore
  dsimp only
  rw [dropCore_cores]
  have h := congrArg Part.preemptCount (State.part_setPart s p { s.part p with
    batches := (s.part p).batches.filter fun b => !b.touches (coreUids (s.core c)) &&
      !(requestBatches (s.core c)).contains b.id })
  exact h

theorem coreTiles_leaveCore : coreTiles (leaveCore p s c) c = [] := coreTiles_dropCore ..

end

/-! ## The save -/

/-- The state that a save comes to. -/
def Saving.state : Saving → State
  | .waits s => s
  | .fails s => s
  | .done s => s

/-- What the save of one core's gang leaves (R399, R413). -/
def savedIn (s : State) (ls : Tab Nat) (p c seq top b n : Nat) : State :=
  let s3 := modGang (leaveCore p s c) seq top fun y =>
    { y with state := .saved [saveCore s ls p c] b n, since := (leaveCore p s c).clock }
  s3.setPart p { s3.part p with preemptCount := (s3.part p).preemptCount + 1 }

section
variable {s s0 s1 : State} {p seq top c b : Nat} {ls : Tab Nat}

theorem contextSaveOf_placed {y : TopGang} {cs : List Nat} (hg : findGang s seq top = some y) (hy : y.state = .placed cs) :
    contextSaveOf s seq top = s := by
  simp [contextSaveOf, hg, hy]

theorem contextSaveOf_halting {y : TopGang} {cs : List Nat} {g : Group} (hg : findGang s seq top = some y)
    (hy : y.state = .halting cs) (hclose : closeGroup s 513 [(seq, top)] = g) (hpost : unflushed s g.cores = []) :
    contextSaveOf s seq top = (saveGroup s (launchPart s seq) seq g).state := by
  simp only [contextSaveOf, hg, Option.map_some, hy, hclose, hpost, List.isEmpty_nil, Bool.not_true, Bool.false_eq_true,
    if_false]
  cases saveGroup s (launchPart s seq) seq g <;> rfl

theorem saveGroup_unready {g : Group} (h : saveReady s g.cores = false) : saveGroup s p seq g = .waits s := by
  simp [saveGroup, h]

variable (hready : saveReady s [c] = true) (hlives : allLives (withdrawCore s c) [c] = (ls, s0))
include hready hlives

theorem saveGroup_walks (hst : s0.stalled = true) : saveGroup s p seq ⟨[(seq, top)], [c]⟩ = .waits s0 := by
  simp [saveGroup, hready, hlives, hst]

theorem saveGroup_full (hst : s0.stalled = false)
    (hfit : poolFit s0 p (saveBytes s0 ⟨[(seq, top)], [c]⟩ fun _ => liveOf ls) = none) :
    saveGroup s p seq ⟨[(seq, top)], [c]⟩ = .waits s := by
  simp [saveGroup, hready, hlives, hst, hfit]

theorem saveGroup_done {n : Nat} (hst : s0.stalled = false) (hn : n = saveBytes s0 ⟨[(seq, top)], [c]⟩ fun _ => liveOf ls)
    (hfit : poolFit s0 p n = some b)
    (hwrite : writePool p (launchSlot s0 seq) ((n + 63) / 64) (((s0.part p).svBase.extractLsb' 0 57).toNat + b) s0 =
      (none, s1)) :
    saveGroup s p seq ⟨[(seq, top)], [c]⟩ = .done (savedIn s1 ls p c seq top b n) := by
  have hfield : field (s0.part p).svBase.toNat 56 0 = ((s0.part p).svBase.extractLsb' 0 57).toNat := field_toNat ..
  simp only [saveGroup, hready, hlives, hst, List.foldl_cons, List.foldl_nil, ← hn, hfit, hfield, hwrite, markSaved]
  rfl

end

section
variable (s : State) (ls : Tab Nat) (p c seq top b n : Nat)

theorem savedIn_leaves : savedIn s ls p c seq top b n = { leaveCore p s c with
    launches := (savedIn s ls p c seq top b n).launches, parts := (savedIn s ls p c seq top b n).parts } := by
  rw [savedIn, modGang_frame]
  rfl

theorem findGang_savedIn {y : TopGang} (hg : findGang s seq top = some y) :
    findGang (savedIn s ls p c seq top b n) seq top =
      some { y with state := .saved [saveCore s ls p c] b n, since := s.clock } := by
  have hleave := leaveCore_frame p s c
  have hclock : (leaveCore p s c).clock = s.clock := by rw [hleave]
  have hfind : findGang (leaveCore p s c) seq top = some y := by
    rw [← hg, findGang, findGang, hleave]
  have h := findGang_modGang (leaveCore p s c) seq top
    (fun y => { y with state := .saved [saveCore s ls p c] b n, since := (leaveCore p s c).clock }) (fun _ => rfl) seq top
  rw [if_pos ⟨rfl, rfl⟩, hfind, Option.map_some] at h
  rw [← hclock, ← h]
  rfl

theorem preemptCount_savedIn :
    ((savedIn s ls p c seq top b n).part p).preemptCount = (s.part p).preemptCount + 1 := by
  rw [← part_leaveCore p s c, savedIn]
  dsimp only
  rw [State.part_setPart, modGang_frame]
  rfl

end

/-! ## The scrub (R424) -/

theorem tabGet_filter_key {α : Type} (d : α) (f : Nat → Bool) (t : Tab α) (k : Nat) :
    tabGet d (t.filter fun e => f e.1) k = if f k then tabGet d t k else d := by
  induction t with
  | nil => split <;> rfl
  | cons e t ih =>
    by_cases hk : e.1 = k
    · subst hk
      cases he : f e.1 <;> simp [he, ih, tabGet]
    · cases he : f e.1 <;> simp [he, ih, tabGet, hk]

section
variable {s : State} {c seq : Nat} {l : Launch}

theorem scrubCore_held (h : (s.core c).gangs ≠ [] ∨ (∃ a ∈ s.accesses, a.core = c) ∨ coreTiles s c ≠ []) :
    scrubCore s c = s := by
  unfold scrubCore
  dsimp only
  split
  · rfl
  · refine if_pos ?_
    rcases h with h | ⟨a, ha, hc⟩ | h
    · simp [h]
    · simp only [Bool.or_eq_true, List.any_eq_true, beq_iff_eq]
      exact .inl (.inr ⟨a, ha, hc⟩)
    · simp [h]

/-- What a scrub leaves. -/
def scrubbed (s : State) (c k : Nat) : State :=
  (s.setCluster (c / 4) { s.cluster (c / 4) with
    chans := (s.cluster (c / 4)).chans.filter fun e => e.1 / 4 != c % 4 }).setCore c
    { s.core c with threads := [], rows := [], q := [], cm := [], rk := [], scratch := []
                    l1 := (s.core c).l1.filter fun y => y.slot != k, launch := none, frozen := none, halting := false
                    scrubDue := false }

theorem scrubCore_free (hl : (s.core c).launch = some seq) (hs : tabFind s.launches seq = some l)
    (hg : (s.core c).gangs = []) (ha : ∀ a ∈ s.accesses, a.core ≠ c) (ht : coreTiles s c = []) :
    scrubCore s c = scrubbed s c l.keySlot := by
  have hslot : launchSlot s seq = l.keySlot := by simp [launchSlot, hs]
  have hheld : (!(s.core c).gangs.isEmpty || s.accesses.any (fun a => a.core == c) || !(coreTiles s c).isEmpty) = false := by
    simpa [hg, ht] using ha
  unfold scrubCore
  dsimp only
  rw [hl]
  dsimp only
  rw [if_neg (Bool.eq_false_iff.mp hheld), hslot]
  rfl

theorem cluster_scrubbed (s : State) (c k j : Nat) : (scrubbed s c k).cluster j =
    { s.cluster j with chans := ((scrubbed s c k).cluster j).chans } ∧ ∀ i, chan (scrubbed s c k) j i =
      if j = c / 4 ∧ i / 4 = c % 4 then Channel.zero else chan s j i := by
  generalize hx : ({ s.cluster (c / 4) with
    chans := (s.cluster (c / 4)).chans.filter fun e => e.1 / 4 != c % 4 } : Cluster) = x
  have hcl : (scrubbed s c k).cluster j = (s.setCluster (c / 4) x).cluster j := by rw [← hx]; rfl
  by_cases hj : j = c / 4
  · subst hj
    rw [State.cluster_setCluster] at hcl
    refine ⟨by rw [hcl, ← hx], fun i => ?_⟩
    have hchan := tabGet_filter_key Channel.zero (fun i => i / 4 != c % 4) (s.cluster (c / 4)).chans i
    rw [chan, hcl, ← hx]
    refine hchan.trans ?_
    by_cases hi : i / 4 = c % 4 <;> simp [hi, chan]
  · rw [State.cluster_setCluster_other _ _ hj] at hcl
    refine ⟨by rw [hcl], fun i => ?_⟩
    rw [chan, hcl, if_neg fun h => hj h.1]
    rfl

end
end Sys2Proof.Machine
end

section
/-! SUPPORT. What a restore puts back of a saved core (R399, R415), and the moves of contexts. -/

namespace Sys2Proof.Machine

/-! ## Tables that are filled -/

/-- What a table that is filled under new keys holds under each of them, where they stay apart. -/
theorem tabFind_foldl_put {α : Type} (g : Nat → Nat) (h : α → α) {es : List (Nat × α)}
    (hg : ∀ a ∈ es, ∀ b ∈ es, g a.1 = g b.1 → a.1 = b.1) (hn : (es.map Prod.fst).Nodup) {e : Nat × α} (he : e ∈ es)
    (t : Tab α) : tabFind (es.foldl (fun t e => tabPut t (g e.1) (h e.2)) t) (g e.1) = some (h e.2) := by
  have hother : ∀ (es : List (Nat × α)) (t : Tab α) (k : Nat), (∀ a ∈ es, g a.1 ≠ k) →
      tabFind (es.foldl (fun t e => tabPut t (g e.1) (h e.2)) t) k = tabFind t k := fun es => by
    induction es with
    | nil => exact fun _ _ _ => rfl
    | cons a es ih =>
      intro t k hk
      rw [List.foldl_cons, ih _ _ fun b hb => hk b (List.mem_cons_of_mem _ hb),
        tabFind_put_other _ _ _ _ (Ne.symm (hk a (by simp)))]
  induction es generalizing t with
  | nil => exact absurd he List.not_mem_nil
  | cons a es ih =>
    rw [List.map_cons, List.nodup_cons] at hn
    rw [List.foldl_cons]
    rcases List.mem_cons.mp he with rfl | he'
    · rw [hother _ _ _ fun b hb hgb => hn.1 ?_, tabFind_put_same]
      exact hg b (List.mem_cons_of_mem _ hb) e (by simp) hgb ▸ List.mem_map_of_mem hb
    · exact ih (fun a ha b hb => hg a (List.mem_cons_of_mem _ ha) b (List.mem_cons_of_mem _ hb)) hn.2 he' _

/-- What a table that is set from a sorted one, its keys moved, reads as. -/
theorem tabGet_foldl_set {α : Type} [DecidableEq α] (d : α) (lo off : Nat) {es : Tab α}
    (hs : es.Pairwise fun a b => a.1 < b.1) (hlo : ∀ e ∈ es, lo ≤ e.1) (t : Tab α) (i : Nat) :
    tabGet d (es.foldl (fun acc e => tabSet d acc (off + (e.1 - lo)) e.2) t) (off + i) =
      (tabFind es (lo + i)).getD (tabGet d t (off + i)) := by
  induction es generalizing t with
  | nil => rfl
  | cons e es ih =>
    rw [List.pairwise_cons] at hs
    have hle := hlo e (by simp)
    rw [List.foldl_cons, ih hs.2 fun x hx => hlo x (List.mem_cons_of_mem _ hx), tabFind]
    by_cases hk : e.1 = lo + i
    · have hnone : tabFind es (lo + i) = none := by
        cases hf : tabFind es (lo + i) with
        | none => rfl
        | some v =>
          have hlt := hs.1 _ (mem_of_tabFind hf)
          simp only at hlt
          omega
      have hi : e.1 - lo = i := by omega
      simp [hk, hnone, tabGet_set_same]
    · rw [tabGet_set_other _ _ _ _ _ (by omega)]
      simp [hk]

theorem tabFind_filter_key {α : Type} (f : Nat → Bool) (t : Tab α) {k : Nat} (hk : f k = true) :
    tabFind (t.filter fun e => f e.1) k = tabFind t k := by
  induction t with
  | nil => rfl
  | cons e t ih =>
    by_cases he : e.1 = k
    · subst he
      simp [hk, tabFind]
    · cases hf : f e.1 <;> simp [hf, ih, tabFind, he]

/-- Words of an allocation at their new base. -/
theorem tabGet_moveScratch {old : Tab Datum} (hs : tabSorted old = true) (g : CoreGang) (base : Nat) {i : Nat}
    (hi : i < g.size / 4) : tabGet zeroDatum (moveScratch old g base []) (base / 4 + i) = tabGet zeroDatum old (g.base / 4 + i) := by
  have hsort := (tabSorted_iff old).mp hs
  unfold moveScratch
  dsimp only
  rw [List.filter_nil, tabGet_foldl_set zeroDatum (g.base / 4) (base / 4) (hsort.filter _) (fun e he => ?_) [] i]
  · have hf := tabFind_filter_key (fun k => decide (g.base / 4 ≤ k) && decide (k < g.base / 4 + g.size / 4)) old
      (k := g.base / 4 + i) (by simp; omega)
    rw [hf, tabGet_eq zeroDatum old]
    rfl
  · have h := (List.mem_filter.mp he).2
    simp only [Bool.and_eq_true, decide_eq_true_eq] at h
    exact h.1

/-! ## A core that receives a context -/

theorem firstFit_nil {limit size : Nat} (h : size ≤ limit) : firstFit [] limit size = some 0 := by
  simp [firstFit, h]

theorem allocAll_single {limit : Nat} {y : CoreGang} (h : y.size ≤ limit) : allocAll limit [] [y] = some [0] := by
  simp [allocAll, firstFit_nil h]

/-- A core with no rows, whose row 0 no bib of an ended row holds, has row 0 as its first. -/
theorem freeRows_head {s : State} {c : Nat} (hrows : (s.core c).rows = []) (h0 : rowHeld s c 0 = false) :
    ∃ rs, freeRows s c = 0 :: rs := by
  have hrange : List.range 16 = 0 :: (List.range 15).map (· + 1) := by decide
  unfold freeRows
  rw [hrange, List.filter_cons_of_pos (by simp [hrows, h0])]
  exact ⟨_, rfl⟩

/-- One saved gang of one row, with nothing shared at an engine, and what the core that receives it must be. -/
structure Receivable (s : State) (r c seq top r0 : Nat) (x : SavedCore) (row : Row) (y : CoreGang) : Prop where
  held : rowHeld s c 0 = false
  coreRows : (s.core c).rows = []
  coreGangs : (s.core c).gangs = []
  coreThreads : (s.core c).threads = []
  coreScratch : (s.core c).scratch = []
  rows : x.rows = [(r0, row)]
  keys : ∀ e ∈ x.threads, e.1 / 32 = r0
  nodup : (x.threads.map Prod.fst).Nodup
  gangs : x.gangs = [y]
  seq : y.seq = seq
  top : y.top = top
  size : y.size ≤ recSplit r * 65536
  sorted : tabSorted x.scratch = true
  batches : x.batches = []
  demands : x.demands = []
  tiles : x.tiles = []
  chans : x.chans = []

/-- The core with the context put in, before the acquire: the gang's one row is row 0, and its allocation stands at 0. -/
def putIn (s : State) (seq r c r0 : Nat) (x : SavedCore) (y : CoreGang) : Core :=
  let z := (s.core c).takeIn seq (recSplit r)
  { z with
    threads := x.threads.foldl (fun t e => tabPut t (keyTo [(r0, 0)] e.1) { e.2 with since := s.clock }) z.threads
    rows := x.rows.foldl (fun t e => tabPut t (rowTo [(r0, 0)] e.1) e.2) z.rows
    gangs := z.gangs ++ [{ y with base := 0, rows := y.rows.map (rowTo [(r0, 0)]), since := s.clock }]
    q := x.q
    cm := x.cm
    rk := x.rk
    scratch := moveScratch x.scratch y 0 z.scratch }

theorem takeIn_frame (x : Core) (seq split : Nat) : x.takeIn seq split =
    { x with launch := some seq, split := (x.takeIn seq split).split, l1 := (x.takeIn seq split).l1
             scratch := (x.takeIn seq split).scratch } := by
  unfold Core.takeIn
  dsimp only
  split <;> rfl

theorem takeIn_scratch {x : Core} (h : x.scratch = []) (seq split : Nat) : (x.takeIn seq split).scratch = [] := by
  unfold Core.takeIn
  dsimp only
  split
  · exact h
  · rfl

/-- A core takes its place with an acquire at .sy, and its channels are at rest. -/
def receive (s : State) (c : Nat) (z : Core) : State :=
  let t := l1Acquire (s.setCore c z) c
  t.setCluster (c / 4) { t.cluster (c / 4) with chans := (t.cluster (c / 4)).chans.filter fun e => e.1 / 4 != c % 4 }

section
variable (s : State) (c : Nat) (z : Core)

theorem receive_frame : receive s c z = { s with
    cores := (receive s c z).cores, clusters := (receive s c z).clusters, accesses := (receive s c z).accesses } := by
  have ht : l1Acquire (s.setCore c z) c = { s with
      cores := (l1Acquire (s.setCore c z) c).cores, accesses := (l1Acquire (s.setCore c z) c).accesses } := rfl
  unfold receive
  generalize l1Acquire (s.setCore c z) c = t at ht ⊢
  dsimp only
  generalize ({ t.cluster (c / 4) with
    chans := (t.cluster (c / 4)).chans.filter fun e => e.1 / 4 != c % 4 } : Cluster) = k
  have hk : t.setCluster (c / 4) k = { t with clusters := (t.setCluster (c / 4) k).clusters } := rfl
  generalize t.setCluster (c / 4) k = u at hk ⊢
  rw [hk, ht]

theorem core_receive (d : Nat) : (receive s c z).core d = if d = c then { z with l1 := [] } else s.core d := by
  have hstate : (receive s c z).core d = ((s.setCore c z).setCore c { (s.setCore c z).core c with l1 := [] }).core d := rfl
  rw [hstate]
  by_cases hd : d = c
  · rw [if_pos hd, hd, State.core_setCore, State.core_setCore]
  · rw [if_neg hd, State.core_setCore_other _ _ hd, State.core_setCore_other _ _ hd]

theorem chans_receive {i : Nat} (hi : i / 4 = c % 4) :
    tabGet Channel.zero ((receive s c z).cluster (c / 4)).chans i = Channel.zero := by
  rw [receive, State.cluster_setCluster]
  exact (tabGet_filter_key Channel.zero (fun i => i / 4 != c % 4) _ _).trans (by simp [hi])

end

namespace Receivable
variable {s : State} {r c seq top r0 : Nat} {x : SavedCore} {row : Row} {y : CoreGang}

theorem rowMap (h : Receivable s r c seq top r0 x row y) : x.rowNos.zip (freeRows s c) = [(r0, 0)] := by
  obtain ⟨rs, hrs⟩ := freeRows_head h.coreRows h.held
  have hnos : x.rowNos = [r0] := by
    simp only [SavedCore.rowNos, h.rows, h.tiles, List.map_cons, List.map_nil, List.append_nil]
    rfl
  rw [hnos, hrs]
  rfl

theorem takeIn_gangs (h : Receivable s r c seq top r0 x row y) (q n : Nat) : ((s.core c).takeIn q n).gangs = [] := by
  rw [takeIn_frame]
  exact h.coreGangs

theorem putCore_eq (h : Receivable s r c seq top r0 x row y) (p prio : Nat) : putCore p seq r prio s x c =
    fillTable 16 (receive s c (putIn s seq r c r0 x y)) (c / 4) := by
  have hbases : (allocAll (recSplit r * 65536) (((s.core c).takeIn seq (recSplit r)).gangs.map fun g => (g.base, g.size))
      [y]).getD [] = [0] := by
    rw [h.takeIn_gangs]
    simp [allocAll_single h.size]
  simp only [putCore, hbases, h.rowMap, h.gangs, h.batches, h.demands, h.tiles, h.chans, List.foldl_nil, List.map_nil,
    List.zip_cons_cons, List.zip_nil_right, List.map_cons, List.append_nil, moveAll, relendTiles, putIn, receive]

theorem queueFrame_putCore (h : Receivable s r c seq top r0 x row y) (p prio : Nat) :
    QueueFrame (receive s c (putIn s seq r c r0 x y)) (putCore p seq r prio s x c) (c / 4) :=
  h.putCore_eq p prio ▸ queueFrame_fillTable 16 (receive s c (putIn s seq r c r0 x y)) (c / 4)

theorem putCore_frame (h : Receivable s r c seq top r0 x row y) (p prio : Nat) : putCore p seq r prio s x c = { s with
    cores := (putCore p seq r prio s x c).cores, clusters := (putCore p seq r prio s x c).clusters
    accesses := (putCore p seq r prio s x c).accesses } := by
  have hq := (h.queueFrame_putCore p prio).rest
  have hr := receive_frame s c (putIn s seq r c r0 x y)
  generalize putCore p seq r prio s x c = t at hq ⊢
  generalize receive s c (putIn s seq r c r0 x y) = u at hq hr
  rw [hq, hr]

theorem core_putCore (h : Receivable s r c seq top r0 x row y) (p prio d : Nat) : (putCore p seq r prio s x c).core d =
    if d = c then { putIn s seq r c r0 x y with l1 := [] } else s.core d := by
  have hq := (h.queueFrame_putCore p prio).rest
  have hr := core_receive s c (putIn s seq r c r0 x y) d
  generalize putCore p seq r prio s x c = t at hq ⊢
  rw [← hr, hq]
  rfl

theorem chan_putCore (h : Receivable s r c seq top r0 x row y) (p prio : Nat) {i : Nat} (hi : i < 4) :
    chan (putCore p seq r prio s x c) (c / 4) (4 * (c % 4) + i) = Channel.zero := by
  rw [chan, (h.queueFrame_putCore p prio).cluster]
  exact chans_receive s c _ (by omega)

theorem thread_putIn (h : Receivable s r c seq top r0 x row y) {k : Nat} {t : Thread} (ht : tabFind x.threads k = some t) :
    tabFind (putIn s seq r c r0 x y).threads (k % 32) = some { t with since := s.clock } := by
  have hkey : ∀ e ∈ x.threads, keyTo [(r0, 0)] e.1 = e.1 % 32 := fun e he => by
    simp [keyTo, rowTo, h.keys e he]
  have hmem := mem_of_tabFind ht
  have hfind := tabFind_foldl_put (keyTo [(r0, 0)]) (fun t => { t with since := s.clock }) (es := x.threads)
    (fun a ha b hb hab => ?_) h.nodup hmem ((s.core c).takeIn seq (recSplit r)).threads
  · rw [hkey _ hmem] at hfind
    exact hfind
  · rw [hkey a ha, hkey b hb] at hab
    have h1 := h.keys a ha
    have h2 := h.keys b hb
    omega

theorem rows_putIn (h : Receivable s r c seq top r0 x row y) : (putIn s seq r c r0 x y).rows = [(0, row)] := by
  have hr : ((s.core c).takeIn seq (recSplit r)).rows = [] := by rw [takeIn_frame]; exact h.coreRows
  simp [putIn, hr, h.rows, tabPut, rowTo]

theorem scratch_putIn (h : Receivable s r c seq top r0 x row y) {i : Nat} (hi : i < y.size / 4) :
    tabGet zeroDatum (putIn s seq r c r0 x y).scratch i = tabGet zeroDatum x.scratch (y.base / 4 + i) := by
  have hmove := tabGet_moveScratch h.sorted y 0 hi
  rw [Nat.zero_div, Nat.zero_add] at hmove
  rw [← hmove]
  exact congrArg (fun t => tabGet zeroDatum (moveScratch x.scratch y 0 t) i) (takeIn_scratch h.coreScratch seq (recSplit r))

theorem launch_putIn (s : State) (seq r c r0 : Nat) (x : SavedCore) (y : CoreGang) :
    (putIn s seq r c r0 x y).launch = some seq := by
  have h : ((s.core c).takeIn seq (recSplit r)).launch = some seq := by rw [takeIn_frame]
  exact h

end Receivable

/-! ## The moves of a context -/

/-- A channel at rest does not go on. -/
theorem resumeChain_zero {s : State} {c n : Nat} (h : chan s (c / 4) (4 * (c % 4) + n) = Channel.zero) :
    resumeChain c s n = s := by
  simp [resumeChain, h, Channel.zero]

theorem foldl_resumeChain {s : State} {c : Nat} {ns : List Nat}
    (h : ∀ n ∈ ns, chan s (c / 4) (4 * (c % 4) + n) = Channel.zero) : ns.foldl (resumeChain c) s = s := by
  induction ns with
  | nil => rfl
  | cons n ns ih =>
    rw [List.foldl_cons, resumeChain_zero (h n (by simp))]
    exact ih fun m hm => h m (List.mem_cons_of_mem _ hm)

theorem findGang_owed (s : State) (q seq top : Nat) :
    findGang (modLaunch s q fun l => { l with owed := none }) seq top = findGang s seq top := by
  unfold findGang
  rw [tabFind_modLaunch]
  split
  · cases tabFind s.launches seq <;> rfl
  · rfl

/-- A gang placed on a core by a restore. -/
def TopGang.restored (g : TopGang) (c prio n clock : Nat) : TopGang :=
  { g with state := .placed [c], carried := prio, dispatched := n, since := clock }

/-- The state with one context put in, before its gang's name and the partition's resumes are settled. -/
def placedIn (s : State) (p seq top r prio : Nat) (x : SavedCore) (c : Nat) : State :=
  let s1 := putCore p seq r prio s x c
  modLaunch (modGang { s1 with nextId := s1.nextId + 1 } seq top fun g => g.restored c prio s1.nextId s.clock) seq
    fun l => { l with owed := none }

section
variable {s : State} {r c seq top r0 : Nat} {x : SavedCore} {row : Row} {y : CoreGang}

theorem placedIn_frame (s : State) (p seq top r prio : Nat) (x : SavedCore) (c : Nat) :
    placedIn s p seq top r prio x c = { putCore p seq r prio s x c with
      nextId := (placedIn s p seq top r prio x c).nextId, launches := (placedIn s p seq top r prio x c).launches } := by
  rw [placedIn, modLaunch_frame, modGang_frame]

/-- The moves of a context of one gang on one core. -/
theorem restoreMoves_single (h : Receivable s r c seq top r0 x row y) {p : Nat} (prio : Nat)
    (hres : (s.part p).resumes = []) (hrow : ∀ v ∈ row.cv, v.2.complete = false) :
    restoreMoves s p seq r prio [(seq, top)] [(x, c)] = trimResumes (placedIn s p seq top r prio x c) p := by
  have hchan : ∀ n ∈ List.range 4, chan (placedIn s p seq top r prio x c) (c / 4) (4 * (c % 4) + n) = Channel.zero :=
    fun n hn => by
      rw [placedIn_frame]
      exact h.chan_putCore p prio (List.mem_range.mp hn)
  have hparts : (placedIn s p seq top r prio x c).part p = s.part p := by
    rw [placedIn_frame, h.putCore_frame]
    rfl
  have happly : applyResumes p (placedIn s p seq top r prio x c) c = placedIn s p seq top r prio x c := by
    rw [applyResumes, hparts, hres]
    rfl
  have hcores : ([(x, c)].filter fun m => m.1.gangs.any fun z => z.seq == seq && z.top == top).map Prod.snd = [c] := by
    simp [h.gangs, h.seq, h.top]
  have hnone : NoneComplete ((trimResumes (placedIn s p seq top r prio x c) p).core c) := by
    have hcore : (trimResumes (placedIn s p seq top r prio x c) p).core c = (putCore p seq r prio s x c).core c := by
      rw [trimResumes, placedIn_frame]
      rfl
    rw [hcore, h.core_putCore, if_pos rfl]
    intro e he v hv
    have he' : e ∈ (putIn s seq r c r0 x y).rows := he
    rw [h.rows_putIn, List.mem_singleton] at he'
    subst he'
    exact hrow v hv
  have hmoves : restoreMoves s p seq r prio [(seq, top)] [(x, c)] = settleCore (trimResumes (applyResumes p
      ((List.range 4).foldl (resumeChain c) (placedIn s p seq top r prio x c)) c) p) c := by
    simp only [restoreMoves, List.foldl_cons, List.foldl_nil, List.map_cons, List.map_nil, hcores]
    rfl
  rw [hmoves, foldl_resumeChain hchan, happly, settleCore_none hnone]

end

end Sys2Proof.Machine
end

section
/-! SUPPORT. The restore of one saved gang, and O54 (R397 to R400, R413 to R415, R424). -/

namespace Sys2Proof.Machine

section
variable {s s1 : State} {seq top p c b n r r0 : Nat} {w : Waiter} {x : SavedCore} {row : Row} {y : CoreGang}
variable {cores : List Nat}

theorem restoreGang_none (hp : p = launchPart s seq)
    (h : firstPlaceable s p [] (canRestore s p []) (routerOrder s p) = none) : restoreGang s seq top cores = s := by
  subst hp
  simp only [restoreGang, h]

/-- The gang's one core comes back from the pool. -/
theorem restoreGang_context (hp : p = launchPart s seq)
    (h : firstPlaceable s p [] (canRestore s p []) (routerOrder s p) = some (w, [])) (hseq : w.seq = seq)
    (htop : w.gang.idx = top) (hst : w.gang.state = .saved [x] b n)
    (hplan : restorePlan s p seq w.launch.record.toNat [x] (tryOrder s p cores) = some [(x, c)])
    (hread : readPool p (launchSlot s seq) ((n + 63) / 64) (((s.part p).svBase.extractLsb' 0 57).toNat + b) s = (none, s1))
    (hgangs : x.gangs = [y]) (hys : y.seq = seq) (hyt : y.top = top) : restoreGang s seq top cores =
      restoreMoves s1 p seq w.launch.record.toNat (carriedNow s w.launch) [(seq, top)] [(x, c)] := by
  have hctx : contextOf w.launch w.gang = [x] := by simp [contextOf, hst]
  have hfield : field (s.part p).svBase.toNat 56 0 = ((s.part p).svBase.extractLsb' 0 57).toNat := field_toNat ..
  have hnames : contextGangs [x] = [(seq, top)] := by
    simp only [contextGangs, List.map_cons, List.map_nil, hgangs, hys, hyt]
    rfl
  have hown : (w.seq != seq || w.gang.idx != top) = false := by simp [hseq, htop]
  subst hp
  simp only [restoreGang, h, hst, hown, Bool.false_eq_true, if_false, hctx, hplan, restoreContext, hfield, hread, hnames]

/-- What the restore leaves. -/
theorem core_restored (h : Receivable s r c seq top r0 x row y) (p prio d : Nat) :
    (trimResumes (placedIn s p seq top r prio x c) p).core d =
      if d = c then { putIn s seq r c r0 x y with l1 := [] } else s.core d := by
  rw [← h.core_putCore p prio d, trimResumes, placedIn_frame]
  rfl

theorem stalled_restored (h : Receivable s r c seq top r0 x row y) (p prio : Nat) :
    (trimResumes (placedIn s p seq top r prio x c) p).stalled = s.stalled := by
  rw [trimResumes, placedIn_frame, h.putCore_frame]
  rfl

theorem findGang_restored (h : Receivable s r c seq top r0 x row y) (p prio : Nat) {g : TopGang}
    (hg : findGang s seq top = some g) : ∃ k, findGang (trimResumes (placedIn s p seq top r prio x c) p) seq top =
      some (g.restored c prio k s.clock) := by
  have hlaunches : (putCore p seq r prio s x c).launches = s.launches := by rw [h.putCore_frame]
  have htrim : (trimResumes (placedIn s p seq top r prio x c) p).launches = (placedIn s p seq top r prio x c).launches := rfl
  refine ⟨(putCore p seq r prio s x c).nextId, ?_⟩
  rw [findGang, htrim, ← findGang, placedIn, findGang_owed]
  generalize putCore p seq r prio s x c = t at hlaunches
  rw [findGang_modGang { t with nextId := t.nextId + 1 } seq top (fun g => g.restored c prio t.nextId s.clock)
    (fun _ => rfl), if_pos ⟨rfl, rfl⟩]
  have hput : findGang { t with nextId := t.nextId + 1 } seq top = some g := by rw [← hg, findGang, findGang, hlaunches]
  rw [hput, Option.map_some]

end

/-! ## The halt -/

/-- What the halt of a group changes (R186, R397 to R399). -/
structure Halted (s t : State) (g : Group) : Prop where
  module : t = { s with cores := t.cores, launches := t.launches, clusters := t.clusters, accesses := t.accesses }
  core : ∀ c, t.core c = { s.core c with
    threads := (t.core c).threads, halting := decide (c ∈ g.cores) || (s.core c).halting }
  threads : ∀ c k u, s.thread c k = some u → ∃ v, t.thread c k = some v ∧ v = { u with regs := v.regs } ∧
    ∀ j, v.reg j = { u.reg j with lent := (v.reg j).lent } ∧ (c ∉ g.cores → v.reg j = u.reg j)
  cluster : ∀ k, t.cluster k = { s.cluster k with tiles := (t.cluster k).tiles }
  accesses : (t.accesses.map fun a => { a with before := none }) = s.accesses.map fun a => { a with before := none }
  queued : ∀ c ∈ g.cores, queuedPasses t c = []
  gangs : ∀ x ∈ g.gangs, ∀ y cs, findGang s x.1 x.2 = some y → y.state = .placed cs →
    findGang t x.1 x.2 = some { y with state := .halting cs }

/-- The withdrawal alone, of cores that have halted. -/
theorem halted_haltGroup (s : State) (g : Group) : Halted s (haltGroup s g) g := by
  have hw := withdrawFrame_foldl g.cores g.cores (fun _ h => h) (haltCores g.cores s)
  have hcores := haltCores_frame g.cores s
  have hqueued : ∀ c ∈ g.cores, queuedPasses (g.cores.foldl withdrawCore (haltCores g.cores s)) c = [] :=
    fun c hc => queuedPasses_foldl_withdrawCore (.inl hc)
  have heq := haltGroup_eq s g
  generalize g.cores.foldl withdrawCore (haltCores g.cores s) = t at hw hqueued heq
  have hgangs : ∀ q i, findGang t q i = findGang s q i := fun q i => by
    rw [findGang, findGang, hw.rest, hcores]
  have hframe := haltGangs_frame g.gangs t
  rw [← heq] at hframe
  have hcore : ∀ c, (haltGroup s g).core c = t.core c := fun c => by rw [hframe]; rfl
  refine ⟨?_, fun c => ?_, fun c k u hu => ?_, fun k => ?_, ?_, fun c hc => ?_, fun x hx z cs hz hzs => ?_⟩
  · rw [hframe, hw.rest, hcores]
  · rw [hcore, hw.core, core_haltCores]
  · have hu' : (haltCores g.cores s).thread c k = some u := by
      rw [State.thread, core_haltCores]
      exact hu
    obtain ⟨v, hv, hvu, hvr⟩ := hw.threads c k u hu'
    refine ⟨v, ?_, hvu, fun j => ⟨hvr j, fun hc => ?_⟩⟩
    · rw [State.thread, hcore]
      exact hv
    · have hsame : t.thread c k = some u := by
        rw [State.thread, hw.others c hc]
        exact hu'
      rw [Option.some.inj (hv.symm.trans hsame)]
  · have hk : (haltGroup s g).cluster k = t.cluster k := by rw [hframe]; rfl
    have hs : (haltCores g.cores s).cluster k = s.cluster k := by rw [hcores]; rfl
    rw [hk, hw.cluster, hs]
  · have ha : (haltGroup s g).accesses = t.accesses := by rw [hframe]
    rw [ha, hw.accesses, hcores]
  · rw [← hqueued c hc, hframe]
    rfl
  · rw [heq]
    exact findGang_haltGangs hx ((hgangs x.1 x.2).trans hz) hzs

/-! ## The save -/

section
variable (s : State) (ls : Tab Nat) (p c seq top b n : Nat)

theorem core_savedIn (d : Nat) :
    (savedIn s ls p c seq top b n).core d = if d = c then (s.core c).torn else s.core d := by
  rw [savedIn_leaves]
  exact core_leaveCore p s c d

theorem accesses_savedIn : (savedIn s ls p c seq top b n).accesses = s.accesses.filter fun a => a.core != c := by
  rw [savedIn_leaves]
  exact accesses_leaveCore p s c

theorem stalled_savedIn : (savedIn s ls p c seq top b n).stalled = s.stalled := by
  rw [savedIn_leaves, leaveCore_frame]

theorem coreTiles_savedIn : coreTiles (savedIn s ls p c seq top b n) c = [] := by
  have hcl : (savedIn s ls p c seq top b n).cluster (c / 4) = (leaveCore p s c).cluster (c / 4) := by
    rw [savedIn_leaves]
    rfl
  rw [coreTiles, hcl]
  exact coreTiles_leaveCore p s c

/-- A thread of the core in the context (R191, R399). -/
theorem thread_saveCore {k : Nat} {u : Thread} (hu : s.thread c k = some u) :
    tabFind (saveCore s ls p c).threads k = some (saveThread s ls u) := by
  have hmap := tabFind_map (fun e : Nat × Thread => saveThread s ls e.2) (s.core c).threads k
  have hu' : tabFind (s.core c).threads k = some u := hu
  rw [hu'] at hmap
  exact hmap

end

/-! ## O54 -/

/-- Settles O54: halt and withdrawal, save, restore, the cases in which no gang migrates, and the scrub. -/
theorem contextsMove : Obligations.ContextsMove := by
  unfold Obligations.ContextsMove
  refine ⟨?_, ?_, ?_, ?_, ?_⟩
  · intro s p
    have hexec : exec (.preempt p) s = happens s (preemptFor s p) := rfl
    refine ⟨fun h => ?_, fun g hhalt hfirst => ?_⟩
    · have hsame : preemptFor s p = s := by
        rcases h with h | h <;> simp [preemptFor, h]
      rw [hexec, hsame, happens_self]
    · have hgroup : preemptFor s p = haltGroup s g := by simp [preemptFor, hhalt, hfirst]
      have hH := halted_haltGroup s g
      generalize haltGroup s g = t at hgroup hH
      refine ⟨t, ?_, hH.module, fun c => ⟨hH.core c, hH.threads c⟩, hH.cluster, hH.accesses, hH.queued, hH.gangs⟩
      rw [hexec, hgroup]
      exact happens_same fun h => by rw [hH.module] at h; exact h
  · intro s s0 s1 seq top p c b n ls y cs hg hp hclose hpost hst hlives hn
    have hexec : exec (.contextSave seq top) s = happens s (contextSaveOf s seq top) := rfl
    refine ⟨fun hy => ?_, fun hy => ?_⟩
    · rw [hexec, contextSaveOf_placed hg hy, happens_self]
    · have hof := contextSaveOf_halting hg hy hclose hpost
      rw [← hp] at hof
      refine ⟨fun hr => ?_, fun hr h0 => ?_, fun hr h0 hfit => ?_, fun hr h0 hfit hwrite hlaunch h1 => ?_⟩
      · rw [hexec, hof, saveGroup_unready hr]
        exact happens_self s
      · rw [hexec, hof, saveGroup_walks hr hlives h0]
        exact happens_waits h0 hst
      · rw [hexec, hof, saveGroup_full hr hlives h0 (hn ▸ hfit)]
        exact happens_self s
      · have hgang : findGang s1 seq top = some y := by rw [← hg, findGang, findGang, hlaunch]
        have hfind := findGang_savedIn s1 ls p c seq top b n hgang
        have hcore := core_savedIn s1 ls p c seq top b n
        have hacc := accesses_savedIn s1 ls p c seq top b n
        have hstall := stalled_savedIn s1 ls p c seq top b n
        have htiles := coreTiles_savedIn s1 ls p c seq top b n
        have hcount := preemptCount_savedIn s1 ls p c seq top b n
        rw [saveGroup_done hr hlives h0 hn hfit hwrite] at hof
        generalize savedIn s1 ls p c seq top b n = t at *
        refine ⟨t, saveCore s1 ls p c, n, ?_, hfind, rfl, fun k u hu => ?_, rfl, rfl, rfl, rfl, rfl, ?_, fun d hd => ?_,
          fun a => ?_, htiles, hcount⟩
        · rw [hexec, hof]
          exact happens_same fun h => absurd (hstall.symm.trans h) (by rw [h1]; exact Bool.false_ne_true)
        · exact ⟨haltedAt s1 u, saveThread s1 ls u, haltedAt_of_nil s1 u, fun o os => haltedAt_of_cons s1 u,
            thread_saveCore s1 ls p c hu, saveThread_frame s1 ls u, (saveThread_status s1 ls u).1,
            (saveThread_status s1 ls u).2, saveThread_reg s1 ls u⟩
        · rw [hcore, if_pos rfl]
        · rw [hcore, if_neg hd]
        · rw [hacc, List.mem_filter]
          simp
  · intro s s1 seq top p c b n r0 w x row y l cores hp
    have hexec : exec (.restore seq top cores) s = happens s (restoreGang s seq top cores) := rfl
    refine ⟨fun hnone => ?_, ?_⟩
    · rw [hexec, restoreGang_none hp hnone, happens_self]
    · intro hfirst hseq htop hst hl _ hg hplan hread hstall hheld hlaunch hrows hcv hkeys hnodup hgangs hys hyt hsize _
        hsorted hbatches hdemands htiles hchans hresumes hcrows hcgangs hcthreads hcscratch _
      subst hl
      have hR : Receivable s1 w.launch.record.toNat c seq top r0 x row y :=
        ⟨hheld, hcrows, hcgangs, hcthreads, hcscratch, hrows, hkeys, hnodup, hgangs, hys, hyt, hsize, hsorted, hbatches,
          hdemands, htiles, hchans⟩
      have hctx := restoreGang_context hp hfirst hseq htop hst hplan hread hgangs hys hyt
      rw [restoreMoves_single hR (carriedNow s w.launch) hresumes hcv] at hctx
      have hgang : findGang s1 seq top = some w.gang := by rw [← hg, findGang, findGang, hlaunch]
      obtain ⟨k, hfind⟩ := findGang_restored hR p (carriedNow s w.launch) hgang
      have hcore := core_restored hR p (carriedNow s w.launch)
      have hstalled := stalled_restored hR p (carriedNow s w.launch)
      generalize trimResumes (placedIn s1 p seq top w.launch.record.toNat (carriedNow s w.launch) x c) p = t at *
      have hc := hcore c
      rw [if_pos rfl] at hc
      refine ⟨t, ?_, fun j u hu => ?_, ?_, fun d hd => ?_, ?_, ?_, ?_, ?_, fun i hi => ?_, _, hfind, rfl⟩
      · rw [hexec, hctx]
        exact happens_same fun h => by rw [← hstall, ← hstalled]; exact h
      · rw [State.thread, hc]
        exact hR.thread_putIn hu
      · rw [hc]
        exact Receivable.launch_putIn s1 seq _ c r0 x y
      · rw [hcore, if_neg hd]
      · rw [hc]; rfl
      · rw [hc]; rfl
      · rw [hc]; rfl
      · rw [hc]
      · rw [hc]
        exact hR.scratch_putIn hi
  · intro s core cores h
    have hexec : exec (.thermalMigrate core cores) s = happens s (thermalMove s core cores) := rfl
    have hsame : thermalMove s core cores = s := by
      rcases h with h | h
      · simp [thermalMove, h]
      · simp [thermalMove, h]
    rw [hexec, hsame, happens_self]
  · intro s c seq l hl hlaunch
    have hexec : exec (.worldScrub c) s = happens s (scrubCore s c) := rfl
    refine ⟨fun h => ?_, fun hg ha ht => ?_⟩
    · rw [hexec, scrubCore_held h, happens_self]
    · have hcore : (scrubbed s c l.keySlot).core c = _ := State.core_setCore ..
      refine ⟨scrubbed s c l.keySlot, ?_, rfl, ?_, fun z => ?_, fun d hd => ?_, cluster_scrubbed s c l.keySlot⟩
      · rw [hexec, scrubCore_free hl hlaunch hg ha ht]
        exact happens_same id
      · rw [hcore]
      · rw [hcore, List.mem_filter]
        simp
      · exact State.core_setCore_other _ _ hd

end Sys2Proof.Machine
end
